-- ==== Sys2Proof/Word.lean ====
section
/-! DEFINITION. The plain words of the XLW-96: byte, line and number types that every file uses, and the
few enumerations that name ports, sides and blocks (spec/00_scope.md R9, R14, R15; spec/01_stages.md R23). -/

namespace Sys2Proof

/-- One byte (R9: every multi-byte field is little-endian). -/
abbrev Byte := BitVec 8
/-- A 64-bit word: a shot, a timestamp, a mailbox value. -/
abbrev Word := BitVec 64
/-- A 64-byte line as one number, byte 0 in bits [7:0] (R306, R9). -/
abbrev Line := BitVec 512
/-- The 72-bit wafer time: era, whole nanoseconds, 1/256 ns (R224). -/
abbrev WaferTime := BitVec 72

/-- Host port, control port or coolant input A or B (R14). -/
inductive Port where
  | a
  | b
  deriving DecidableEq, Repr

/-- The other of the two ports. -/
def Port.other : Port → Port
  | .a => .b
  | .b => .a

/-- The byte that names a port in records (Table 12.9): 0x00 A, 0x01 B. -/
def Port.code : Port → Nat
  | .a => 0
  | .b => 1

/-- Ring port EAST or WEST (Table 1.1). -/
inductive RingPort where
  | east
  | west
  deriving DecidableEq, Repr

/-- The four splice sides of a stage (R23). -/
inductive Side where
  | north
  | east
  | south
  | west
  deriving DecidableEq, Repr

/-- The side code of Table 6.6, Table 9.7 and Table 11.7. -/
def Side.code : Side → Nat
  | .north => 0
  | .east => 1
  | .south => 2
  | .west => 3

/-- The side facing this one across a splice. -/
def Side.opposite : Side → Side
  | .north => .south
  | .east => .west
  | .south => .north
  | .west => .east

/-- The four sides in code order. -/
def Side.all : List Side := [.north, .east, .south, .west]

/-- The side of a code 0 to 3 (the two bits of a SEND or RECV, Table 9.7). -/
def Side.ofCode (n : Nat) : Side :=
  match n % 4 with
  | 0 => .north
  | 1 => .east
  | 2 => .south
  | _ => .west

/-- Number of stages of the grid (R15). -/
abbrev numStages : Nat := 96

end Sys2Proof
end

