-- ==== Sys2Proof/Syntax.lean ====
section
/-! DEFINITION. The commands of the block: one constructor of `Instr` for each of the 213 rows of
spec/opcode_table.json, in the table's order, with the row's operands. What the outside supplies (readings,
samples, fetched bytes, test outcomes, the fields of a shot word) is an operand; stages, ports and partitions
are named by number. -/

namespace Sys2Proof

/-- Areas of carrier flash whose check can fail at boot (Table 16.6). Copies are numbered 0 and 1. -/
inductive FlashArea where
  | identity
  | ledger (copy : Nat)
  | days (copy : Nat)
  | chain (copy : Nat)
  | retire (copy : Nat)
  | table (t : Nat)
  deriving DecidableEq, Repr

/-- A physical unit that errors are classified against (Table 12.16 and the third column of Table 14.1). -/
inductive UnitId where
  | engine (stage phys : Nat)
  | bank (stage phys : Nat)
  | bankCol (stage phys sub col : Nat)
  | bankRow (stage phys sub row : Nat)
  | scriptRow (stage row : Nat)
  | clockPath (stage : Nat)
  | spliceDir (stage : Nat) (side : Side) (receiving : Bool)
  | channel (stage : Nat) (side : Side)
  | crossing (xid : BitVec 16)
  | rail (x : Nat)
  | sense (stage : Nat)
  | ringLane (port : RingPort) (lane : Nat)
  | detector (stage det : Nat)
  deriving DecidableEq, Repr

/-- What a fetch through a host port brought back (R399, R402): its error flag, the bytes, and, for a fetch
that ended with an error, whether the status address and the host tag were read intact. -/
structure Fetch where
  err      : Bool
  bytes    : List Byte
  statusOk : Bool
  tagOk    : Bool
  deriving DecidableEq, Repr

/-- The ways a host port's function is reset (R395). -/
inductive PortReset where
  | conventional
  | hot
  | linkDown
  | flr
  deriving DecidableEq, Repr

/-- The host-link conditions of R483. -/
inductive LinkError where
  | linkDown
  | aer
  /-- the link trained at this number of lanes -/
  | narrow (lanes : Nat)
  deriving DecidableEq, Repr

/-- A lane that the lane test of a rebuilding boot finds failing (R539): of the splice direction that a side reads or
writes. -/
structure BadLane where
  stage : Nat
  side  : Side
  receiving : Bool
  lane  : Nat
  deriving DecidableEq, Repr

/-- The time header of a ring frame that carries a PTP message (R246, Table 13.7). -/
structure TimeHeader where
  master : BitVec 8
  hop    : Nat
  kind   : BitVec 2
  serial : BitVec 16
  era    : BitVec 8
  deriving DecidableEq, Repr

/-- A PTP message (R245 to R247): messageType, versionPTP and minorVersionPTP, domainNumber, flagField, correctionField in
2^-16 ns, sourcePortIdentity, sequenceId, timestamp, and the requestingPortIdentity of a Delay_Resp. -/
structure PtpMsg where
  msgType    : Nat
  version    : Nat
  minor      : Nat
  domain     : Nat
  flags      : BitVec 16
  correction : Nat
  clockId    : BitVec 64
  portNo     : Nat
  seqId      : BitVec 16
  seconds    : Nat
  nanos      : Nat
  reqClock   : BitVec 64
  reqPort    : Nat
  deriving DecidableEq, Repr

/-- What a slave keeps of a Sync with its Follow_Up (R246, R247). -/
structure SyncMsg where
  master : BitVec 8
  hop    : Nat
  kind   : BitVec 2
  serial : BitVec 16
  era    : BitVec 8
  /-- departure in the master's time, in 1/256 ns -/
  t1     : Nat
  deriving DecidableEq, Repr

/-- A ring status frame (Table 13.7 and the payload of R442). -/
structure StatusFrame where
  origin    : BitVec 8
  serial    : Word
  hop       : Nat
  role      : BitVec 8
  lanes     : BitVec 8
  laneMap   : BitVec 16
  mapGen    : BitVec 8
  mapSwitch : BitVec 8
  deriving DecidableEq, Repr

/-- The target of a lights-out handshake (R46). -/
inductive LightsTarget where
  | dark
  | unlit
  deriving DecidableEq, Repr

/-- An error report that reaches the supervisor (R122, R451, Table 12.13). -/
structure ErrReport where
  /-- error kind of Table 12.14 -/
  kind   : Nat
  /-- stage number, 0x60 to 0x63 for an edge block, 0xFF when none -/
  stage  : Nat
  /-- logical engine, 0xFF when none -/
  engine : Nat
  /-- the unit it is classified against, when its kind has one -/
  unit   : Option UnitId
  xid    : BitVec 16
  shot   : BitVec 32
  /-- the error arose in run-ahead work (R120) -/
  ahead  : Bool
  /-- rail or segment number, or BAR0 offset -/
  aux    : Nat
  deriving DecidableEq, Repr

/-- Who requests a cut (R488); the order is that of the source mask of Table 12.10. -/
inductive CutSource where
  | host (p : Port)
  | control (p : Port)
  | monitor
  deriving DecidableEq, Repr

/-- How the reads of a dump went (R507). -/
inductive DumpReads where
  | complete
  | unlit
  | noResponse
  deriving DecidableEq, Repr

/-- Outcome details of a targeted self-test (R456): failed or not, and, where the test covers several parts,
the failing detectors or lanes it names. -/
structure TestResult where
  failed    : Bool
  detectors : List Nat
  lanes     : List Nat
  deriving DecidableEq, Repr

/-- The reads of one AVSBus interface and rail selector in a sense sweep, in order: millivolts and milliamperes, or none
where the CRC or the slave's acknowledge was bad (R269). -/
structure AvsRead where
  iface : Nat
  sel   : Nat
  tries : List (Option (Nat × Nat))
  deriving DecidableEq, Repr

/-- Readings of a rail re-check (R475): the AVSBus voltage before, after the first and after the second
command, each stage monitor at the same three moments, and for a segment the currents in mA. -/
structure RecheckData where
  ok       : Bool
  avs      : List Nat
  monitors : List (Nat × List Nat)
  currents : List Nat
  deriving DecidableEq, Repr

/-- The layout shared by ACCLD, ACCADD (Table 9.4). -/
structure AccFields where
  engine : BitVec 6
  reg    : BitVec 4
  tile   : BitVec 6
  ty     : BitVec 2
  xa     : Bool
  xc     : Bool
  deriving DecidableEq, Repr

/-- The layout of MMA (Table 9.4). -/
structure MmaFields where
  engine : BitVec 6
  format : BitVec 4
  areg   : BitVec 4
  breg   : BitVec 4
  tile   : BitVec 6
  kcode  : BitVec 8
  z      : Bool
  xa     : Bool
  xb     : Bool
  xc     : Bool
  deriving DecidableEq, Repr

/-- The layout of a two- or three-operand vector shot (Table 9.5). -/
structure VecFields where
  engine : BitVec 6
  d      : BitVec 6
  a      : BitVec 6
  b      : BitVec 6
  ty     : BitVec 2
  x      : Bool
  deriving DecidableEq, Repr

/-- The layout of an immediate vector shot (Table 9.5). -/
structure VecImm where
  engine : BitVec 6
  d      : BitVec 6
  a      : BitVec 6
  ty     : BitVec 2
  imm    : BitVec 32
  deriving DecidableEq, Repr

/-- The layout of SEND and RECV (Table 9.7). -/
structure SpliceFields where
  side  : BitVec 2
  slot  : BitVec 12
  reg   : BitVec 4
  beats : BitVec 12
  xa    : Bool
  xs    : Bool
  deriving DecidableEq, Repr

/-- The layout of EOF (Table 9.3). -/
structure EofFields where
  idle  : BitVec 16
  kindA : BitVec 6
  kindB : BitVec 6
  p     : BitVec 5
  final : BitVec 2
  deriving DecidableEq, Repr

/-- The layout of CVTB (Table 9.5). -/
structure CvtFields where
  engine : BitVec 6
  sreg   : BitVec 4
  dreg   : BitVec 4
  sfmt   : BitVec 4
  dfmt   : BitVec 4
  groups : BitVec 16
  r      : Bool
  s      : Bool
  xa     : Bool
  xb     : Bool
  deriving DecidableEq, Repr

/-- The commands: one constructor per row of spec/opcode_table.json, in its order. -/
inductive Instr where
  -- power, reset and boot
  | powerGoodRise
  | powerGoodFall
  | resetAssert (lowNs : Nat)
  | resetRelease (coolGoodNs : Nat)
  | referencePllLock
  | referenceLockTimeout
  | referenceFault (phasePs : Nat) (copyOk : Bool)
  | supervisorMismatch (output : BitVec 16) (copyOk : Bool)
  | strapRead (mv : List (List Nat))
  | meshTrimBoot (ps : List Nat)
  | meshTrimUpdate (dir : List Int)
  | carrierFlashBootRead (bad : List FlashArea)
  | dailiesBootCopy (ok : Bool)
  | bootStageBist (failing : List UnitId) (badLanes : List BadLane) (badRails : List Nat)
  | bootEnd
  | dailiesAreaErase
  -- slate and commands
  | slateRequest (reqA reqB : Bool)
  | slateRelease (p : Port)
  | slateHeartbeat (p : Port)
  | slateRevocation
  | slateReeligible (p : Port)
  | capCodeAccept (p : Port) (code : BitVec 4)
  | capCrossingError (p : Port)
  | cmdIdle (p : Port)
  | cmdCutAll (p : Port)
  | cmdPark (p : Port)
  | cmdUnpark (p : Port)
  | cmdChipComputeReset (p : Port)
  | cmdDumpPowerCycle (p : Port) (saveOk copyOk : Bool)
  | cmdRediscipline (p : Port)
  | cmdCalibrateNow (p : Port)
  | cmdStrobeFall (p : Port)
  | cmdCrossingError (p : Port)
  -- stops and temperature
  | coolantStop (input : Port)
  | coolantGlitch (input : Port) (cycles : BitVec 16)
  | temperatureReading (n sensor : Nat) (degC : Int)
  | thermWarnDeassert
  -- ticks and stage states
  | tick
  | commitCutoff
  | idleCountExpiry (n : Nat)
  | unassignedCountExpiry (n : Nat)
  | stageRelease (n : Nat)
  | releaseComplete (n : Nat) (saveOk : Bool)
  | lightsOutHandshake (n : Nat) (target : LightsTarget) (noAck : List Side)
  | lightsOutRequestReceived (n : Nat) (side : Side)
  | lightsOnHandshake (n : Nat) (noAck : List Side)
  | lightsOnRequestReceived (n : Nat) (side : Side)
  | crossingTimeout (xid : BitVec 16)
  | doubleSampleFailure (xid : BitVec 16)
  | stagePowerUp (n : Nat)
  | stageReady (n : Nat)
  | powerSwitchRampFailure (n : Nat)
  | powerSwitchRetry (n : Nat)
  -- host ports
  | submit (p : Port) (word : Word)
  | submissionDescriptorFetched (a b : Option Fetch)
  | cutWord (p : Port) (word : Word)
  | bind (p : Port) (word : Word)
  | bindDescriptorFetched (p : Port) (f : Fetch)
  | consumed (p : Port) (word : Word)
  | unbind (p : Port) (word : Word)
  | mailboxWriteMalformed (p : Port) (offset : BitVec 16)
  | bar0WriteBeforeBootEnd (p : Port) (offset : BitVec 16)
  | hostPortReset (p : Port) (kind : PortReset)
  | hostLinkError (p : Port) (kind : LinkError)
  | hostPortReturn (p : Port)
  -- load check and loading
  | loadCheckStart
  | loadCheckReadComplete (reel : Option (List Byte))
  | acceptanceStep
  | reelLoad (part : Nat) (body : List Byte) (segments : List (List Byte))
  | reelLoadComplete (part : Nat) (readError : Bool)
  | loadTimeout (part : Nat)
  -- records
  | recordAtPortHead (p : Port)
  | recordQueueDrop (p : Port) (units : Nat)
  | producerWordWrite (p : Port)
  | msixRecordVector (p : Port)
  | outputWritesComplete (p : Port) (part : Nat)
  -- gaffer and rails
  | gafferUpdate
  | capUnattainable
  | issueLimitReceived (n : Nat)
  | senseSweep
  | senseSweepComplete (readings : List AvsRead) (monitors : List Nat)
  | gainClampOrSenseMissing (x : Nat)
  | railRecheck (x : Nat)
  | railRecheckComplete (x : Nat) (data : RecheckData)
  | slackToVolts
  | avsbusWriteFailed (x : Nat)
  -- droop and splices
  | droopTrip (n det delay ref edges : Nat)
  | droopClear (n det delay edges : Nat)
  | haltEnd (n coreCycles : Nat)
  | persistentDroop (n : Nat)
  | droopOverrunLimit (n : Nat)
  | noticeAssert (n : Nat)
  | spliceRealign (n : Nat) (side : Side)
  | spliceBeatReceived (n : Nat) (side : Side) (edge : Bool) (flips : BitVec 2048) (checkFlips : BitVec 64)
  | spliceNakReplay (n : Nat) (side : Side) (edge : Bool)
  | spliceLaneTestThreshold (n : Nat) (side : Side) (edge : Bool)
  | spliceMapSwitch (n : Nat) (side : Side) (edge : Bool) (lanes : List (Nat × Nat))
  | spliceFailed (n : Nat) (side : Side) (edge : Bool)
  | spliceTrimAverage (n : Nat) (side : Side) (tL tF : Rat)
  -- clocks and steps
  | thinMargin (n : Nat) (codes : List Nat)
  | coreRetuneLock (n core : Nat)
  | coreLockLost (n core : Nat)
  | fmaxDerate (n : Nat)
  | ledgerWrite (ok : Bool)
  | stepAccepted (part : Nat)
  | stepBroadcastReceived (n : Nat)
  -- shots
  | shotRetire (n seqNo : Nat) (residueOk : Bool)
  | nop (n : Nat)
  | runahead (n : Nat)
  | runaheadStart (n : Nat)
  | eof (n : Nat) (f : EofFields) (slack : Option Nat)
  | repeat_ (n : Nat) (b : BitVec 8) (countM1 : BitVec 12) (stride : BitVec 16)
  | seta (n : Nat) (reg : BitVec 4) (bank : BitVec 6) (line : BitVec 16)
  | inca (n : Nat) (reg : BitVec 4) (delta : BitVec 16)
  | step (n : Nat) (code : BitVec 4)
  | trace (n : Nat) (imm : BitVec 16)
  | mma (n : Nat) (f : MmaFields)
  | accld (n : Nat) (f : AccFields)
  | accst (n : Nat) (f : AccFields) (ofmt : BitVec 4) (r s : Bool)
  | accadd (n : Nat) (f : AccFields)
  | accz (n : Nat) (engine first countM1 : BitVec 6)
  | movb (n : Nat) (engine : BitVec 6) (sreg dreg : BitVec 4) (lines : BitVec 16) (xa xb : Bool)
  | fillb (n : Nat) (engine : BitVec 6) (dreg : BitVec 4) (lines : BitVec 16) (pattern : BitVec 32)
  | cvtb (n : Nat) (f : CvtFields)
  | vadd (n : Nat) (f : VecFields)
  | vsub (n : Nat) (f : VecFields)
  | vmul (n : Nat) (f : VecFields)
  | vfma (n : Nat) (f : VecFields)
  | vdiv (n : Nat) (f : VecFields)
  | vsqrt (n : Nat) (f : VecFields)
  | vmax (n : Nat) (f : VecFields)
  | vmin (n : Nat) (f : VecFields)
  | vabs (n : Nat) (f : VecFields)
  | vneg (n : Nat) (f : VecFields)
  | vrelu (n : Nat) (f : VecFields)
  | vmov (n : Nat) (f : VecFields)
  | vrsum (n : Nat) (f : VecFields)
  | vcsum (n : Nat) (f : VecFields)
  | vscal (n : Nat) (f : VecImm)
  | vaddi (n : Nat) (f : VecImm)
  | vfill (n : Nat) (f : VecImm)
  | send (n : Nat) (f : SpliceFields)
  | recv (n : Nat) (f : SpliceFields)
  | sigt (n : Nat) (row : BitVec 3) (col : BitVec 4) (token : BitVec 5) (inc : BitVec 16)
  | waitt (n : Nat) (token : BitVec 5) (count : BitVec 16)
  | commit (n : Nat) (entry : BitVec 12) (reg : BitVec 4) (xa xe : Bool)
  | tokenSignalArrival (n : Nat) (token : BitVec 5) (inc frameLow : BitVec 16) (take : BitVec 4)
  -- errors, rollback, self-test, substitution
  | scriptStoreUncorrectable (n word bits : Nat)
  | bankUncorrectable (n phys line : Nat) (ahead restore : Bool)
  | prefetchSquashError (n phys line : Nat)
  | columnDetector (n phys sub col : Nat) (rows : List Nat)
  | cellTracker (n phys sub row col : Nat)
  | errorEventReceived (e : ErrReport)
  | rollbackAbort (n : Nat)
  | rollbackComplete (n : Nat)
  | retakeLimit (part : Nat)
  | selfTestComplete (unit : UnitId) (result : TestResult)
  | substitution (unit : UnitId)
  | substitutionCopyComplete (unit : UnitId)
  | scriptBlockReload (n block : Nat) (bytes : Option (List Byte))
  -- hangs, cuts, escalation
  | hang (part : Nat)
  | ringStall (p : Port)
  | cutAccept (part : Nat) (src : CutSource)
  | cutTick (part : Nat)
  | cutNotice (n : Nat)
  | cutStopped (n : Nat)
  | cutComplete (part : Nat) (saveOk : Bool)
  | stageDump (n : Nat) (reads : DumpReads)
  | escalationBoundExpiry (level part : Nat)
  | engineReset (part : Nat)
  | partitionReset (part : Nat) (saveOk : Bool)
  | chipComputeReset (failing : List UnitId) (saveOk : Bool)
  | powerCycleRequest (saveOk copyOk : Bool)
  -- days and calibration
  | hourCount
  | bootCalibrationComplete (hits : List (Nat × List Nat))
  | calibrationCollectionComplete (hits : List (Nat × List Nat))
  | calibrationAbandon
  -- interval unit
  | gateArm
  | intervalInputEdge (input tap : Nat)
  | measurementClose
  | measurementTimeout
  -- PPS discipline
  | ppsEdge (falling : Bool) (widthNs back tap : Nat)
  | disciplineLock
  | ppsOutlierLoss
  | ppsLoss
  | disciplineRangeExceeded
  -- ring time
  | syncSend (rp : RingPort) (edge tap : Nat)
  | syncReceived (rp : RingPort) (sync follow : List Byte) (edge tap reqEdge reqTap : Nat)
  | delayReqReceived (rp : RingPort) (frame : List Byte) (edge tap : Nat)
  | delayRespReceived (rp : RingPort) (frame : List Byte)
  | slaveAcquire
  | slaveLock
  | slaveHoldover
  | waferTimeStep
  | tickInEdge (edge tap : Nat)
  -- ring link
  | statusFrameSend (rp : RingPort)
  | statusFrameReceived (rp : RingPort) (frame : List Byte)
  | ringFrameCrcFail (rp : RingPort) (frame : List Byte)
  | ringPortUp (rp : RingPort)
  | ringLaneSuspect (rp : RingPort) (lane : Nat)
  | ringLaneTestComplete (rp : RingPort) (lane errors : Nat)
  | ringMapExchange (rp : RingPort)
  | ringPortFailed (rp : RingPort)
  -- spines
  | spineFlitCrcFail (col seg : Nat)
  | spineSegmentFailed (col seg : Nat)
  | spineFlitAtSink (col seg : Nat) (header : BitVec 128) (data : Line)
  | rqToUnlitStage (n : Nat) (header : BitVec 128)
  -- JTAG
  | jtagExtest
  | jtagSamplePreload (sampled loaded : List Bool)
  | jtagIdcode
  | jtagBypass (opcode : BitVec 8)
  -- late rows of the table
  | d3hotEntry (p : Port)
  | ringPartnerLost (rp : RingPort)
  deriving DecidableEq, Repr

end Sys2Proof
end

