-- ==== Sys2Proof/Machine/Bits.lean ====
section
/-! DEFINITION. Little-endian byte strings, bit fields and the two CRCs (spec/00_scope.md R9, R10;
spec/06_splices.md R195; spec/13_fabric.md R429). -/

namespace Sys2Proof.Machine

open Sys2Proof

/-- The `n` bytes of a number, least significant first (R9). -/
def leBytes : Nat → Nat → List Byte
  | 0, _ => []
  | n + 1, v => BitVec.ofNat 8 v :: leBytes n (v / 256)

/-- The number that bytes hold, least significant first (R9). -/
def leNat : List Byte → Nat
  | [] => 0
  | b :: bs => b.toNat + 256 * leNat bs

/-- `n` zero bytes: reserved fields (R11). -/
def zeros (n : Nat) : List Byte := List.replicate n 0

/-- The number in `n` bytes at an offset; bytes past the end read as zero. -/
def fieldAt (bs : List Byte) (off n : Nat) : Nat := leNat ((bs.drop off).take n)

/-- Bits [lo + w - 1 : lo] of a number (Table 0.2). -/
def bitsOf (v lo w : Nat) : Nat := v / 2 ^ lo % 2 ^ w

/-- A two's-complement number of `w` bits as an integer (section 9.3). -/
def signed (w v : Nat) : Int := if 2 ^ (w - 1) ≤ v then (v : Int) - 2 ^ w else v

/-- An integer reduced to `w` bits, two's complement. -/
def wrapBits (w : Nat) (v : Int) : Nat := (v % (2 ^ w : Int)).toNat

/-- A number capped at its largest value (saturating fields). -/
def capAt (top v : Nat) : Nat := if v ≤ top then v else top

/-- One shift of the reflected CRC-32 register (R10). -/
def crc32Bit (c : Nat) : Nat := if c % 2 = 1 then Nat.xor (c / 2) 0xEDB88320 else c / 2

/-- One byte of CRC-32, least significant bit first (R10). -/
def crc32Byte (c : Nat) (b : Byte) : Nat :=
  (List.range 8).foldl (fun x _ => crc32Bit x) (Nat.xor c b.toNat)

/-- CRC-32 of a byte string (R10). -/
def crc32 (bs : List Byte) : BitVec 32 :=
  BitVec.ofNat 32 (Nat.xor (bs.foldl crc32Byte 0xFFFFFFFF) 0xFFFFFFFF)

/-- One bit of the splice CRC-8 with generator x^8 + x^2 + x + 1 (R195). -/
def crc8Bit (c : Nat) (b : Bool) : Nat :=
  let x := if b then Nat.xor c 128 else c
  if 128 ≤ x then Nat.xor (x * 2 % 256) 0x07 else x * 2 % 256

/-- CRC-8 of code j over the 256 data lanes i with i mod 8 = j, ascending, from a seed (R195). -/
def crc8Lane (data : BitVec 2048) (seed j : Nat) : Nat :=
  (List.range 256).foldl (fun c k => crc8Bit c (data.getLsbD (8 * k + j))) seed

/-- The 64 check bits of a beat: bit b of code j on check lane 8·j + b (R195). -/
def crc8Check (data : BitVec 2048) (seed : Nat) : BitVec 64 :=
  BitVec.ofNat 64 ((List.range 8).foldl (fun v j => v + crc8Lane data seed j * 2 ^ (8 * j)) 0)

/-- The seed of a beat's codes: sequence number in [7:1], kind in [0] (R195). -/
def beatSeed (seq : BitVec 7) (control : Bool) : Nat := seq.toNat * 2 + control.toNat

/-- The 64 bytes of a line. -/
def lineBytes (l : Line) : List Byte := leBytes 64 l.toNat

/-- The line that 64 bytes make. -/
def bytesLine (bs : List Byte) : Line := BitVec.ofNat 512 (leNat bs)

/-- The 64-bit words of a byte string. -/
def words64 : Nat → List Byte → List Word
  | 0, _ => []
  | n + 1, bs => BitVec.ofNat 64 (leNat (bs.take 8)) :: words64 n (bs.drop 8)

/-- Set element `i` of a list; a list too short is unchanged. -/
def setAt {α : Type} (xs : List α) (i : Nat) (v : α) : List α := xs.set i v

/-- Change element `i` of a list; a list too short is unchanged. -/
def modAt {α : Type} (xs : List α) (i : Nat) (f : α → α) : List α := xs.modify i f

end Sys2Proof.Machine
end

