-- ==== Sys2Proof/Machine/Crypto.lean ====
section
/-! DEFINITION. SHA-256, HMAC-SHA-256 and deterministic ECDSA over P-256, as the standards that
spec/11_reels.md R366 and spec/12_host_ports.md R420, R421 name define them (FIPS 180-4, FIPS 186-5, RFC 6979). -/

namespace Sys2Proof.Machine

open Sys2Proof

/-- A 32-bit word of SHA-256. -/
abbrev W32 := BitVec 32

/-- The 64 round constants of FIPS 180-4 as one number, the constant of round 0 in its highest 32 bits: the first 32
bits of the fractional parts of the cube roots of the first 64 primes. -/
def roundTable : BitVec 2048 :=
  0x428a2f9871374491b5c0fbcfe9b5dba53956c25b59f111f1923f82a4ab1c5ed5d807aa9812835b01243185be550c7dc372be5d7480deb1fe9bdc06a7c19bf174e49b69c1efbe47860fc19dc6240ca1cc2de92c6f4a7484aa5cb0a9dc76f988da983e5152a831c66db00327c8bf597fc7c6e00bf3d5a7914706ca63511429296727b70a852e1b21384d2c6dfc53380d13650a7354766a0abb81c2c92e92722c85a2bfe8a1a81a664bc24b8b70c76c51a3d192e819d6990624f40e3585106aa07019a4c1161e376c082748774c34b0bcb5391c0cb34ed8aa4a5b9cca4f682e6ff3748f82ee78a5636f84c878148cc7020890befffaa4506cebbef9a3f7c67178f2

/-- The constant of round `i`, below 64. -/
def roundConst (i : Nat) : W32 := roundTable.extractLsb' (32 * (63 - i)) 32

/-- The eight chaining words of a digest in progress, packed in the order of the digest: word 0 in the highest 32 bits. -/
abbrev Digest := BitVec 256

/-- Word `j` of a digest in progress. -/
def Digest.word (v : Digest) (j : Nat) : W32 := v.extractLsb' (32 * (7 - j)) 32

/-- The digest in progress before the first block: the fractional parts of the square roots of the first 8 primes. -/
def digestInit : Digest :=
  0x6a09e667bb67ae853c6ef372a54ff53a510e527f9b05688c1f83d9ab5be0cd19

/-- The exclusive or of three rotations of a word. -/
def rot3 (x : W32) (i j k : Nat) : W32 := x.rotateRight i ^^^ x.rotateRight j ^^^ x.rotateRight k

/-- Round `i` with schedule word `w`: the words move down by one place, two of them renewed. -/
def digestRound (v : Digest) (i : Nat) (w : W32) : Digest :=
  let e := v.word 4
  let a := v.word 0
  let pick := v.word 6 ^^^ (e &&& (v.word 5 ^^^ v.word 6))
  let vote := (a &&& v.word 1) ||| (v.word 2 &&& (a ||| v.word 1))
  let up := v.word 7 + rot3 e 6 11 25 + pick + (roundConst i + w)
  let top := up + rot3 a 2 13 22 + vote
  top ++ a ++ v.word 1 ++ v.word 2 ++ (v.word 3 + up) ++ e ++ v.word 5 ++ v.word 6

/-- The schedule word that follows a window of the last sixteen, oldest first. -/
def nextSchedule (w : List W32) : W32 :=
  let mix (x : W32) (i j k : Nat) : W32 := x.rotateRight i ^^^ x.rotateRight j ^^^ (x >>> k)
  w.getD 0 0 + w.getD 9 0 + mix (w.getD 1 0) 7 18 3 + mix (w.getD 14 0) 17 19 10

/-- The `n` rounds from round `i` on, carrying the window of schedule words. -/
def digestRounds : Nat → Nat → List W32 → Digest → Digest
  | 0, _, _, v => v
  | n + 1, i, w, v => digestRounds n (i + 1) (w.drop 1 ++ [nextSchedule w]) (digestRound v i (w.getD 0 0))

/-- The big-endian 32-bit words of a byte string. -/
def beWords : Nat → List Byte → List W32
  | 0, _ => []
  | n + 1, bs => BitVec.ofNat 32 (leNat (bs.take 4).reverse) :: beWords n (bs.drop 4)

/-- One 64-byte block folded into a digest in progress. -/
def digestBlock (v : Digest) (blk : List Byte) : Digest :=
  let r := digestRounds 64 0 (beWords 16 blk) v
  (v.word 0 + r.word 0) ++ (v.word 1 + r.word 1) ++ (v.word 2 + r.word 2) ++ (v.word 3 + r.word 3)
    ++ (v.word 4 + r.word 4) ++ (v.word 5 + r.word 5) ++ (v.word 6 + r.word 6) ++ (v.word 7 + r.word 7)

/-- `n` blocks of a byte string folded into a digest in progress. -/
def digestBlocks : Nat → List Byte → Digest → Digest
  | 0, _, v => v
  | n + 1, bs, v => digestBlocks n (bs.drop 64) (digestBlock v (bs.take 64))

/-- The message padded to whole blocks. -/
def shaPad (bs : List Byte) : List Byte :=
  bs ++ [0x80] ++ zeros ((119 - bs.length % 64) % 64) ++ (leBytes 8 (8 * bs.length)).reverse

/-- SHA-256 of a byte string, digest byte 0 first (R366). -/
def sha256 (bs : List Byte) : List Byte :=
  let p := shaPad bs
  (leBytes 32 (digestBlocks (p.length / 64) p digestInit).toNat).reverse

/-- HMAC-SHA-256 with a key of at most one block (R421). -/
def hmac (key msg : List Byte) : List Byte :=
  let k := key ++ zeros (64 - key.length)
  let inner := sha256 (k.map (fun b => b ^^^ 0x36#8) ++ msg)
  sha256 (k.map (fun b => b ^^^ 0x5c#8) ++ inner)

/-- The big-endian number of a byte string. -/
def beNat (bs : List Byte) : Nat := leNat bs.reverse

/-- The field prime of P-256. -/
def p256P : Nat := 0xffffffff00000001000000000000000000000000ffffffffffffffffffffffff
/-- The group order of P-256. -/
def p256N : Nat := 0xffffffff00000000ffffffffffffffffbce6faada7179e84f3b9cac2fc632551
/-- The base point of P-256. -/
def p256G : Nat × Nat :=
  (0x6b17d1f2e12c4247f8bce6e563a440f277037d812deb33a0f4a13945d898c296,
   0x4fe342e2fe1a7f9b8ee7eb4a7c0f9e162bce33576b315ececbb6406837bf51f5)

/-- b to the power of the low `n` bits of e, modulo m. -/
def powMod (m : Nat) : Nat → Nat → Nat → Nat
  | 0, _, _ => 1 % m
  | n + 1, b, e =>
    let r := powMod m n (b * b % m) (e / 2)
    if e % 2 = 1 then b * r % m else r

/-- The inverse modulo a prime below 2^256. -/
def invMod (m a : Nat) : Nat := powMod m 256 (a % m) (m - 2)

/-- Point addition on P-256; `none` is the point at infinity. -/
def p256Add (x y : Option (Nat × Nat)) : Option (Nat × Nat) :=
  match x, y with
  | none, q => q
  | p, none => p
  | some (x1, y1), some (x2, y2) =>
    if x1 = x2 ∧ (y1 + y2) % p256P = 0 then none
    else
      let l :=
        if x1 = x2 then (3 * x1 * x1 + (p256P - 3)) * invMod p256P (2 * y1) % p256P
        else (y2 + p256P - y1) * invMod p256P (x2 + p256P - x1) % p256P
      let x3 := (l * l + 2 * p256P - x1 - x2) % p256P
      some (x3, (l * (x1 + p256P - x3) + p256P - y1) % p256P)

/-- The low `n` bits of k times a point. -/
def p256Mul : Nat → Nat → Option (Nat × Nat) → Option (Nat × Nat)
  | 0, _, _ => none
  | n + 1, k, q =>
    let r := p256Mul n (k / 2) (p256Add q q)
    if k % 2 = 1 then p256Add q r else r

/-- The nonce loop of RFC 6979: the first candidate from 1 to n - 1, over at most `fuel` candidates. -/
def nonceLoop : Nat → List Byte → List Byte → Nat
  | 0, _, _ => 1
  | fuel + 1, k, v =>
    let v1 := hmac k v
    let c := beNat v1
    if 0 < c ∧ c < p256N then c
    else
      let k2 := hmac k (v1 ++ [0x00])
      nonceLoop fuel k2 (hmac k2 v1)

/-- The deterministic nonce of a key and message digest (RFC 6979, R421). -/
def nonceOf (key : Nat) (digest : List Byte) : Nat :=
  let x := (leBytes 32 key).reverse
  let h := (leBytes 32 (beNat digest % p256N)).reverse
  let v0 := List.replicate 32 (0x01 : Byte)
  let k0 := zeros 32
  let k1 := hmac k0 (v0 ++ [0x00] ++ x ++ h)
  let v1 := hmac k1 v0
  let k2 := hmac k1 (v1 ++ [0x01] ++ x ++ h)
  nonceLoop 16 k2 (hmac k2 v1)

/-- The signature (r, s) of a message under a key (R421). -/
def ecdsaSign (key : Nat) (msg : List Byte) : Nat × Nat :=
  let digest := sha256 msg
  let k := nonceOf key digest
  match p256Mul 256 k (some p256G) with
  | none => (0, 0)
  | some (x, _) =>
    let r := x % p256N
    (r, invMod p256N k * (beNat digest + r * key) % p256N)

/-- The public key of a signing key (Table 12.18). -/
def publicKey (key : Nat) : Nat × Nat := (p256Mul 256 key (some p256G)).getD (0, 0)

end Sys2Proof.Machine
end

