-- ==== Sys2Proof/Config.lean ====
section
/-! DEFINITION. What one module fixes and the manual does not: fuse contents, factory contents of carrier
flash, and the free values the step draws. Each is opaque, so no proof can see a value of it (log entries 4, 5). -/

namespace Sys2Proof

namespace Config

/-- Lot number, position in the lot and sequence number of the module serial (R21). -/
opaque serialTail : BitVec 56
/-- The module serial in fuses (R21): bits [63:60] zero, the version code 0x4 of R18 in bits [59:56]. -/
def serial : BitVec 64 := 0x04#8 ++ serialTail
/-- The fused fmax of each stage (section 4.5). -/
opaque fusedFmax : Nat → BitVec 4
/-- The signing key in fuses (R421). -/
opaque signKey : BitVec 256
/-- The bytes of the identity area that the carrier was made with (R530). -/
opaque identityBytes : List (BitVec 8)
/-- The bytes of each factory calibration table of carrier flash (R263, R529). -/
opaque tableBytes : Nat → List (BitVec 8)
/-- The retirement record's factory assignment of engines and banks to each stage (R29): physical unit of
each logical engine, of each logical bank. -/
opaque factoryEngines : Nat → List Nat
opaque factoryBanks : Nat → List Nat
/-- Free value (log entry 5): the gap of a core switch beyond one period of the new step, in 1/65,536 of that period
(R158). -/
opaque freeGap : Nat → BitVec 16
/-- Free value (log entry 5): how many core cycles of a halt precede the tick that divides it (R178, R184). -/
opaque freeHeld : Nat → Nat
/-- The module's activity weights (R272), in microwatts a count of one update interval: of a multiply-accumulate array by
format, of vector operations by type, of a bank read, a bank write, an undo-journal copy and a splice beat. -/
opaque matWeight : Nat → Nat
opaque vectorWeight : Nat → Nat
opaque readWeight : Nat
opaque writeWeight : Nat
opaque journalWeight : Nat
opaque beatWeight : Nat
/-- The largest matrix activity and the largest other activity, of the stage and of its banks, that a stage can report in one
interval at a step, in microwatts (section 8.4). -/
opaque matTop : Nat → Nat
opaque otherTop : Nat → Nat
opaque bankTop : Nat → Nat
/-- The nominal activity power at a voltage in mV, in thousandths of that at 0.80 V (R274). -/
opaque voltScale : Nat → Nat
/-- Leakage of a stage and of its arrays in microwatts, by stage, the sum of its temperature readings and millivolts: the
fused coefficients of R273. -/
opaque leakage : Nat → Int → Nat → Nat
opaque arrayLeakage : Nat → Int → Nat → Nat
/-- Free value (log entry 5): a record byte that the manual requires and states no value for (R297, R498). -/
opaque freeByte : Nat → BitVec 8
/-- Free value (log entry 5): the phase error logged for a reference PLL that never locked (R135). -/
opaque freePhase : Nat → BitVec 16

end Config
end Sys2Proof
end

