-- ==== Sys2Proof/Machine/State.lean ====
section
/-! DEFINITION. The state of the block as plain data (INVENTORY.md, State): pins and module condition, straps,
slate, time base, interval unit, gaffer and rails, the 96 stages, the eight partitions, host ports, submission
slots, wrap chain, dailies, carrier flash, ring ports, spines, JTAG, and the queue of waiting commands. -/

namespace Sys2Proof.Machine

open Sys2Proof

/-- Sparse cells in one canonical form: keys strictly rising, no entry equal to zero (Memory.wf in Ops.lean).
An unlisted cell reads zero: release and power-up write zero everywhere (R43, R48). -/
abbrev Cells (w : Nat) := List (Nat × BitVec w)

/-! ### Records (chapter 12) -/

/-- Body of an error event (Table 12.13). -/
structure ErrBody where
  kind    : Nat
  action  : Nat
  stage   : Nat
  engine  : Nat
  unit    : BitVec 32
  xid     : BitVec 16
  overrun : BitVec 16
  shot    : BitVec 32
  frame   : BitVec 48
  take    : BitVec 4
  port    : Nat
  aux     : Nat
  deriving DecidableEq, Repr

/-- Body of a retirement record (Table 12.15). -/
structure RetBody where
  cls     : Nat
  stage   : Nat
  reason  : Nat
  kind    : Nat
  unit    : BitVec 32
  repl    : BitVec 32
  left    : Nat
  deriving DecidableEq, Repr

/-- Body of a recovery record (Table 12.15). -/
structure RecovBody where
  level   : Nat
  outcome : Nat
  trigger : Nat
  parts   : BitVec 8
  stage   : Nat
  start   : Word
  stop    : Word
  deriving DecidableEq, Repr

/-- The five totals of R361 and R363, in the order NaN, infinity, overflow, saturation, wrap. -/
structure Counts where
  nan  : Nat
  inf  : Nat
  ovf  : Nat
  sat  : Nat
  wrap : Nat
  deriving DecidableEq, Repr

/-- Body of a context-complete record (Table 12.10). -/
structure EndBody where
  part   : Nat
  cause  : Nat
  row    : Nat
  col    : Nat
  frames : BitVec 48
  totals : Counts
  deriving DecidableEq, Repr

/-- Body of a cut-complete record (Table 12.10). -/
structure CutBody where
  part   : Nat
  status : Nat
  mask   : BitVec 8
  frames : BitVec 48
  totals : Counts
  deriving DecidableEq, Repr

/-- A trace entry (Table 12.21) with its 16-byte payload (Table 12.22) as one number. -/
structure TraceEntry where
  kind    : Nat
  take    : BitVec 4
  frame   : BitVec 48
  stamp   : Word
  payload : BitVec 128
  deriving DecidableEq, Repr

/-- Record bodies by type (Table 12.8). Wrap and identity bodies are kept as their bytes 16 onward. -/
inductive RecBody where
  | accepted (slot part origin port h w : Nat) (tag : Word) (hash : List Byte)
  | refused (slot reason port : Nat) (tag detail : Word) (hash : List Byte)
  | contextComplete (b : EndBody)
  | wrap (bytes : List Byte)
  | error (b : ErrBody)
  | retirement (b : RetBody)
  | recovery (b : RecovBody)
  | dailies (index count boot : Nat) (data : List Byte)
  | interval (bytes : List Byte)
  | identity (bytes : List Byte)
  | trace (stage row col dropped : Nat) (entries : List TraceEntry)
  | cutComplete (b : CutBody)
  | lost (lost firstLost lastLost total : Nat)
  deriving DecidableEq, Repr

/-- A formed record: context ID, context epoch, timestamp and body (Table 12.6); the sequence number is given
at a port's head (R408). -/
structure Record where
  ctx   : BitVec 8
  epoch : BitVec 8
  time  : Word
  body  : RecBody
  deriving DecidableEq, Repr

/-- What a record queue holds (R411): a record, or a drop marker for a run of dropped records. -/
inductive QItem where
  | item (r : Record)
  | drop (count : Nat)
  deriving DecidableEq, Repr

/-- What a host port sends (R393, R412): status words, record bytes at a ring offset, producer words, output
lines, and MSI-X messages. -/
inductive HostOut where
  | status (addr : Nat) (word : Word)
  | ring (offset : Nat) (bytes : List Byte)
  | producer (addr value : Nat)
  | line (part : Nat) (ctx : BitVec 8) (frame : BitVec 48) (addr : Nat) (data : Line)
  | msix (vector : Nat)
  deriving DecidableEq, Repr

/-- A bound ring (Table 12.3). -/
structure Ring where
  base     : Nat
  exponent : Nat
  producer : Nat
  deriving DecidableEq, Repr

/-- One host port (chapter 12). -/
structure HostPort where
  up         : Bool
  d3hot      : Bool
  ring       : Option Ring
  produced   : Nat
  consumed   : Nat
  seq        : BitVec 32
  lost       : Nat
  firstLost  : BitVec 32
  lastLost   : BitVec 32
  lostBind   : Nat
  dropped    : Bool
  queue      : List QItem
  /-- addresses of descriptor fetches in progress, oldest first (R399, R402) -/
  submitAt   : List Word
  bindAt     : List Word
  held       : List HostOut
  msixPend   : List Nat
  prodDue    : Bool
  vec0Due    : Bool
  vec0At     : Option WaferTime
  stallTicks : Nat
  stallTold  : Bool
  sent       : List HostOut
  /-- commits whose output writes outlast their context: partition, context ID and frame (R414) -/
  late       : List (Nat × BitVec 8 × Nat)
  deriving DecidableEq, Repr

/-! ### Reels (chapter 11) -/

/-- A kind entry of a stage record (Table 11.5); `feet` holds F and A of each logical bank. -/
structure KindEntry where
  first  : Nat
  cycles : Nat
  feet   : List (Nat × Nat)
  deriving DecidableEq, Repr

/-- A stage record of the call sheet (Table 11.4). -/
structure StageRec where
  row       : Nat
  col       : Nat
  kind0     : Nat
  words     : Nat
  scriptOff : Nat
  staging   : Nat
  kinds     : List KindEntry
  deriving DecidableEq, Repr

/-- A splice schedule entry (Table 11.7). -/
structure SchedEntry where
  row   : Nat
  col   : Nat
  side  : Side
  kind  : Nat
  slot  : Nat
  beats : Nat
  deriving DecidableEq, Repr

/-- A memory segment entry (Table 11.9); `host` tells a host-memory source. -/
structure Segment where
  row   : Nat
  col   : Nat
  bank  : Nat
  host  : Bool
  first : Nat
  lines : Nat
  addr  : Nat
  hash  : List Byte
  deriving DecidableEq, Repr

/-- An output map entry (Table 11.11); `port` is 0 A, 1 B, 2 the port of submission. -/
structure OutEntry where
  row    : Nat
  col    : Nat
  port   : Nat
  tag    : Bool
  offset : Nat
  lines  : Nat
  count  : Nat
  base   : Nat
  stride : Nat
  deriving DecidableEq, Repr

/-- What the module keeps of a reel that passed tests 1 to 11 (Tables 11.1 to 11.11). -/
structure Reel where
  h        : Nat
  w        : Nat
  floor    : Nat
  oper     : Nat
  peak     : Nat
  last     : BitVec 48
  stages   : List StageRec
  sched    : List SchedEntry
  segs     : List Segment
  outs     : List OutEntry
  hash     : List Byte
  scripts  : Nat
  memory   : Nat
  deriving DecidableEq, Repr

/-! ### Contexts and partitions -/

/-- The tick actions of Table 3.3. -/
inductive TickAction where
  | end_
  | commitBegin
  | commitHold
  | retake
  | wait
  | begin_
  | hold
  deriving DecidableEq, Repr

/-- A rollback in progress (R121, R122): both epochs or the run-ahead epoch, and the stages not yet complete. -/
structure Rollback where
  both    : Bool
  wait    : List Nat
  /-- stages whose abort has been carried out -/
  aborted : List Nat
  /-- kind and stage of the error that began it or widened it (R454) -/
  kind    : Nat
  stage   : Nat
  deriving DecidableEq, Repr

/-- A requested operating-step change (R130, R160): the step, and the stages that have not reported ready. -/
structure StepReq where
  code     : Nat
  waiting  : List Nat
  accepted : Bool
  deriving DecidableEq, Repr

/-- A cut in progress (R488 to R490). -/
structure Cut where
  mask    : BitVec 8
  /-- its cut tick has passed its cut-off (R489) -/
  fixed   : Bool
  /-- cut notices have been sent (R490 step 2) -/
  noticed : Bool
  /-- stages that have taken the notice (R490 step 3) -/
  told    : List Nat
  stopped : List Nat
  /-- an engine reset has unblocked it (R496) -/
  resumed : Bool
  deriving DecidableEq, Repr

/-- A recovery level in progress (R495, R498). -/
structure Level where
  level   : Nat
  trigger : Nat
  start   : Word
  stage   : Nat
  deriving DecidableEq, Repr

/-- The stage, engine and shot named at a hang (R486), or the stage whose error entered a partition reset (R498). -/
structure Named where
  stage  : Nat
  engine : Nat
  shot   : BitVec 32
  /-- the bank and line its dump starts from: the first bank operand range of the shot, else line 0 of bank 0 (R507) -/
  bank   : Nat
  first  : Nat
  /-- its dump within the cut has ended (R490) -/
  dumped : Bool
  deriving DecidableEq, Repr

/-- How a context has ended (R418): its cause or cut, and the values latched at its end. -/
structure Ended where
  cut    : Bool
  cause  : Nat
  row    : Nat
  col    : Nat
  stamp  : Word
  tick   : BitVec 64
  energy : BitVec 64
  epochId : BitVec 32
  era    : BitVec 8
  deriving DecidableEq, Repr

/-- A context in its partition (R38, R387). -/
structure Ctx where
  id        : BitVec 8
  epoch     : BitVec 8
  tag       : Word
  port      : Port
  slot      : Nat
  origin    : Nat
  reel      : Reel
  loadAt    : WaferTime
  loadOk    : Option Nat
  loaded    : Bool
  begun     : Bool
  inFrame   : Bool
  frame     : BitVec 48
  take      : BitVec 4
  action    : Option TickAction
  slips     : Nat
  retakes   : Nat
  rollback  : Option Rollback
  rolledRun : Nat
  oper      : Nat
  stepReq   : Option StepReq
  noProg    : Nat
  /-- the WAIT that the cut-off fixed for the coming tick is a counted tick (R484) -/
  counted   : Bool
  cut       : Option Cut
  level     : Option Level
  named     : Option Named
  ended     : Option Ended
  endDue    : Option (Bool × Nat × Nat × Nat)
  recorded  : Bool
  released  : List Nat
  totals    : Counts
  outs      : List (Nat × Port × Nat)
  startStamp  : Word
  startTick   : BitVec 64
  startEpoch  : BitVec 32
  startEra    : BitVec 8
  startEnergy : BitVec 64
  maxCtx    : Nat
  sumCtx    : Nat
  standIns  : Nat
  deriving DecidableEq, Repr

/-! ### Stages -/

/-- Stage states (Table 1.4). -/
inductive StageSt where
  | lit
  | dark
  | unlit
  | retired
  deriving DecidableEq, Repr

/-- One oscillator core of a stage PLL (R140, R143): its step, whether it is locked, and the step it is
retuning to. -/
structure Core where
  step   : Nat
  locked : Bool
  deriving DecidableEq, Repr

/-- A stage's clock generator, droop response and timekeeping (chapters 4, 5 and 7). -/
structure Clock where
  core0     : Core
  core1     : Core
  /-- true when core 1 drives the output divider -/
  drive1    : Bool
  tau       : Nat
  newTau    : Option Nat
  /-- a thin-margin decision that waits for a core locked at this step (R156) -/
  downTo    : Option Nat
  run       : Nat
  q         : Nat
  tripped   : BitVec 16
  /-- each detector's last delay reading and its reference, none until it is seeded (R169, R172) -/
  detDelay  : List Nat
  detRef    : List (Option Nat)
  /-- stage cycles for which the references stay frozen after the last clear or a halt (R170) -/
  freeze    : Nat
  halted    : Bool
  /-- core cycles of the halt in progress that the last tick's debt has taken (R184) -/
  heldCores : Nat
  notice    : Bool
  /-- what the local time counter lags behind the island copy of wafer time, in 1/256 ns (R232) -/
  lag       : Rat
  /-- the last boundary pair: wafer time at the boundary, and the lag of the counter there (R232) -/
  pairW     : WaferTime
  pairLag   : Rat
  /-- the lag of the pair before it, which stands where the last one did not cross (R216) -/
  pairOld   : Rat
  stretched : Nat
  halts     : Nat
  longest   : Nat
  downs     : Nat
  overruns  : Nat
  /-- the overruns of the present hour have reached 256 (R478) -/
  limitHit  : Bool
  debt      : BitVec 32
  resync    : Bool
  /-- a realignment cycle waits for a cycle due with the droop request clear (R182) -/
  realign   : Bool
  /-- the stage made a local step-down in the take in progress -/
  downFrame : Bool
  /-- the frame has run at the usable fmax with the rail at 0.80 V so far (R148) -/
  marginOk  : Bool
  /-- frames run under that condition, newest first: stepped down or not (R148) -/
  marginRun : List Bool
  /-- the driving step as the supervisor last accepted it, and the value it held before (R168, R216) -/
  supStep   : Nat
  supOld    : Nat
  deriving DecidableEq, Repr

/-- A REPEAT in progress (R315). -/
structure Loop where
  start  : Nat
  len    : Nat
  count  : Nat
  stride : Int
  iter   : Nat
  deriving DecidableEq, Repr

/-- Where an issued shot is queued (R305). -/
inductive Dest where
  | engine (e : Nat)
  | splice (side : Side)
  | commit
  deriving DecidableEq, Repr

/-- A range of lines in a logical bank (R307): bank, first line, line count. -/
structure LineRange where
  bank  : Nat
  first : Nat
  count : Nat
  deriving DecidableEq, Repr

/-- A shot in progress (R299, R305): its number in issue order, shot index, queue, ranges, and for a RECV the
lines still to be written. -/
structure Flight where
  no     : Nat
  index  : BitVec 32
  dest   : Dest
  ahead  : Bool
  /-- its residues are compared at retirement (R333, R334) -/
  checked : Bool
  reads  : List LineRange
  writes : List LineRange
  /-- beats not yet acknowledged (SEND) or not yet written (RECV) -/
  left   : Nat
  /-- for a COMMIT, its output entry and the port whose host writes it waits for before it writes (R111) -/
  slot   : Option (Nat × Port) := none
  deriving DecidableEq, Repr

/-- A token signal held for a frame or take that has not begun (R328). -/
structure HeldSig where
  token : Nat
  inc   : Nat
  frame : BitVec 16
  take  : BitVec 4
  deriving DecidableEq, Repr

/-- The stage sequencer (section 9.2). -/
structure Seq where
  pc       : Nat
  kind     : Nat
  nextKind : Nat
  loop     : Option Loop
  ar       : List (BitVec 22)
  tokens   : List Nat
  held     : List HeldSig
  ahead    : Bool
  eof      : Bool
  final    : Bool
  done     : Bool
  worked   : Bool
  spliced  : Bool
  /-- the present work began with a ramp prologue (R189) -/
  prologue : Bool
  /-- run-ahead work of this frame was rolled back: the next frame's shots wait for its tick (section 3.12) -/
  noAhead  : Bool
  issued   : Nat
  stepWait : Bool
  deriving DecidableEq, Repr

/-- An undo-journal entry (R116): physical bank, line, epoch and the line's prior contents. -/
structure JEntry where
  bank  : Nat
  line  : Nat
  ahead : Bool
  old   : Line
  deriving DecidableEq, Repr

/-- An output staged by COMMIT (R329). -/
structure Staged where
  entry  : Nat
  parity : Nat
  lines  : List Line
  deriving DecidableEq, Repr

/-- How far a splice trim has come (R204). -/
inductive TrimPhase where
  | reset
  | moved
  | acquired
  deriving DecidableEq, Repr

/-- One end of a splice, both directions (chapter 6): a stage's, or an edge block's on a boundary splice (R213). -/
structure Link where
  /-- sequence number of the oldest unacknowledged payload beat (R198) -/
  txSeq    : BitVec 7
  /-- payload beats not yet acknowledged, oldest first (R199, R428) -/
  unacked  : List (BitVec 2048)
  /-- how many of them have been sent and are kept in the replay buffer of 64 (R199) -/
  sent     : Nat
  /-- how many of those, the newest, a replay has still to send again (R199) -/
  again    : Nat
  /-- beat position modulo 16 since the last pointer reset (R197) -/
  pos      : BitVec 4
  /-- sequence number that the next payload beat to be taken carries (R198) -/
  rxSeq    : BitVec 7
  /-- a check error is outstanding on what this end reads (R196) -/
  nak      : Bool
  /-- ages in beats, below 1,024, of the check errors this end counted (R200) -/
  errAge   : List Nat
  /-- a nak has been received: the unacknowledged beats are to be sent again (R199) -/
  replay   : Bool
  /-- replays in a row that no acknowledgement has answered (R200) -/
  failRun  : Nat
  aligned  : Bool
  /-- the receive FIFO of the direction this end reads, oldest first: data and check bits, at most 16 entries (R194) -/
  fifo     : List (BitVec 2048 × BitVec 64)
  /-- entries this end has written in the direction it sends, and taken in the direction it reads, modulo 32 (R194) -/
  wptr     : BitVec 5
  rptr     : BitVec 5
  trim     : Nat
  phase    : TrimPhase
  residual : Rat
  /-- acquisition failed, and is repeated from the next tick on (R206) -/
  trimWait : Bool
  txMap    : List (Nat × Nat)
  rxMap    : List (Nat × Nat)
  /-- generations of the lane maps of both directions (R221) -/
  txGen    : BitVec 8
  rxGen    : BitVec 8
  /-- a new map that this end's control beats request, with its generation, and a request to be acknowledged (R222) -/
  mapReq   : Option (BitVec 8 × List (Nat × Nat))
  mapAns   : Option (BitVec 8)
  /-- the partner's step code as this end last accepted it, and the one before (R202, R216) -/
  partner  : Nat
  partOld  : Nat
  paused   : Bool
  failed   : Bool
  /-- not acquired or its interval channel lasting: elastic until the next boot (R206, Table 14.1) -/
  elastic  : Bool
  marked   : Bool
  /-- the stage across is retired: the side is marked for good (R28) -/
  barred   : Bool
  usable   : Bool
  deriving DecidableEq, Repr

/-- A power-up in progress (R48, R470 to R472). -/
structure PowerUp where
  attempt : Nat
  ramping : Bool
  deriving DecidableEq, Repr

/-- A column tracker entry (R465). -/
structure ColEntry where
  bank : Nat
  sub  : Nat
  col  : Nat
  rows : List Nat
  /-- reads of the subarray since the entry's first error -/
  reads : Nat
  deriving DecidableEq, Repr

/-- A cell tracker entry (R466). -/
structure CellEntry where
  bank : Nat
  sub  : Nat
  row  : Nat
  col  : Nat
  /-- reads of the subarray since the entry was made -/
  reads : Nat
  deriving DecidableEq, Repr

/-- A repaired column or row of a bank (R27, R464): the spare it was moved to. -/
structure Repair where
  bank  : Nat
  sub   : Nat
  isRow : Bool
  index : Nat
  spare : Option Nat
  /-- the repaired row or column passed its test and is itself a free replacement (R457) -/
  good  : Bool
  deriving DecidableEq, Repr

/-- The activity a stage counts in an update interval (R272): active cycles of its multiply-accumulate arrays by format,
vector operations by type, lines its shots read and wrote in its banks, undo-journal copies and splice beats. -/
structure Work where
  mat     : List Nat
  vector  : List Nat
  reads   : Nat
  writes  : Nat
  journal : Nat
  beats   : Nat
  deriving DecidableEq, Repr

/-- One stage (Table 1.2, R27, R43 to R54, chapters 4, 5, 9). -/
structure Stage where
  st         : StageSt
  held       : Bool
  part       : Option Nat
  releasing  : Bool
  power      : Option PowerUp
  ready      : Bool
  stopped    : Bool
  closing    : Option LightsTarget
  idle       : Nat
  unassigned : Nat
  skipping   : Bool
  engineMap  : List Nat
  bankMap    : List Nat
  freeEng    : List Nat
  freeBank   : List Nat
  repairs    : List Repair
  masked     : BitVec 16
  fused      : Nat
  usable     : Nat
  derates    : Nat
  fmTrans    : Nat
  lastDerate : Nat
  clock      : Clock
  seq        : Seq
  flights    : List Flight
  scratch    : Cells 8
  journal    : List JEntry
  acc        : Cells 32
  resid      : Cells 3
  script     : Cells 64
  scriptCrc  : List (BitVec 32)
  scriptLen  : Nat
  reload     : Option Nat
  staged     : List Staged
  landNorth  : List (BitVec 2048)
  landEast   : List (BitVec 2048)
  landSouth  : List (BitVec 2048)
  landWest   : List (BitVec 2048)
  linkN      : Link
  linkE      : Link
  linkS      : Link
  linkW      : Link
  cnt        : Counts
  cntAhead   : Counts
  traceBuf   : List TraceEntry
  traceDrop  : Nat
  limit      : Nat
  retired    : List Nat
  retiredOld : List Nat
  frames     : Nat
  temps      : List Int
  tempsOld   : List Int
  tempHot    : List Bool
  /-- the island copy of wafer time (R231) -/
  island     : WaferTime
  /-- lowest slack code of the frame so far, the frame slack that its EOF formed and the next tick passes, what the last tick
  passed, and the lowest passed before it in the present evaluation interval; none where there is no valid code (R153,
  R288) -/
  slackNow   : Option Nat
  slackEof   : Option Nat
  slackTick  : Option Nat
  slackLow   : Option Nat
  /-- a lower usable fmax that takes effect at the next tick (R148) -/
  fmaxDue    : Option Nat
  /-- activity counted in the present update interval (R272) -/
  work       : Work
  corrected  : Nat
  /-- single-bit errors corrected in the script store (R310) -/
  scriptCorrected : Nat
  columns    : List ColEntry
  cells      : List CellEntry
  deriving DecidableEq, Repr

/-! ### Module-level parts -/

/-- Pins and the module's condition (Tables 2.14 and 2.15). -/
structure Pins where
  pwrGood      : Bool
  resetN       : Bool
  coolA        : Bool
  coolB        : Bool
  /-- a latched stop: false a coolant stop, true a thermal stop (R298) -/
  stop         : Option Bool
  failed       : Bool
  booting      : Bool
  bootPhase    : Nat
  bootDone     : Bool
  parked       : Bool
  pwrCycleReq  : Bool
  belowFloor   : Bool
  thermWarn    : Bool
  bypassOpen   : Bool
  issueStopped : Bool
  deriving DecidableEq, Repr

/-- Strap readings and the levels acted on (section 2.2). -/
structure Straps where
  codes  : List (BitVec 5)
  levels : List Nat
  fault  : BitVec 32
  deriving DecidableEq, Repr

/-- The slate and the command handshakes (sections 2.7 to 2.9). -/
structure Slate where
  holder : Option Port
  reqA   : Bool
  reqB   : Bool
  tie    : Port
  inelA  : Bool
  inelB  : Bool
  hbAt   : WaferTime
  cap    : Option (BitVec 4)
  stbA   : Bool
  stbB   : Bool
  ackA   : Bool
  ackB   : Bool
  deriving DecidableEq, Repr

/-- Epoch identity (R227); kind is the code of Table 7.1. -/
structure EpochId where
  source : BitVec 8
  serial : BitVec 16
  kind   : BitVec 2
  deriving DecidableEq, Repr

/-- PPS discipline (R237 to R243). Stamps are wafer times in 1/256 ns, phase errors in 1/256 ns. -/
structure Pps where
  /-- stamp of the valid edge P0 that acquisition holds -/
  pending  : Option Int
  /-- the anchor of the last acquisition (R228, R238) -/
  anchor   : Option Int
  /-- the loop runs from the anchor -/
  acquired : Bool
  lastEdge : Option Int
  lastErr  : Int
  locked   : Bool
  lockRun  : Nat
  outliers : Nat
  clampRun : Nat
  /-- the run at the clamp has been reported (R242) -/
  told     : Bool
  ignored  : Nat
  /-- the correction before the last used edge (R241) -/
  prevCorr : Rat
  deriving DecidableEq, Repr

/-- A Sync last taken on a ring port, with its arrival (R248). -/
structure SyncSeen where
  msg : SyncMsg
  t2  : Nat
  deriving DecidableEq, Repr

/-- The ring servo of a tick slave (R248 to R252). Offsets and delays are in 1/256 ns. -/
structure Slave where
  east     : Option SyncSeen
  west     : Option SyncSeen
  parent   : Option RingPort
  delays   : List Rat
  offsets  : List Rat
  lastOff  : Rat
  acquired : Bool
  locked   : Bool
  lockRun  : Nat
  badRun   : Nat
  /-- departure stamp and sequenceId of the Delay_Req that awaits its answer (R249) -/
  asked    : Option (Nat × BitVec 16)
  stepBy   : Option Int
  deriving DecidableEq, Repr

/-- The tick-chain check (R254). -/
structure TickIn where
  base   : Option Int
  badRun : Nat
  /-- stamp of the last edge taken: the hold-off of 64 ns runs from it -/
  last   : Option Nat
  deriving DecidableEq, Repr

/-- The time base (chapter 7). -/
structure TimeBase where
  wafer      : WaferTime
  epochFixed : Bool
  onPll      : Bool
  refOut     : Bool
  /-- a reference fault since power came on: REF_OUT stays low (R137) -/
  refFault   : Bool
  lastTick   : Option WaferTime
  tickCount  : BitVec 64
  epochId    : EpochId
  /-- the frequency correction y in ppb, and what the reference PLL's divider holds of it in units of 2^-40 (R133) -/
  corr       : Rat
  applied    : Int
  pps        : Pps
  holdover   : Bool
  slave      : Slave
  tickIn     : TickIn
  bootCount  : BitVec 32
  dayCount   : BitVec 32
  hourCount  : Nat
  deriving DecidableEq, Repr

/-- The table a stamper or channel converts with (R262). -/
inductive CalTable where
  | nominal
  | factory (widths : List Nat)
  | statistical (hits : List Nat)
  deriving DecidableEq, Repr

/-- An open measurement (R257 to R259). Stamps are in 1/256 ns. -/
structure Meas where
  number  : BitVec 32
  armAt   : Nat
  start   : Option Nat
  /-- stops by stamp: stamp and input identifier -/
  stops   : List (Nat × Nat)
  lost    : Bool
  uncal   : Bool
  deriving DecidableEq, Repr

/-- The interval unit (chapter 7). -/
structure Iu where
  tables     : List (CalTable × Int)
  collecting : Option Nat
  shadow     : Option (List (CalTable × Int))
  number     : BitVec 32
  meas       : Option Meas
  /-- stamp of the last accepted edge of each of the nine inputs (R256) -/
  lastIn     : List (Option Nat)
  /-- edges lost in conversion (R256) -/
  lost       : Nat
  deriving DecidableEq, Repr

/-- The gaffer (chapter 8). Powers are in watts. -/
structure Gaffer where
  hist       : List Rat
  limit      : Nat
  /-- the limit chosen before: an interval runs partly under it (R279) -/
  limitOld   : Nat
  cap        : Nat
  limited    : Bool
  infeasRun  : Nat
  infeasMax  : Rat
  infeasTold : Bool
  energy     : BitVec 64
  energyFrac : Rat
  latched    : BitVec 64
  lastUpdate : Option WaferTime
  sweeping   : Bool
  /-- the update at which the last sense sweep began (R271) -/
  lastSweep  : Option WaferTime
  deriving DecidableEq, Repr

/-- Sums over update intervals of a rail's reported activity, static estimate and largest activity, in watts, with
their number (R275). -/
structure Activity where
  d   : Rat
  q   : Rat
  top : Rat
  num : Nat
  deriving DecidableEq, Repr

/-- A stage rail or array segment (R268, R274, R288, R473). Voltages in mV. -/
structure Rail where
  volt     : Nat
  confirmed : Nat
  gain     : Rat
  clampRun : Nat
  missRun  : Nat
  gainHeld : Bool
  gainDead : Bool
  /-- activity since the last sweep began, and what that sweep judges (R275) -/
  act      : Activity
  swept    : Activity
  excluded : Bool
  offRun   : Nat
  oneRun   : Nat
  oneStage : Nat
  topStep  : Nat
  recheck  : Bool
  /-- error kind of a broken sense whose stages are being held, 0 when none (R473) -/
  broken   : Nat
  deriving DecidableEq, Repr

/-- When a substitution may take effect (R458): now, at the first tick after the retake of a partition has begun
or its context has ended, or at the next tick. -/
inductive TestWait where
  | free
  | retake (p : Nat)
  | tick
  deriving DecidableEq, Repr

/-- A pending targeted self-test (R452, R457, R458). -/
structure Test where
  unit     : UnitId
  kinds    : List Nat
  joined   : Nat
  running  : Bool
  wait     : TestWait
  copied   : Bool
  /-- the lanes that the lane test of a splice direction found failing (R222) -/
  lanes    : List Nat
  /-- the unit's role has moved to a replacement (R457) -/
  moved    : Bool
  /-- the replacement index of Table 12.16, where the manual names one -/
  repl     : Option Nat
  /-- a row or column moved with its whole bank (R468) -/
  wide     : Bool
  /-- the floor step of the partition the first error arose in (R159) -/
  floor    : Nat
  deriving DecidableEq, Repr

/-- The recorded condition of a four-phase crossing (R217, R218). -/
structure Xing where
  xid     : BitVec 16
  /-- the source has raised REQ and its event is not yet taken -/
  req     : Bool
  /-- after a timeout the source waits to see ACK low before it raises REQ again -/
  wait    : Bool
  /-- the one further event that the source holds -/
  pending : Bool
  /-- consecutive timeouts (R218) -/
  age     : Nat
  failed  : Bool
  flag    : Bool
  count   : BitVec 16
  deriving DecidableEq, Repr

/-- A submission in its slot (R402, R403). -/
structure Submission where
  port  : Port
  addr  : Nat
  len   : Nat
  tag   : Word
  deriving DecidableEq, Repr

/-- The load check in progress (R381, R84): slot, cap at its start, and the reel once tests 1 to 11 passed. -/
structure Check where
  slot : Nat
  cap  : Nat
  reel : Option Reel
  deriving DecidableEq, Repr

/-- The wrap chain (R420). -/
structure Chain where
  next  : Nat
  head  : List Byte
  kept  : Bool
  deriving DecidableEq, Repr

/-- A dailies log entry (R506): kind, context, epoch, number, timestamp and bytes 16 to 63. -/
structure LogEntry where
  kind    : Nat
  ctx     : BitVec 8
  epoch   : BitVec 8
  number  : Nat
  time    : Word
  payload : List Byte
  deriving DecidableEq, Repr

/-- A dump (Table 15.10). -/
structure Dump where
  status : Nat
  stage  : Nat
  bank   : Nat
  level  : Nat
  first  : Nat
  lines  : List Line
  shot   : BitVec 32
  frame  : BitVec 48
  take   : BitVec 4
  ctx    : BitVec 8
  epoch  : BitVec 8
  head   : List JEntry
  time   : Word
  deriving DecidableEq, Repr

/-- The dailies SRAM (R505 to R507). -/
structure Dailies where
  valid    : Bool
  boot     : BitVec 32
  unsaved  : Bool
  count    : Nat
  log      : List LogEntry
  used     : Nat
  written  : Nat
  droppedN : Nat
  dumps    : List Dump
  /-- delivery of the newest valid set has begun since the end of boot (R509) -/
  delivered : Bool
  deriving DecidableEq, Repr

/-- A set in a dailies area of carrier flash (R508, R509). -/
structure DailiesSet where
  boot : BitVec 32
  seq  : Nat
  data : List Byte
  deriving DecidableEq, Repr

/-- A stage entry of the fmax ledger (Table 4.3). -/
structure LedgerEntry where
  fused  : Nat
  usable : Nat
  derates : Nat
  fmTrans : Nat
  /-- bits [31:24], zero in every entry that the module writes (R147) -/
  reserved : Nat
  lastDay : Nat
  deriving DecidableEq, Repr

/-- The fields of a ledger copy (Table 4.2). -/
structure Ledger where
  seq     : Nat
  days    : BitVec 32
  entries : List LedgerEntry
  deriving DecidableEq, Repr

/-- The fields of a days-in-service copy (Table 7.2). -/
structure Days where
  seq   : Nat
  day   : BitVec 32
  hour  : Nat
  boot  : BitVec 32
  deriving DecidableEq, Repr

/-- What the retirement and repair-map record holds of one stage (R36, R221). -/
structure RetStage where
  /-- stage-state code: 2 in service, 3 retired (Table 12.19); any other code is reserved (Table 1.5) -/
  code      : Nat
  engineMap : List Nat
  bankMap   : List Nat
  freeEng   : List Nat
  freeBank  : List Nat
  repairs   : List Repair
  masked    : BitVec 16
  laneMaps  : List (List (Nat × Nat))
  /-- the generations of those maps (R221) -/
  laneGens  : List (BitVec 8)
  deriving DecidableEq, Repr

/-- The retirement and repair-map record (R36). -/
structure RetRecord where
  seq      : Nat
  stages   : List RetStage
  /-- lane maps and generations of the edge-block ends of the 40 boundary splices (R221) -/
  edges    : List (List (Nat × Nat) × List (Nat × Nat) × BitVec 8 × BitVec 8)
  ringEast : BitVec 16
  ringWest : BitVec 16
  deriving DecidableEq, Repr

/-- Carrier flash (Table 16.6): the bytes of the identity area, of both copies of the fmax ledger, of the
days-in-service record and of the chain head; an erased copy, every byte 0xFF, has none here. The layout within the
retirement copies is the module's own (R529). The factory tables are never written (Config.tableBytes). -/
structure Flash where
  identity : List Byte
  ledger0  : List Byte
  ledger1  : List Byte
  days0    : List Byte
  days1    : List Byte
  chain0   : List Byte
  chain1   : List Byte
  retire0  : Option RetRecord
  retire1  : Option RetRecord
  dailies0 : Option DailiesSet
  dailies1 : Option DailiesSet
  deriving DecidableEq, Repr

/-- What a ring port sends (R442): a time frame or a status frame. -/
inductive RingOut where
  | time (h : TimeHeader) (m : PtpMsg)
  | status (f : StatusFrame)
  deriving DecidableEq, Repr

/-- A lane-map exchange in progress (R445). -/
structure MapSwitch where
  newMap : BitVec 16
  gen    : BitVec 8
  deriving DecidableEq, Repr

/-- One ring port (section 13.7). -/
structure RingState where
  up       : Bool
  failed   : Bool
  txMap    : BitVec 16
  rxMap    : BitVec 16
  gen      : BitVec 8
  exchange : Option MapSwitch
  suspect  : List Nat
  lasting  : BitVec 16
  /-- frames discarded and counted (R245, R442) -/
  discards : Nat
  /-- sequenceId of the next Sync and of the next Delay_Req on this port -/
  syncSeq  : BitVec 16
  reqSeq   : BitVec 16
  sent     : List RingOut
  deriving DecidableEq, Repr

/-- One spine segment's record (R430, R431). -/
structure SpineSeg where
  col     : Nat
  seg     : Nat
  errors  : Nat
  resends : Nat
  failed  : Bool
  deriving DecidableEq, Repr

/-- A flit on a column spine (R425, R429, R432): its column, whether it goes north, its header, its line when it carries
one, and its CRC-16. -/
structure SpineOut where
  col    : Nat
  north  : Bool
  header : BitVec 128
  data   : Option Line
  crc    : BitVec 16
  deriving DecidableEq, Repr

/-- The JTAG port (R22): instruction register, what it captured in Capture-IR, the bypass bit, the cells of the boundary
register in force and the pin levels it last captured, whether it drives the pins, and the last capture of the
identification register. -/
structure Jtag where
  ir        : BitVec 8
  irCapture : BitVec 8
  bypass    : Bool
  boundary  : List Bool
  captured  : List Bool
  driving   : Bool
  idcode    : BitVec 32
  deriving DecidableEq, Repr

/-- The state of the whole block. -/
structure State where
  pins      : Pins
  serial    : Word
  signKey   : BitVec 256
  straps    : Straps
  slate     : Slate
  time      : TimeBase
  trims     : List Nat
  iu        : Iu
  gaffer    : Gaffer
  rails     : List Rail
  stages    : List Stage
  /-- the edge-block ends of the 40 boundary splices: the North block's by column, the South block's, the East block's by
  row, the West block's (R23, R213) -/
  edges     : List Link
  parts     : List (Option Ctx)
  portA     : HostPort
  portB     : HostPort
  slots     : List (Option Submission)
  slotPri   : Port
  slotOrder : List Nat
  check     : Option Check
  lastCtx   : BitVec 8
  chain     : Chain
  transients : List (UnitId × Nat)
  tests     : List Test
  xings     : List Xing
  dailies   : Dailies
  flash     : Flash
  idFaults  : BitVec 8
  issue     : Nat
  cert      : List Byte
  ringE     : RingState
  ringW     : RingState
  dupId     : Bool
  spines    : List SpineSeg
  spineOut  : List SpineOut
  level4    : Option Level
  level5    : Option Level
  jtag      : Jtag
  freeCtr   : Nat
  pending   : List Instr
  deriving DecidableEq, Repr

/-! ### Why a step can stop -/

/-- Faults: the machine stops. No command of the table leads outside the limits of R521 and R534, so none of
the meanings raises one. -/
inductive Fault where
  /-- Raised by no meaning; it names behaviour outside the limits (R521, R534). Safe: it stops the model. -/
  | outsideLimits
  deriving DecidableEq, Repr

/-- Refusals: no meaning given. -/
inductive Refusal where
  /-- Raised by an arm of exec whose command has no meaning yet. Safe: it stops the model. -/
  | notModelled (mnemonic : String)
  deriving DecidableEq, Repr

/-! ### Reset values -/

/-- No counts (R361). -/
def Counts.zero : Counts := { nan := 0, inf := 0, ovf := 0, sat := 0, wrap := 0 }

/-- A core that is stopped (R143). -/
def Core.off : Core := { step := 0, locked := false }

/-- No activity counted (R272). -/
def Work.zero : Work :=
  { mat := List.replicate 16 0, vector := List.replicate 4 0, reads := 0, writes := 0, journal := 0, beats := 0 }

/-- A stage clock with both cores stopped. -/
def Clock.off : Clock :=
  { core0 := .off, core1 := .off, drive1 := false, tau := 0, newTau := none, downTo := none, run := 0, q := 0
    tripped := 0, detDelay := List.replicate 16 0, detRef := List.replicate 16 none, freeze := 0, halted := false
    heldCores := 0, notice := false, lag := 0, pairW := 0, pairLag := 0, pairOld := 0, stretched := 0, halts := 0, longest := 0
    downs := 0, overruns := 0, limitHit := false, debt := 0, resync := true, realign := false, downFrame := false
    marginOk := false, marginRun := [], supStep := 0, supOld := 0 }

/-- The state every take begins in (R119, R306). -/
def Seq.start : Seq :=
  { pc := 0, kind := 0, nextKind := 0, loop := none, ar := List.replicate 16 0, tokens := List.replicate 32 0
    held := [], ahead := false, eof := false, final := false, done := false, worked := false, spliced := false
    prologue := false, noAhead := false, issued := 0, stepWait := false }

/-- A splice end after power-up (R201, R211). -/
def Link.start : Link :=
  { txSeq := 0, unacked := [], sent := 0, again := 0, pos := 0, rxSeq := 0, nak := false, errAge := [], replay := false, failRun := 0
    aligned := false, fifo := [], wptr := 0, rptr := 0, trim := 64, phase := .reset, residual := 0, trimWait := false
    txMap := [], rxMap := [], txGen := 0, rxGen := 0, mapReq := none, mapAns := none, partner := 0, partOld := 0
    paused := false, failed := false, elastic := false, marked := true, barred := false, usable := false }

/-- The identity assignment of logical to physical units (R539). -/
def identityMap : List Nat := List.range 48

/-- A stage at reset: unlit and unassigned, factory maps in place. -/
def Stage.reset (n : Nat) : Stage :=
  { st := .unlit, held := false, part := none, releasing := false, power := none, ready := false
    stopped := false
    closing := none, idle := 0, unassigned := 0, skipping := false, engineMap := identityMap
    bankMap := identityMap, freeEng := [48, 49], freeBank := [48, 49], repairs := [], masked := 0
    fused := (Config.fusedFmax n).toNat, usable := (Config.fusedFmax n).toNat, derates := 0, fmTrans := 0
    lastDerate := 0, clock := .off, seq := .start, flights := [], scratch := [], journal := [], acc := []
    resid := [], script := [], scriptCrc := [], scriptLen := 0, reload := none, staged := []
    landNorth := [], landEast := []
    landSouth := [], landWest := [], linkN := .start, linkE := .start, linkS := .start, linkW := .start
    cnt := .zero, cntAhead := .zero, traceBuf := [], traceDrop := 0, limit := 16
    retired := List.replicate 48 0, retiredOld := List.replicate 48 0, frames := 0
    temps := List.replicate 4 25, tempsOld := List.replicate 4 25, island := 0, slackNow := none, slackEof := none, slackTick := none
    slackLow := none, fmaxDue := none, work := .zero, tempHot := List.replicate 4 false, corrected := 0, scriptCorrected := 0, columns := [], cells := [] }

/-- A host port at reset. -/
def HostPort.reset : HostPort :=
  { up := false, d3hot := false, ring := none, produced := 0, consumed := 0, seq := 0, lost := 0, firstLost := 0
    lastLost := 0, lostBind := 0, dropped := false, queue := [], submitAt := [], bindAt := [], held := []
    msixPend := [], prodDue := false, vec0Due := false, vec0At := none, stallTicks := 0, stallTold := false
    sent := [], late := [] }

/-- No activity. -/
def Activity.zero : Activity := { d := 0, q := 0, top := 0, num := 0 }

/-- A rail at reset: 0.80 V and gain 1.00 (R275, R289). -/
def Rail.reset : Rail :=
  { volt := 800, confirmed := 800, gain := 1, clampRun := 0, missRun := 0, gainHeld := false, gainDead := false
    act := .zero, swept := .zero, excluded := false
    offRun := 0, oneRun := 0, oneStage := 0, topStep := 0, recheck := false, broken := 0 }

/-- A ring port at reset. -/
def RingState.reset : RingState :=
  { up := false, failed := false, txMap := 0xFFFF, rxMap := 0xFFFF, gen := 0, exchange := none, suspect := []
    lasting := 0, discards := 0, syncSeq := 0, reqSeq := 0, sent := [] }

/-- No discipline (R238). -/
def Pps.idle : Pps :=
  { pending := none, anchor := none, acquired := false, lastEdge := none, lastErr := 0, locked := false, lockRun := 0
    outliers := 0, clampRun := 0, told := false, ignored := 0, prevCorr := 0 }

/-- A slave that has seen no Sync (R248). -/
def Slave.idle : Slave :=
  { east := none, west := none, parent := none, delays := [], offsets := [], lastOff := 0, acquired := false
    locked := false, lockRun := 0, badRun := 0, asked := none, stepBy := none }

/-- The default level of each strap (Table 2.4). -/
def strapDefaults : List Nat :=
  [1, 0, 15, 0, 1, 3, 6, 2, 2, 0, 2, 0, 0, 8, 0, 1, 2, 0, 0, 0, 0, 5, 0]

/-- An empty dailies SRAM with no header (R505: lost when power is removed). -/
def Dailies.absent : Dailies :=
  { valid := false, boot := 0, unsaved := false, count := 0, log := [], used := 0, written := 0, droppedN := 0
    dumps := [], delivered := false }

/-- The time base before the module epoch is fixed (R225). -/
def TimeBase.reset : TimeBase :=
  { wafer := 0, epochFixed := false, onPll := false, refOut := false, refFault := false, lastTick := none, tickCount := 0
    epochId := { source := 0, serial := 0, kind := 0 }, corr := 0, applied := 0, pps := .idle
    holdover := false, slave := .idle, tickIn := { base := none, badRun := 0, last := none }, bootCount := 0
    dayCount := 0, hourCount := 0 }

/-- The interval unit before calibration. -/
def Iu.reset : Iu :=
  { tables := List.replicate 397 (.nominal, 0), collecting := none, shadow := none, number := 0, meas := none
    lastIn := List.replicate 9 none, lost := 0 }

/-- The gaffer before boot ends (R279: every interval counts as P = 0). -/
def Gaffer.reset : Gaffer :=
  { hist := [], limit := 16, limitOld := 16, lastSweep := none, cap := 1500, limited := false, infeasRun := 0, infeasMax := 0, infeasTold := false
    energy := 0, energyFrac := 0, latched := 0, lastUpdate := none, sweeping := false }

/-- The pins at power-up: PWR_GOOD low and RESET_N asserted (R517, Table 2.14). -/
def Pins.reset : Pins :=
  { pwrGood := false, resetN := false, coolA := true, coolB := true, stop := none, failed := false
    booting := false, bootPhase := 0, bootDone := false, parked := false, pwrCycleReq := false
    belowFloor := false, thermWarn := false, bypassOpen := false, issueStopped := true }

/-- The slate under RESET_N (R75, R79, R81). -/
def Slate.reset : Slate :=
  { holder := none, reqA := false, reqB := false, tie := .a, inelA := false, inelB := false, hbAt := 0
    cap := none, stbA := false, stbB := false, ackA := false, ackB := false }

/-- Straps before their first read: the defaults of an open pin (R60). -/
def Straps.reset : Straps :=
  { codes := List.replicate 23 0x10, levels := strapDefaults, fault := 0 }

/-- Carrier flash with every module-written area erased (log entry 4). -/
def Flash.reset : Flash :=
  { identity := Config.identityBytes, ledger0 := [], ledger1 := [], days0 := [], days1 := [], chain0 := [], chain1 := []
    retire0 := none, retire1 := none, dailies0 := none, dailies1 := none }

/-- The JTAG port in Test-Logic-Reset: IDCODE is the instruction in force (R22). -/
def Jtag.reset : Jtag :=
  { ir := 0x02, irCapture := 0x01, bypass := false, boundary := [], captured := [], driving := false, idcode := 0 }

/-- The machine right after power-up reset: RESET_N asserted, PWR_GOOD low (R517, Table 2.13, Table 2.14). -/
def State.reset : State :=
  { pins := .reset, serial := Config.serial, signKey := Config.signKey, straps := .reset, slate := .reset
    time := .reset, trims := List.replicate 64 0, iu := .reset, gaffer := .reset
    rails := List.replicate 28 .reset, stages := (List.range 96).map Stage.reset
    edges := List.replicate 40 .start
    parts := List.replicate 8 none, portA := .reset, portB := .reset, slots := List.replicate 16 none
    slotPri := .a, slotOrder := [], check := none, lastCtx := 0
    chain := { next := 0, head := List.replicate 32 0, kept := false }, transients := [], tests := []
    xings := [], dailies := .absent, flash := .reset, idFaults := 0, issue := 0, cert := [], ringE := .reset
    ringW := .reset, dupId := false, spines := [], spineOut := [], level4 := none, level5 := none
    jtag := .reset, freeCtr := 0
    pending := [] }

end Sys2Proof.Machine
end

