-- ==== Sys2Proof/Machine/FlashBytes.lean ====
section
/-! DEFINITION. The byte layouts of carrier flash: identity area (spec/16_electrical.md R530), fmax ledger copies
(spec/04_clock_generation.md Tables 4.2 and 4.3), days-in-service copies (spec/07_time_base.md Table 7.2), chain-head
copies (spec/16_electrical.md Table 16.6) and factory tables (spec/07_time_base.md R263). Every field is little-endian
(R9) and every copy ends in its CRC-32 (R10). -/

namespace Sys2Proof.Machine

open Sys2Proof

/-- A byte string followed by its CRC-32 (R10). -/
def sealed (bs : List Byte) : List Byte := bs ++ leBytes 4 (crc32 bs).toNat

/-- `n` bytes whose last four are the CRC-32 of those before them (R10). -/
def sealOk (n : Nat) (bs : List Byte) : Bool :=
  decide (bs.length = n) && decide (fieldAt bs (n - 4) 4 = (crc32 (bs.take (n - 4))).toNat)

/-! ### The fmax ledger -/

/-- A stage entry as its 64-bit number (Table 4.3). -/
def LedgerEntry.word (e : LedgerEntry) : Nat :=
  e.fused % 2 ^ 4 + e.usable % 2 ^ 4 * 2 ^ 4 + e.derates % 2 ^ 8 * 2 ^ 8 + e.fmTrans % 2 ^ 8 * 2 ^ 16
    + e.reserved % 2 ^ 8 * 2 ^ 24 + e.lastDay % 2 ^ 32 * 2 ^ 32

/-- The stage entry that a 64-bit number holds (Table 4.3). -/
def ledgerEntryOf (v : Nat) : LedgerEntry :=
  { fused := bitsOf v 0 4, usable := bitsOf v 4 4, derates := bitsOf v 8 8, fmTrans := bitsOf v 16 8
    reserved := bitsOf v 24 8, lastDay := bitsOf v 32 32 }

/-- Bytes 0 to 1,019 of a ledger copy (Table 4.2). -/
def Ledger.body (l : Ledger) : List Byte :=
  leBytes 4 0x4C444746 ++ leBytes 4 1 ++ leBytes 4 l.seq ++ leBytes 4 l.days.toNat
    ++ (List.range 96).flatMap (fun n => leBytes 8 ((l.entries[n]?).map LedgerEntry.word |>.getD 0)) ++ zeros 236

/-- A ledger copy (Table 4.2). -/
def Ledger.bytes (l : Ledger) : List Byte := sealed l.body

/-- The ledger that a copy holds, when its magic, format version and CRC are good (R146). -/
def ledgerOf (bs : List Byte) : Option Ledger :=
  if fieldAt bs 0 4 = 0x4C444746 ∧ fieldAt bs 4 4 = 1 ∧ sealOk 1024 bs then
    some { seq := fieldAt bs 8 4, days := BitVec.ofNat 32 (fieldAt bs 12 4)
           entries := (List.range 96).map (fun n => ledgerEntryOf (fieldAt bs (16 + 8 * n) 8)) }
  else none

/-! ### Days in service -/

/-- Bytes 0 to 27 of a days-in-service copy (Table 7.2). -/
def Days.body (d : Days) : List Byte :=
  leBytes 4 0x53444953 ++ leBytes 4 d.seq ++ leBytes 4 d.day.toNat ++ leBytes 1 d.hour ++ zeros 3
    ++ leBytes 4 d.boot.toNat ++ zeros 8

/-- A days-in-service copy (Table 7.2). -/
def Days.bytes (d : Days) : List Byte := sealed d.body

/-- The record that a copy holds, when its magic, hour count and CRC are good (R234). -/
def daysOf (bs : List Byte) : Option Days :=
  if fieldAt bs 0 4 = 0x53444953 ∧ fieldAt bs 12 1 < 24 ∧ sealOk 32 bs then
    some { seq := fieldAt bs 4 4, day := BitVec.ofNat 32 (fieldAt bs 8 4), hour := fieldAt bs 12 1
           boot := BitVec.ofNat 32 (fieldAt bs 16 4) }
  else none

/-! ### The chain head -/

/-- A chain-head copy: chain sequence number, head hash and CRC (Table 16.6). -/
def chainBytes (seq : Nat) (head : List Byte) : List Byte := sealed (leBytes 8 seq ++ head)

/-- The chain sequence number and head that a copy holds, when its CRC is good (R420). -/
def chainOf (bs : List Byte) : Option (Nat × List Byte) :=
  if sealOk 44 bs then some (fieldAt bs 0 8, (bs.drop 8).take 32) else none

/-! ### Copies in use -/

/-- Of two copies with their sequence numbers, the valid one with the higher number, and whether it is copy 1. DESIGN
CHOICE (log entry 38): of two valid copies with equal numbers copy 0 is used. -/
def newerCopy {α : Type} (seq : α → Nat) (c0 c1 : Option α) : Option (α × Bool) :=
  match c0, c1 with
  | some a, some b => if seq a < seq b then some (b, true) else some (a, false)
  | some a, none => some (a, false)
  | none, o => o.map (fun b => (b, true))

/-- The valid ledger copy in use (R146); equal sequence numbers: newerCopy, log entry 38. -/
def ledgerInUse (f : Flash) : Option (Ledger × Bool) := newerCopy Ledger.seq (ledgerOf f.ledger0) (ledgerOf f.ledger1)

/-- The days-in-service copy in use and whether it is copy 1 (R234); equal sequence numbers: log entry 38. -/
def daysInUse (f : Flash) : Option (Days × Bool) := newerCopy Days.seq (daysOf f.days0) (daysOf f.days1)

/-- Put a days-in-service copy: copy 1 when the Bool is set. -/
def Flash.putDays (f : Flash) (one : Bool) (d : Days) : Flash :=
  if one then { f with days1 := d.bytes } else { f with days0 := d.bytes }

/-- The chain-head copy in use and whether it is copy 1 (R420). -/
def chainInUse (f : Flash) : Option ((Nat × List Byte) × Bool) :=
  newerCopy Prod.fst (chainOf f.chain0) (chainOf f.chain1)

/-! ### The identity area -/

/-- What boot takes from the identity area: carrier issue and certificate. -/
structure Identity where
  issue : Nat
  cert  : List Byte
  deriving DecidableEq, Repr

/-- The identity area's contents, or none when a condition of R530 holds: CRC, magic, coupling code, carrier issue or
certificate length. -/
def identityOf (bs : List Byte) : Option Identity :=
  let issue := fieldAt bs 4 1
  let coupling := fieldAt bs 5 1
  let len := fieldAt bs 6 2
  if fieldAt bs 0 4 = 0x43494449 ∧ (coupling = 1 ∨ coupling = 2) ∧ 2 ≤ issue ∧ issue ≤ 99 ∧ len ≤ 1024
      ∧ sealOk 4096 bs then
    some { issue := issue, cert := (bs.drop 8).take len }
  else none

/-! ### Factory tables -/

/-- A factory table: 256 bin widths of one byte in 0.25 ps and a signed input offset in 1/256 ns; a table whose CRC fails
is the nominal one with no offset (R262, R263). -/
def tableOf (bs : List Byte) : CalTable × Int :=
  if sealOk 264 bs then
    (.factory ((bs.take 256).map BitVec.toNat), signed 16 (fieldAt bs 256 2))
  else (.nominal, 0)

end Sys2Proof.Machine
end

