-- ==== Sys2Proof/Machine/Records.lean ====
section
/-! DEFINITION. The byte layouts of records (spec/12_host_ports.md Tables 12.6 to 12.22), of dailies log entries
and dumps (spec/15_recovery.md Tables 15.8 to 15.10), and record lengths (Table 12.8). Reserved bytes are zero (R11). -/

namespace Sys2Proof.Machine

open Sys2Proof

/-- The five totals of Table 12.10, each [47:0] in 8 bytes. -/
def countsBytes (c : Counts) : List Byte :=
  [c.nan, c.inf, c.ovf, c.sat, c.wrap].flatMap (fun v => leBytes 8 v)

/-- Error event bytes 16 to 63 (Table 12.13). -/
def errBytes (b : ErrBody) : List Byte :=
  leBytes 1 b.kind ++ leBytes 1 b.action ++ leBytes 1 b.stage ++ leBytes 1 b.engine ++ leBytes 4 b.unit.toNat
    ++ leBytes 2 b.xid.toNat ++ leBytes 2 b.overrun.toNat ++ leBytes 4 b.shot.toNat ++ leBytes 8 b.frame.toNat
    ++ leBytes 1 b.take.toNat ++ leBytes 1 b.port ++ leBytes 2 b.aux ++ zeros 20

/-- Retirement bytes 16 to 31 (Table 12.15). -/
def retBytes (b : RetBody) : List Byte :=
  leBytes 1 b.cls ++ leBytes 1 b.stage ++ leBytes 1 b.reason ++ leBytes 1 b.kind ++ leBytes 4 b.unit.toNat
    ++ leBytes 4 b.repl.toNat ++ leBytes 2 b.left ++ zeros 2

/-- Recovery bytes 16 to 47 (Table 12.15). -/
def recovBytes (b : RecovBody) : List Byte :=
  leBytes 1 b.level ++ leBytes 1 b.outcome ++ leBytes 1 b.trigger ++ leBytes 1 b.parts.toNat
    ++ leBytes 4 b.stage ++ zeros 8 ++ leBytes 8 b.start.toNat ++ leBytes 8 b.stop.toNat

/-- A trace entry (Table 12.21). -/
def traceBytes (t : TraceEntry) : List Byte :=
  leBytes 1 t.kind ++ leBytes 1 t.take.toNat ++ leBytes 6 t.frame.toNat ++ leBytes 8 t.stamp.toNat
    ++ leBytes 16 t.payload.toNat

/-- The type code of a record (Table 12.8). -/
def RecBody.typeCode : RecBody → Nat
  | .accepted .. => 0x01
  | .refused .. => 0x02
  | .contextComplete _ => 0x03
  | .wrap _ => 0x04
  | .error _ => 0x05
  | .retirement _ => 0x06
  | .recovery _ => 0x07
  | .dailies .. => 0x08
  | .interval _ => 0x09
  | .identity _ => 0x0A
  | .trace .. => 0x0B
  | .cutComplete _ => 0x0C
  | .lost .. => 0x0D

/-- The length of a record in 16-byte units (Table 12.8). -/
def RecBody.units : RecBody → Nat
  | .accepted .. => 4
  | .refused .. => 6
  | .contextComplete _ => 5
  | .wrap _ => 16
  | .error _ => 4
  | .retirement _ => 2
  | .recovery _ => 3
  | .dailies .. => 130
  | .interval _ => 11
  | .identity _ => 127
  | .trace _ _ _ _ es => 2 + 2 * es.length
  | .cutComplete _ => 5
  | .lost .. => 3

/-- The bytes of a record from byte 16 on (Tables 12.9 to 12.20). -/
def RecBody.bytes : RecBody → List Byte
  | .accepted slot part origin port h w tag hash =>
    leBytes 1 slot ++ leBytes 1 part ++ leBytes 1 origin ++ leBytes 1 port ++ leBytes 1 h ++ leBytes 1 w
      ++ zeros 2 ++ leBytes 8 tag.toNat ++ hash
  | .refused slot reason port tag detail hash =>
    leBytes 1 slot ++ leBytes 1 reason ++ leBytes 1 port ++ zeros 5 ++ leBytes 8 tag.toNat
      ++ leBytes 8 detail.toNat ++ zeros 24 ++ hash
  | .contextComplete b =>
    leBytes 1 b.part ++ leBytes 1 b.cause ++ leBytes 1 b.row ++ leBytes 1 b.col ++ zeros 4
      ++ leBytes 8 b.frames.toNat ++ countsBytes b.totals ++ zeros 8
  | .wrap bs => bs
  | .error b => errBytes b
  | .retirement b => retBytes b
  | .recovery b => recovBytes b
  | .dailies index count boot data =>
    leBytes 4 index ++ leBytes 4 count ++ leBytes 4 boot ++ leBytes 4 data.length ++ data
      ++ zeros (2048 - data.length)
  | .interval bs => bs
  | .identity bs => bs
  | .trace stage row col dropped es =>
    leBytes 1 stage ++ leBytes 1 row ++ leBytes 1 col ++ leBytes 1 es.length ++ leBytes 4 dropped ++ zeros 8
      ++ es.flatMap traceBytes
  | .cutComplete b =>
    leBytes 1 b.part ++ leBytes 1 b.status ++ leBytes 1 b.mask.toNat ++ zeros 5 ++ leBytes 8 b.frames.toNat
      ++ countsBytes b.totals ++ zeros 8
  | .lost n0 f l total =>
    leBytes 4 n0 ++ zeros 4 ++ leBytes 4 f ++ leBytes 4 l ++ leBytes 8 total ++ zeros 8

/-- A record's bytes with the sequence number it took at the port's head (Table 12.6). -/
def Record.bytes (r : Record) (seq : BitVec 32) : List Byte :=
  leBytes 1 r.body.typeCode ++ leBytes 1 r.body.units ++ leBytes 1 r.ctx.toNat ++ leBytes 1 r.epoch.toNat
    ++ leBytes 4 seq.toNat ++ leBytes 8 r.time.toNat ++ r.body.bytes

/-- The 32-bit epoch identity field: kind [1:0], source [15:8], serial [31:16] (Table 7.6 offset 24). -/
def EpochId.word (e : EpochId) : BitVec 32 :=
  BitVec.ofNat 32 (e.kind.toNat + e.source.toNat * 2 ^ 8 + e.serial.toNat * 2 ^ 16)

/-- A dailies log entry (R506). -/
def LogEntry.bytes (e : LogEntry) : List Byte :=
  leBytes 1 e.kind ++ zeros 1 ++ leBytes 1 e.ctx.toNat ++ leBytes 1 e.epoch.toNat ++ leBytes 4 e.number
    ++ leBytes 8 e.time.toNat ++ (e.payload ++ zeros (48 - e.payload.length)).take 48

/-- A dump (Table 15.10). -/
def Dump.bytes (d : Dump) : List Byte :=
  leBytes 1 d.status ++ leBytes 1 d.stage ++ leBytes 1 d.bank ++ leBytes 1 d.level ++ leBytes 4 d.first
    ++ leBytes 4 d.lines.length ++ leBytes 4 d.shot.toNat ++ leBytes 8 d.frame.toNat ++ leBytes 1 d.take.toNat
    ++ leBytes 1 d.ctx.toNat ++ leBytes 1 d.epoch.toNat ++ leBytes 1 d.head.length ++ zeros 4
    ++ leBytes 8 d.time.toNat ++ zeros 24 ++ d.lines.flatMap lineBytes
    ++ d.head.flatMap (fun j => leBytes 8 (j.line + 2 ^ 16 * j.ahead.toNat) ++ lineBytes j.old)

/-- The bytes a dump takes (Table 15.10). -/
def Dump.size (d : Dump) : Nat := 64 + 64 * d.lines.length + 72 * d.head.length

/-- A dailies header with its CRC and copy sequence number (Table 15.8). -/
def dailiesHeader (d : Dailies) (crc : BitVec 32) (seq : Nat) : List Byte :=
  leBytes 4 0x59414444 ++ leBytes 4 1 ++ leBytes 4 d.boot.toNat ++ leBytes 4 d.unsaved.toNat
    ++ leBytes 8 d.count ++ leBytes 4 d.used ++ leBytes 4 d.written ++ leBytes 4 d.droppedN
    ++ leBytes 4 crc.toNat ++ leBytes 4 seq ++ zeros 4052

/-- The set that a copy writes: header, log oldest first, used dump region (R508). -/
def dailiesSetBytes (d : Dailies) (seq : Nat) : List Byte :=
  let rest := d.log.flatMap LogEntry.bytes ++ d.dumps.flatMap Dump.bytes
  dailiesHeader d (crc32 (dailiesHeader d 0 seq ++ rest)) seq ++ rest

/-- The unit index of Table 12.16 for a unit. -/
def unitIndex : UnitId → BitVec 32
  | .engine _ p => BitVec.ofNat 32 p
  | .bank _ p => BitVec.ofNat 32 p
  | .bankCol _ p sub c => BitVec.ofNat 32 (p + sub * 2 ^ 6 + c * 2 ^ 10)
  | .bankRow _ p sub r => BitVec.ofNat 32 (p + sub * 2 ^ 6 + r * 2 ^ 10)
  | .spliceDir _ side rx => BitVec.ofNat 32 (side.code + 4 * rx.toNat)
  | .ringLane p lane => BitVec.ofNat 32 ((match p with | .east => 0 | .west => 1) + 2 + 4 * lane)
  | .detector _ d => BitVec.ofNat 32 d
  | _ => 0xFFFFFFFF

end Sys2Proof.Machine
end

