-- ==== Sys2Proof/Machine/Ops.lean ====
section
/-! DEFINITION. The named operations every meaning is written over: sparse memory, access to stages, partitions,
ports and rails, the grid, straps, forming and queueing records, dailies, error events and their tests,
retirement, and the ending of contexts. -/

namespace Sys2Proof.Machine

open Sys2Proof

/-! ### Sparse memory -/

/-- The value of a cell; an unlisted cell reads zero (R43, R48). -/
def cellGet {w : Nat} : Cells w → Nat → BitVec w
  | [], _ => 0
  | (a, v) :: t, k => if a = k then v else cellGet t k

/-- Write a cell and keep the canonical form: writing zero removes the entry. -/
def cellSet {w : Nat} : Cells w → Nat → BitVec w → Cells w
  | [], k, v => if v = 0 then [] else [(k, v)]
  | (a, x) :: t, k, v =>
    if k < a then (if v = 0 then (a, x) :: t else (k, v) :: (a, x) :: t)
    else if k = a then (if v = 0 then t else (k, v) :: t)
    else (a, x) :: cellSet t k v

/-- The canonical form above a key: keys strictly rising, no zero entry. -/
def cellsAbove {w : Nat} (lo : Nat) : Cells w → Bool
  | [] => true
  | (a, v) :: t => decide (lo ≤ a) && decide (v ≠ 0) && cellsAbove (a + 1) t

/-- The canonical form of sparse memory. -/
def Memory.wf {w : Nat} (c : Cells w) : Bool := cellsAbove 0 c

/-- Write cells from a key upward. -/
def cellSetList {w : Nat} : Cells w → Nat → List (BitVec w) → Cells w
  | c, _, [] => c
  | c, k, v :: vs => cellSetList (cellSet c k v) (k + 1) vs

/-- Read `n` cells from a key upward. -/
def cellGetList {w : Nat} (c : Cells w) : Nat → Nat → List (BitVec w)
  | _, 0 => []
  | k, n + 1 => cellGet c k :: cellGetList c (k + 1) n

/-- The key of byte 0 of a line of a physical bank: 4 MB a bank, 64 bytes a line (R306). -/
def lineKey (phys line : Nat) : Nat := phys * 2 ^ 22 + line * 64

/-! ### Straps and the grid -/

/-- The effective level of the strap with an index (Table 2.4). -/
def State.strap (s : State) (i : Nat) : Nat := s.straps.levels.getD i 0

/-- T_tick in 1/256 ns (Table 2.5). -/
def State.tTick (s : State) : Nat := 8000 * 256 * 2 ^ (s.strap 0)

/-- ALLOW, transient errors per unit per hour (Table 2.5). -/
def State.allow (s : State) : Nat := [1, 2, 3, 4, 6, 8, 12, 16].getD (s.strap 8) 3

/-- W, the continuity window in frames (Table 2.5). -/
def State.window (s : State) : Nat := 2 * 2 ^ (s.strap 7)

/-- Lines of scratchpad sampled by a dump; zero for code only (Table 2.5). -/
def State.dumpLines (s : State) : Nat := [0, 256, 1024, 4096].getD (s.strap 9) 0

/-- T_trip in degrees (Table 2.6). -/
def State.trip (s : State) : Int := 100 + (s.strap 21 : Nat)

/-- The cap at a CAP code in whole watts, rounded down; the minimum before the first grant (R80, R81). -/
def State.capNow (s : State) : Nat :=
  let lo := 1500 + 500 * s.strap 1
  let hi := 1500 + 500 * s.strap 2
  match s.slate.cap with
  | none => lo
  | some c => lo + (hi - lo) * c.toNat / 15

/-- Row and column of a stage (R15). -/
def rowOf (n : Nat) : Nat := n / 12
def colOf (n : Nat) : Nat := n % 12

/-- The stage rail that feeds a stage (R268). -/
def railOf (n : Nat) : Nat := 6 * (rowOf n / 2) + colOf n / 2

/-- The array segment, numbered as a rail from 24, that feeds a stage's scratchpad (R268, R275). -/
def segOf (n : Nat) : Nat := 24 + rowOf n / 2

/-- The stage across a side, or none for an edge block (R23). -/
def neighbour (n : Nat) : Side → Option Nat
  | .north => if rowOf n = 0 then none else some (n - 12)
  | .south => if rowOf n = 7 then none else some (n + 12)
  | .east => if colOf n = 11 then none else some (n + 1)
  | .west => if colOf n = 0 then none else some (n - 1)

/-- The stages of an h by w rectangle at an origin, in row-major order (R37). -/
def rectStages (origin h w : Nat) : List Nat :=
  (List.range h).flatMap (fun r => (List.range w).map (fun c => origin + 12 * r + c))

/-- The stages of a context's partition. -/
def Ctx.stages (c : Ctx) : List Nat := rectStages c.origin c.reel.h c.reel.w

/-- Row and column offset of a stage in a context's partition (R365). -/
def Ctx.offsets (c : Ctx) (n : Nat) : Nat × Nat := (rowOf n - rowOf c.origin, colOf n - colOf c.origin)

/-- Work of a stage belongs to the run-ahead epoch: it runs ahead of a frame in progress (R114, R120). -/
def Ctx.aheadWork (c : Ctx) (st : Stage) : Bool := st.seq.ahead && c.inFrame

/-- The frame that a stage's work belongs to (R115). -/
def Ctx.workFrame (c : Ctx) (st : Stage) : BitVec 48 := if c.aheadWork st then c.frame + 1 else c.frame

/-- The take that a stage's work belongs to: run-ahead work is of the next frame's first take. -/
def Ctx.workTake (c : Ctx) (st : Stage) : BitVec 4 := if c.aheadWork st then 0 else c.take

/-- The call sheet's record of a stage of the partition (Table 11.4). -/
def Ctx.stageRec (c : Ctx) (n : Nat) : Option StageRec :=
  c.reel.stages[(c.offsets n).1 * c.reel.w + (c.offsets n).2]?

/-! ### Access -/

/-- A stage by number. -/
def State.stage (s : State) (n : Nat) : Option Stage := s.stages[n]?

/-- Change a stage. -/
def State.modStage (s : State) (n : Nat) (f : Stage → Stage) : State :=
  { s with stages := modAt s.stages n f }

/-- Put a stage. -/
def State.putStage (s : State) (n : Nat) (st : Stage) : State := s.modStage n (fun _ => st)

/-- Change every stage of a list. -/
def State.modStages (s : State) (ns : List Nat) (f : Stage → Stage) : State :=
  ns.foldl (fun t n => t.modStage n f) s

/-- The context of a partition. -/
def State.ctx (s : State) (p : Nat) : Option Ctx := (s.parts[p]?).join

/-- Put a partition's context. -/
def State.putCtx (s : State) (p : Nat) (c : Option Ctx) : State := { s with parts := setAt s.parts p c }

/-- Change a partition's context. -/
def State.modCtx (s : State) (p : Nat) (f : Ctx → Ctx) : State :=
  { s with parts := modAt s.parts p (fun o => o.map f) }

/-- The context of a stage, with its partition number. -/
def State.ctxOf (s : State) (n : Nat) : Option (Nat × Ctx) :=
  match s.stage n with
  | none => none
  | some st =>
    match st.part with
    | none => none
    | some p => (s.ctx p).map (fun c => (p, c))

/-- Change every stage that still belongs to a partition. -/
def State.modPart (s : State) (p : Nat) (f : Stage → Stage) : State :=
  { s with stages := s.stages.map (fun st => if st.part = some p then f st else st) }

/-- Number of contexts that exist (R387). -/
def State.numCtx (s : State) : Nat := s.parts.countP Option.isSome

/-- Partition numbers. -/
def partNumbers : List Nat := List.range 8

/-- A host port. -/
def State.port (s : State) : Port → HostPort
  | .a => s.portA
  | .b => s.portB

/-- Change a host port. -/
def State.modPort (s : State) (p : Port) (f : HostPort → HostPort) : State :=
  match p with
  | .a => { s with portA := f s.portA }
  | .b => { s with portB := f s.portB }

/-- A ring port. -/
def State.ring (s : State) : RingPort → RingState
  | .east => s.ringE
  | .west => s.ringW

/-- Change a ring port. -/
def State.modRing (s : State) (p : RingPort) (f : RingState → RingState) : State :=
  match p with
  | .east => { s with ringE := f s.ringE }
  | .west => { s with ringW := f s.ringW }

/-- A rail or segment (R275 numbers segments from 24). -/
def State.rail (s : State) (x : Nat) : Rail := s.rails.getD x .reset

/-- Change a rail or segment. -/
def State.modRail (s : State) (x : Nat) (f : Rail → Rail) : State := { s with rails := modAt s.rails x f }

/-- The stages that a rail or segment feeds (R268). -/
def railStages (x : Nat) : List Nat :=
  (List.range numStages).filter (fun n => if x < 24 then railOf n = x else segOf n = x)

/-- A stage's splice end on a side. -/
def Stage.link (st : Stage) : Side → Link
  | .north => st.linkN
  | .east => st.linkE
  | .south => st.linkS
  | .west => st.linkW

/-- Change a stage's splice end. -/
def Stage.modLink (st : Stage) (side : Side) (f : Link → Link) : Stage :=
  match side with
  | .north => { st with linkN := f st.linkN }
  | .east => { st with linkE := f st.linkE }
  | .south => { st with linkS := f st.linkS }
  | .west => { st with linkW := f st.linkW }

/-- Change all four splice ends. -/
def Stage.modLinks (st : Stage) (f : Link → Link) : Stage :=
  Side.all.foldl (fun t d => t.modLink d f) st

/-- A stage's landing buffer on a side (R428). -/
def Stage.land (st : Stage) : Side → List (BitVec 2048)
  | .north => st.landNorth
  | .east => st.landEast
  | .south => st.landSouth
  | .west => st.landWest

/-- Put a landing buffer. -/
def Stage.putLand (st : Stage) (side : Side) (bs : List (BitVec 2048)) : Stage :=
  match side with
  | .north => { st with landNorth := bs }
  | .east => { st with landEast := bs }
  | .south => { st with landSouth := bs }
  | .west => { st with landWest := bs }

/-- An end of a splice: a stage's on one of its sides, or with `edge` the edge block's end of the boundary splice on that
side (R23, R213). -/
structure End where
  stage : Nat
  side  : Side
  edge  : Bool
  deriving DecidableEq, Repr

/-- The place of an edge block's end among `State.edges`; none for a side that no edge block lies across. -/
def edgeIndex (n : Nat) : Side → Option Nat
  | .north => if rowOf n = 0 then some (colOf n) else none
  | .south => if rowOf n = 7 then some (12 + colOf n) else none
  | .east => if colOf n = 11 then some (24 + rowOf n) else none
  | .west => if colOf n = 0 then some (32 + rowOf n) else none

/-- The other end of the splice. -/
def End.across (e : End) : End :=
  if e.edge then { e with edge := false }
  else match neighbour e.stage e.side with
    | none => { e with edge := true }
    | some m => { stage := m, side := e.side.opposite, edge := false }

/-- The state of a splice end. -/
def State.endLink (s : State) (e : End) : Option Link :=
  if e.edge then (edgeIndex e.stage e.side).bind (fun i => s.edges[i]?)
  else (s.stage e.stage).map (fun st => st.link e.side)

/-- Change a splice end. -/
def State.modEnd (s : State) (e : End) (f : Link → Link) : State :=
  if e.edge then match edgeIndex e.stage e.side with
    | none => s
    | some i => { s with edges := modAt s.edges i f }
  else s.modStage e.stage (fun st => st.modLink e.side f)

/-- Change the far end of the splice on a stage's side. -/
def State.modAcross (s : State) (n : Nat) (d : Side) (f : Link → Link) : State :=
  s.modEnd (End.across { stage := n, side := d, edge := false }) f

/-- Change the far ends of all four splices of a stage. -/
def State.modAllAcross (s : State) (n : Nat) (f : Link → Link) : State :=
  Side.all.foldl (fun t d => t.modAcross n d f) s

/-- Both ends of every splice of a stage leave aligned mode (R207, R208). -/
def State.unalign (s : State) (n : Nat) : State :=
  (s.modStage n (fun st => st.modLinks (fun l => { l with aligned := false }))).modAllAcross n
    (fun l => { l with aligned := false })

/-- Mark a splice side: no traffic is forwarded across it (R46). -/
def Link.mark (l : Link) : Link := { l with marked := true, aligned := false }

/-- The stage across is retired: the side is marked for good, and no traffic crosses it (R28). -/
def Link.bar (l : Link) : Link := { l.mark with barred := true, usable := false }

/-- Empty every landing buffer (R122, R490). -/
def Stage.emptyLand (st : Stage) : Stage :=
  { st with landNorth := [], landEast := [], landSouth := [], landWest := [] }

/-- A stage is enabled: neither retired nor held (R32). -/
def Stage.enabled (st : Stage) : Bool := st.st ≠ .retired && !st.held

/-- Number of enabled stages (R32). -/
def State.enabledCount (s : State) : Nat := s.stages.countP Stage.enabled

/-- BELOW_FLOOR_N asserted when fewer than 88 stages are enabled; it stays asserted (R34). -/
def State.checkFloor (s : State) : State :=
  { s with pins := { s.pins with belowFloor := s.pins.belowFloor || decide (s.enabledCount < 88) } }

/-! ### Time -/

/-- The timestamp: the low 64 bits of wafer time (R224). -/
def State.stamp (s : State) : Word := s.time.wafer.truncate 64

/-- The era (R224). -/
def State.era (s : State) : BitVec 8 := BitVec.ofNat 8 (s.time.wafer.toNat / 2 ^ 64)

/-- The least multiple of `m` that is at least `v`. -/
def ceilTo (m v : Nat) : Nat := (v + (m - 1)) / m * m

/-- The wafer time of the next tick: a whole multiple of T_tick, not before now, and not less than T_tick after
the previous tick (R229). -/
def State.nextTick (s : State) : WaferTime :=
  let lo := match s.time.lastTick with
    | none => s.time.wafer.toNat
    | some t => if t.toNat + s.tTick ≤ s.time.wafer.toNat then s.time.wafer.toNat else t.toNat + s.tTick
  BitVec.ofNat 72 (ceilTo s.tTick lo)

/-- The local time counter of a stage, in 1/256 ns (R232): the island copy of wafer time less what its lengthened cycles
have cost it since the last tick. -/
def Stage.counter (st : Stage) : Rat := (st.island.toNat : Rat) - st.clock.lag

/-- A corrected stamp of a stage (R232): W_b + (C - C_b) of its last boundary pair, in whole units, never later than true
time. -/
def State.correctedStamp (s : State) (n : Nat) : Word :=
  match s.stages[n]? with
  | none => 0
  | some st =>
    let w : Rat := (st.clock.pairW.toNat : Rat)
    BitVec.ofNat 64 (w + (st.counter - (w - st.clock.pairLag))).floor.toNat

/-- Draw a free value. -/
def State.draw (s : State) : State := { s with freeCtr := s.freeCtr + 1 }

/-! ### Records and dailies -/

/-- The bytes a record queue holds (R411). -/
def queueBytes (q : List QItem) : Nat :=
  (q.map (fun i => match i with | .item r => 16 * r.body.units | .drop _ => 0)).sum

/-- Join a dropped record to the marker at the end of the queue (R411). -/
def joinDrop : List QItem → List QItem
  | [] => [.drop 1]
  | [.drop n] => [.drop (n + 1)]
  | i :: t => i :: joinDrop t

/-- A record reaches a port's queue: kept when it fits in 256 KB, else dropped there (R411). -/
def HostPort.enqueue (p : HostPort) (r : Record) : HostPort :=
  if queueBytes p.queue + 16 * r.body.units ≤ 262144 then { p with queue := p.queue ++ [.item r] }
  else { p with queue := joinDrop p.queue }

/-- Form a record now and give it to both ports (R406). -/
def State.emit (s : State) (ctx epoch : BitVec 8) (body : RecBody) : State :=
  let r : Record := { ctx := ctx, epoch := epoch, time := s.stamp, body := body }
  { s with portA := s.portA.enqueue r, portB := s.portB.enqueue r }

/-- Form a record for one port only (R400, R422). -/
def State.emitTo (s : State) (p : Port) (body : RecBody) : State :=
  s.modPort p (fun q => q.enqueue { ctx := 0, epoch := 0, time := s.stamp, body := body })

/-- Append a dailies log entry; the log keeps its newest 16,384 entries and the unsaved flag is set (R506). -/
def State.logEntry (s : State) (kind : Nat) (ctx epoch : BitVec 8) (payload : List Byte) : State :=
  let d := s.dailies
  let e : LogEntry :=
    { kind := kind, ctx := ctx, epoch := epoch, number := d.count, time := s.stamp, payload := payload }
  let log := d.log ++ [e]
  { s with dailies := { d with count := d.count + 1, unsaved := true, log := log.drop (log.length - 16384) } }

/-- A module-level log entry. -/
def State.log (s : State) (kind : Nat) (payload : List Byte) : State := s.logEntry kind 0 0 payload

/-- Copy the dailies to the carrier flash area that does not hold the newest valid set; a failed copy leaves the
previous set, a completed one clears the unsaved flag (R508, R509). -/
def State.copyDailies (s : State) (ok : Bool) : State :=
  if !ok then s
  else
    let seqOf (o : Option DailiesSet) : Nat := match o with | none => 0 | some d => d.seq
    let n0 := seqOf s.flash.dailies0
    let n1 := seqOf s.flash.dailies1
    let seq := (if n0 < n1 then n1 else n0) + 1
    let set : DailiesSet := { boot := s.dailies.boot, seq := seq, data := dailiesSetBytes s.dailies seq }
    let fl := if n1 < n0 then { s.flash with dailies1 := some set } else { s.flash with dailies0 := some set }
    { s with flash := fl, dailies := { s.dailies with unsaved := false } }

/-- The newest valid dailies set (R509). -/
def State.newestSet (s : State) : Option DailiesSet :=
  match s.flash.dailies0, s.flash.dailies1 with
  | none, o => o
  | o, none => o
  | some a, some b => if a.seq < b.seq then some b else some a

/-! ### What a host port sends -/

/-- A port can send: its link is up and its function is in D0 (R540). -/
def HostPort.canSend (q : HostPort) : Bool := q.up && !q.d3hot

/-- A write falls due: issued, or held in order while the port cannot send (R395, R540). -/
def HostPort.post (q : HostPort) (o : HostOut) : HostPort :=
  if q.canSend then { q with sent := q.sent ++ [o] } else { q with held := q.held ++ [o] }

/-- An MSI-X vector falls due: sent, or held once as its pending bit (R412, R540). -/
def HostPort.msix (q : HostPort) (v : Nat) : HostPort :=
  if q.canSend then { q with sent := q.sent ++ [.msix v] }
  else if q.msixPend.contains v then q
  else { q with msixPend := q.msixPend ++ [v] }

/-! ### Crossings -/

/-- The recorded condition of a crossing; a crossing without one is idle (R217, R218). -/
def State.xing (s : State) (xid : BitVec 16) : Xing :=
  (s.xings.find? (fun x => x.xid = xid)).getD
    { xid := xid, req := false, wait := false, pending := false, age := 0, failed := false, flag := false, count := 0 }

/-- Put a crossing's condition. -/
def State.putXing (s : State) (x : Xing) : State :=
  { s with xings := x :: s.xings.filter (fun y => y.xid ≠ x.xid) }

/-- An event of a crossing is merged with the one its source holds (R217): the overrun flag, and a count that saturates. -/
def Xing.merge (x : Xing) : Xing := { x with flag := true, count := if x.count = 0xFFFF then x.count else x.count + 1 }

/-- An event arrives at the source of a crossing (R217, R218): it raises REQ, or, while a handshake or the wait for ACK
runs, holds the event, or merges it with the one held. -/
def Xing.raise (x : Xing) : Xing :=
  if x.req || x.wait then (if x.pending then x.merge else { x with pending := true }) else { x with req := true }

/-- A handshake of a crossing completed: its run of timeouts ends, and the event held is raised (R217, R218). -/
def Xing.complete (x : Xing) : Xing := { x with age := 0, req := x.pending, wait := false, pending := false }

/-- A phase of a crossing timed out: the source returns to idle, and its event was not delivered (R218). -/
def Xing.timeout (x : Xing) : Xing := { x with age := x.age + 1, req := false, wait := true }

/-- Events for several stages arrive on their crossings of a kind. -/
def State.raiseXings (s : State) (kind : Nat) (ns : List Nat) : State :=
  ns.foldl (fun t n => t.putXing (t.xing (BitVec.ofNat 16 (n * 256 + kind * 16))).raise) s

/-- A handshake of a crossing completed (R217, R218); one that was idle is not recorded. -/
def State.xingOk (s : State) (xid : BitVec 16) : State :=
  if s.xings.any (fun x => x.xid = xid) then s.putXing (s.xing xid).complete else s

/-- The crossing identifier of a stage (Table 6.6). -/
def stageXid (n kind inst : Nat) : BitVec 16 := BitVec.ofNat 16 (n * 256 + kind * 16 + inst)

/-- Site, kind and instance of a crossing identifier (Table 6.6). -/
def xidSite (xid : BitVec 16) : Nat := xid.toNat / 256
def xidKind (xid : BitVec 16) : Nat := xid.toNat / 16 % 16
def xidInst (xid : BitVec 16) : Nat := xid.toNat % 16

/-- The instances of a kind of crossing (Table 6.6); the reserved kind has none. -/
def xidInsts (kind : Nat) : Nat :=
  if [0x0, 0x1, 0x4, 0x8, 0xD, 0xE].contains kind then 4
  else if kind = 0xB ∨ kind = 0xC then 2
  else if kind = 0xF then 0
  else 1

/-- An identifier with no reserved value (R219). -/
def xidOk (xid : BitVec 16) : Bool := decide (xidSite xid < 0x64) && decide (xidInst xid < xidInsts (xidKind xid))

/-- The identifier of a four-phase crossing (Table 6.6: kinds 0x2 to 0x6). -/
def xidFour (xid : BitVec 16) : Bool := xidOk xid && decide (2 ≤ xidKind xid) && decide (xidKind xid ≤ 6)

/-- The identifier of a double-sampled crossing (Table 6.6: kinds 0x7 to 0xD). -/
def xidDouble (xid : BitVec 16) : Bool := xidOk xid && decide (7 ≤ xidKind xid) && decide (xidKind xid ≤ 13)

/-! ### Trace -/

/-- A marker always has its space; an ordinary entry is dropped and counted when only the space of two markers is
left of the 2,048 entries (R50). -/
def Stage.pushTrace (st : Stage) (marker : Bool) (e : TraceEntry) : Stage :=
  if marker || decide (st.traceBuf.length < 2046) then { st with traceBuf := st.traceBuf ++ [e] }
  else { st with traceDrop := st.traceDrop + 1 }

/-- Write a trace entry of a stage that belongs to a context (R52), for the frame its work belongs to. -/
def State.traceAt (s : State) (n : Nat) (marker : Bool) (kind : Nat) (stamp : Word) (payload : Nat) : State :=
  match s.ctxOf n with
  | none => s
  | some (_, c) =>
    s.modStage n (fun st => st.pushTrace marker
      { kind := kind, take := c.workTake st, frame := c.workFrame st, stamp := stamp
        payload := BitVec.ofNat 128 payload })

/-- Send what a stage's trace buffer holds, up to 126 entries a record (R423). -/
def State.flushTrace (s : State) (n fuel : Nat) : State :=
  match fuel with
  | 0 => s
  | fuel + 1 =>
    match s.stage n, s.ctxOf n with
    | some st, some (_, c) =>
      match st.traceBuf with
      | [] => s
      | _ :: _ =>
        let es := st.traceBuf.take 126
        let (r, k) := c.offsets n
        let s1 := s.emit c.id c.epoch (.trace n r k (capAt 0xFFFFFFFF st.traceDrop) es)
        (s1.modStage n (fun t => { t with traceBuf := t.traceBuf.drop 126, traceDrop := 0 })).flushTrace n fuel
    | _, _ => s

/-! ### Errors and their tests -/

/-- The body of an error event (Table 12.13) from the report and the context it belongs to; no reserved crossing
identifier is written (R219). -/
def State.errBody (s : State) (e : ErrReport) (action : Nat) (overrun : BitVec 16) : ErrBody :=
  let co := s.ctxOf e.stage
  { kind := e.kind, action := action, stage := e.stage, engine := e.engine
    unit := match e.unit with | none => 0xFFFFFFFF | some u => unitIndex u
    xid := if xidOk e.xid then e.xid else 0xFFFF, overrun := overrun, shot := e.shot
    frame := match co with
      | none => 0
      | some (_, c) => if e.ahead && c.inFrame then c.frame + 1 else c.frame
    take := match co with
      | none => 0
      | some (_, c) => if e.ahead && c.inFrame then 0 else c.take
    port := if e.kind = 0x17 ∨ e.kind = 0x18 then e.stage % 2 else 0xFF, aux := e.aux }

/-- Write an error event record to every bound port, and its dailies entry (R451, Table 15.9). -/
def State.errorEvent (s : State) (e : ErrReport) (action : Nat) (overrun : BitVec 16) : State :=
  let b := s.errBody e action overrun
  let (id, ep) := match s.ctxOf e.stage with
    | none => ((0 : BitVec 8), (0 : BitVec 8))
    | some (_, c) => (c.id, c.epoch)
  (s.emit id ep (.error b)).logEntry 0x01 id ep (errBytes b)

/-- A module-level error event of a host port (kinds 0x17 and 0x18): the port and the BAR0 offset. -/
def State.portEvent (s : State) (kind : Nat) (p : Port) (offset : Nat) : State :=
  let b : ErrBody :=
    { kind := kind, action := 0, stage := 0xFF, engine := 0xFF, unit := 0xFFFFFFFF, xid := 0xFFFF, overrun := 0
      shot := 0xFFFFFFFF, frame := 0, take := 0, port := p.code, aux := offset }
  (s.emit 0 0 (.error b)).logEntry 0x01 0 0 (errBytes b)

/-- A report of an error of one stage with no engine, crossing or shot. -/
def stageErr (kind n : Nat) (unit : Option UnitId) : ErrReport :=
  { kind := kind, stage := n, engine := 0xFF, unit := unit, xid := 0xFFFF, shot := 0xFFFFFFFF, ahead := false
    aux := 0 }

/-- A module-level report: a rail or segment, or no unit at all. -/
def moduleErr (kind aux : Nat) (unit : Option UnitId) : ErrReport :=
  { kind := kind, stage := 0xFF, engine := 0xFF, unit := unit, xid := 0xFFFF, shot := 0xFFFFFFFF, ahead := false
    aux := aux }

/-- The report that names a crossing (R219): its site is the identifier's high byte. -/
def crossingErr (kind : Nat) (xid : BitVec 16) (unit : Option UnitId) : ErrReport :=
  { kind := kind, stage := xid.toNat / 256, engine := 0xFF, unit := unit, xid := xid, shot := 0xFFFFFFFF
    ahead := false, aux := 0 }

/-- The stage that holds a unit. -/
def unitStage : UnitId → Option Nat
  | .engine n _ => some n
  | .bank n _ => some n
  | .bankCol n _ _ _ => some n
  | .bankRow n _ _ _ => some n
  | .scriptRow n _ => some n
  | .clockPath n => some n
  | .spliceDir n _ _ => some n
  | .channel n _ => some n
  | .crossing xid => if xid.toNat / 256 < 96 then some (xid.toNat / 256) else none
  | .rail _ => none
  | .sense n => some n
  | .ringLane _ _ => none
  | .detector n _ => some n

/-- The pending test of a unit (R452). -/
def State.testOf (s : State) (u : UnitId) : Option Test := s.tests.find? (fun t => t.unit = u)

/-- Start the targeted self-test of a unit, or join its pending one (R452). -/
def State.joinTest (s : State) (u : UnitId) (kind : Nat) (wait : TestWait) : State :=
  match s.testOf u with
  | some _ =>
    { s with tests := s.tests.map (fun t =>
        if t.unit = u then { t with kinds := t.kinds ++ [kind], joined := t.joined + 1 } else t) }
  | none =>
    { s with tests := s.tests ++
        [{ unit := u, kinds := [kind], joined := 1, running := false, wait := wait, copied := false, lanes := []
           moved := false, repl := none, wide := false
           floor := match unitStage u with
             | none => 0
             | some n => match s.ctxOf n with
               | none => 0
               | some (_, c) => c.reel.floor }] }

/-- Remove a unit's test. -/
def State.dropTest (s : State) (u : UnitId) : State :=
  { s with tests := s.tests.filter (fun t => t.unit ≠ u) }

/-- The transient count of a unit in the current hour (R453). -/
def State.transientOf (s : State) (u : UnitId) : Nat :=
  match s.transients.find? (fun t => t.1 = u) with
  | none => 0
  | some t => t.2

/-- Set the transient count of a unit (R452). -/
def State.setTransient (s : State) (u : UnitId) (n : Nat) : State :=
  { s with transients := (u, n) :: s.transients.filter (fun t => t.1 ≠ u) }

/-! ### The ending of contexts -/

/-- The epoch identity in force, as records carry it (R227). -/
def State.epochWord (s : State) : BitVec 32 := s.time.epochId.word

/-- What an ending context latches at a tick (R287, R418). -/
def State.endAt (s : State) (stamp : Word) (tick : BitVec 64) (d : Bool × Nat × Nat × Nat) : Ended :=
  { cut := d.1, cause := d.2.1, row := d.2.2.1, col := d.2.2.2, stamp := stamp, tick := tick
    energy := s.gaffer.latched, epochId := s.epochWord, era := s.era }

/-- The end of a context that takes effect at the first tick to come, latched where the records are formed before
that tick's row (log entry 9): the energy is the count that this tick latches as it stands now (R287). -/
def State.endNextTick (s : State) (d : Bool × Nat × Nat × Nat) : Ended :=
  { s.endAt (s.nextTick.truncate 64) (s.time.tickCount + 1) d with energy := s.gaffer.energy }

/-- A tick at which `k` contexts exist, in the largest number of contexts and the concurrency sum of one that has not
ended (Table 12.12). -/
def Ctx.noteTick (c : Ctx) (k : Nat) : Ctx :=
  if c.ended.isSome then c
  else { c with
    maxCtx := if c.maxCtx < k then k else c.maxCtx
    sumCtx := if c.begun then c.sumCtx + k else c.sumCtx }

/-- The contexts of every partition at a tick (Table 12.12). -/
def State.noteConcurrency (s : State) : State :=
  { s with parts := s.parts.map (fun o => o.map (fun c => c.noteTick s.numCtx)) }

/-- A context fails: no further shot issues on its stages, and it ends at the next tick with a cause and the
stage that caused it (R118, R149, R316, R462). A context already ending keeps its end, and one being cut ends by its
cut (R418; log entry 13). -/
def State.failCtx (s : State) (p cause row col : Nat) : State :=
  match s.ctx p with
  | none => s
  | some c =>
    if c.ended.isSome || c.endDue.isSome then s
    else
      let s1 : State := s.modPart p (fun st => { st with stopped := true })
      if c.cut.isSome then s1
      else s1.modCtx p (fun c => { c with endDue := some (false, cause, row, col), rollback := none })

/-- Fail the context of a stage, naming that stage's offsets. -/
def State.failStageCtx (s : State) (n cause : Nat) : State :=
  match s.ctxOf n with
  | none => s
  | some (p, c) => s.failCtx p cause (c.offsets n).1 (c.offsets n).2

/-- Save the chain head in the copy that does not hold the newest (R420). -/
def Flash.saveChain (f : Flash) (seq : Nat) (head : List Byte) : Flash :=
  let seqOf (bs : List Byte) : Nat := match chainOf bs with | none => 0 | some c => c.1 + 1
  if seqOf f.chain1 < seqOf f.chain0 then { f with chain1 := chainBytes seq head }
  else { f with chain0 := chainBytes seq head }

/-- Bytes 16 to 191 of a wrap record (Table 12.12). -/
def State.wrapHead (s : State) (p : Nat) (c : Ctx) (e : Ended) (notSaved : Bool) : List Byte :=
  let unsigned := s.strap 22 = 1
  let status := if e.cut then 1 else if e.cause ≤ 0x01 then 0 else 2
  let start := if c.begun then c.startStamp else e.stamp
  let startId := if c.begun then c.startEpoch else e.epochId
  let startEra := if c.begun then c.startEra else e.era
  let ticks := if c.begun then e.tick.toNat - c.startTick.toNat else 0
  let energy := if c.begun then e.energy.toNat - c.startEnergy.toNat else 0
  leBytes 1 1 ++ leBytes 1 p ++ leBytes 1 status ++ leBytes 1 c.maxCtx ++ leBytes 1 c.reel.h
    ++ leBytes 1 c.reel.w ++ leBytes 1 c.origin
    ++ leBytes 1 ((decide unsigned).toNat + 2 * notSaved.toNat)
    ++ leBytes 4 startId.toNat ++ leBytes 4 e.epochId.toNat ++ leBytes 1 startEra.toNat
    ++ leBytes 1 e.era.toNat ++ zeros 6 ++ leBytes 8 s.serial.toNat ++ c.reel.hash
    ++ leBytes 8 start.toNat ++ leBytes 8 e.stamp.toNat ++ leBytes 8 c.frame.toNat ++ leBytes 8 c.slips
    ++ leBytes 8 c.retakes ++ leBytes 4 c.standIns ++ zeros 4 ++ leBytes 8 energy ++ leBytes 8 ticks
    ++ leBytes 8 c.sumCtx ++ leBytes 8 s.chain.next ++ s.chain.head

/-- A wrap record's bytes 16 to 255: signed, or with a zero signature when unsigned (R421). -/
def State.wrapSigned (s : State) (head : List Byte) : List Byte :=
  if s.strap 22 = 1 then head ++ zeros 64
  else
    let (r, t) := ecdsaSign s.signKey.toNat head
    head ++ leBytes 32 r ++ leBytes 32 t

/-- Form a wrap record: sign it, save its hash as the chain head or keep it with the flag set, and write it to the
ports (R419, R420). A kept head is saved before the new one. -/
def State.wrapRecord (s : State) (p : Nat) (c : Ctx) (e : Ended) (saveOk : Bool) : State :=
  let bytes := s.wrapSigned (s.wrapHead p c e (!saveOk))
  let head := sha256 bytes
  let fl :=
    if saveOk then
      (if s.chain.kept then s.flash.saveChain (s.chain.next - 1) s.chain.head else s.flash).saveChain
        s.chain.next head
    else s.flash
  let s1 := { s with flash := fl, chain := { next := s.chain.next + 1, head := head, kept := !saveOk } }
  s1.emit c.id c.epoch (.wrap bytes)

/-- The context-complete or cut-complete record of an ended context (R418). -/
def State.endRecord (s : State) (p : Nat) (c : Ctx) (e : Ended) : State :=
  if e.cut then
    s.emit c.id c.epoch (.cutComplete
      { part := p, status := 0, mask := (c.cut.map Cut.mask).getD 0, frames := c.frame, totals := c.totals })
  else
    s.emit c.id c.epoch (.contextComplete
      { part := p, cause := e.cause, row := e.row, col := e.col, frames := c.frame, totals := c.totals })

/-- Both ending records of a context (R419). -/
def State.endRecords (s : State) (p : Nat) (c : Ctx) (e : Ended) (saveOk : Bool) : State :=
  (s.endRecord p c e).wrapRecord p c e saveOk

/-- Latch a stage's return to no partition (R43, R387). -/
def Stage.unassign (st : Stage) : Stage :=
  { st with part := none, releasing := false, stopped := false }

/-- What the ports still owe of a context's commits outlasts it (R414). -/
def State.keepLate (s : State) (p : Nat) : State :=
  match s.ctx p with
  | none => s
  | some c =>
    [Port.a, Port.b].foldl (fun t q => t.modPort q (fun h => { h with
      late := h.late ++ ((c.outs.filter (fun o => decide (o.2.1 = q))).map (fun o => (p, c.id, o.2.2))).dedup })) s

/-- End every context at once with a cause and no wrap record: a stop, a supervisor mismatch or a reference fault
(R26, R136, R297, R419). -/
def State.endAllNow (s : State) (cause : Nat) : State :=
  partNumbers.foldl (fun t p =>
    match t.ctx p with
    | none => t
    | some c =>
      let e := t.endAt t.stamp t.time.tickCount (false, cause, 0xFF, 0xFF)
      let t1 := if c.recorded then t else t.endRecord p { c with cut := none } e
      (((t1.keepLate p).modStages c.stages Stage.unassign).putCtx p none)) s

/-! ### Escalation -/

/-- The level in progress for a partition's recovery record: partitions mask bit. -/
def partMask (p : Nat) : BitVec 8 := BitVec.ofNat 8 (2 ^ p)

/-- A recovery record and its dailies entry (R498). -/
def State.recovery (s : State) (lv : Level) (outcome : Nat) (parts : BitVec 8) : State :=
  let b : RecovBody :=
    { level := lv.level, outcome := outcome, trigger := lv.trigger, parts := parts, stage := lv.stage
      start := lv.start, stop := s.stamp }
  (s.emit 0 0 (.recovery b)).log 0x0B (recovBytes b)

/-- The stage a partition reset dumps: that of a hang, or the stage whose error entered the level, with no shot named
(R498, R501 step 4, R507). -/
def Ctx.nameStage (c : Ctx) (stage : Nat) : Option Named :=
  match c.named with
  | some nm => some nm
  | none => if stage < 96 then 
      some { stage := stage, engine := 0xFF, shot := 0xFFFFFFFF, bank := 0, first := 0, dumped := true }
    else none

/-- Entry to escalation level 3 of one partition: issue stops, the context epoch rises, and the context is to end
at the next tick (R495, R497, R501). A second entry merges. -/
def State.enterLevel3 (s : State) (p trigger stage : Nat) : State :=
  match s.ctx p with
  | none => s
  | some c =>
    match c.level with
    | some lv => if 3 ≤ lv.level then s else
        let s1 := s.recovery lv 1 (partMask p)
        (s1.modCtx p (fun c => { c with
          level := some { level := 3, trigger := lv.trigger, start := s.stamp, stage := lv.stage }
          epoch := c.epoch + 1
          rollback := none
          cut := c.cut.map (fun k => { k with mask := k.mask ||| 0x20 })
          endDue := if c.ended.isSome || c.endDue.isSome then c.endDue
            else some (c.cut.isSome, 0x22, 0xFF, 0xFF) })).modPart p (fun st => { st with stopped := true })
    | none =>
        (s.modCtx p (fun c => { c with
          level := some { level := 3, trigger := trigger, start := s.stamp, stage := stage }
          named := c.nameStage stage
          epoch := c.epoch + 1
          rollback := none
          cut := c.cut.map (fun k => { k with mask := k.mask ||| 0x20 })
          endDue := if c.ended.isSome || c.endDue.isSome then c.endDue
            else some (c.cut.isSome, 0x22, if stage < 96 then (c.offsets stage).1 else 0xFF,
              if stage < 96 then (c.offsets stage).2 else 0xFF) })).modPart p
          (fun st => { st with stopped := true })

/-! ### The fmax ledger -/

/-- The ledger entries of the module's stages (Table 4.3); a derate that waits for its tick counts (R148). -/
def State.ledgerEntries (s : State) : List LedgerEntry :=
  s.stages.zipIdx.map (fun (st, n) =>
    { fused := (Config.fusedFmax n).toNat, usable := st.fmaxDue.getD st.usable, derates := st.derates
      fmTrans := st.fmTrans, reserved := 0, lastDay := st.lastDerate })

/-- The ledger written to the copy not in use, with its sequence number raised by one (R146). -/
def State.saveLedger (s : State) : State :=
  let put (one : Bool) (seq : Nat) : State :=
    let l : Ledger := { seq := seq, days := s.time.dayCount, entries := s.ledgerEntries }
    { s with flash := if one then { s.flash with ledger1 := l.bytes } else { s.flash with ledger0 := l.bytes } }
  match ledgerInUse s.flash with
  | some (l, one) => put (!one) (l.seq + 1)
  | none => put false 1

/-- The ledger of this boot has been read (boot phase 3), so that there is one to write (R147, Table 16.3). -/
def State.ledgerRead (s : State) : Bool := s.pins.bootDone || decide (3 < s.pins.bootPhase)

/-! ### Retirement -/

/-- The retirement and repair-map record of the module's present maps (R36, R221). -/
def State.retRecord (s : State) : RetRecord :=
  { seq := 0
    stages := s.stages.map (fun st =>
      { code := if st.st = .retired then 3 else 2, engineMap := st.engineMap, bankMap := st.bankMap
        freeEng := st.freeEng, freeBank := st.freeBank, repairs := st.repairs, masked := st.masked
        laneMaps := Side.all.flatMap (fun d => [(st.link d).txMap, (st.link d).rxMap])
        laneGens := Side.all.flatMap (fun d => [(st.link d).txGen, (st.link d).rxGen]) })
    edges := s.edges.map (fun l => (l.txMap, l.rxMap, l.txGen, l.rxGen))
    ringEast := s.ringE.lasting, ringWest := s.ringW.lasting }

/-- The sequence of a copy of the retirement record; a copy never rewritten holds the factory record. -/
def retSeq (o : Option RetRecord) : Nat := match o with | none => 0 | some r => r.seq

/-- Store the retirement record in the copy that does not hold the newest (R36, R529). -/
def State.saveRetired (s : State) : State :=
  let f := s.flash
  let r := { s.retRecord with seq := (if retSeq f.retire0 < retSeq f.retire1 then retSeq f.retire1
    else retSeq f.retire0) + 1 }
  { s with flash := if retSeq f.retire1 < retSeq f.retire0 then { f with retire1 := some r }
    else { f with retire0 := some r } }

/-- Write a retirement record for a unit after storing the retirement (R461). -/
def State.retirement (s : State) (b : RetBody) : State :=
  let s1 := s.saveRetired
  let (id, ep) := match s1.ctxOf b.stage with
    | none => ((0 : BitVec 8), (0 : BitVec 8))
    | some (_, c) => (c.id, c.epoch)
  s1.emit id ep (.retirement b)

/-- A splice end whose stage loses power: its line, its FIFO and its pointers start anew and it takes no traffic; its
lights-out mark, its maps and its verdicts are the island's and stay (R27, R211). -/
def Link.unpower (l : Link) : Link :=
  { l with
    trim := 64, phase := .reset, residual := 0, trimWait := false, aligned := false, usable := false, fifo := []
    wptr := 0, rptr := 0, pos := 0, txSeq := 0, rxSeq := 0, unacked := [], sent := 0, again := 0, nak := false, replay := false
    failRun := 0 }

/-- What a stage that loses power keeps: the island (R27, Table 1.4). -/
def Stage.losePower (st : Stage) : Stage :=
  { st.modLinks Link.unpower with
    clock := { Clock.off with
      overruns := st.clock.overruns, limitHit := st.clock.limitHit, marginRun := st.clock.marginRun
      supStep := st.clock.supStep, supOld := st.clock.supOld }
    seq := .start, flights := [], scratch := [], journal := [], acc := [], resid := [], script := []
    scriptLen := 0
    staged := [], landNorth := [], landEast := [], landSouth := [], landWest := []
    slackNow := none, slackEof := none, slackTick := none
    traceBuf := [], traceDrop := 0, power := none, ready := false, closing := none }

/-- The cause with which a stage's context fails when the stage is retired (R49, R462): a stage whose power-up is still
in progress, or which waits ready for its tick, is retired at power-up. -/
def Stage.retireCause (st : Stage) (cause : Nat) : Nat := if st.power.isSome || st.ready then 0x11 else cause

/-- Retire a stage at once: its context fails with a cause, its neighbours mark their sides for good (R28), the retirement
is stored and recorded with class 0x07, and the service floor is judged (R31, R34, R461, R462). -/
def State.retireStage (s : State) (n reason kind cause : Nat) : State :=
  match s.stage n with
  | none => s
  | some st =>
    if st.st = .retired then s
    else
      let s1 := s.failStageCtx n (st.retireCause cause)
      let s2 := (s1.modStage n (fun t => { t.losePower with st := .retired, held := false })).modAllAcross n Link.bar
      let s3 := s2.retirement
        { cls := 0x07, stage := n, reason := reason, kind := kind, unit := BitVec.ofNat 32 n, repl := 0xFFFFFFFF
          left := 0 }
      s3.checkFloor

/-- Withdraw a stage as held: unlit, out of placement, with a record of class 0x09 (R32, R473). Its neighbours' sides
carry the marks of an unlit stage. -/
def State.holdStage (s : State) (n kind : Nat) : State :=
  match s.stage n with
  | none => s
  | some st =>
    if st.st = .retired || st.held then s
    else
      let s1 := (s.modStage n (fun t => { t.losePower with st := .unlit, held := true })).modAllAcross n Link.mark
      let s2 := s1.retirement
        { cls := 0x09, stage := n, reason := 0, kind := kind, unit := BitVec.ofNat 32 n, repl := 0xFFFFFFFF
          left := 0 }
      s2.checkFloor

end Sys2Proof.Machine
end

