-- ==== Sys2Proof/Machine/Flags.lean ====
section
/-! DEFINITION. What the module shows on its shared pins, computed from the state (spec/02_control_plane.md
Table 2.13, Table 2.14, Table 2.15), and the conditions that commands test. -/

namespace Sys2Proof.Machine

open Sys2Proof

/-- RESET_N asserted or PWR_GOOD low: state 0 (Table 2.15). -/
def State.inReset (s : State) : Bool := !s.pins.resetN || !s.pins.pwrGood

/-- A partition reset or chip compute reset is in progress (Table 2.15, precedence 5). -/
def State.recovering (s : State) : Bool :=
  s.level4.isSome || s.parts.any (fun o => match o with
    | none => false
    | some c => match c.level with
      | none => false
      | some lv => decide (lv.level = 3))

/-- STATE[2:0]: the code of the highest-precedence condition that holds (R71, Table 2.15). -/
def State.code (s : State) : Nat :=
  if s.inReset then 0
  else if s.pins.stop.isSome then 6
  else if s.pins.failed then 7
  else if s.pins.booting then 1
  else if s.recovering then 5
  else if s.pins.parked then 4
  else if 0 < s.numCtx then 3
  else 2

/-- FAULT_N asserted (Table 2.14): stopped or failed, or a stage held; in reset only a latched stop keeps it. -/
def State.faultN (s : State) : Bool :=
  if s.inReset then s.pins.stop.isSome
  else s.code = 6 || s.code = 7 || s.stages.any Stage.held

/-- BELOW_FLOOR_N, THERM_WARN_N, PWR_CYCLE_REQ_N and BYPASS_OPEN_N asserted: released in reset (Table 2.14). -/
def State.belowFloorN (s : State) : Bool := !s.inReset && s.pins.belowFloor
def State.thermWarnN (s : State) : Bool := !s.inReset && s.pins.thermWarn
def State.pwrCycleReqN (s : State) : Bool := !s.inReset && s.pins.pwrCycleReq
def State.bypassOpenN (s : State) : Bool := !s.inReset && s.pins.bypassOpen

/-- SLATE_GNT_x (Table 2.13). -/
def State.grant (s : State) (p : Port) : Bool := s.slate.holder = some p

/-- TICK_OUT: high for 25 reference cycles from each tick after boot (R230). -/
def State.tickOutLevel (s : State) : Bool :=
  s.pins.bootDone && (match s.time.lastTick with
    | none => false
    | some t => decide (s.time.wafer.toNat - t.toNat < 25 * 1024))

/-- PPS is enabled and this module's role disciplines to it (section 7.5, Table 7.3); a module with a duplicate ID
runs as a standalone one (R447). -/
def State.isSlave (s : State) : Bool := s.strap 10 = 1 && !s.dupId
def State.isMaster (s : State) : Bool := s.strap 10 = 0 && !s.dupId
def State.ppsActive (s : State) : Bool := !s.isSlave && s.strap 14 ≠ 0

/-- The AVSBus interfaces that the strapped map uses (Table 2.12). -/
def State.avsCount (s : State) : Nat := [2, 3, 4, 6].getD (s.strap 20) 2

/-- An AVSBus interface is used by the strapped map; one that is not holds its clock and data low (R515). -/
def State.avsUsed (s : State) (i : Nat) : Bool := decide (i < s.avsCount)

/-- The AVSBus interface and rail selector of a stage rail, or of an array segment numbered from 24 (R269, Table 2.12). -/
def State.avsAddr (s : State) (x : Nat) : Nat × Nat :=
  if x < 24 then (x / (24 / s.avsCount), x % (24 / s.avsCount)) else (0, 12 + (x - 24))

/-- The greatest width of the host ports in lanes (Table 2.11). -/
def State.hostLanes (s : State) : Nat := [16, 8, 4].getD (s.strap 19 / 3) 16

/-- The lanes of a ring port in use before any is retired, 0 with the rings disabled (Table 2.11). -/
def State.ringLanes (s : State) : Nat := [16, 12, 0].getD (s.strap 19 % 3) 16

/-- Droop margin loss in percent of one stage cycle (Table 2.5). -/
def State.droopPct (s : State) : Nat := [3, 5, 7, 9].getD (s.strap 4) 5

/-- Length of the start-of-frame ramp in stage cycles, and its engine groups (Table 2.8). -/
def State.rampCycles (s : State) : Nat := 32 * (s.strap 6 % 4 + 1)
def State.rampGroups (s : State) : Nat := if s.strap 6 < 4 then 4 else 8

/-- The active edge of PPS_IN is the falling one (Table 2.9). -/
def State.ppsFalling (s : State) : Bool := decide (5 ≤ s.strap 14)

/-- The minimum pulse width of PPS_IN in ns (Table 2.9). -/
def State.ppsMinWidth (s : State) : Nat := 100 * 10 ^ ((s.strap 14 - 1) % 4)

/-- STRAP_HYST in mV (Table 2.5). -/
def State.hysteresis (s : State) : Nat := [10, 20, 40].getD (s.strap 15) 10

/-- STRAP_LINKS enables the rings (Table 2.11). -/
def State.ringsEnabled (s : State) : Bool := s.strap 19 % 3 ≠ 2

/-- Module ID (Table 2.6). -/
def State.moduleId (s : State) : Nat := 16 * s.strap 11 + s.strap 12

/-- Every sensor of a stage that is not retired reads below a bound (R292, R298). -/
def State.sensorsBelow (s : State) (bound : Int) : Bool :=
  s.stages.all (fun st => decide (st.st = .retired) || st.temps.all (fun t => decide (t < bound)))

/-- Shots issue: boot is over and no stop or failure holds issue. -/
def State.live (s : State) : Bool := s.pins.bootDone && !s.pins.issueStopped && !s.inReset

end Sys2Proof.Machine
end

