-- ==== Sys2Proof/Machine/TimeOps.lean ====
section
/-! DEFINITION. Shared operations of the time base and the interval unit: corrections, discipline event, time-step and
calibration records, stamps and armed measurements (spec/07_time_base.md R224 to R243, R255 to R265). -/

namespace Sys2Proof.Machine

open Sys2Proof

/-! ### Corrections -/

/-- A correction within the range of R133, in ppb. -/
def clampPpb (y : Rat) : Rat := if y < -2000 then -2000 else if 2000 < y then 2000 else y

/-- The nearest integer to a rational. DESIGN CHOICE (log entry 24): a tie goes up. -/
def nearest (x : Rat) : Int := (x + 1 / 2).floor

/-- a, the ageing rate in ppb per day (Table 2.6). -/
def State.ageing (s : State) : Rat := ((s.strap 13 : Nat) : Rat) / 4 - 2

/-- The ageing correction y_age = -a (D + H/24) ppb, clamped (R236). -/
def State.yAge (s : State) : Rat :=
  clampPpb (-s.ageing * ((s.time.dayCount.toNat : Rat) + (s.time.hourCount : Rat) / 24))

/-- Wafer time has a time source: PPS discipline that has acquired, or a slave locked to a master (R236). -/
def State.hasSource (s : State) : Bool :=
  if s.isSlave then s.time.slave.locked else s.ppsActive && s.time.pps.acquired

/-- A signed value in `w` bytes, two's complement. -/
def leInt (w : Nat) (v : Int) : List Byte := leBytes w (wrapBits (8 * w) v)

/-- The 64-bit PPS anchor, zero when none (R228). -/
def State.anchorWord (s : State) : Nat :=
  match s.time.pps.anchor with
  | none => 0
  | some a => wrapBits 64 a

/-- A correction in units of 2^-40 of the nominal frequency, the resolution of the feedback divider (R133); rounded to the
nearest, a tie upward (DESIGN CHOICE, log entry 24). -/
def divider (y : Rat) : Int := nearest (y * 2 ^ 40 / 1000000000)

/-- The correction y takes effect in the divider: at an alignment boundary (R133, R239). -/
def TimeBase.apply (t : TimeBase) : TimeBase := { t with applied := divider t.corr }

/-- Wafer time moves on to a moment: every powered island's copy with it (R231); at an alignment boundary every running
stage takes a boundary pair (R142, R232) and the correction takes effect (R239). -/
def State.advance (s : State) (now : WaferTime) : State :=
  if now.toNat % 5120 = 0 then
    { s with
      time := { s.time with wafer := now, applied := divider s.time.corr }
      stages := s.stages.map (fun st => { st with
        island := now, clock := { st.clock with pairW := now, pairLag := st.clock.lag, pairOld := st.clock.pairLag } }) }
  else
    { s with time := { s.time with wafer := now }, stages := s.stages.map (fun st => { st with island := now }) }

/-! ### Discipline events -/

/-- The time source byte of a discipline event (Table 7.6). -/
def State.sourceCode (s : State) : Nat :=
  if !s.hasSource then 0
  else if s.isSlave then (match s.time.slave.parent with
    | some .west => 2
    | some .east => 3
    | none => 0)
  else 1

/-- The Sync last taken on the parent port. -/
def Slave.parentSync (v : Slave) : Option SyncSeen :=
  match v.parent with
  | none => none
  | some .east => v.east
  | some .west => v.west

/-- The hop count byte of a discipline event: that of the parent's Sync, 0 for a master, 0xFF when none. -/
def State.hopCode (s : State) : Nat :=
  if s.isMaster then 0
  else match s.time.slave.parentSync with
    | none => 0xFF
    | some x => if s.isSlave then x.msg.hop else 0xFF

/-- Bytes 16 to 175 of a discipline event record (Table 7.6); its correction in 2^-40 is rounded as `divider` states (log
entry 24). -/
def State.disciplineBytes (s : State) (code : Nat) : List Byte :=
  leBytes 1 1 ++ leBytes 1 code ++ leBytes 1 s.sourceCode ++ leBytes 1 s.hopCode
    ++ leBytes 4 (capAt 0xFFFFFFFF s.time.pps.ignored) ++ leBytes 4 s.epochWord.toNat ++ leBytes 4 s.era.toNat
    ++ leBytes 8 s.anchorWord
    ++ leInt 8 (if s.isSlave then nearest s.time.slave.lastOff else s.time.pps.lastErr)
    ++ leInt 4 (divider s.time.corr) ++ zeros 124

/-- Write a discipline event record (R265). -/
def State.discipline (s : State) (code : Nat) : State := s.emit 0 0 (.interval (s.disciplineBytes code))

/-- A traceable epoch kind becomes holdover (R241, R243, R252). -/
def State.kindHoldover (s : State) : State :=
  if s.time.epochId.kind = 1 then { s with time := { s.time with epochId := { s.time.epochId with kind := 2 } } } else s

/-- Whether a tick slave has its ring ports disabled: it has no time source (section 7.12). -/
def State.slaveAlone (s : State) : Bool := s.isSlave && !s.ringsEnabled

/-! ### Stamps -/

/-- The width of a bin of a table in 1/256 ns (R260, R262, R263): nominal 15.625 ps, factory in 0.25 ps, statistical
4,000 ps · N / 2^20. -/
def CalTable.width (t : CalTable) (i : Nat) : Rat :=
  match t with
  | .nominal => 4
  | .factory ws => (ws.getD i 0 : Rat) * 8 / 125
  | .statistical hits => (hits.getD i 0 : Rat) / 1024

/-- t(c) in 1/256 ns (R260). -/
def CalTable.time (t : CalTable) (tap : Nat) : Rat :=
  ((List.range tap).map t.width).sum + t.width tap / 2

/-- The nominal table converts with the uncalibrated flag set (R262). -/
def CalTable.uncal (t : CalTable) : Bool := t = .nominal

/-- The table and input offset of a stamper or channel. -/
def Iu.table (u : Iu) (ch : Nat) : CalTable × Int := u.tables.getD ch (.nominal, 0)

/-- The next reference edge after the present moment (R260; log entry 8). -/
def State.refEdge (s : State) : Nat := s.time.wafer.toNat + 1024

/-- The stamp of an edge that a stamper found with a tap code before a reference edge, given by its wafer time: the
stamper's table converts the code, and its input offset is applied (R255, R260, R263). -/
def State.stampAt (s : State) (ch edge tap : Nat) : Nat :=
  let t := s.iu.table ch
  (nearest ((edge : Rat) - t.1.time tap) + t.2).toNat

/-- The stamp of an edge now with a tap code on a stamper (R260, R263). -/
def State.inputStamp (s : State) (ch tap : Nat) : Nat := s.stampAt ch s.refEdge tap

/-! ### Armed measurements -/

/-- The internal tick's input identifier (Table 7.4). -/
abbrev tickInput : Nat := 9

/-- The start input of the map (Table 2.10). -/
def State.startInput (s : State) : Nat :=
  match s.strap 17 with
  | 2 => 9
  | 3 => 8
  | 4 => 8
  | _ => 0

/-- The stop inputs of the map (Table 2.10). -/
def State.stopInputs (s : State) : List Nat :=
  match s.strap 17 with
  | 1 => [1, 2, 3, 4, 5, 6, 7, 8, 9]
  | 2 => [0, 1, 2, 3, 4, 5, 6, 7]
  | 3 => [0, 1, 2, 3, 4, 5, 6, 7]
  | 4 => [9]
  | 5 => [9]
  | _ => [1, 2, 3, 4, 5, 6, 7]

/-- Enter a stop in order of stamp, equal stamps by input identifier (R258). -/
def insertStop : List (Nat × Nat) → Nat × Nat → List (Nat × Nat)
  | [], x => [x]
  | y :: t, x => if x.1 < y.1 ∨ (x.1 = y.1 ∧ x.2 < y.2) then x :: y :: t else y :: insertStop t x

/-- A measurement takes a stamped edge as its start or as a stop (R258). -/
def Meas.take (m : Meas) (start : Nat) (stops : List Nat) (input stamp : Nat) (uncal : Bool) : Meas :=
  match m.start with
  | none => if input = start ∧ m.armAt ≤ stamp then { m with start := some stamp, uncal := m.uncal || uncal } else m
  | some t =>
    if stops.contains input ∧ t < stamp ∧ m.stops.length < 15 then
      { m with stops := insertStop m.stops (stamp, input), uncal := m.uncal || uncal }
    else m

/-- The open measurement takes an edge. -/
def State.measure (s : State) (input stamp : Nat) (uncal : Bool) : State :=
  match s.iu.meas with
  | none => s
  | some m =>
    { s with iu := { s.iu with meas := some (m.take s.startInput s.stopInputs input stamp uncal) } }

/-- The internal tick is an input of the interval unit: its stamp is the tick's wafer time (R255). -/
def State.measureTick (s : State) : State := s.measure tickInput s.time.wafer.toNat false

/-- The bytes of the stop entries, unused ones zero (Table 7.6). -/
def stopBytes (start : Nat) (stops : List (Nat × Nat)) : List Byte :=
  let bs := stops.flatMap (fun x => leBytes 7 (x.1 - start) ++ leBytes 1 x.2)
  bs ++ zeros (120 - bs.length)

/-- Bytes 16 to 175 of a measurement record (Table 7.6). -/
def State.measureBytes (s : State) (m : Meas) (timeout : Bool) : List Byte :=
  let status := m.start.isSome.toNat + 2 * (decide (m.stops.length = 15)).toNat + 4 * timeout.toNat + 8 * m.lost.toNat
    + 16 * m.uncal.toNat
  leBytes 1 0 ++ leBytes 1 status ++ leBytes 1 m.stops.length ++ leBytes 1 s.startInput
    ++ leBytes 4 m.number.toNat ++ leBytes 4 s.epochWord.toNat ++ leBytes 4 s.era.toNat ++ leBytes 8 m.armAt
    ++ leBytes 8 (m.start.getD 0) ++ stopBytes (m.start.getD 0) m.stops ++ zeros 8

/-- The open measurement closes with its record to both ports (R259). -/
def State.closeMeasure (s : State) (timeout : Bool) : State :=
  match s.iu.meas with
  | none => s
  | some m =>
    ({ s with iu := { s.iu with meas := none } }).emit 0 0 (.interval (s.measureBytes m timeout))

/-! ### Calibration -/

/-- A statistical table is valid when every bin lies between 2 ps and 40 ps (R261). -/
def hitsValid (hits : List Nat) : Bool :=
  decide (hits.length = 256) && hits.all (fun n => decide (525 ≤ n) && decide (n ≤ 10485))

/-- The tables that a collection leaves: a valid statistical table for its channel, the table it has otherwise
(R262). -/
def calibrated (tables : List (CalTable × Int)) (hits : List (Nat × List Nat)) : List (CalTable × Int) :=
  tables.zipIdx.map (fun (t, i) =>
    match hits.find? (fun h => h.1 = i) with
    | none => t
    | some h => if hitsValid h.2 then (.statistical h.2, t.2) else t)

/-- Stampers come first among the tables, interval channels after them (R255). -/
abbrev numStampers : Nat := 13
abbrev numTables : Nat := 397

/-- Channels of a range whose collection gave a valid table. -/
def validIn (hits : List (Nat × List Nat)) (lo hi : Nat) : Nat :=
  (List.range (hi - lo)).countP (fun i =>
    match hits.find? (fun h => h.1 = lo + i) with
    | none => false
    | some h => hitsValid h.2)

/-- Write a calibration-result record (R262, Table 7.6). -/
def State.calRecord (s : State) (trigger : Nat) (hits : List (Nat × List Nat)) : State :=
  let a := validIn hits 0 numStampers
  let b := validIn hits numStampers numTables
  s.emit 0 0 (.interval
    (leBytes 1 3 ++ leBytes 1 trigger ++ zeros 6 ++ leBytes 4 s.epochWord.toNat ++ leBytes 4 s.era.toNat
      ++ leBytes 2 a ++ leBytes 2 (numStampers - a) ++ leBytes 2 b ++ leBytes 2 (numTables - numStampers - b)
      ++ zeros 136))

end Sys2Proof.Machine
end

