-- ==== Sys2Proof/Machine/Escalate.lean ====
section
/-! DEFINITION. Shared operations of cuts, escalation levels 4 and 5, stops and shutdowns (spec/15_recovery.md,
spec/16_electrical.md R521, spec/08_gaffer.md R296, R297). -/

namespace Sys2Proof.Machine

open Sys2Proof

/-- The source-mask bit of a cut's requester (Table 12.10). -/
def cutBit : CutSource → BitVec 8
  | .host .a => 0x01
  | .host .b => 0x02
  | .control .a => 0x04
  | .control .b => 0x08
  | .monitor => 0x10

/-- Whether a request to cut a context is taken as a cut or merged into one in progress: not when the context has
ended or is ending otherwise (R488, R489, section 15.9). -/
def Ctx.cuttable (c : Ctx) : Bool :=
  c.cut.isSome || (c.ended.isNone && c.endDue.isNone && c.level.isNone && decide (c.action ≠ some .end_))

/-- A cut request is accepted (R488). -/
def Ctx.acceptCut (c : Ctx) (src : CutSource) : Ctx :=
  if c.cuttable then
    { c with cut := match c.cut with
        | some k => some { k with mask := k.mask ||| cutBit src }
        | none => some { mask := cutBit src, fixed := false, noticed := false, told := [], stopped := [], resumed := false } }
  else c

/-- A cut request for the context of a partition. -/
def State.acceptCut (s : State) (p : Nat) (src : CutSource) : State := s.modCtx p (fun c => c.acceptCut src)

/-- A cut request for every context (CMD 0b001). -/
def State.cutAll (s : State) (src : CutSource) : State :=
  { s with parts := s.parts.map (fun o => o.map (fun c => c.acceptCut src)) }

/-- Every recovery level of a partition in progress gives way to a higher level: its record shows escalated
(R497). -/
def State.supersede (s : State) : State :=
  partNumbers.foldl (fun t p =>
    match t.ctx p with
    | none => t
    | some c =>
      match c.level with
      | none => t
      | some lv => (t.recovery lv 1 (partMask p)).modCtx p (fun c => { c with level := none })) s

/-- The mask of the partitions that exist. -/
def State.allMask (s : State) : BitVec 8 :=
  partNumbers.foldl (fun m p => if (s.ctx p).isSome then m ||| partMask p else m) 0

/-- A level 4 in progress gives way to a higher level or a stop: its record shows escalated (R497). -/
def State.giveWay (s : State) (parts : BitVec 8) : State :=
  match s.level4 with
  | none => s
  | some lv => s.recovery lv 1 parts

/-- Every context is to end with a cause, its epoch raised and its issue stopped (R502 steps 1 and 2). -/
def State.stopContexts (s : State) (cause : Nat) : State :=
  { s with
    parts := s.parts.map (fun o => o.map (fun c =>
      { c with
        epoch := c.epoch + 1, rollback := none
        endDue := if c.ended.isSome || c.endDue.isSome then c.endDue
          else some (c.cut.isSome, cause, 0xFF, 0xFF) }))
    stages := s.stages.map (fun st => if st.part.isSome then { st with stopped := true } else st) }

/-- Entry to level 4 (R502 steps 1 to 3); an entry while level 4 or 5 is in force changes nothing (R497). -/
def State.enterLevel4 (s : State) (trigger stage : Nat) : State :=
  if s.level4.isSome || s.level5.isSome then s
  else
    let s1 : State := s.supersede.stopContexts 0x23
    { s1 with level4 := some { level := 4, trigger := trigger, start := s.stamp, stage := stage } }

/-- Form the ending records of every context that has none yet, and mark them formed (R502 step 7); one that has not yet
ended ends at the tick to come, which is a tick of its life (log entry 9). -/
def State.recordContexts (s : State) (saveOk : Bool) : State :=
  partNumbers.foldl (fun t p =>
    match t.ctx p with
    | none => t
    | some c =>
      if c.recorded then t
      else
        let e := match c.ended with
          | some e => e
          | none => t.endNextTick (match c.endDue with | some d => d | none => (c.cut.isSome, 0x23, 0xFF, 0xFF))
        (t.endRecords p c e saveOk).modCtx p (fun c => { c with ended := some e, recorded := true })) s.noteConcurrency

/-- Stages of every context begin their release (R502 step 8). -/
def State.releaseAll (s : State) : State :=
  { s with stages := s.stages.map (fun st =>
      if st.part.isSome then { st with releasing := true, stopped := true } else st) }

/-- Every partition is unassigned and its stages with it (R387). -/
def State.dropAll (s : State) : State :=
  { s with
    parts := s.parts.map (fun _ => none)
    stages := s.stages.map (fun st => if st.part.isSome then { st.unassign with stopped := true } else st) }

/-- Free every partition whose records are formed; the commits whose output writes are still due stay with their
ports (R387). -/
def State.freeAll (s : State) : State := (partNumbers.foldl State.keepLate s).dropAll

/-- The ledger is written once more before PWR_CYCLE_REQ_N is asserted (R148), and a recovery record of level 5 when it is
(R498). -/
def State.powerCycleReq (s : State) (trigger stage : Nat) (start : Word) (parts : BitVec 8) : State :=
  let s0 : State := if s.ledgerRead then s.saveLedger else s
  let s1 : State := s0.recovery { level := 5, trigger := trigger, start := start, stage := stage } 0 parts
  { s1 with pins := { s1.pins with pwrCycleReq := true } }

/-- The module fails under R26 or R136: issue stops, STATE reads 7, a code is logged, every context is lost with
cause 0x24, the dailies are copied and a power cycle is requested (R26, R136, R503). The trigger of the level-5
record is a free value: the manual gives this entry no error kind (log entry 5). -/
def State.moduleFail (s : State) (kind : Nat) (payload : List Byte) (copyOk : Bool) : State :=
  let parts := s.allMask
  let start := s.stamp
  let s1 : State := { s with pins := { s.pins with
    issueStopped := true, failed := true, booting := false, bypassOpen := false } }
  let s2 : State := (s1.log kind payload).supersede
  let s3 : State := (s2.giveWay parts).endAllNow 0x24
  let s4 : State := { s3 with
    level4 := none
    stages := s3.stages.map (fun st => { st with stopped := true })
    level5 := some { level := 5, trigger := 0, start := start, stage := 0xFF } }
  let s5 : State := s4.copyDailies copyOk
  (s5.powerCycleReq (Config.freeByte s5.freeCtr).toNat 0xFF start parts).draw

/-- A stop of cause 0 coolant or 1 thermal (R296, R297): issue halts, every stage loses power with no handshake and
no marker, each context gets its context-complete record, and a stop entry is written. The error event that R297
asks for carries a free value as its kind, since Table 12.14 has none for a stop (log entry 5). -/
def State.stopModule (s : State) (thermal : Bool) (payload : List Byte) : State :=
  let s1 : State := { s with pins := { s.pins with issueStopped := true, booting := false, stop := some thermal } }
  let kind := (Config.freeByte s1.freeCtr).toNat
  let s2 : State := (s1.errorEvent (moduleErr kind 0 none) 0 0).draw
  let s3 : State := (s2.log 0x07 payload).supersede
  let s4 : State := (s3.giveWay s3.allMask).endAllNow (if thermal then 0x21 else 0x20)
  { s4 with
    level4 := none
    tests := []
    stages := s4.stages.map (fun st =>
      if st.st = .retired then st
      else { st.losePower with st := .unlit, part := none, releasing := false, stopped := true })
    edges := s4.edges.map Link.unpower }

/-- A splice end once every stage is unlit and its islands have lost their contents: marked, with its lane maps and a
failure or a retired stage across it as carrier flash has them (R27, R36). -/
def Link.reset (l : Link) : Link :=
  { Link.start with
    txMap := l.txMap, rxMap := l.rxMap, txGen := l.txGen, rxGen := l.rxGen, failed := l.failed, barred := l.barred }

/-- The fall of PWR_GOOD or an accepted assertion of RESET_N (R521, R523): every stage clock stops and every switch
opens, the slate and its requests drop (R79), outputs take their reset states, ring and host links drop, and what
ran is lost without a record. The dailies SRAM, carrier flash, the held marks that boot re-checks (R32) and a
latched stop or failed condition stay. DESIGN CHOICE (log entry 43): RESET_N also ends the ineligibility of a revoked
port (R78), since R79 has requests judged afresh. -/
def State.shutdown (s : State) : State :=
  { s with
    pins := { s.pins with
      booting := false, bootPhase := 0, bootDone := false, parked := s.pins.parked && s.pins.pwrCycleReq
      thermWarn := false, bypassOpen := false, issueStopped := true }
    slate := .reset
    time := { s.time with
      epochFixed := false, lastTick := none, holdover := false, pps := .idle, slave := .idle
      tickIn := TimeBase.reset.tickIn }
    iu := { s.iu with collecting := none, shadow := none, meas := none, lastIn := Iu.reset.lastIn }
    stages := s.stages.map (fun st =>
      if st.st = .retired then { st.modLinks Link.reset with part := none }
      else { st.losePower.modLinks Link.reset with
        st := .unlit, part := none, releasing := false, stopped := false, idle := 0, unassigned := 0
        skipping := false, reload := none, slackLow := none, fmaxDue := none, work := .zero })
    edges := s.edges.map Link.reset
    parts := s.parts.map (fun _ => none)
    portA := .reset, portB := .reset, slots := s.slots.map (fun _ => none), slotPri := .a, slotOrder := []
    check := none, tests := [], xings := [], transients := []
    ringE := { RingState.reset with lasting := s.ringE.lasting }
    ringW := { RingState.reset with lasting := s.ringW.lasting }
    dupId := false, spines := s.spines.filter SpineSeg.failed, spineOut := [], level4 := none, level5 := none }

/-- Boot begins at the later of PWR_GOOD rising and RESET_N released (R518), unless a stop stays latched (R298) or
the module awaits a power cycle (R26, R504). Wafer time starts at zero once the reference PLL is locked (R225). -/
def State.beginBoot (s : State) : State :=
  if s.pins.stop.isSome || s.pins.failed || s.pins.pwrCycleReq then s
  else
    { s with
      pins := { s.pins with booting := true, bootPhase := if s.time.onPll then 2 else 1 }
      time := { s.time with wafer := 0, epochFixed := s.time.onPll, lastTick := none }
      stages := s.stages.map (fun st => { st with island := 0 }) }

/-! ### Dumps -/

/-- Lines of a physical bank from a line on. -/
def Stage.dumpSample (st : Stage) (phys first count : Nat) : List Line :=
  (List.range count).map (fun i => bytesLine (cellGetList st.scratch (lineKey phys (first + i)) 64))

/-- Take the dump of a context's named stage at an escalation level (R507, Table 15.10): a dump with no space is
dropped and counted, and a strap of code only takes none. -/
def State.takeDump (s : State) (p : Nat) (reads : DumpReads) (level : Nat) : State :=
  match s.ctx p with
  | none => s
  | some c =>
    match c.named with
    | none => s
    | some nm =>
      if s.dumpLines = 0 then s
      else
        match s.stage nm.stage with
        | none => s
        | some st =>
          let phys := st.bankMap.getD nm.bank nm.bank
          let count := if nm.first + s.dumpLines ≤ 65536 then s.dumpLines else 65536 - nm.first
          let full := decide (reads = .complete)
          let d : Dump :=
            { status := match reads with | .complete => 0 | .unlit => 1 | .noResponse => 2
              stage := nm.stage, bank := nm.bank, level := level, first := nm.first
              lines := if full then st.dumpSample phys nm.first count else []
              shot := nm.shot, frame := c.frame, take := c.take, ctx := c.id, epoch := c.epoch
              head := if full then ((st.journal.filter (fun j => j.bank = phys)).reverse).take 32 else []
              time := s.stamp }
          let l := s.dailies
          if 7335936 < l.used + d.size then
            ({ s with dailies := { l with droppedN := l.droppedN + 1 } }).logEntry 0x0C c.id c.epoch
              (leBytes 4 0xFFFFFFFF ++ leBytes 1 3)
          else
            ({ s with dailies := { l with
                used := l.used + d.size, written := l.written + 1, dumps := l.dumps ++ [d] } }).logEntry 0x0C c.id
              c.epoch (leBytes 4 l.used ++ leBytes 1 d.status)

/-- The dumps of every named stage, up to eight (R502 step 5): a stage whose clock does not run answers unlit (R439). -/
def State.dumpLevels (s : State) (level : Nat) : State :=
  partNumbers.foldl (fun t p =>
    match t.ctx p with
    | none => t
    | some c =>
      match c.named with
      | none => t
      | some nm => t.takeDump p (match t.stage nm.stage with
          | none => .unlit
          | some st => if st.st = .lit then .complete else .unlit) level) s

/-- The wait for a power cycle entered by command or escalation: issue stops, every context ends with its records,
the dailies are copied and PWR_CYCLE_REQ_N is asserted (R503). -/
def State.runLevel5 (s : State) (trigger stage : Nat) (start : Word) (saveOk copyOk : Bool) : State :=
  let parts := s.allMask
  let s1 : State := { s with pins := { s.pins with issueStopped := true } }
  let s2 : State := s1.dumpLevels 5
  let s3 : State := s2.supersede
  let s4 : State := s3.giveWay parts
  let s5 : State := (({ s4 with level4 := none }).stopContexts 0x23).recordContexts saveOk
  let s6 : State := s5.freeAll.copyDailies copyOk
  s6.powerCycleReq trigger stage start parts

end Sys2Proof.Machine
end

