-- ==== Sys2Proof/Machine/Retire.lean ====
section
/-! DEFINITION. Substitution, retirement and classification of units (spec/14_faults.md R452, R457 to R468, R473 to
R481; spec/06_splices.md R223; spec/04_clock_generation.md R148, R149, R159; spec/05_droop_and_stretch.md R173). -/

namespace Sys2Proof.Machine

open Sys2Proof

/-! ### Substitution -/

/-- Move a physical bank's cells and journal entries to another bank (R459). -/
def Stage.copyBank (st : Stage) (a b : Nat) : Stage :=
  let lo := lineKey a 0
  let hi := lineKey (a + 1) 0
  let moved := st.scratch.filter (fun c => decide (lo ≤ c.1) && decide (c.1 < hi))
  let rest := st.scratch.filter (fun c => !(decide (lo ≤ c.1) && decide (c.1 < hi)))
  { st with
    scratch := moved.foldl (fun m c => cellSet m (c.1 - lo + lineKey b 0) c.2) rest
    journal := st.journal.map (fun j => if j.bank = a then { j with bank := b } else j) }

/-- Spares 0 to 7 of a subarray that no repair uses. -/
def Stage.spares (st : Stage) (bank sub : Nat) (isRow : Bool) : List Nat :=
  (List.range 8).filter (fun i =>
    !st.repairs.any (fun r => r.bank = bank && r.sub = sub && r.isRow = isRow && decide (r.spare = some i)))

/-- Repaired rows or columns that became free replacements themselves (R457). -/
def Stage.goodRepairs (st : Stage) (bank sub : Nat) (isRow : Bool) : List Repair :=
  st.repairs.filter (fun r => r.bank = bank && r.sub = sub && r.isRow = isRow && r.good)

/-- Take the first free replacement for a row or column: a spare, else a repaired unit that tested good. -/
def Stage.takeSpare (st : Stage) (bank sub : Nat) (isRow : Bool) (index : Nat) : Option (Stage × Option Nat) :=
  match st.spares bank sub isRow with
  | i :: _ =>
    some ({ st with repairs := st.repairs ++
      [{ bank := bank, sub := sub, isRow := isRow, index := index, spare := some i, good := false }] }, some i)
  | [] =>
    match st.goodRepairs bank sub isRow with
    | [] => none
    | g :: _ =>
      some ({ st with repairs := (st.repairs.map (fun r => if r = g then { r with good := false } else r)) ++
        [{ bank := bank, sub := sub, isRow := isRow, index := index, spare := none, good := false }] }, none)

/-- Move a physical bank's role to a free spare bank. -/
def Stage.takeBank (st : Stage) (phys : Nat) : Option (Stage × Nat) :=
  match st.freeBank with
  | [] => none
  | r :: rest =>
    some ({ st.copyBank phys r with
      bankMap := st.bankMap.map (fun b => if b = phys then r else b), freeBank := rest }, r)

/-- What a substitution did: the stage, the replacement index, and whether the whole bank moved (R468). -/
structure Substituted where
  stage : Stage
  index : Option Nat
  wide  : Bool
  deriving DecidableEq, Repr

/-- Substitute a unit into a free replacement of its class; none when none is free or the class has none (R457,
R459, R468). -/
def Stage.substitute (st : Stage) (u : UnitId) : Option Substituted :=
  match u with
  | .engine _ p =>
    match st.freeEng with
    | [] => none
    | r :: rest =>
      some { stage := { st with engineMap := st.engineMap.map (fun e => if e = p then r else e), freeEng := rest }
             index := some r, wide := false }
  | .bank _ p => (st.takeBank p).map (fun (t, r) => { stage := t, index := some r, wide := false })
  | .bankRow _ p sub row =>
    match st.takeSpare p sub true row with
    | some (t, i) => some { stage := t, index := i, wide := false }
    | none => (st.takeBank p).map (fun (t, r) => { stage := t, index := some r, wide := true })
  | .bankCol _ p sub col =>
    match if col < 2048 then st.takeSpare p sub false col else none with
    | some (t, i) => some { stage := t, index := i, wide := false }
    | none => (st.takeBank p).map (fun (t, r) => { stage := t, index := some r, wide := true })
  | _ => none

/-- A tested unit that is transient becomes a free replacement of its class (R457). -/
def Stage.freeUnit (st : Stage) (u : UnitId) (wide : Bool) : Stage :=
  match u with
  | .engine _ p => { st with freeEng := st.freeEng ++ [p] }
  | .bank _ p => { st with freeBank := st.freeBank ++ [p] }
  | .bankRow _ p sub row =>
    if wide then { st with freeBank := st.freeBank ++ [p] }
    else { st with repairs := st.repairs.map (fun r =>
      if r.bank = p ∧ r.sub = sub ∧ r.isRow ∧ r.index = row then { r with good := true } else r) }
  | .bankCol _ p sub col =>
    if wide then { st with freeBank := st.freeBank ++ [p] }
    else { st with repairs := st.repairs.map (fun r =>
      if r.bank = p ∧ r.sub = sub ∧ !r.isRow ∧ r.index = col then { r with good := true } else r) }
  | _ => st

/-- Replacements of a unit's class left (Table 12.15). -/
def Stage.leftOf (st : Stage) (u : UnitId) (wide : Bool) : Nat :=
  match u with
  | .engine _ _ => st.freeEng.length
  | .bank _ _ => st.freeBank.length
  | .bankRow _ p sub _ =>
    if wide then st.freeBank.length else (st.spares p sub true).length + (st.goodRepairs p sub true).length
  | .bankCol _ p sub _ =>
    if wide then st.freeBank.length else (st.spares p sub false).length + (st.goodRepairs p sub false).length
  | _ => 0

/-- The unit class of Table 12.16. -/
def unitClass (u : UnitId) (wide : Bool) : Nat :=
  match u with
  | .engine _ _ => 1
  | .bank _ _ => 2
  | .bankCol _ _ _ _ => if wide then 2 else 3
  | .bankRow _ _ _ _ => if wide then 2 else 4
  | .spliceDir _ _ _ => 5
  | .ringLane _ _ => 6
  | .detector _ _ => 8
  | _ => 7

/-- The unit index a retirement record names: the bank when the whole bank moved. -/
def retIndex (u : UnitId) (wide : Bool) : BitVec 32 :=
  match u, wide with
  | .bankRow _ p _ _, true => BitVec.ofNat 32 p
  | .bankCol _ p _ _, true => BitVec.ofNat 32 p
  | u, _ => unitIndex u

/-- The retirement record of a unit already moved to its replacement (R461). -/
def State.retireMoved (s : State) (n : Nat) (u : UnitId) (reason kind : Nat) (index : Option Nat) (wide : Bool) :
    State :=
  match s.stage n with
  | none => s
  | some st =>
    let repl : BitVec 32 := match index with
      | some i => BitVec.ofNat 32 i
      | none => (Config.freeByte s.freeCtr).zeroExtend 32
    (s.retirement
      { cls := unitClass u wide, stage := n, reason := reason, kind := kind, unit := retIndex u wide
        repl := repl, left := st.leftOf u wide }).draw

/-- Retire an engine, bank, row or column: by substitution now, or its stage when no replacement is free (R461,
R462). A stand-in or spare that is out of the maps leaves the free list. -/
def State.retireReplaceable (s : State) (n : Nat) (u : UnitId) (reason kind : Nat) : State :=
  match s.stage n with
  | none => s
  | some st =>
    let spare := match u with
      | .engine _ p => !st.engineMap.contains p
      | .bank _ p => !st.bankMap.contains p
      | _ => false
    if spare then
      let s1 := s.modStage n (fun t => match u with
        | .engine _ p => { t with freeEng := t.freeEng.filter (fun e => e ≠ p) }
        | .bank _ p => { t with freeBank := t.freeBank.filter (fun b => b ≠ p) }
        | _ => t)
      s1.retirement { cls := unitClass u false, stage := n, reason := reason, kind := kind, unit := unitIndex u
                      repl := 0xFFFFFFFF, left := match s1.stage n with | none => 0 | some t => t.leftOf u false }
    else
      match st.substitute u with
      | some r => (s.putStage n r.stage).retireMoved n u reason kind r.index r.wide
      | none => s.retireStage n 0x02 kind 0x10

/-- Retire a replaceable unit at the end of its test: its role has moved to a replacement already, or moves now. -/
def State.retireTested (s : State) (n : Nat) (u : UnitId) (reason kind : Nat) (t : Option Test) : State :=
  match t with
  | some t => if t.moved then s.retireMoved n u reason kind t.repl t.wide else s.retireReplaceable n u reason kind
  | none => s.retireReplaceable n u reason kind

/-! ### Stages, splices, rails -/

/-- The stage that a failed splice retires: the higher-numbered stage of an internal splice, or the stage of a
boundary splice (R223). -/
def spliceVictim (n : Nat) (side : Side) : Nat :=
  match neighbour n side with
  | none => n
  | some m => if n < m then m else n

/-- Change both ends of a splice, naming it by one of them. -/
def State.modSplice (s : State) (e : End) (f : Link → Link) : State := (s.modEnd e f).modEnd e.across f

/-- A splice fails: both ends are marked and a stage is retired with cause 0x13 (R223). -/
def State.failSplice (s : State) (n : Nat) (side : Side) (reason kind : Nat) : State :=
  (s.modSplice { stage := n, side := side, edge := false } (fun l => { l with failed := true })).retireStage
    (spliceVictim n side) reason kind 0x13

/-! ### Lanes -/

/-- The spares of a lane's window: four of each window of data and check lanes, one copy of the strobe and of the
notice (R193, R221). -/
def laneSpares (lane : Nat) : List Nat :=
  if lane < 2112 then (List.range 4).map (fun i => 4 * (lane / 264) + i) else if lane < 2114 then [0] else []

/-- A spare of a lane's window that the map has used (R221). -/
def spareUsed (m : List (Nat × Nat)) (lane spare : Nat) : Bool :=
  m.any (fun x => decide (x.2 = spare) && (if lane < 2112 then decide (x.1 < 2112) else decide (x.1 = lane)))

/-- The free spares of a lane's window. -/
def openSpares (m : List (Nat × Nat)) (lane : Nat) : List Nat :=
  (laneSpares lane).filter (fun x => !spareUsed m lane x)

/-- A lane map with failed lanes moved to free spares of their windows, or none where a spare is not free (R221). -/
def extendMap : List (Nat × Nat) → List (Nat × Nat) → Option (List (Nat × Nat))
  | m, [] => some m
  | m, (lane, spare) :: t =>
    if (openSpares m lane).contains spare then extendMap (m ++ [(lane, spare)]) t else none

/-- The retirement record of a spliced lane (Table 12.16): the free spares of its window are what is left. -/
def State.laneRetired (s : State) (u : UnitId) (n kind : Nat) (m : List (Nat × Nat)) (x : Nat × Nat) : State :=
  s.retirement
    { cls := 5, stage := n, reason := 0x00, kind := kind, unit := unitIndex u + BitVec.ofNat 32 (8 * x.1)
      repl := BitVec.ofNat 32 x.2, left := (openSpares m x.1).length }

/-- The end that writes the direction a splice unit names. -/
def writerEnd (n : Nat) (side : Side) (receiving : Bool) : End :=
  let e : End := { stage := n, side := side, edge := false }
  if receiving then e.across else e

/-- Both ends of a direction take a new lane map, with the next generation number (R221). -/
def State.putLaneMap (s : State) (w : End) (m : List (Nat × Nat)) : State :=
  (s.modEnd w (fun l => { l with txMap := m, txGen := l.txGen + 1 })).modEnd w.across (fun l =>
    { l with rxMap := m, rxGen := l.rxGen + 1 })

/-- A lane that the lane test of a rebuilding boot finds failing moves to a spare of its window, or its splice fails when
none is free (R221, R223, R539). DESIGN CHOICE (log entry 44): the lowest-numbered free spare is taken. -/
def State.spareLane (s : State) (b : BadLane) : State :=
  let w := writerEnd b.stage b.side b.receiving
  let m := (s.endLink w).elim [] Link.txMap
  match openSpares m b.lane with
  | [] => s.failSplice b.stage b.side 0x02 0x00
  | x :: _ =>
    let m1 := m ++ [(b.lane, x)]
    (s.putLaneMap w m1).laneRetired (.spliceDir b.stage b.side b.receiving) b.stage 0x00 m1 (b.lane, x)

/-- A synchronised change under way to a step above a new usable fmax: the stage retunes for the step it can run
(section 4.11). -/
def Clock.limitTarget (k : Clock) (f : Nat) : Clock :=
  match k.newTau with
  | none => k
  | some t =>
    if t ≤ f then k
    else
      let k1 : Clock := { k with newTau := some f }
      let go (c : Core) : Core := if c.step = f then c else { step := f, locked := false }
      if k.downTo.isSome then k1
      else if k.drive1 then { k1 with core0 := go k.core0 } else { k1 with core1 := go k.core1 }

/-- The usable fmax of a stage is lowered, never raised (R145), with the target of a synchronised change under way; a
context whose floor step is above it fails (R148, R149, R159). -/
def State.lowerFmax (s : State) (n f : Nat) : State :=
  let s1 := s.modStage n (fun st =>
    let u := if f < st.usable then f else st.usable
    { st with usable := u, clock := st.clock.limitTarget u })
  match s1.ctxOf n with
  | none => s1
  | some (_, c) => if f < c.reel.floor then s1.failStageCtx n 0x12 else s1

/-- A rail's sense is broken: safe voltage, out of slack-to-volts, its partitions reset, and its stages to be held
(R473). -/
def State.brokenSense (s : State) (x kind : Nat) : State :=
  let s1 := s.modRail x (fun r => { r with
    volt := 500, confirmed := r.volt, excluded := true, broken := kind, recheck := false })
  let s2 := (railStages x).foldl (fun t n =>
    match t.ctxOf n with
    | none => t
    | some (p, _) => t.enterLevel3 p kind n) s1
  s2.errorEvent (moduleErr 0x11 x none) (if s2.recovering then 0x04 else 0x00) 0

/-- Hold the stages of broken rails: those in no partition, or those of one partition in its reset (R473 step 3). -/
def State.holdBroken (s : State) (p : Option Nat) : State :=
  (List.range 24).foldl (fun t x =>
    let kind := (t.rail x).broken
    if kind = 0 then t
    else (railStages x).foldl (fun t n =>
      match t.stage n with
      | none => t
      | some st => if st.part = p then t.holdStage n kind else t) t) s

/-- A rail or segment found lasting (R476, R477): a stage rail as a broken sense; a segment keeps its last gain. -/
def State.railLasting (s : State) (x kind : Nat) : State :=
  if x < 24 then s.brokenSense x kind
  else s.modRail x (fun r => { r with gainDead := true, recheck := false })

/-- Mask a droop detector; a stage with fewer than 12 unmasked ones is retired (R173). -/
def State.maskDetector (s : State) (n det reason kind : Nat) : State :=
  let s1 := s.modStage n (fun st => { st with masked := st.masked ||| BitVec.ofNat 16 (2 ^ det) })
  let s2 := s1.retirement { cls := 8, stage := n, reason := reason, kind := kind, unit := BitVec.ofNat 32 det
                            repl := 0xFFFFFFFF, left := 0 }
  match s2.stage n with
  | none => s2
  | some st =>
    if (List.range 16).countP (fun i => !st.masked.getLsbD i) < 12 then s2.retireStage n reason kind 0x10 else s2

/-- A clock path is lasting: the most severe outcome of the kinds that joined its test (R541): a stage retired by a
lock loss or persistent droop, else R159's lower usable fmax. -/
def State.clockLasting (s : State) (n reason : Nat) (kinds : List Nat) (floor : Nat) : State :=
  match kinds.find? (fun k => k ≠ 0x06) with
  | some k => s.retireStage n reason k 0x10
  | none => if floor = 0 then s.retireStage n reason 0x06 0x10 else s.lowerFmax n (floor - 1)

/-- The ring lane mask bit. -/
def laneBit (lane : Nat) : BitVec 16 := BitVec.ofNat 16 (2 ^ lane)

/-- The lasting outcome of a unit by Table 14.1. `kinds` are the errors joined to its test, `floor` the floor step
R159 uses, and `moved` says whether the unit was already substituted. -/
def State.lasting (s : State) (u : UnitId) (reason : Nat) (kinds : List Nat) (t : Option Test) : State :=
  let kind := kinds.headD 0
  match u with
  | .engine n _ | .bank n _ | .bankCol n _ _ _ | .bankRow n _ _ _ => s.retireTested n u reason kind t
  | .scriptRow n _ => s.retireStage n reason kind 0x10
  | .clockPath n => s.clockLasting n reason kinds (match t with | none => 0 | some t => t.floor)
  | .spliceDir n side _ => s.failSplice n side reason kind
  | .channel n side => s.modStage n (fun st => st.modLink side (fun l => { l with elastic := true, aligned := false }))
  | .crossing xid =>
    if xid.toNat / 256 < 96 then s.retireStage (xid.toNat / 256) reason kind 0x10 else s
  | .rail x => s.railLasting x kind
  | .sense n => s.retireStage n reason kind 0x10
  | .ringLane rp lane =>
    let s1 := s.modRing rp (fun r => { r with lasting := r.lasting ||| laneBit lane
                                              suspect := r.suspect.filter (fun l => l ≠ lane) })
    s1.retirement { cls := 6, stage := match rp with | .east => 0x62 | .west => 0x63, reason := reason, kind := kind
                    unit := unitIndex u, repl := 0xFFFFFFFF, left := 0 }
  | .detector n d => s.maskDetector n d reason kind

/-- A test of a unit has ended (R452): lasting when it failed or the count exceeds ALLOW, else transient. -/
def State.classify (s : State) (u : UnitId) (failed : Bool) : State :=
  match s.testOf u with
  | none => s
  | some t =>
    let n := s.transientOf u + t.joined
    let s1 := s.dropTest u
    if failed then s1.lasting u 0x00 t.kinds (some t)
    else if s.allow < n then s1.lasting u 0x01 t.kinds (some t)
    else
      let s2 := s1.setTransient u n
      let s3 := match unitStage u with
        | none => s2
        | some k => if t.moved then s2.modStage k (fun st => st.freeUnit u t.wide) else s2
      match u with
      | .clockPath k =>
        if t.kinds.contains 0x06 then
          s3.modStage k (fun st => { st with fmTrans := capAt 255 (st.fmTrans + t.kinds.count 0x06) })
        else s3
      | _ => s3

/-- An error of a crossing: it has no self-test, so count and repetition alone classify it (Table 14.2). -/
def State.countCrossing (s : State) (xid : BitVec 16) (kind : Nat) : State :=
  (s.joinTest (.crossing xid) kind .free).classify (.crossing xid) false

end Sys2Proof.Machine
end

