-- ==== Sys2Proof/Machine/Boot.lean ====
section
/-! DEFINITION. Power, reset and boot (spec/16_electrical.md R517 to R523, spec/02_control_plane.md R58 to R67,
spec/04_clock_generation.md R134 to R138, R146, R147, spec/07_time_base.md R234 to R236, spec/15_recovery.md R505 to
R509, spec/01_stages.md R539). -/

namespace Sys2Proof.Machine

open Sys2Proof

/-! ### Power and reset -/

/-- POWER_GOOD_RISE: the reference PLL starts, the JTAG port stands in Test-Logic-Reset, and boot begins when RESET_N is
already released (R22, R518). -/
def execPowerGoodRise (s : State) : Host.Outcome State Fault Refusal :=
  if s.pins.pwrGood then .next s
  else
    let s1 : State := { s with
      pins := { s.pins with pwrGood := true }, jtag := .reset
      time := { s.time with onPll := false, refOut := false, refFault := false } }
    .next (if s1.pins.resetN then s1.beginBoot else s1)

/-- POWER_GOOD_FALL: the module shuts down at once (R521). While a power cycle is requested the fall is that power
cycle (R504): the request and the failed condition end and the dailies SRAM is lost (log entry 10). -/
def execPowerGoodFall (s : State) : Host.Outcome State Fault Refusal :=
  if !s.pins.pwrGood then .next s
  else
    let s1 : State := s.shutdown
    let s2 : State := { s1 with
      pins := { s1.pins with pwrGood := false }, time := { s1.time with onPll := false, refOut := false } }
    .next (if s.pins.pwrCycleReq then
      { s2 with
        pins := { s2.pins with failed := false, pwrCycleReq := false, parked := false, belowFloor := false }
        dailies := .absent }
    else s2)

/-- RESET_ASSERT: a low of RESET_N shorter than 1 µs is ignored; a longer one acts as a fall of PWR_GOOD and drops
the slate, with a latched stop kept (R79, R298, R523). -/
def execResetAssert (lowNs : Nat) (s : State) : Host.Outcome State Fault Refusal :=
  if lowNs < 1000 then .next s
  else
    let s1 : State := s.shutdown
    .next { s1 with pins := { s1.pins with resetN := false } }

/-- RESET_RELEASE: a latched stop clears when the coolant inputs have been high for 1 ms, every sensor reads below
T_trip - 15 and PWR_GOOD is high; boot then begins, else the stop stays (R298, R518). -/
def execResetRelease (coolGoodNs : Nat) (s : State) : Host.Outcome State Fault Refusal :=
  if s.pins.resetN then .next s
  else
    let good := decide (0 < coolGoodNs)
    let s1 : State := { s with pins := { s.pins with
      resetN := true, coolA := s.pins.coolA || good, coolB := s.pins.coolB || good } }
    let clear := decide (1000000 ≤ coolGoodNs) && s1.sensorsBelow (s1.trip - 15) && s1.pins.pwrGood
    let s2 : State := if s1.pins.stop.isSome && clear then { s1 with pins := { s1.pins with stop := none } } else s1
    .next (if s2.pins.pwrGood then s2.beginBoot else s2)

/-! ### The reference -/

/-- REFERENCE_PLL_LOCK: the reference domain moves to the PLL, and REF_OUT starts unless a reference fault holds it low
(R134, R137); in boot phase 1 the module epoch is fixed with wafer time zero (R225). -/
def execReferencePllLock (s : State) : Host.Outcome State Fault Refusal :=
  if !s.pins.pwrGood || s.time.onPll then .next s
  else
    let s1 : State := { s with time := { s.time with onPll := true, refOut := !s.time.refFault } }
    if s1.pins.booting && s1.pins.bootPhase = 1 then
      .next { s1 with
        pins := { s1.pins with bootPhase := 2 }
        time := { s1.time with epochFixed := true, wafer := 0, lastTick := none }
        stages := s1.stages.map (fun st => { st with island := 0 }) }
    else .next s1

/-- REFERENCE_LOCK_TIMEOUT: boot ends in the failed state with a reference-fault code and a power-cycle request
(R135). The phase error of a PLL that never locked is a free value (log entry 5). -/
def execReferenceLockTimeout (s : State) : Host.Outcome State Fault Refusal :=
  if !s.pins.booting || s.time.onPll then .next s
  else
    let s1 : State := { s with pins := { s.pins with
      failed := true, booting := false, pwrCycleReq := true, bypassOpen := false } }
    .next (s1.log 0x05 (leBytes 2 (Config.freePhase s1.freeCtr).toNat)).draw

/-- REFERENCE_FAULT: the module moves to the backup oscillator, stops every stage, fails, copies the dailies and
requests a power cycle (R136, R137). A loss of lock later in boot is taken the same way (log entry 11). In reset only the
source moves (R134); a module that has failed already logs the code and copies the dailies, its contexts being gone and
its request made. -/
def execReferenceFault (phasePs : Nat) (copyOk : Bool) (s : State) : Host.Outcome State Fault Refusal :=
  if !s.time.onPll then .next s
  else if s.inReset then .next { s with time := { s.time with onPll := false, refOut := false } }
  else
    let s1 : State := { s with time := { s.time with onPll := false, refOut := false, refFault := true } }
    let code := leBytes 2 (capAt 0xFFFF phasePs)
    .next (if s.pins.failed then (s1.log 0x05 code).copyDailies copyOk else s1.moduleFail 0x05 code copyOk)

/-- SUPERVISOR_MISMATCH: issue stops, STATE reads 7, the index of the first disagreeing output is logged, the
dailies are copied and a power cycle is requested (R26). -/
def execSupervisorMismatch (output : BitVec 16) (copyOk : Bool) (s : State) : Host.Outcome State Fault Refusal :=
  if s.inReset || s.pins.failed then .next s
  else .next (s.moduleFail 0x04 (leBytes 2 output.toNat) copyOk)

/-! ### Straps and mesh trim -/

/-- The decode code of a pin's samples in mV (R59, Table 2.3): a level, 0x10 open, 0x11 unstable. -/
def strapCode (mv : List Nat) : BitVec 5 :=
  match mv with
  | [] => 0x11
  | v :: _ =>
    if mv.all (fun x => decide (1440 ≤ x)) then 0x10
    else if v < 1440 && mv.all (fun x => decide (x / 90 = v / 90)) then BitVec.ofNat 5 (v / 90)
    else 0x11

/-- The highest level of each strap that is not reserved (Tables 2.5 to 2.12). -/
def strapTop : List Nat := [3, 15, 15, 15, 3, 15, 7, 3, 7, 3, 2, 15, 15, 15, 8, 2, 5, 5, 2, 8, 3, 15, 1]

/-- The level acted on and the fault bit of one strap (R60, R61). -/
def strapLevel (i : Nat) (code : BitVec 5) : Nat × Bool :=
  let d := strapDefaults.getD i 0
  if code = 0x10 then (d, false)
  else if code.toNat < 16 && decide (code.toNat ≤ strapTop.getD i 0) then (code.toNat, false)
  else (d, true)

/-- The strap-fault mask of a list of fault bits (section 2.3). -/
def faultMask : List Bool → Nat
  | [] => 0
  | b :: bs => b.toNat + 2 * faultMask bs

/-- Two straps take their defaults and both fault bits are set (R67). -/
def Straps.force (st : Straps) (i j : Nat) : Straps :=
  { st with
    levels := (st.levels.set i (strapDefaults.getD i 0)).set j (strapDefaults.getD j 0)
    fault := st.fault ||| BitVec.ofNat 32 (2 ^ i + 2 ^ j) }

/-- The straps that a set of decode codes gives (R60, R61, R67). -/
def strapsOf (codes : List (BitVec 5)) : Straps :=
  let r := (codes.zipIdx).map (fun (c, i) => strapLevel i c)
  let st : Straps := { codes := codes, levels := r.map Prod.fst, fault := BitVec.ofNat 32 (faultMask (r.map Prod.snd)) }
  let st1 := if st.levels.getD 2 0 < st.levels.getD 1 0 then st.force 1 2 else st
  if st1.levels.getD 11 0 = 15 ∧ st1.levels.getD 12 0 = 15 then st1.force 11 12 else st1

/-- STRAP_READ: in boot phase 2 every strap pin is sampled and decoded (R58 to R61, R67, R524). -/
def execStrapRead (mv : List (List Nat)) (s : State) : Host.Outcome State Fault Refusal :=
  if s.pins.booting && s.pins.bootPhase = 2 && mv.length = 23 then
    .next { s with straps := strapsOf (mv.map strapCode), pins := { s.pins with bootPhase := 3 } }
  else .next s

/-- A setting of a mesh trim: 0 to 126 ps in steps of 2 (R138). -/
def trimOk (v : Nat) : Bool := decide (v ≤ 126) && v % 2 = 0

/-- MESH_TRIM_BOOT: before any stage PLL starts, the supervisor sets the 64 drive-point trims (R138). -/
def execMeshTrimBoot (ps : List Nat) (s : State) : Host.Outcome State Fault Refusal :=
  if s.pins.booting && (s.pins.bootPhase = 2 || s.pins.bootPhase = 3) && ps.length = 64 && ps.all trimOk then
    .next { s with trims := ps }
  else .next s

/-- One trim moved by at most one 2 ps step within its range (R138). -/
def moveTrim (v : Nat) (d : Int) : Nat :=
  if 0 < d then (if v + 2 ≤ 126 then v + 2 else v) else if d < 0 then v - 2 else v

/-- MESH_TRIM_UPDATE: after boot each trim moves by at most one step a millisecond (R138). -/
def execMeshTrimUpdate (dir : List Int) (s : State) : Host.Outcome State Fault Refusal :=
  if s.pins.bootDone && !s.inReset then
    .next { s with trims := s.trims.zipIdx.map (fun (v, i) => moveTrim v (dir.getD i 0)) }
  else .next s

/-! ### Carrier flash at boot -/

/-- Whether a copy's check fails at this boot. -/
def badArea (bad : List FlashArea) (a : FlashArea) : Bool := bad.contains a

/-- The bytes that a boot read brings of a copy: none where the medium has lost it (log entry 38). -/
def readArea (bad : List FlashArea) (a : FlashArea) (bs : List Byte) : List Byte := if badArea bad a then [] else bs

/-- The identity area read at boot (R19, R530). -/
def State.readIdentity (s : State) (bad : List FlashArea) : State :=
  match identityOf (readArea bad .identity s.flash.identity) with
  | some i => { s with issue := i.issue, cert := i.cert }
  | none => { s with issue := 0, cert := [], idFaults := s.idFaults ||| 0x01 }

/-- Every copy of the ledger is valid (R147). -/
def ledgerCopiesOk (f : Flash) : Bool := (ledgerOf f.ledger0).isSome && (ledgerOf f.ledger1).isSome

/-- The entry a stage takes at boot, and whether it was replaced (Table 4.4). -/
def ledgerTake (fused : Nat) (e : Option LedgerEntry) : LedgerEntry × Bool :=
  let fresh : LedgerEntry :=
    { fused := fused, usable := fused - 1, derates := 0, fmTrans := 0, reserved := 0, lastDay := 0 }
  match e with
  | none => (fresh, true)
  | some e => if e.fused = fused ∧ e.usable ≤ fused ∧ e.reserved = 0 then (e, false) else (fresh, true)

/-- A stage takes its ledger entry. -/
def Stage.takeLedger (st : Stage) (e : LedgerEntry) : Stage :=
  { st with usable := e.usable, derates := e.derates, fmTrans := e.fmTrans, lastDerate := e.lastDay }

/-- The fmax ledger read at boot (R146, R147). -/
def State.readLedger (s : State) (bad : List FlashArea) : State :=
  let f : Flash := { s.flash with
    ledger0 := readArea bad (.ledger 0) s.flash.ledger0, ledger1 := readArea bad (.ledger 1) s.flash.ledger1 }
  let l := ledgerInUse f
  let takes := s.stages.zipIdx.map (fun (st, n) => ledgerTake st.fused (l.bind (fun l => l.1.entries[n]?)))
  let replaced := takes.any Prod.snd
  { s with
    stages := (s.stages.zip takes).map (fun x => x.1.takeLedger x.2.1)
    flash := f
    idFaults := if replaced || !ledgerCopiesOk f then s.idFaults ||| 0x02 else s.idFaults }

/-- The days-in-service record read at boot: the boot count rises and is written to the copy not in use (R234). With no
valid copy the counts start at zero, and DESIGN CHOICE (log entry 38) the fresh record goes to copy 0 (R235). -/
def State.readDays (s : State) (bad : List FlashArea) : State :=
  let f : Flash := { s.flash with
    days0 := readArea bad (.days 0) s.flash.days0, days1 := readArea bad (.days 1) s.flash.days1 }
  let (d, one, fault) : Days × Bool × Bool :=
    match daysInUse f with
    | some (d, one) => ({ d with seq := d.seq + 1, boot := d.boot + 1 }, !one, false)
    | none => ({ seq := 1, day := 0, hour := 0, boot := 1 }, false, true)
  { s with
    time := { s.time with bootCount := d.boot, dayCount := d.day, hourCount := d.hour }
    flash := f.putDays one d
    idFaults := if fault then s.idFaults ||| 0x04 else s.idFaults }

/-- The chain head read at boot (R420): the newer valid copy is used and written over one that failed (Table 16.3, phase
3); with none the chain starts again, with its fault code unless both copies are erased. -/
def State.readChain (s : State) (bad : List FlashArea) : State :=
  let erased := s.flash.chain0.isEmpty && s.flash.chain1.isEmpty && !badArea bad (.chain 0) && !badArea bad (.chain 1)
  let f : Flash := { s.flash with
    chain0 := readArea bad (.chain 0) s.flash.chain0, chain1 := readArea bad (.chain 1) s.flash.chain1 }
  match chainInUse f with
  | some ((seq, head), one) =>
    { s with
      chain := { next := seq + 1, head := head, kept := false }
      flash := if badArea bad (.chain (!one).toNat) then
          (if one then { f with chain0 := chainBytes seq head } else { f with chain1 := chainBytes seq head })
        else f }
  | none =>
    { s with
      chain := { next := 0, head := zeros 32, kept := false }
      flash := f
      idFaults := if erased then s.idFaults else s.idFaults ||| 0x08 }

/-- A splice end takes its two lane maps with their generations (R221). -/
def Link.putMaps (l : Link) (tx rx : List (Nat × Nat)) (txGen rxGen : BitVec 8) : Link :=
  { l with txMap := tx, rxMap := rx, txGen := txGen, rxGen := rxGen }

/-- What the retirement record gives one stage (R27, R29, R36, Table 1.5). -/
def Stage.applyRet (st : Stage) (r : RetStage) : Stage :=
  let maps (i : Nat) (l : Link) : Link :=
    l.putMaps (r.laneMaps.getD (2 * i) []) (r.laneMaps.getD (2 * i + 1) []) (r.laneGens.getD (2 * i) 0)
      (r.laneGens.getD (2 * i + 1) 0)
  let st1 : Stage := { st with
    st := if r.code = 2 then .unlit else .retired
    engineMap := r.engineMap, bankMap := r.bankMap, freeEng := r.freeEng, freeBank := r.freeBank
    repairs := r.repairs, masked := r.masked }
  { st1 with
    linkN := maps 0 st1.linkN, linkE := maps 1 st1.linkE, linkS := maps 2 st1.linkS, linkW := maps 3 st1.linkW }

/-- The factory contents of the retirement record for one stage (R29): the maps the carrier was made with, and the
units 0 to 49 that they do not use left free. -/
def factoryRet (n : Nat) : RetStage :=
  let e := Config.factoryEngines n
  let b := Config.factoryBanks n
  { code := 2, engineMap := e, bankMap := b
    freeEng := (List.range 50).filter (fun u => 48 ≤ u && !e.contains u)
    freeBank := (List.range 50).filter (fun u => 48 ≤ u && !b.contains u)
    repairs := [], masked := 0, laneMaps := List.replicate 8 [], laneGens := List.replicate 8 0 }

/-- A stage's maps when both copies are lost: the identity assignment with nothing repaired (R539). -/
def rebuiltRet : RetStage :=
  { code := 2, engineMap := identityMap, bankMap := identityMap, freeEng := [48, 49], freeBank := [48, 49]
    repairs := [], masked := 0, laneMaps := List.replicate 8 [], laneGens := List.replicate 8 0 }

/-- The retirement record that a boot takes with a good copy left: the newer one that passes its check, or the factory
record where that copy was never rewritten. -/
def retPick (f : Flash) (b0 b1 : Bool) : Option RetRecord :=
  if b0 then f.retire1 else if b1 then f.retire0
  else if retSeq f.retire0 < retSeq f.retire1 then f.retire1 else f.retire0

/-- The sides across from retired stages are marked for good, and no others (R28). -/
def State.rebar (s : State) : State :=
  let clear (l : Link) : Link := { l with barred := false }
  let s1 : State := { s with stages := s.stages.map (fun st => st.modLinks clear), edges := s.edges.map clear }
  (List.range numStages).foldl (fun t n => match t.stage n with
    | none => t
    | some st => if st.st = .retired then t.modAllAcross n Link.bar else t) s1

/-- Every stage, edge block and ring port as a retirement record, or the factory record, has them (R27, R36). -/
def State.applyRecord (s : State) (o : Option RetRecord) : State :=
  match o with
  | none =>
    { s with
      stages := s.stages.zipIdx.map (fun (st, n) => st.applyRet (factoryRet n))
      edges := s.edges.map (fun l => l.putMaps [] [] 0 0) }
  | some r =>
    { s with
      stages := s.stages.zipIdx.map (fun (st, n) => match r.stages[n]? with
        | none => st
        | some x => st.applyRet x)
      edges := s.edges.zipIdx.map (fun (l, i) => match r.edges[i]? with
        | none => l
        | some (tx, rx, g, h) => l.putMaps tx rx g h)
      ringE := { s.ringE with lasting := r.ringEast }, ringW := { s.ringW with lasting := r.ringWest }
      idFaults := if r.stages.any (fun x => decide (x.code ≠ 2) && decide (x.code ≠ 3)) then s.idFaults ||| 0x01
        else s.idFaults }

/-- The retirement and repair-map record read at boot. One copy that passes its check is taken and written over the other
one where that failed (R36, Table 16.3, phase 3); when both fail the record is rebuilt with its fault code: every map is
the identity, and every stage, ring lane, splice and spine is in service until the tests of phase 4 (R539). -/
def State.readRetired (s : State) (bad : List FlashArea) : State :=
  let b0 := badArea bad (.retire 0)
  let b1 := badArea bad (.retire 1)
  if b0 && b1 then
    { s with
      stages := s.stages.map (fun st =>
        (st.applyRet rebuiltRet).modLinks (fun l => { l with failed := false, elastic := false, barred := false }))
      edges := s.edges.map (fun l => { l.putMaps [] [] 0 0 with failed := false, elastic := false, barred := false })
      spines := s.spines.map (fun x => { x with failed := false })
      ringE := { s.ringE with lasting := 0 }, ringW := { s.ringW with lasting := 0 }
      flash := { s.flash with retire0 := none, retire1 := none }
      idFaults := s.idFaults ||| 0x10 }
  else
    let s1 : State := (s.applyRecord (retPick s.flash b0 b1)).rebar
    let r : RetRecord := { s1.retRecord with seq := retSeq (retPick s.flash b0 b1) + 1 }
    if b0 then { s1 with flash := { s1.flash with retire0 := some r } }
    else if b1 then { s1 with flash := { s1.flash with retire1 := some r } }
    else s1

/-- The factory tables of the interval unit and the tables in force before any statistical calibration (R262, R263):
a table whose CRC fails is the nominal one. -/
def State.readTables (s : State) (bad : List FlashArea) : State :=
  { s with iu := { s.iu with
      tables := (List.range 397).map (fun t => tableOf (readArea bad (.table t) (Config.tableBytes t))) } }

/-- CARRIER_FLASH_BOOT_READ: boot phase 3 (R19, R27, R146, R147, R227, R234 to R236, R263, R420, R530, R539). -/
def execCarrierFlashBootRead (bad : List FlashArea) (s : State) : Host.Outcome State Fault Refusal :=
  if s.pins.booting && s.pins.bootPhase = 3 then
    let s0 : State := { s with idFaults := 0 }
    let s1 : State := (((((s0.readIdentity bad).readLedger bad).readDays bad).readChain bad).readRetired bad).readTables bad
    .next { s1 with
      pins := { s1.pins with bootPhase := 4 }
      time := { s1.time with
        corr := s1.yAge
        epochId := { source := BitVec.ofNat 8 s1.moduleId, serial := s1.time.bootCount.truncate 16, kind := 0 } } }
  else .next s

/-- DAILIES_BOOT_COPY: a boot whose SRAM header is valid with the unsaved flag set copies the dailies between
phases 3 and 4 (R508, R518). -/
def execDailiesBootCopy (ok : Bool) (s : State) : Host.Outcome State Fault Refusal :=
  if s.pins.booting && s.pins.bootPhase = 4 && s.dailies.valid && s.dailies.unsaved then .next (s.copyDailies ok)
  else .next s

/-- Re-check one rail whose stages were held (R32, R473, R520): a rail that still fails keeps them held. -/
def State.recheckHeld (s : State) (badRails : List Nat) (x : Nat) : State :=
  if (railStages x).any (fun n => match s.stage n with | none => false | some st => st.held) then
    if badRails.contains x then
      let s1 : State := s.modRail x (fun r => { r with volt := 500, excluded := true, broken := 0x11 })
      (railStages x).foldl (fun t n => (t.modStage n (fun st => { st with held := false })).holdStage n 0x11) s1
    else
      (s.modRail x (fun r => { r with volt := 800, confirmed := 800, excluded := false, broken := 0 })).modStages
        (railStages x) (fun st => { st with held := false })
  else s

/-- BOOT_STAGE_BIST: boot phase 4. Held rails are re-checked, the failing units are repaired, replaced or retired
with reason self-test failed, and the bypass opens when the rings are enabled (R448, R520). When the retirement record
was lost, the splice lane test runs as well and its lanes are spared, and the rebuilt record goes to both copies (R539).
Every enabled stage ends unlit (R45). -/
def execBootStageBist (failing : List UnitId) (badLanes : List BadLane) (badRails : List Nat) (s : State) :
    Host.Outcome State Fault Refusal :=
  if s.pins.booting && s.pins.bootPhase = 4 then
    let s1 : State := (List.range 24).foldl (fun t x => t.recheckHeld badRails x) s
    let s2 : State := failing.foldl (fun t u => t.lasting u 0x00 [0] none) s1
    let lost := s2.idFaults.getLsbD 4
    let s3 : State := if lost then (badLanes.foldl State.spareLane s2).saveRetired.saveRetired else s2
    .next { s3 with pins := { s3.pins with bootPhase := 5, bypassOpen := s3.ringsEnabled } }
  else .next s

/-- BOOT_END: the tick and energy counts start at zero, the dailies get a fresh header, transient counts and record
sequence numbers are zero, BELOW_FLOOR_N is judged, and STATE becomes ready (R34, R45, R94, R286, R289, R408, R453,
R505, R518). A tick slave with its ring ports disabled says that it has no time source (section 7.12). -/
def execBootEnd (s : State) : Host.Outcome State Fault Refusal :=
  if s.pins.booting && s.pins.bootPhase = 5 then
    let s1 : State := { s with
      pins := { s.pins with
        booting := false, bootDone := true, parked := false, issueStopped := false
        belowFloor := decide (s.enabledCount < 88) }
      time := { s.time with tickCount := 0 }
      gaffer := { Gaffer.reset with cap := s.capNow }
      rails := s.rails.zipIdx.map (fun (r, _) =>
        if r.broken = 0 then Rail.reset else { Rail.reset with volt := r.volt, excluded := true, broken := r.broken })
      stages := s.stages.map (fun st =>
        if st.st = .retired then st else { st with st := .unlit, part := none, unassigned := 0, idle := 0 })
      transients := [], lastCtx := 0
      portA := { s.portA with seq := 0 }, portB := { s.portB with seq := 0 }
      iu := { s.iu with number := 0, lost := 0 }
      dailies := { valid := true, boot := s.time.bootCount, unsaved := false, count := 0, log := [], used := 0
                   written := 0, droppedN := 0, dumps := [], delivered := false } }
    .next (if s1.slaveAlone then s1.discipline 0x04 else s1)
  else .next s

/-- DAILIES_AREA_ERASE: once delivery has begun, the dailies area that does not hold the newest valid set is erased
(R509). -/
def execDailiesAreaErase (s : State) : Host.Outcome State Fault Refusal :=
  if !s.pins.bootDone || s.inReset || !s.dailies.delivered then .next s
  else
    match s.flash.dailies0, s.flash.dailies1 with
    | some a, some b =>
      if a.seq < b.seq then .next { s with flash := { s.flash with dailies0 := none } }
      else .next { s with flash := { s.flash with dailies1 := none } }
    | _, _ => .next s

end Sys2Proof.Machine
end

