-- ==== Sys2Proof/Machine/Clocking.lean ====
section
/-! DEFINITION. Shared operations of a stage's clock generator: driving and spare cores, targets, debt, the core
moves and realignment of a tick, and rail raises (spec/04_clock_generation.md R140 to R165,
spec/05_droop_and_stretch.md R178 to R186, spec/08_gaffer.md R289, R290). -/

namespace Sys2Proof.Machine

open Sys2Proof

/-- The core that drives the output divider. -/
def Clock.drive (k : Clock) : Core := if k.drive1 then k.core1 else k.core0

/-- The other core. -/
def Clock.spare (k : Clock) : Core := if k.drive1 then k.core0 else k.core1

/-- Put the driving core. -/
def Clock.putDrive (k : Clock) (c : Core) : Clock := if k.drive1 then { k with core1 := c } else { k with core0 := c }

/-- Put the spare core. -/
def Clock.putSpare (k : Clock) (c : Core) : Clock := if k.drive1 then { k with core0 := c } else { k with core1 := c }

/-- A core sent to a step: it stays locked when it is there already, and otherwise retunes (R155, R156). -/
def Core.retune (c : Core) (step : Nat) : Core :=
  if c.step = step then c else { step := step, locked := false }

/-- The step the spare core is kept at while the stage drives at τ (R154). -/
def spareStep (tau floor : Nat) : Nat := if floor + 1 ≤ tau then tau - 1 else tau

/-- A context's target step on a stage (section 4.7). -/
def Ctx.tau (c : Ctx) (st : Stage) : Nat := if c.oper ≤ st.usable then c.oper else st.usable

/-- δ, the stretch depth in core cycles (R177, Table 2.7). -/
def State.delta (s : State) : Nat := if s.strap 5 < 8 then 1 else 2

/-- N, the run limit of consecutive stretched cycles (R177). -/
def State.runLimit (s : State) : Nat := s.strap 5 % 8 + 1

/-- The droop request of a lit stage: an unmasked detector is tripped (R171, R174). A stage that is not lit ignores its
trips (R172). -/
def Stage.droop (st : Stage) : Bool := st.st = .lit && decide (st.clock.tripped &&& ~~~st.masked ≠ 0)

/-- One core cycle of a step in 1/256 ns: 20 ns hold 4·(9 + s) core cycles (R142). -/
def coreCycle (step : Nat) : Rat := 1280 / ((9 + step : Nat) : Rat)

/-- The counter falls behind wafer time by a lag in 1/256 ns (R232). A lag of 20 ns takes the stage past an alignment
boundary, where it takes a new boundary pair. -/
def Clock.fallBack (k : Clock) (units : Rat) : Clock :=
  let l := k.lag + units
  let past := decide (5120 ≤ l - k.pairLag)
  { k with lag := l, pairLag := if past then l else k.pairLag, pairOld := if past then k.pairLag else k.pairOld }

/-- A cycle lengthened by core cycles of the driving step, which the counter does not count (R232). -/
def Clock.lose (k : Clock) (cores : Nat) : Clock := k.fallBack ((cores : Rat) * coreCycle k.drive.step)

/-- The supervisor hears of a change of the driving step; the crossing keeps the value before it (R168, R216). -/
def Clock.report (k : Clock) : Clock :=
  if k.supStep = k.drive.step then k else { k with supStep := k.drive.step, supOld := k.supStep }

/-- The output switch moves to the other core (R158): the counter counts one new period for the switching cycle, and
`gap`, a free value in 1/65,536 of that period, is what the cycle lasts beyond it (R232). -/
def Clock.swap (k : Clock) (gap : BitVec 16) : Clock :=
  let k1 : Clock := { k with drive1 := !k.drive1 }
  (k1.fallBack ((gap.toNat : Rat) / 65536 * (4 * coreCycle k1.drive.step))).report

/-- What a tick that finds the tree halted knows of the halt: the core cycles held so far, a free value (R178, R184). -/
def Clock.holdTick (k : Clock) (ctr : Nat) : Clock :=
  if k.halted then
    let h := Config.freeHeld ctr
    { k.lose h with heldCores := k.heldCores + h }
  else k

/-- The stretch debt that a tick finds (R184, R233): wafer time less the counter, in whole units, saturating; a
resynchronisation records none (R54). -/
def Clock.debtAt (k : Clock) : BitVec 32 := if k.resync then 0 else BitVec.ofNat 32 (capAt 0xFFFFFFFF k.lag.floor.toNat)

/-- The payload of a clock-summary entry (Table 5.3, Table 12.22). -/
def Clock.summary (k : Clock) (debt : BitVec 32) : Nat :=
  capAt 0xFFFF k.stretched + 2 ^ 16 * capAt 0xFF k.halts
    + 2 ^ 24 * (capAt 0xF k.downs + 16 * k.drive.step) + 2 ^ 32 * capAt 0xFFFF k.longest + 2 ^ 64 * debt.toNat

/-- The core off the tree retunes to a step, unless a synchronised change (R160) or a waiting step-down (R156) holds it. -/
def Clock.seek (k : Clock) (step : Nat) : Clock :=
  if k.newTau.isSome || k.downTo.isSome then k else k.putSpare (k.spare.retune step)

/-- A discarded step request leaves the core off the tree where R154 and R155 have it (R132). -/
def Clock.discard (k : Clock) (floor : Nat) : Clock :=
  if k.newTau.isNone then k
  else
    let k1 : Clock := { k with newTau := none }
    k1.seek (if k.drive.step = k.tau then spareStep k.tau floor else k.tau)

/-- The core moves of a tick (R157, R154): drive from a core locked at τ, stay where none is, and retune the other
core, unless something holds it. The Bool tells whether the output switch moved. -/
def Clock.moveTo (k : Clock) (tau floor : Nat) (gap : BitVec 16) : Clock × Bool :=
  if k.drive.step = tau && k.drive.locked then (k.seek (spareStep tau floor), false)
  else if k.spare.step = tau && k.spare.locked then
    (({ k with downTo := none }.swap gap).seek (spareStep tau floor), true)
  else (k.seek tau, false)

/-- The counters of a frame begin again at a tick, and the counter is loaded with wafer time (R186, R233). -/
def Clock.newTick (k : Clock) (now : WaferTime) : Clock :=
  { k with
    debt := if k.resync then 0 else k.debt
    run := 0, stretched := 0, halts := 0, longest := 0, downs := 0, freeze := 0
    lag := 0, pairW := now, pairLag := 0, pairOld := 0, resync := false }

/-- The realignment cycle of R164 on a clock whose quarters are `q`, and what droop makes of it (R181, R182): `moved`
tells that the tick's core switch realigns instead. -/
def Clock.realignNow (k : Clock) (moved droop : Bool) (delta : Nat) : Clock :=
  if k.halted then { k with realign := true, q := if moved then 0 else k.q }
  else if moved then
    if droop then { k with q := delta, run := 1, stretched := 1, realign := false }.lose delta
    else { k with q := 0, realign := false }
  else
    let r := (4 - k.q % 4) % 4
    if droop then
      if delta ≤ r then { k with q := 0, run := 1, stretched := 1, realign := false }.lose r
      else { k with q := k.q + delta, run := 1, stretched := 1, realign := true }.lose delta
    else { k with q := 0, realign := false }.lose r

/-- The lower of two slack codes, either of which may be missing (R153, R288). -/
def minCode : Option Nat → Option Nat → Option Nat
  | none, b => b
  | a, none => a
  | some a, some b => some (if a ≤ b then a else b)

/-- The clock as the tick leaves it: its tree moves to the target step of its context, the counter is loaded with wafer
time, the tree realigns, and its notice is asserted while its edges are off their alignment (R157, R164, R207, R233). The
Bool tells whether the output switch moved. -/
def Clock.closeTick (k : Clock) (goal : Option (Nat × Nat)) (droop : Bool) (delta : Nat) (now : WaferTime)
    (gap : BitVec 16) : Clock × Bool :=
  let k0 := k.newTick now
  let m := match goal with
    | none => (k0, false)
    | some (tau, floor) => ({ k0 with tau := tau }).moveTo tau floor gap
  let k1 := m.1.realignNow m.2 droop delta
  ({ k1 with notice := decide (k1.q ≠ 0) || k1.halted || k1.realign }, m.2)

/-- Whether a stage's tree can run: lit or dark (R143). -/
def Stage.clocked (st : Stage) : Bool := st.st = .lit || st.st = .dark

/-! ### Aligned mode -/

/-- The follower of a splice: the side of the higher-numbered stage, which trims its line (R201). -/
def follower (n m : Nat) : Nat := if n < m then m else n

/-- A splice is open to traffic at one end: handshaken, not marked, not failed and not in a lane test (R46, R202). -/
def Link.carries (l : Link) : Bool := l.usable && !l.marked && !l.barred && !l.failed && !l.paused

/-- The trim of a follower's end is acquired with its last residual within 15 ps (R202, R204). -/
def Link.trimmed (l : Link) : Bool := l.phase = .acquired && !l.elastic && decide (-15 ≤ l.residual) && decide (l.residual ≤ 15)

/-- A splice end is free for aligned mode: open, with no map switch in progress (R202). -/
def Link.settled (l : Link) : Bool := l.carries && l.mapReq.isNone && l.mapAns.isNone

/-- The conditions of aligned mode on a side (R202): both stages lit, each driving the step code that it has from its
partner, with no notice, the trim acquired, and no lane test or map switch. A boundary splice is always elastic (R213). -/
def State.alignable (s : State) (n : Nat) (d : Side) : Bool :=
  match neighbour n d with
  | none => false
  | some m =>
    match s.stage n, s.stage m with
    | some a, some b =>
      let la := a.link d
      let lb := b.link d.opposite
      let f := if follower n m = n then la else lb
      a.st = .lit && b.st = .lit && decide (la.partner = a.clock.drive.step) && decide (lb.partner = b.clock.drive.step)
        && !a.clock.notice && !b.clock.notice && f.trimmed && la.settled && lb.settled
    | _, _ => false

/-- A splice whose conditions no longer hold is in elastic mode at both its ends (R202, R208). -/
def State.checkSide (s : State) (n : Nat) (d : Side) : State :=
  if s.alignable n d then s
  else
    let e : End := { stage := n, side := d, edge := false }
    s.modSplice e (fun l => if l.aligned then { l with aligned := false } else l)

/-- The four splices of a stage are checked. -/
def State.checkAligned (s : State) (n : Nat) : State := Side.all.foldl (fun t d => t.checkSide n d) s

/-- A stage's driving step code reaches each splice partner, which keeps the code before it (R202, R216). -/
def State.tellStep (s : State) (n : Nat) : State :=
  match s.stage n with
  | none => s
  | some st =>
    let d := st.clock.drive.step
    s.modAllAcross n (fun l => if l.partner = d then l else { l with partner := d, partOld := l.partner })

/-- What the moves of a stage's output switch do outside it: its splices leave aligned mode (R207, R208), and its partners
hear of its step. -/
def State.switched (s : State) (n : Nat) : State := (s.unalign n).tellStep n

/-! ### Rail voltages -/

/-- A pending test whose check is the re-check of a rail: the rail's own, a stage's sense, or a stage clock path tested
for persistent droop (R474 to R477). -/
def recheckTest (x : Nat) (t : Test) : Bool :=
  match t.unit with
  | .rail y => y = x
  | .sense n => decide (x < 24) && railOf n = x
  | .clockPath n => decide (x < 24) && railOf n = x && t.kinds.contains 0x09
  | _ => false

/-- A rail whose voltage the gaffer leaves alone: held, of broken sense, or its sense under test (R291, R473). -/
def State.offLoop (s : State) (x : Nat) : Bool :=
  (s.rail x).excluded || (s.rail x).recheck || decide ((s.rail x).broken ≠ 0) || s.tests.any (recheckTest x)

/-- A write-and-commit of a rail's voltage (R269, R288): the voltage before it is the last confirmed one, and the frames in
progress on its stages no longer run at 0.80 V throughout where it is another (R148). -/
def State.setVolt (s : State) (x v : Nat) : State :=
  (s.modRail x (fun r => { r with confirmed := r.volt, volt := v })).modStages (railStages x) (fun st =>
    { st with clock := { st.clock with marginOk := st.clock.marginOk && decide (v = 800) } })

/-- A stage of a rail is lit or dark. -/
def State.railLive (s : State) (x : Nat) : Bool :=
  (railStages x).any (fun m => match s.stage m with | none => false | some t => t.clocked)

/-- A stage of a rail is about to drive at a step (R290): above the highest step driven in the evaluation interval,
the rail rises by 25 mV a step, to 0.80 V at most. A rail with no lit or dark stage stands at 0.80 V and is not
raised (R289); one that the loop leaves alone keeps its voltage (R291). -/
def State.raiseFor (s : State) (n step : Nat) : State :=
  let x := railOf n
  let r := s.rail x
  if r.topStep < step then
    let s1 : State := s.modRail x (fun r => { r with topStep := step })
    if !s.railLive x || s.offLoop x then s1
    else
      let v := r.volt + 25 * (step - r.topStep)
      s1.setVolt x (if v ≤ 800 then v else 800)
  else s

/-- Rails whose every stage is unlit, retired or held are set to 0.80 V from this tick (R289), but for one that the loop
leaves alone (R291). -/
def State.restRails (s : State) : State :=
  (List.range 24).foldl (fun t x =>
    if t.railLive x || t.offLoop x then t
    else
      let t1 : State := t.modRail x (fun r => { r with topStep := 0 })
      if (t1.rail x).volt = 800 then t1 else t1.setVolt x 800) s

/-- A frame that ran at the usable fmax with its rail at 0.80 V joins the window of R148, stepped down or not. -/
def Stage.pushMargin (st : Stage) : Stage :=
  { st with clock := { st.clock with marginRun := (st.clock.downFrame :: st.clock.marginRun).take 256 } }

end Sys2Proof.Machine
end

