-- ==== Sys2Proof/Machine/Frames.lean ====
section
/-! DEFINITION. Shared operations of frames: done levels, the tick actions of Table 3.3, commit, the beginning of
takes, output release, trace at ticks, and how a context ends at a tick (spec/03_frames.md R95 to R132,
spec/01_stages.md R41 to R44, R51 to R54, spec/09_engines_and_shots.md R304, R313, R314, R328, spec/11_reels.md
R379, spec/12_host_ports.md R413). -/

namespace Sys2Proof.Machine

open Sys2Proof

/-! ### Done levels and tick actions -/

/-- The stages of a context as they stand. -/
def State.stagesOf (s : State) (c : Ctx) : List Stage := c.stages.filterMap s.stage

/-- A stage whose script runs in the frame: lit and not skipping (R314). -/
def Stage.working (st : Stage) : Bool := st.st = .lit && !st.skipping

/-- The done level of a stage at a cut-off: dark and skipping stages have no work while their idle count runs
(R104, R314); a working stage is done when its frame is (R103). -/
def Stage.doneNow (st : Stage) : Bool :=
  if st.working then st.seq.done else st.clocked && decide (0 < st.idle)

/-- Every stage meets R105 for the frame in progress. A rollback of the run-ahead epoch alone does not hold the
commit (R121, R124). -/
def State.commitOk (s : State) (c : Ctx) : Bool :=
  (s.stagesOf c).all Stage.doneNow && (match c.rollback with | none => true | some rb => !rb.both)

/-- R107 apart from the final frame: not parked, no rollback, every stage lit or dark, none in power-up, loaded. -/
def State.beginOk (s : State) (c : Ctx) : Bool :=
  !s.pins.parked && c.rollback.isNone && c.loaded
    && (s.stagesOf c).all (fun st => st.clocked && st.power.isNone)

/-- Every working stage marked the frame final, and there is one (R313). -/
def State.allFinal (s : State) (c : Ctx) : Bool :=
  (s.stagesOf c).any Stage.working && ((s.stagesOf c).filter Stage.working).all (fun st => st.seq.final)

/-- The working stages disagree on finality (R313). -/
def State.finalSplit (s : State) (c : Ctx) : Bool :=
  ((s.stagesOf c).filter Stage.working).any (fun st => st.seq.final) && !s.allFinal c

/-- A fifth take is not started (R454). -/
def takeLimit : Nat := 4

/-- The tick action of Table 3.3: the first row whose condition holds. -/
def State.tickActionOf (s : State) (c : Ctx) : TickAction :=
  if c.inFrame then
    match c.rollback with
    | some rb =>
      if rb.both then
        (if rb.wait.isEmpty && decide (c.rolledRun < takeLimit) then .retake else .wait)
      else if s.commitOk c then (if s.allFinal c then .end_ else .commitHold)
      else .wait
    | none =>
      if s.commitOk c then
        (if s.allFinal c then .end_ else if s.beginOk c then .commitBegin else .commitHold)
      else .wait
  else if s.beginOk c then .begin_
  else .hold

/-- A WAIT tick that is counted for the continuity window (R484). -/
def State.countedTick (s : State) (c : Ctx) : Bool :=
  c.inFrame && c.rollback.isNone && !s.gaffer.limited && !s.pins.parked && c.level.isNone && s.level4.isNone

/-- The coming tick counts: as its cut-off found, or, before its cut-off, as the state stands (R484). -/
def State.counts (s : State) (c : Ctx) : Bool := if c.action.isSome then c.counted else s.countedTick c

/-! ### Trace at ticks -/

/-- The change tick's wafer time, which stamps markers (R51). -/
def State.changeStamp (s : State) : Word := (s.time.lastTick.getD s.time.wafer).truncate 64

/-- A marker or summary entry stamped with the wafer time of the tick it belongs to, for a frame and take (R51, Table
12.21). -/
def State.traceTick (s : State) (n : Nat) (marker : Bool) (c : Ctx) (kind payload : Nat) : State :=
  s.modStage n (fun st => st.pushTrace marker
    { kind := kind, take := c.take, frame := c.frame, stamp := s.changeStamp, payload := BitVec.ofNat 128 payload })

/-- The lit marker of a stage that belongs to a context (R51, R52). -/
def State.litMarker (s : State) (n : Nat) : State :=
  match s.ctxOf n with
  | none => s
  | some (_, c) => s.traceTick n true c 0x02 0

/-- A stage becomes lit, with its marker, and takes the issue limit in force (R51, R278). -/
def State.makeLit (s : State) (n : Nat) : State :=
  (s.modStage n (fun st => { st with st := .lit, closing := none, limit := s.gaffer.limit })).litMarker n

/-! ### Commit -/

/-- Add counts, each saturating at 2^48 - 1 (R363). -/
def Counts.add (a b : Counts) : Counts :=
  let top := 2 ^ 48 - 1
  { nan := capAt top (a.nan + b.nan), inf := capAt top (a.inf + b.inf), ovf := capAt top (a.ovf + b.ovf)
    sat := capAt top (a.sat + b.sat), wrap := capAt top (a.wrap + b.wrap) }

/-- Whether any count is non-zero (R362). -/
def Counts.any (a : Counts) : Bool := a ≠ .zero

/-- The payload of an arithmetic-summary entry (Table 10.6). -/
def Counts.summary (a : Counts) : Nat :=
  capAt 0xFFFF a.nan + 2 ^ 16 * capAt 0xFFFF a.inf + 2 ^ 32 * capAt 0xFFFF a.ovf
    + 2 ^ 48 * capAt 0xFFFF a.sat + 2 ^ 64 * capAt 0xFFFF a.wrap

/-- What a commit does in a stage (R106, R362): the current journal epoch is freed, the run-ahead epoch becomes
current, staged outputs leave, and counts of run-ahead work stay. -/
def Stage.commitEpoch (st : Stage) : Stage :=
  { st with
    journal := (st.journal.filter JEntry.ahead).map (fun j => { j with ahead := false })
    cnt := st.cntAhead, cntAhead := .zero, staged := [], frames := st.frames + 1 }

/-- The idle counts of a commit (R42, R314) and dark entry (R41): a dark or skipping stage counts down; a stage whose
end-of-frame shot declared a count begins to skip, and one that did no work in the frame asks to go dark. -/
def Stage.commitIdle (st : Stage) : Stage :=
  let st1 : Stage :=
    if st.skipping then { st with idle := st.idle - 1 }
    else if 0 < st.idle then { st with skipping := true }
    else st
  let dark := st1.skipping && decide (st1.st = .lit) && decide (0 < st1.idle) && !st1.seq.worked && !st1.seq.spliced
    && !st1.seq.ahead
  { st1 with closing := if dark then some .dark else none }

/-- The call sheet's output map entry of a number. -/
def Ctx.outEntry (c : Ctx) (e : Nat) : Option OutEntry := c.reel.outs[e]?

/-- The host port of an output map entry (Table 11.11). -/
def Ctx.outPort (c : Ctx) (o : OutEntry) : Port :=
  if o.port = 0 then .a else if o.port = 1 then .b else c.port

/-- The tag line of a frame (R379). -/
def tagLine (frame : BitVec 48) : Line := frame.zeroExtend 512

/-- The host writes of one staged entry at the commit of a frame (R379, R413). -/
def outWrites (p : Nat) (id : BitVec 8) (frame : BitVec 48) (o : OutEntry) (g : Staged) : List HostOut :=
  let base := o.base + frame.toNat % o.count * o.stride
  g.lines.zipIdx.map (fun (l, i) => HostOut.line p id frame (base + 64 * i) l)
    ++ (if o.tag then [HostOut.line p id frame (base + 64 * g.lines.length) (tagLine frame)] else [])

/-- Every staged output of a context with its stage and entry, in ascending entry index (R413). -/
def State.stagedOf (s : State) (c : Ctx) : List (Nat × Staged × OutEntry) :=
  let all := c.stages.flatMap (fun n => match s.stage n with
    | none => []
    | some st => st.staged.map (fun g => (n, g)))
  c.reel.outs.zipIdx.flatMap (fun (o, e) =>
    (all.filter (fun x => decide (x.2.entry = e))).map (fun x => (x.1, x.2, o)))

/-- The writes of a commit on one port fall due, and what OUTPUT_WRITES_COMPLETE waits for is noted (R111, R413). -/
def State.releaseOn (s : State) (p : Nat) (c : Ctx) (q : Port) (xs : List (Nat × Staged × OutEntry)) : State :=
  let mine := xs.filter (fun x => decide (c.outPort x.2.2 = q))
  match mine with
  | [] => s
  | _ :: _ =>
    let ws := mine.flatMap (fun x => outWrites p c.id c.frame x.2.2 x.2.1)
    let marks := (mine.map (fun x => (x.1, q, c.frame.toNat))).dedup
    (s.modPort q (fun h => ws.foldl HostPort.post h)).modCtx p (fun c => { c with outs := c.outs ++ marks })

/-- The arithmetic summaries and context totals of a commit (R362, R363). -/
def State.tallyStage (s : State) (p n : Nat) (c : Ctx) : State :=
  match s.stage n with
  | none => s
  | some st =>
    let s1 : State := if st.cnt.any then s.traceTick n false c 0x04 st.cnt.summary else s
    s1.modCtx p (fun c => { c with totals := c.totals.add st.cnt })

/-- The frame of a context commits (R106): outputs are released, counts are added, journals are freed, idle counts
move, and the partition frame number rises; the largest number stays (R96; log entry 12). -/
def State.commitFrame (s : State) (p : Nat) (c : Ctx) : State :=
  let outs := s.stagedOf c
  let s1 : State := (s.releaseOn p c .a outs).releaseOn p c .b outs
  let s2 : State := c.stages.foldl (fun t n => t.tallyStage p n c) s1
  let s3 : State := s2.modStages c.stages (fun st => st.commitEpoch.commitIdle)
  s3.modCtx p (fun c => { c with
    frame := if c.frame = BitVec.allOnes 48 then c.frame else c.frame + 1
    take := 0, inFrame := false, noProg := 0, rolledRun := 0 })

/-- Each working stage's frame that ran at the usable fmax with its rail at 0.80 V counts towards a derate (R148). -/
def State.noteMargin (s : State) (c : Ctx) : State :=
  s.modStages c.stages (fun st => if st.working && st.clock.marginOk then st.pushMargin else st)

/-! ### Takes -/

/-- The script word of a kind's first shot (R304). -/
def StageRec.kindFirst (r : StageRec) (kind : Nat) : Nat :=
  match r.kinds[kind]? with
  | none => 0
  | some k => k.first

/-- Held signals are applied where they name the frame and take that begins and discarded otherwise; the Bool tells
whether a counter passed 0xFFFF (R326, R328). -/
def Seq.takeHeld (q : Seq) (frame : BitVec 48) (take : BitVec 4) : Seq × Bool :=
  let mine := q.held.filter (fun h => h.frame = frame.truncate 16 ∧ h.take = take)
  let sum (t : Nat) : Nat := q.tokens.getD t 0 + ((mine.filter (fun h => h.token = t)).map HeldSig.inc).sum
  let tokens := (List.range 32).map sum
  let q1 : Seq := { q with tokens := tokens.map (capAt 0xFFFF), held := [] }
  (q1, tokens.any (fun v => decide (0xFFFF < v)))

/-- The sequencer at the first shot of a kind, in the state of R119 and R306, with the ramp prologue of R189. -/
def Seq.beginKind (q : Seq) (r : StageRec) (kind : Nat) : Seq :=
  { Seq.start with pc := r.kindFirst kind, kind := kind, nextKind := kind, held := q.held, prologue := true }

/-- The working state that every take begins in: no shot in flight, accumulators and counts zero (R119). -/
def Stage.clearWork (st : Stage) : Stage :=
  { st with flights := [], acc := [], resid := [], cnt := .zero, staged := [] }

/-- A stage begins a take of a frame (R119, R304): a stage that runs ahead goes on (R112, R114); a skipping stage
does nothing and absorbs signals, save where its idle count has run out (R42, R314, R328). The Bool tells a token overflow. -/
def Stage.beginTake (st : Stage) (r : StageRec) (kind : Nat) (frame : BitVec 48) (take : BitVec 4) : Stage × Bool :=
  let absorbed : Stage := { st with seq := { st.seq with held := [] } }
  if st.skipping then (if st.idle = 0 then (st, false) else (absorbed, false))
  else if st.seq.ahead then
    let q0 : Seq := { st.seq with
      ahead := false, kind := kind, nextKind := kind, done := false, eof := false, final := false, spliced := false
      worked := decide (0 < st.seq.issued), prologue := false, noAhead := false }
    let r1 := q0.takeHeld frame take
    let st1 : Stage := { st with seq := r1.1, flights := st.flights.map (fun f => { f with ahead := false }) }
    (st1, r1.2)
  else
    let r1 := (st.seq.beginKind r kind).takeHeld frame take
    let st1 : Stage := { st.clearWork with seq := r1.1, idle := 0 }
    (st1, r1.2)

/-- Begin a take on one stage of a context; a token overflow fails the context (R326). -/
def State.beginStage (s : State) (c : Ctx) (n : Nat) (first retake : Bool) : State :=
  match s.stage n, c.stageRec n with
  | some st, some r =>
    let kind := if retake then st.seq.kind else if first then r.kind0 else st.seq.nextKind
    let (st1, full) := st.beginTake r kind c.frame c.take
    let s1 : State := s.putStage n st1
    if full then s1.failStageCtx n 0x16 else s1
  | _, _ => s

/-- The substitutions that waited for a retake in a partition, or for its context to end, may take effect at the next
tick (R458). -/
def State.freeWaits (s : State) (p : Nat) : State :=
  { s with tests := s.tests.map (fun t => if t.wait = .retake p then { t with wait := .tick } else t) }

/-- The stages of a context discard a step request, dark ones too (R132, R160). -/
def State.dropStep (s : State) (c : Ctx) : State :=
  s.modStages c.stages (fun st => { st with clock := st.clock.discard c.reel.floor })

/-- A new frame begins in a partition (R95, R107, R130): an accepted step change takes effect, and at frame 0 the
context's start is latched (R287, R390, R419). -/
def State.beginFrame (s : State) (p : Nat) : State :=
  match s.ctx p with
  | none => s
  | some c =>
    let oper := match c.stepReq with
      | some r => if r.accepted then r.code else c.oper
      | none => c.oper
    let c1 : Ctx := { c with inFrame := true, oper := oper, stepReq := none, take := 0, noProg := 0 }
    let c2 : Ctx :=
      if c.begun then c1
      else { c1 with
        begun := true, startStamp := s.stamp, startTick := s.time.tickCount, startEpoch := s.epochWord
        startEra := s.era, startEnergy := s.gaffer.latched }
    let s1 : State := (s.putCtx p (some c2)).modStages c.stages (fun st =>
      { st with clock := { st.clock with newTau := none, marginOk := true, downFrame := false } })
    c.stages.foldl (fun t n => t.beginStage c2 n (!c.begun) false) (s1.freeWaits p)

/-- A retake begins (R124, R328): the take count rises, and the substitutions that waited for it may take effect at
the next tick (R458). -/
def State.beginRetake (s : State) (p : Nat) : State :=
  match s.ctx p with
  | none => s
  | some c =>
    let c1 : Ctx := { c with
      take := c.take + 1, rollback := none, slips := c.slips + 1, noProg := 0, stepReq := none }
    let s1 : State := s.putCtx p (some c1)
    c.stages.foldl (fun t n => t.beginStage c1 n false true) ((s1.dropStep c).freeWaits p)

/-- A tick without progress (R109, R484, R486): a slip, and when it is counted the non-progress count rises, with
the shots-retired counters noted at the first. -/
def State.waitTick (s : State) (p : Nat) (c : Ctx) : State :=
  let s1 : State := s.modCtx p (fun d => { d with
    slips := d.slips + 1, noProg := if c.counted then d.noProg + 1 else d.noProg })
  if c.counted && decide (c.noProg = 0) then s1.modStages c.stages (fun st => { st with retiredOld := st.retired }) else s1

/-! ### How a context ends at a tick -/

/-- A context has ended at this tick, completed or failed: its values are latched, and its stages begin their release
unless a recovery level does that (R43, R108, R501, R502). -/
def State.endCtxTick (s : State) (p : Nat) (c : Ctx) (d : Bool × Nat × Nat × Nat) : State :=
  let e := s.endAt s.stamp s.time.tickCount d
  let hold := s.level4.isSome || (match c.level with | none => false | some lv => decide (3 ≤ lv.level))
  (((s.dropStep c).modCtx p (fun c => { c with
    ended := some e, endDue := none, inFrame := false, rollback := none, stepReq := none, action := none })).modStages
      c.stages (fun st => { st with
        releasing := st.releasing || !hold, stopped := true, closing := none })).freeWaits p

/-- The cut tick (R489): the context ends here with nothing committed, and its dark stages become lit (R490). -/
def State.cutCtxTick (s : State) (p : Nat) (c : Ctx) : State :=
  let e := s.endAt s.stamp s.time.tickCount (true, 0, 0xFF, 0xFF)
  let s1 : State := (s.dropStep c).modCtx p (fun c => { c with
    ended := some e, inFrame := false, rollback := none, stepReq := none, action := none
    cut := c.cut.map (fun k => { k with fixed := true }) })
  let s2 : State := s1.modStages c.stages (fun st => { st with closing := none })
  (c.stages.foldl (fun t n => match t.stage n with
    | none => t
    | some st => if st.st = .dark then t.makeLit n else t) s2).freeWaits p

end Sys2Proof.Machine
end

