-- ==== Sys2Proof/Machine/Tick.lean ====
section
/-! DEFINITION. The tick and the commit cut-off (spec/03_frames.md R93 to R110, spec/07_time_base.md R229 to R233,
spec/01_stages.md R40 to R54, spec/15_recovery.md R484, R489). -/

namespace Sys2Proof.Machine

open Sys2Proof

/-! ### The commit cut-off -/

/-- The cut-off for one partition (R104, R484, R489): a cut accepted by now makes the coming tick its cut tick; otherwise
the tick action of Table 3.3 is fixed, and whether a WAIT counts. A context that is ending has none. -/
def State.cutoffCtx (s : State) (c : Ctx) : Ctx :=
  if c.ended.isSome || c.endDue.isSome then c
  else
    match c.cut with
    | some k => { c with cut := some { k with fixed := true }, action := none }
    | none => { c with action := some (s.tickActionOf c), counted := s.countedTick c }

/-- COMMIT_CUTOFF: 64 ns before the tick edge each partition's tick action is decided (R104, R105, R107, R108). -/
def execCommitCutoff (s : State) : Host.Outcome State Fault Refusal :=
  if s.pins.bootDone && !s.inReset then .next { s with parts := s.parts.map (fun o => o.map s.cutoffCtx) } else .next s

/-! ### Contexts at the tick -/

/-- A committing tick (R96, R105, R106, R313): disagreement on finality fails the context with nothing committed;
the frame of the largest number ends it after its commit, and a cut accepted since the cut-off finds it ended. -/
def State.commitTick (s : State) (p : Nat) (c : Ctx) (a : TickAction) : State :=
  if s.finalSplit c then (if c.cut.isSome then s.cutCtxTick p c else s.endCtxTick p c (false, 0x17, 0xFF, 0xFF))
  else
    let s1 : State := (s.noteMargin c).commitFrame p c
    if a = .end_ then s1.endCtxTick p c (false, 0x00, 0xFF, 0xFF)
    else if c.frame = BitVec.allOnes 48 then
      (s1.modCtx p (fun c => { c with cut := none })).endCtxTick p c (false, 0x01, 0xFF, 0xFF)
    else if a = .commitBegin && c.rollback.isNone then s1.beginFrame p
    else s1

/-- A HOLD tick: a slip once frame 0 has begun (R109). -/
def State.holdTick (s : State) (p : Nat) (c : Ctx) : State :=
  if c.begun then s.modCtx p (fun c => { c with slips := c.slips + 1 }) else s

/-- Carry out a tick action (Table 3.3). A frame does not begin while a rollback that started since the cut-off is in
progress (R107, R121). -/
def State.runAction (s : State) (p : Nat) (c : Ctx) (a : TickAction) : State :=
  match a with
  | .end_ => s.commitTick p c a
  | .commitBegin => s.commitTick p c a
  | .commitHold => s.commitTick p c a
  | .retake => s.beginRetake p
  | .wait => s.waitTick p c
  | .begin_ => if c.rollback.isSome then s.holdTick p c else s.beginFrame p
  | .hold => s.holdTick p c

/-- One partition at the tick: a failure or reset due ends the context, a cut makes this its cut tick when its
cut-off saw it, and otherwise the fixed action runs; without a cut-off it is decided here (R108, R489). -/
def State.tickCtx (s : State) (p : Nat) : State :=
  match s.ctx p with
  | none => s
  | some c =>
    if c.ended.isSome then s
    else
      match c.endDue with
      | some d => s.endCtxTick p c d
      | none =>
        let late := match c.cut with
          | none => false
          | some k => k.fixed || c.action.isNone
        if late then s.cutCtxTick p c
        else
          let a := c.action.getD (s.tickActionOf c)
          let k := s.counts c
          (s.modCtx p (fun c => { c with action := none })).runAction p { c with action := none, counted := k } a

/-! ### Stages at the tick -/

/-- The frame slack that a stage's EOF formed passes at the tick, and joins the lowest of the evaluation interval (R153,
R288). -/
def Stage.passSlack (st : Stage) : Stage :=
  { st with slackEof := none, slackTick := st.slackEof, slackLow := minCode st.slackLow st.slackTick }

/-- The debt, the frame slack and the clock summary of the frame that the tick closes (R153, R184, R186, R233): a summary
for every lit stage of a context with a frame in progress. -/
def State.closeDebt (s : State) (n : Nat) : State :=
  match s.stage n with
  | none => s
  | some st =>
    if !st.clocked then s
    else
      let k : Clock := st.clock.holdTick s.freeCtr
      let debt := k.debtAt
      let s1 : State := s.putStage n { st.passSlack with clock := { k with debt := debt } }
      let s2 : State := if k.halted then s1.draw else s1
      match s2.ctxOf n with
      | none => s2
      | some (_, c) =>
        if st.st = .lit && c.inFrame then s2.traceTick n false c 0x03 (k.summary debt) else s2

/-- A derate takes effect (R148, R149). -/
def State.derateTick (s : State) (n : Nat) : State :=
  match (s.stage n).bind Stage.fmaxDue with
  | none => s
  | some f => (s.modStage n (fun st => { st with fmaxDue := none })).lowerFmax n f

/-- A dark stage that has left its partition returns to lit (R43). -/
def State.relight (s : State) (n : Nat) : State :=
  match s.stage n with
  | none => s
  | some st => if st.st = .dark && st.releasing then s.makeLit n else s

/-- The state changes of Table 1.5 that a tick makes by itself: a ready stage becomes lit (R48), a placed dark stage
becomes lit, an unassigned stage counts the tick (R44), and a lit one asks to go dark. -/
def State.stageTick (s : State) (n : Nat) : State :=
  match s.stage n with
  | none => s
  | some st =>
    if !st.enabled then s
    else
      match st.st, st.part with
      | .unlit, some _ =>
        if st.ready then
          (s.modStage n (fun t => { t with power := none, ready := false, unassigned := 0 })).makeLit n
        else s
      | .dark, some _ =>
        if !st.skipping && !st.releasing then (s.modStage n (fun t => { t with unassigned := 0 })).makeLit n else s
      | .dark, none => s.putStage n { st with unassigned := capAt 64 (st.unassigned + 1) }
      | .lit, none =>
        s.putStage n { st with unassigned := capAt 64 (st.unassigned + 1), closing := some .dark }
      | _, _ => s

/-- The condition of R148 on a frame as a tick leaves it: the stage drives at its usable fmax, or has made a local
step-down in the frame, with its rail at 0.80 V. -/
def Stage.keepMargin (st : Stage) (volt : Nat) : Stage :=
  let k := st.clock
  let ok := k.marginOk && decide (volt = 800) && (decide (k.drive.step = st.usable) || k.downFrame)
  { st with clock := { k with marginOk := ok } }

/-- The clock of a stage at the tick: its tree moves to its target step, with a rail raise where that is higher (R157,
R290), and the tick is closed (R164, R233). A move of the output switch leaves aligned mode (R207, R208). -/
def State.clockTick (s : State) (n : Nat) : State :=
  match s.stage n with
  | none => s
  | some st =>
    if !st.clocked then s
    else
      let goal := (s.ctxOf n).map (fun x => (x.2.tau st, x.2.reel.floor))
      let r := st.clock.closeTick goal st.droop s.delta s.time.wafer (Config.freeGap s.freeCtr)
      let s1 : State := s.modStage n (fun t => { t with clock := r.1 })
      let s2 : State := if r.2 then ((s1.switched n).raiseFor n r.1.drive.step).draw else s1
      s2.modStage n (fun t => t.keepMargin (s2.rail (railOf n)).volt)

/-- A lit stage of a context sends what its trace buffer holds (R423). -/
def State.sendTrace (s : State) (n : Nat) : State :=
  match s.stage n with
  | none => s
  | some st => if st.st = .lit then s.flushTrace n 17 else s

/-! ### The module at the tick -/

/-- Overruns are reported and cleared (R217). -/
def State.reportOverruns (s : State) : State :=
  let s1 : State := (s.xings.filter Xing.flag).foldl (fun t x => t.errorEvent (crossingErr 0x0E x.xid none) 0 x.count) s
  { s1 with xings := s1.xings.map (fun x => { x with flag := false, count := 0 }) }

/-- A tick in which a bound ring holds records the host has not consumed (R487). -/
def HostPort.stallTick (q : HostPort) : HostPort :=
  match q.ring with
  | none => q
  | some _ => if q.consumed < q.produced then { q with stallTicks := q.stallTicks + 1 } else { q with stallTicks := 0 }

/-- What each tick opens: the tick count rises (R93), the energy meter is latched (R286), a unit test that waited for a
tick may start (R475), and a trim acquisition that failed is repeated from now on (R206). -/
def State.startTick (s : State) : State :=
  { s with
    time := { s.time with tickCount := s.time.tickCount + 1 }
    gaffer := { s.gaffer with latched := s.gaffer.energy }
    tests := s.tests.map (fun t => if t.wait = .tick then { t with wait := .free } else t)
    stages := s.stages.map (fun st => st.modLinks (fun l => { l with trimWait := false })) }

/-- What each tick closes: a host port's stall count moves on (R487), the limited flag clears (R484), and a shadow
table of the interval unit takes effect (R262). -/
def State.endTick (s : State) : State :=
  { s with
    portA := s.portA.stallTick, portB := s.portB.stallTick
    gaffer := { s.gaffer with limited := false }
    iu := match s.iu.shadow with
      | none => s.iu
      | some t => { s.iu with tables := t, shadow := none } }

/-- Everything a counted tick does in the module's own order: counts and latches, dark stages of ended contexts,
debts and summaries, contexts, stage states, clocks, trace, and the reports and checks kept for a tick. -/
def State.tickBody (s : State) : State :=
  let all := List.range numStages
  let s2 : State := all.foldl State.relight s.startTick.measureTick.noteConcurrency
  let s3 : State := all.foldl State.derateTick (all.foldl State.closeDebt s2)
  let s4 : State := partNumbers.foldl State.tickCtx s3
  let s5 : State := all.foldl State.checkAligned (all.foldl State.clockTick (all.foldl State.stageTick s4))
  (((all.foldl State.sendTrace s5).reportOverruns.holdBroken none).restRails).endTick

/-- TICK: wafer time moves to the next tick boundary (log entry 8); ticks before the end of boot are made and not
counted (R94, R229); from then on the tick carries each partition's action to its stages (R93, R108). -/
def execTick (s : State) : Host.Outcome State Fault Refusal :=
  if s.inReset || !s.time.epochFixed then .next s
  else
    let now := s.nextTick
    let s0 : State := s.advance now
    let s1 : State := { s0 with time := { s0.time with lastTick := some now } }
    .next (if s.pins.bootDone then s1.tickBody else s1)

end Sys2Proof.Machine
end

