-- ==== Sys2Proof/Machine/Stages.lean ====
section
/-! DEFINITION. Stage states: idle and unassigned counts, release, lights-out and lights-on, crossings, and power-up
(spec/01_stages.md R40 to R54, spec/06_splices.md R211, R216 to R219, spec/14_faults.md R470 to R472). -/

namespace Sys2Proof.Machine

open Sys2Proof

/-! ### Idle and unassigned counts -/

/-- IDLE_COUNT_EXPIRY: a dark or skipping stage whose idle count has reached zero returns to work; when its
partition's next frame has begun at that tick the stage begins it (R42, R314). -/
def execIdleCountExpiry (n : Nat) (s : State) : Host.Outcome State Fault Refusal :=
  match s.stage n, s.ctxOf n with
  | some st, some (_, c) =>
    if st.skipping && decide (st.idle = 0) && st.clocked && c.ended.isNone then
      let s1 : State := s.putStage n { st with skipping := false, closing := none }
      let s2 : State := if st.st = .dark then s1.makeLit n else s1
      .next (if c.inFrame then s2.beginStage c n false false else s2)
    else .next s
  | _, _ => .next s

/-- A test of any unit of a stage is pending or running (R44, R460). -/
def State.testPending (s : State) (n : Nat) : Bool := s.tests.any (fun t => unitStage t.unit = some n)

/-- UNASSIGNED_COUNT_EXPIRY: an unassigned dark stage whose count is 64 and that has no self-test pending asks to go
unlit (R44). -/
def execUnassignedCountExpiry (n : Nat) (s : State) : Host.Outcome State Fault Refusal :=
  match s.stage n with
  | none => .next s
  | some st =>
    if st.st = .dark && st.part.isNone && decide (st.unassigned = 64) && !s.testPending n then
      .next (s.putStage n { st with closing := some .unlit })
    else .next s

/-! ### Release -/

/-- Zero written to every bank, journal, accumulator and the script store, and the counts reset (R43). -/
def Stage.zeroAll (st : Stage) : Stage :=
  { (st.emptyLand) with
    scratch := [], journal := [], acc := [], resid := [], script := [], scriptCrc := [], scriptLen := 0
    reload := none, staged := [], flights := [], seq := .start, traceBuf := [], traceDrop := 0, idle := 0
    unassigned := 0, skipping := false, cnt := .zero, cntAhead := .zero, closing := none }

/-- STAGE_RELEASE: a lit stage leaving its partition sends its trace, writes zero everywhere and resets its counts
(R43, R423). -/
def execStageRelease (n : Nat) (s : State) : Host.Outcome State Fault Refusal :=
  match s.stage n with
  | none => .next s
  | some st =>
    if st.releasing && st.st = .lit then .next ((s.flushTrace n 17).modStage n Stage.zeroAll) else .next s

/-- A stage of a partition whose release is done or that cannot make one: retired, held or without power. -/
def Stage.zeroed (st : Stage) : Bool :=
  if st.st = .lit then st.scratch.isEmpty && st.script.isEmpty && st.journal.isEmpty && st.traceBuf.isEmpty
  else !st.clocked && st.power.isNone

/-- A stage has left the context: released, or retired or held. -/
def State.gone (s : State) (p : Nat) (c : Ctx) (n : Nat) : Bool :=
  c.released.contains n || (match s.stage n with
    | none => true
    | some st => st.part ≠ some p || !st.enabled)

/-- Every stage of the partition has completed its release. -/
def State.allReleased (s : State) (p : Nat) (c : Ctx) : Bool := c.stages.all (fun n => s.gone p c n)

/-- Free a partition: its context is gone and no stage belongs to it (R387). -/
def State.freePart (s : State) (p : Nat) : State := ((s.keepLate p).modPart p Stage.unassign).putCtx p none

/-- RELEASE_COMPLETE: a stage's release is complete; after the last one a context that was not cut writes its
context-complete and wrap records and leaves its partition (R43, R418, R419). -/
def execReleaseComplete (n : Nat) (saveOk : Bool) (s : State) : Host.Outcome State Fault Refusal :=
  match s.stage n, s.ctxOf n with
  | some st, some (p, _) =>
    if st.releasing && st.zeroed then
      let s1 : State := (s.modStage n Stage.unassign).modCtx p (fun c => { c with released := n :: c.released })
      match s1.ctx p with
      | none => .next s1
      | some c =>
        match c.ended with
        | none => .next s1
        | some e =>
          if !s1.allReleased p c then .next s1
          else if c.recorded then .next (s1.freePart p)
          else if e.cut then .next s1
          else .next ((s1.endRecords p c e saveOk).freePart p)
    else .next s
  | _, _ => .next s

/-! ### Crossings -/

/-- A phase of a four-phase crossing has not completed in 2 µs (R218): an error event of kind 0x0C, classified
against the crossing; the second in a row is kind 0x0D, marks the crossing failed, and retires the stage that holds
it at once (Table 14.1). -/
def State.timeoutXing (s : State) (xid : BitVec 16) : State :=
  let x := s.xing xid
  if x.age = 0 then ((s.putXing x.timeout).errorEvent (crossingErr 0x0C xid none) 0 0).countCrossing xid 0x0C
  else
    let s1 : State := (s.putXing { x.timeout with failed := true }).errorEvent (crossingErr 0x0D xid none) 0 0
    if xidSite xid < 96 then s1.retireStage (xidSite xid) 0x00 0x0D 0x10 else s1

/-- What an event that was not delivered leaves (R218): a lights request abandons the change and leaves its splice
unusable; a tick that a lit stage did not take leaves the stage not done. -/
def State.undelivered (s : State) (xid : BitVec 16) : State :=
  let n := xidSite xid
  let kind := xidKind xid
  if kind = 4 then
    s.modStage n (fun st =>
      { st.modLink (Side.ofCode (xidInst xid)) (fun l => { l with usable := false }) with closing := none })
  else if kind = 2 then
    s.modStage n (fun st =>
      if st.st = .lit then { st with stopped := true, seq := { st.seq with done := false } } else st)
  else s

/-- CROSSING_TIMEOUT: the event of a four-phase crossing is not delivered and an error event names the crossing (R218,
R219). -/
def execCrossingTimeout (xid : BitVec 16) (s : State) : Host.Outcome State Fault Refusal :=
  if s.inReset || !xidFour xid then .next s else .next ((s.undelivered xid).timeoutXing xid)

/-- The destination of a double-sampled value keeps the last one it accepted (R216): the driving step at the supervisor
(R168) or at a splice partner (R202), a temperature (R292), a boundary pair (R232), a frame slack (R153). A CAP or CMD
code has its own rules (R83, R87). -/
def State.keepLast (s : State) (xid : BitVec 16) : State :=
  let i := xidInst xid
  s.modStage (xidSite xid) (fun st =>
    match xidKind xid with
    | 0x7 => { st with clock := { st.clock with supStep := st.clock.supOld } }
    | 0x8 => { st with temps := st.temps.set i (st.tempsOld.getD i 25) }
    | 0x9 => { st with clock := { st.clock with pairLag := st.clock.pairOld } }
    | 0xA => { st with slackTick := none }
    | 0xD => st.modLink (Side.ofCode i) (fun l => { l with partner := l.partOld })
    | _ => st)

/-- DOUBLE_SAMPLE_FAILURE: the destination keeps the last value and raises an error event (R216). A splice whose step
codes then differ is elastic (R208). -/
def execDoubleSampleFailure (xid : BitVec 16) (s : State) : Host.Outcome State Fault Refusal :=
  if s.inReset || !xidDouble xid then .next s
  else
    let s1 : State := (s.keepLast xid).checkAligned (xidSite xid)
    .next ((s1.errorEvent (crossingErr 0x0F xid none) 0 0).countCrossing xid 0x0F)

/-! ### Lights-out and lights-on -/

/-- The sides of a stage across which a handshake is made: a retired neighbour answers nothing and is not waited for (R28,
section 1.10). -/
def Stage.askable (st : Stage) : List Side := Side.all.filter (fun d => !(st.link d).barred)

/-- The stopped-clock timeouts of the sides that did not acknowledge (R47, R218). -/
def State.lightsTimeouts (s : State) (n : Nat) (sides : List Side) : State :=
  sides.foldl (fun t d => t.timeoutXing (stageXid n 4 d.code)) s

/-- The sides that acknowledged end their runs of timeouts (R218). -/
def State.lightsOk (s : State) (n : Nat) (sides : List Side) : State :=
  sides.foldl (fun t d => t.xingOk (stageXid n 4 d.code)) s

/-- The dark marker: the last entry before the clock gates (R51, R52). -/
def State.darkMarker (s : State) (n : Nat) : State :=
  match s.ctxOf n with
  | none => s
  | some (_, c) =>
    s.modStage n (fun st => st.pushTrace true
      { kind := 0x01, take := c.take, frame := c.frame, stamp := s.changeStamp, payload := 0 })

/-- A stage whose clock gates with target dark (R46, R183): its ends take no traffic, and no stretch or halt goes on. -/
def Stage.goDark (st : Stage) : Stage :=
  { st.modLinks (fun l => { l with usable := false, aligned := false }) with
    st := .dark, closing := none, clock := { st.clock with run := 0, halted := false, heldCores := 0 } }

/-- LIGHTS_OUT_HANDSHAKE: with all acknowledgements the neighbours' and edge blocks' sides are marked and the stage gates
its clock or opens its power switch; without one the change is abandoned and the crossing timed out (R46, section 1.10).
DESIGN CHOICE (log entry 46): an abandoned handshake marks no side; a mark that LIGHTS_OUT_REQUEST_RECEIVED has made
stands. -/
def execLightsOutHandshake (n : Nat) (target : LightsTarget) (noAck : List Side) (s : State) :
    Host.Outcome State Fault Refusal :=
  match s.stage n with
  | none => .next s
  | some st =>
    if st.closing ≠ some target then .next s
    else
      let miss := st.askable.filter (fun d => noAck.contains d)
      let s0 : State := s.lightsOk n (st.askable.filter (fun d => !noAck.contains d))
      if !miss.isEmpty then
        .next ((s0.modStage n (fun t => { t with closing := none })).lightsTimeouts n miss)
      else
        let s1 : State := s0.modAllAcross n Link.mark
        match target with
        | .dark => .next ((s1.darkMarker n).modStage n Stage.goDark)
        | .unlit => .next (s1.modStage n (fun t => { t.losePower with st := .unlit })).restRails

/-- LIGHTS_OUT_REQUEST_RECEIVED: the island marks its splice side, stops forwarding and acknowledges in every state but
retired (R28, R46). -/
def execLightsOutRequestReceived (n : Nat) (side : Side) (s : State) : Host.Outcome State Fault Refusal :=
  match s.stage n with
  | none => .next s
  | some st => if st.st = .retired then .next s else .next (s.putStage n (st.modLink side Link.mark))

/-- One end of a splice restarts: FIFO pointers, beat position, replay buffer and sequence numbers at zero, elastic mode
(R122, R197, R211). -/
def Link.restart (l : Link) : Link :=
  { l with
    txSeq := 0, unacked := [], sent := 0, again := 0, pos := 0, rxSeq := 0, nak := false, replay := false, aligned := false
    fifo := [], wptr := 0, rptr := 0, failRun := 0 }

/-- The far end of a lights-on handshake: it restarts, and the side's mark ends (R47, R211). -/
def Link.relit (l : Link) : Link := { l.restart with marked := false }

/-- One side of a lights-on handshake that was acknowledged (R47, R211): both ends restart, the far one's mark ends, and
the stage takes traffic. The mark of its own side stands while the stage across is dark or unlit; an edge block always
runs, so both ends of its splice are open. -/
def State.lightsOnSide (s : State) (n : Nat) (d : Side) : State :=
  let edge := (neighbour n d).isNone
  (s.modStage n (fun u => u.modLink d (fun l => { l.restart with usable := true, marked := l.marked && !edge }))).modAcross
    n d (fun l => { l.relit with usable := l.usable || edge })

/-- LIGHTS_ON_HANDSHAKE: a stage that has become lit takes traffic across each splice whose neighbour acknowledges,
both ends restarting; a side without acknowledgement stays unusable and its crossing times out (R47, R211). Only sides
not yet usable are asked, and no retired neighbour. -/
def execLightsOnHandshake (n : Nat) (noAck : List Side) (s : State) : Host.Outcome State Fault Refusal :=
  match s.stage n with
  | none => .next s
  | some st =>
    if st.st ≠ .lit then .next s
    else
      let asked := st.askable.filter (fun d => !(st.link d).usable)
      let miss := asked.filter (fun d => noAck.contains d)
      let got := asked.filter (fun d => !noAck.contains d)
      let s1 : State := got.foldl (fun t d => t.lightsOnSide n d) s
      .next ((s1.lightsOk n got).lightsTimeouts n miss)

/-- LIGHTS_ON_REQUEST_RECEIVED: a neighbour takes the request, resets its end and acknowledges (R28, R211). -/
def execLightsOnRequestReceived (n : Nat) (side : Side) (s : State) : Host.Outcome State Fault Refusal :=
  match s.stage n with
  | none => .next s
  | some st =>
    if st.st = .retired || (st.link side).barred then .next s else .next (s.putStage n (st.modLink side Link.relit))

/-! ### Power-up -/

/-- STAGE_POWER_UP: the switch of an unlit placed stage begins its ramp (R48, R470). -/
def execStagePowerUp (n : Nat) (s : State) : Host.Outcome State Fault Refusal :=
  match s.stage n with
  | none => .next s
  | some st =>
    if st.st = .unlit && !st.held && st.part.isSome && st.power.isNone && !st.ready then
      .next (s.putStage n { st with power := some { attempt := 1, ramping := true } })
    else .next s

/-- The two cores at power-up (R143): the driving core at the first target step, the spare one below it or at it. -/
def Clock.powerUp (k : Clock) (tau floor : Nat) : Clock :=
  { k with
    core0 := { step := tau, locked := true }, core1 := { step := spareStep tau floor, locked := true }
    drive1 := false, tau := tau, newTau := none, downTo := none, run := 0, q := 0, resync := true, realign := false
    lag := 0, pairLag := 0, pairOld := 0, halted := false, heldCores := 0, debt := 0
    detDelay := List.replicate 16 0, detRef := List.replicate 16 none, freeze := 0 }

/-- STAGE_READY: ramp, lock and zero fill are complete; the stage becomes lit at the next tick (R48, R143, R54). A rail that
has a stage at work rises for a higher step (R290). -/
def execStageReady (n : Nat) (s : State) : Host.Outcome State Fault Refusal :=
  match s.stage n, s.ctxOf n with
  | some st, some (_, c) =>
    match st.power with
    | some w =>
      if st.st = .unlit && w.ramping then
        let k : Clock := (st.clock.powerUp (c.tau st) c.reel.floor).report
        .next (((s.putStage n { st.zeroAll with ready := true, clock := k }).raiseFor n k.drive.step).tellStep n)
      else .next s
    | none => .next s
  | _, _ => .next s

/-- POWER_SWITCH_RAMP_FAILURE: the switch opens with an error event of kind 0x10; the first failure is retried and the
second retires the stage, failing its context (R49, R471, R472). -/
def execPowerSwitchRampFailure (n : Nat) (s : State) : Host.Outcome State Fault Refusal :=
  match s.stage n with
  | none => .next s
  | some st =>
    match st.power with
    | none => .next s
    | some w =>
      if !w.ramping || st.ready then .next s
      else if w.attempt = 1 then
        .next ((s.putStage n { st with power := some { w with ramping := false } }).errorEvent
          (stageErr 0x10 n none) 0x03 0)
      else .next ((s.errorEvent (stageErr 0x10 n none) 0x00 0).retireStage n 0x03 0x10 0x11)

/-- POWER_SWITCH_RETRY: 1 ms after the switch opened the ramp starts once more (R471). -/
def execPowerSwitchRetry (n : Nat) (s : State) : Host.Outcome State Fault Refusal :=
  match s.stage n with
  | none => .next s
  | some st =>
    match st.power with
    | none => .next s
    | some w =>
      if w.attempt = 1 && !w.ramping && !st.ready then
        .next (s.putStage n { st with power := some { attempt := 2, ramping := true } })
      else .next s

end Sys2Proof.Machine
end

