-- ==== Sys2Proof/Machine/Errors.lean ====
section
/-! DEFINITION. Detected errors and rollback: attribution, the abort, the restore, self-tests and substitution
(spec/03_frames.md R120 to R126, spec/09_engines_and_shots.md R310, R311, R332, spec/14_faults.md R451 to R469,
R541). -/

namespace Sys2Proof.Machine

open Sys2Proof

/-! ### Attribution and the start of a rollback -/

/-- The kinds whose action is a rollback (Table 14.1). -/
def rollsBack (kind : Nat) : Bool := [0x01, 0x02, 0x03, 0x06, 0x07].contains kind

/-- The context of a stage whose work an error can roll back: one that has not ended and is not about to. -/
def State.rollCtx (s : State) (n : Nat) : Option (Nat × Ctx) :=
  match s.ctxOf n with
  | none => none
  | some (p, c) => if c.ended.isSome || c.endDue.isSome then none else some (p, c)

/-- The cut-off has fixed that the coming tick commits the frame in progress (R104). -/
def Ctx.committing (c : Ctx) : Bool :=
  match c.action with
  | some .end_ => true
  | some .commitBegin => true
  | some .commitHold => true
  | _ => false

/-- The stages of a context that a rollback reaches: those whose script runs in the frame. Dark stages journaled nothing,
and a skipped frame has no work (R122, R123, R314). -/
def State.rollStages (s : State) (c : Ctx) : List Nat :=
  c.stages.filter (fun n => match s.stage n with
    | none => false
    | some st => st.working)

/-- A rollback starts or widens, or an error joins the one in progress (R121); the supervisor raises an abort to each of
its stages (R122, R217). A rollback of both epochs counts as one retake (R124) and discards the step request of the frame
(R132); with no frame in progress only run-ahead work is there to restore. -/
def State.startRollback (s : State) (p : Nat) (both : Bool) (kind n : Nat) : State :=
  match s.ctx p with
  | none => s
  | some c =>
    let whole := both && c.inFrame
    let fresh : Rollback := { both := whole, wait := s.rollStages c, aborted := [], kind := kind, stage := n }
    let started : Ctx :=
      if whole then { c with
        rollback := some fresh, retakes := c.retakes + 1, rolledRun := c.rolledRun + 1, stepReq := none }
      else { c with rollback := if fresh.wait.isEmpty then none else some fresh }
    let begun : State := (s.putCtx p (some started)).raiseXings 3 fresh.wait
    match c.rollback with
    | none => begun
    | some rb => if rb.both || !whole then s else begun

/-- The action field of the error event of a rollback (Table 12.13): both epochs, or the run-ahead epoch; escalation at
the fourth take (R454). -/
def State.rollAction (s : State) (p : Nat) : Nat :=
  match s.ctx p with
  | none => 0x00
  | some c =>
    match c.rollback with
    | none => 0x02
    | some rb => if rb.both then (if takeLimit ≤ c.rolledRun then 0x04 else 0x01) else 0x02

/-- Units that are tested by substitution (R457). -/
def substitutable : UnitId → Bool
  | .engine _ _ => true
  | .bank _ _ => true
  | .bankCol _ _ _ _ => true
  | .bankRow _ _ _ _ => true
  | _ => false

/-- An error starts or joins the test of its unit (R452). A unit with no free replacement whose joined errors alone
exceed ALLOW is lasting at once (R460). -/
def State.noteError (s : State) (u : Option UnitId) (kind : Nat) (wait : TestWait) : State :=
  match u with
  | none => s
  | some u =>
    let s1 : State := s.joinTest u kind wait
    match s1.testOf u, (unitStage u).bind s1.stage with
    | some t, some st =>
      if substitutable u && !t.moved && (st.substitute u).isNone && decide (s.allow < t.joined) then
        (s1.dropTest u).lasting u 0x01 t.kinds (some t)
      else s1
    | _, _ => s1

/-- A detected error that belongs to frame k + 1 (`next`) or to the frame in progress (R121, R451, R452): the rollback,
its error event, and its test, whose substitution waits for the retake (R458). -/
def State.detectIn (s : State) (e : ErrReport) (next : Bool) : State :=
  match s.rollCtx e.stage with
  | none => (s.errorEvent e 0x00 0).noteError e.unit e.kind .tick
  | some (p, c) =>
    let s1 : State := s.startRollback p (!next) e.kind e.stage
    let s2 : State := s1.errorEvent { e with ahead := next && c.inFrame } (s1.rollAction p) 0
    s2.noteError e.unit e.kind (.retake p)

/-- A detected error of a kind that rolls back, attributed by R120: to frame k + 1 when it arose in run-ahead work or
after the cut-off of a committing tick. -/
def State.detect (s : State) (e : ErrReport) : State :=
  match s.rollCtx e.stage with
  | none => s.detectIn e e.ahead
  | some (_, c) => s.detectIn e (e.ahead || c.committing)

/-- A detected error that escalates its partition to partition reset with no rollback (R180, R467). -/
def State.escalateError (s : State) (e : ErrReport) : State :=
  let s1 : State := s.errorEvent e (if (s.ctxOf e.stage).isSome then 0x04 else 0x00) 0
  let s2 : State := s1.noteError e.unit e.kind .tick
  match s2.ctxOf e.stage with
  | none => s2
  | some (p, _) => s2.enterLevel3 p e.kind e.stage

/-- The shot index of a script-store word (R309): the word and the iteration of the enclosing REPEAT. -/
def Seq.shotAt (q : Seq) (word : Nat) : BitVec 32 :=
  BitVec.ofNat 32 (word % 2 ^ 18 + 2 ^ 18 * ((match q.loop with | none => 0 | some l => l.iter) % 4096))

/-- A row of the script store, taken to hold 32 words as a bank row does (log entry 20). -/
def scriptRowOf (word : Nat) : Nat := word / 32

/-- A double-bit error, or a reserved encoding, in a fetched script word (R310, R311, R469): a detected error whose
512-word block is reloaded. -/
def State.scriptError (s : State) (n word : Nat) : State :=
  match s.stage n with
  | none => s
  | some st =>
    (s.detect { stageErr 0x02 n (some (.scriptRow n (scriptRowOf word))) with
      shot := st.seq.shotAt word, ahead := st.seq.ahead }).modStage n (fun t => { t with reload := some (word / 512) })

/-- SCRIPT_STORE_UNCORRECTABLE: a fetched script word has `bits` bits in error: two are a detected error, and one is
corrected and counted with no other effect (R310, R469). -/
def execScriptStoreUncorrectable (n word bits : Nat) (s : State) : Host.Outcome State Fault Refusal :=
  match s.stage n with
  | none => .next s
  | some st =>
    if st.st = .lit && s.live && st.part.isSome then
      .next (if 2 ≤ bits then s.scriptError n word
        else s.putStage n { st with scriptCorrected := st.scriptCorrected + bits })
    else .next s

/-! ### Bank errors -/

/-- The bank row that holds a line (R464). -/
def rowUnit (n phys line : Nat) : UnitId := .bankRow n phys (line / 4096) (line % 4096 / 4)

/-- A journal entry of a line in an epoch. -/
def Stage.journaled (st : Stage) (phys line : Nat) (ahead : Bool) : Bool :=
  st.journal.any (fun j => j.bank = phys && decide (j.line = line) && j.ahead == ahead)

/-- The logical engine that an error event names for a queue (Table 12.13). -/
def Dest.engineCode : Dest → Nat
  | .engine e => e
  | _ => 0xFF

/-- The physical bank of a logical bank (R27). -/
def Stage.physBank (st : Stage) (bank : Nat) : Nat := st.bankMap.getD bank bank

/-- The oldest shot in progress that reads or writes a line of a physical bank (R307). -/
def Stage.lineUser (st : Stage) (phys line : Nat) : Option Flight :=
  st.flights.find? (fun f => (f.reads ++ f.writes).any (fun r =>
    decide (st.physBank r.bank = phys) && decide (r.first ≤ line) && decide (line < r.first + r.count)))

/-- The report of an uncorrectable error in a used line: the shot in progress that uses it, with its engine, or neither
when a restore reads a journal line (Table 12.13). -/
def Stage.bankReport (st : Stage) (n phys line : Nat) (ahead restore : Bool) : ErrReport :=
  match if restore then none else st.lineUser phys line with
  | none => { stageErr 0x03 n (some (rowUnit n phys line)) with ahead := ahead }
  | some f =>
    { stageErr 0x03 n (some (rowUnit n phys line)) with ahead := ahead, engine := f.dest.engineCode, shot := f.index }

/-- An uncorrectable error by where the good content of its line lies (R467). An error of run-ahead work on a line of
the current epoch widens the rollback, unless the cut-off has already fixed the commit (log entry 21). -/
def State.bankError (s : State) (n phys line : Nat) (ahead restore : Bool) : State :=
  match s.stage n with
  | none => s
  | some st =>
    let e := st.bankReport n phys line ahead restore
    match s.rollCtx n with
    | none => s.detect e
    | some (_, c) =>
      let run := st.journaled phys line true
      let cur := st.journaled phys line false
      if restore then s.escalateError e
      else if ahead || c.committing then
        if run then s.detectIn e true
        else if cur && !c.committing then s.detectIn e false
        else s.escalateError e
      else if run || cur then s.detectIn e false
      else s.escalateError e

/-- BANK_UNCORRECTABLE: an uncorrectable error in a used line, or in a journal line during a restore (R467). -/
def execBankUncorrectable (n phys line : Nat) (ahead restore : Bool) (s : State) : Host.Outcome State Fault Refusal :=
  match s.stage n with
  | none => .next s
  | some st => if st.clocked then .next (s.bankError n phys line ahead restore) else .next s

/-- PREFETCH_SQUASH_ERROR: an uncorrectable error in a prefetched line squashed before use (R332): an event and a test,
with no rollback. -/
def execPrefetchSquashError (n phys line : Nat) (s : State) : Host.Outcome State Fault Refusal :=
  match s.stage n with
  | none => .next s
  | some st =>
    if st.clocked then
      .next ((s.errorEvent (stageErr 0x04 n (some (rowUnit n phys line))) 0x00 0).noteError
        (some (rowUnit n phys line)) 0x04 .tick)
    else .next s

/-- A column tracker with corrected errors of a column entered: its entry gains the rows, or the oldest of the
subarray's four entries makes way (R465). -/
def enterColumn (es : List ColEntry) (phys sub col : Nat) (rows : List Nat) : List ColEntry :=
  let mine (e : ColEntry) : Bool := e.bank = phys && decide (e.sub = sub)
  match es.find? (fun e => mine e && decide (e.col = col)) with
  | some e => es.map (fun x => if x = e then { x with rows := (x.rows ++ rows).dedup } else x)
  | none =>
    let kept := if 4 ≤ es.countP mine then
        (match es.find? mine with | none => es | some old => es.erase old)
      else es
    kept ++ [{ bank := phys, sub := sub, col := col, rows := rows.dedup, reads := 0 }]

/-- COLUMN_DETECTOR: corrected errors of a column enter its tracker; with four distinct rows the detector fires, raises
kind 0x05, and the column is substituted and tested (R465). -/
def execColumnDetector (n phys sub col : Nat) (rows : List Nat) (s : State) : Host.Outcome State Fault Refusal :=
  match s.stage n with
  | none => .next s
  | some st =>
    if !st.clocked then .next s
    else
      let es := enterColumn st.columns phys sub col rows
      let mine (e : ColEntry) : Bool := e.bank = phys && decide (e.sub = sub) && decide (e.col = col)
      let fires := es.any (fun e => mine e && decide (4 ≤ e.rows.length))
      let u : UnitId := .bankCol n phys sub col
      let s1 : State := s.putStage n { st with
        columns := if fires then es.filter (fun e => !mine e) else es, corrected := st.corrected + rows.length }
      .next (if fires then (s1.errorEvent (stageErr 0x05 n (some u)) 0x00 0).noteError (some u) 0x05 .tick else s1)

/-- CELL_TRACKER: a corrected error enters the subarray's cell tracker; a repeat at the same cell marks its row suspect,
to be substituted and tested with no error event (R466). -/
def execCellTracker (n phys sub row col : Nat) (s : State) : Host.Outcome State Fault Refusal :=
  match s.stage n with
  | none => .next s
  | some st =>
    if !st.clocked then .next s
    else
      let mine (x : CellEntry) : Bool := x.bank = phys && decide (x.sub = sub)
      match st.cells.find? (fun x => mine x && decide (x.row = row) && decide (x.col = col)) with
      | some e =>
        .next ((s.putStage n { st with cells := st.cells.erase e, corrected := st.corrected + 1 }).noteError
          (some (.bankRow n phys sub row)) 0x05 .tick)
      | none =>
        let kept := if 4 ≤ st.cells.countP mine then
            (match st.cells.find? mine with | none => st.cells | some old => st.cells.erase old)
          else st.cells
        .next (s.putStage n { st with
          cells := kept ++ [{ bank := phys, sub := sub, row := row, col := col, reads := 0 }]
          corrected := st.corrected + 1 })

/-! ### Error reports -/

/-- The action field of a kind that neither rolls back nor escalates (Table 14.1). -/
def plainAction (kind : Nat) : Nat :=
  if [0x0A, 0x10, 0x13].contains kind then 0x03 else if kind = 0x15 then 0x04 else 0x00

/-- The kinds that Table 14.1 marks as unclassified, or settles at once. -/
def unclassified (kind : Nat) : Bool :=
  [0x0E, 0x10, 0x14, 0x15, 0x17, 0x18, 0x19, 0x1A, 0x1B].contains kind

/-- The module takes a detected error (R451, R452, R455): the action of Table 14.1, its event and its test. -/
def State.takeError (s : State) (e : ErrReport) : State :=
  if rollsBack e.kind then s.detect e
  else if e.kind = 0x09 then s.escalateError e
  else if e.kind = 0x0C || e.kind = 0x0D then (if xidFour e.xid then (s.undelivered e.xid).timeoutXing e.xid else s)
  else if e.kind = 0x0E then (if xidFour e.xid then s.putXing (s.xing e.xid).merge else s)
  else if e.kind = 0x0F then
    (if xidDouble e.xid then
      (((s.keepLast e.xid).checkAligned (xidSite e.xid)).errorEvent e 0x00 0).countCrossing e.xid 0x0F
    else s)
  else if e.kind = 0x14 then (s.errorEvent e 0x00 0).retireStage e.stage 0x00 0x14 0x10
  else if e.kind = 0x1B then (s.errorEvent e 0x00 0).failStageCtx e.stage 0x14
  else
    let s1 : State := s.errorEvent e (plainAction e.kind) 0
    if unclassified e.kind then s1 else s1.noteError e.unit e.kind .tick

/-- ERROR_EVENT_RECEIVED: a detected error of a kind of Table 12.14 reaches the supervisor (R452); the raise of a stage's
error event has crossed to its island (R217). -/
def execErrorEventReceived (e : ErrReport) (s : State) : Host.Outcome State Fault Refusal :=
  if 0x01 ≤ e.kind ∧ e.kind ≤ 0x1B ∧ !s.inReset then
    .next ((if e.stage < 96 then s.xingOk (stageXid e.stage 5 0) else s).takeError e)
  else .next s

/-! ### The abort and the restore -/

/-- Write back pre-images in the order given (R122). -/
def restoreEntries (m : Cells 8) : List JEntry → Cells 8
  | [] => m
  | e :: es => restoreEntries (cellSetList m (lineKey e.bank e.line) (lineBytes e.old)) es

/-- Restore the journal, newest first: the run-ahead epoch, then the current epoch when it is included (R122). -/
def Stage.restore (st : Stage) (whole : Bool) : Stage :=
  let run := (st.journal.filter JEntry.ahead).reverse
  let cur := if whole then (st.journal.filter (fun j => !j.ahead)).reverse else []
  { st with
    scratch := restoreEntries st.scratch (run ++ cur)
    journal := if whole then [] else st.journal.filter (fun j => !j.ahead) }

/-- The abort of both epochs on one stage (R122, R119): issue stops, everything uncommitted is discarded, and the
sequencer stands at the start for the retake. -/
def Stage.abortBoth (st : Stage) (floor : Nat) : Stage :=
  { (st.restore true).emptyLand with
    flights := [], staged := [], acc := [], resid := [], cnt := .zero, cntAhead := .zero
    slackNow := none, slackEof := none
    clock := st.clock.discard floor
    seq := { Seq.start with kind := st.seq.kind, nextKind := st.seq.kind, held := st.seq.held } }

/-- The abort of run-ahead work alone (R121, R122): a stage that ran ahead is back where its frame ended. `all` restores
what a commit has already made current. -/
def Stage.abortAhead (st : Stage) (all : Bool) : Stage :=
  let st1 : Stage := { st.restore all with
    cntAhead := .zero, cnt := if all then .zero else st.cnt, slackNow := none, flights := st.flights.filter (fun f => !f.ahead) }
  if st.seq.ahead then
    { st1 with
      acc := [], resid := []
      seq := { Seq.start with
        kind := st.seq.kind, nextKind := st.seq.nextKind, held := st.seq.held, eof := true, done := true
        final := st.seq.final, worked := st.seq.worked, spliced := st.seq.spliced, noAhead := true } }
  else st1

/-- The sides of a stage whose splice has both ends in its partition. -/
def State.innerSides (s : State) (n p : Nat) : List Side :=
  Side.all.filter (fun d => match neighbour n d with
    | none => false
    | some m => match s.stage m with
      | none => false
      | some t => t.part = some p)

/-- ROLLBACK_ABORT: the abort reaches a stage of the rollback, which restores its journal and clears its state; with the
current epoch its inner splices restart (R122, R132). -/
def execRollbackAbort (n : Nat) (s : State) : Host.Outcome State Fault Refusal :=
  match s.stage n, s.ctxOf n with
  | some st, some (p, c) =>
    match c.rollback with
    | none => .next s
    | some rb =>
      if !rb.wait.contains n || rb.aborted.contains n then .next s
      else
        let st1 : Stage :=
          if rb.both then
            (s.innerSides n p).foldl (fun t d => t.modLink d Link.restart) (st.abortBoth c.reel.floor)
          else st.abortAhead (!c.inFrame)
        .next (((s.putStage n st1).modCtx p (fun c => { c with
          rollback := some { rb with aborted := n :: rb.aborted } })).xingOk (stageXid n 3 0))
  | _, _ => .next s

/-- ROLLBACK_COMPLETE: a stage that carried out its abort reports complete; a rollback of run-ahead work ends with the
last report, and one of both epochs waits for the RETAKE tick (R122, R124). -/
def execRollbackComplete (n : Nat) (s : State) : Host.Outcome State Fault Refusal :=
  match s.ctxOf n with
  | none => .next s
  | some (p, c) =>
    match c.rollback with
    | none => .next s
    | some rb =>
      if !rb.aborted.contains n then .next s
      else
        let wait := rb.wait.filter (fun m => m ≠ n)
        .next (s.modCtx p (fun c => { c with
          rollback := if wait.isEmpty && !rb.both then none else some { rb with wait := wait } }))

/-- RETAKE_LIMIT: the fourth consecutive rollback of a frame in both epochs escalates the partition (R454). -/
def execRetakeLimit (part : Nat) (s : State) : Host.Outcome State Fault Refusal :=
  match s.ctx part with
  | none => .next s
  | some c =>
    match c.rollback with
    | none => .next s
    | some rb =>
      if rb.both && decide (takeLimit ≤ c.rolledRun) then .next (s.enterLevel3 part rb.kind rb.stage) else .next s

/-! ### Self-tests and substitution -/

/-- A stage on which a unit without replacement can be tested in place: powered, and dark, skipping or unassigned
(R460). -/
def Stage.testable (st : Stage) : Bool := st.clocked && (st.st = .dark || st.skipping || st.part.isNone)

/-- The test of a splice direction (R479): with no failing lane it is classified, and the splice resumes when it was
transient; failing lanes leave it paused for the map switch (R222) or the failure (R223). -/
def State.spliceTested (s : State) (n : Nat) (side : Side) (rx : Bool) (lanes : List Nat) : State :=
  let u : UnitId := .spliceDir n side rx
  match lanes with
  | [] =>
    (s.classify u false).modSplice { stage := n, side := side, edge := false } (fun l =>
      { l with paused := false, errAge := [] })
  | _ :: _ =>
    { s with tests := s.tests.map (fun t => if t.unit = u then { t with running := true, lanes := lanes } else t) }

/-- The test of a stage clock path (R173, R476): failing detectors are masked; a failing core or monitor makes the path
lasting, and a path whose cores and monitors pass is classified by count (R159). -/
def State.clockTested (s : State) (n : Nat) (r : TestResult) (kinds : List Nat) : State :=
  let u : UnitId := .clockPath n
  let s1 : State := r.detectors.foldl (fun t d =>
    if d < 16 then t.maskDetector n d 0x00 (kinds.headD 0) else t) s
  s1.classify u r.failed

/-- SELF_TEST_COMPLETE: the test of a unit that runs has ended, and the unit is classified (R452, R456 to R461, R541).
Rails and senses are settled by their re-check, ring lanes by their own test. -/
def execSelfTestComplete (unit : UnitId) (result : TestResult) (s : State) : Host.Outcome State Fault Refusal :=
  match s.testOf unit, (unitStage unit).bind s.stage with
  | some t, some st =>
    match unit with
    | .scriptRow _ _ => if st.releasing || st.part.isNone then .next (s.classify unit result.failed) else .next s
    | .clockPath n => .next (s.clockTested n result t.kinds)
    | .spliceDir n side rx => .next (s.spliceTested n side rx result.lanes)
    | .channel _ _ => .next (s.classify unit result.failed)
    | u => if substitutable u && (t.moved || st.testable) then .next (s.classify u result.failed) else .next s
  | _, _ => .next s

/-- SUBSTITUTION: at its tick a unit's logical role moves to a replacement of its class (R457 to R459, R30); an engine's
counts as a stand-in engagement of the context. -/
def execSubstitution (unit : UnitId) (s : State) : Host.Outcome State Fault Refusal :=
  match s.testOf unit, unitStage unit with
  | some t, some n =>
    match s.stage n with
    | none => .next s
    | some st =>
      let isEngine := match unit with | .engine _ _ => true | _ => false
      if !substitutable unit || t.moved || t.wait ≠ .free || (!isEngine && !t.copied) then .next s
      else
        match st.substitute unit with
        | none => .next s
        | some r =>
          let s1 : State := { (s.putStage n r.stage) with tests := s.tests.map (fun x =>
            if x.unit = unit then { x with moved := true, repl := r.index, wide := r.wide } else x) }
          match isEngine, s1.ctxOf n with
          | true, some (p, _) => .next (s1.modCtx p (fun c => { c with standIns := c.standIns + 1 }))
          | _, _ => .next s1
  | _, _ => .next s

/-- SUBSTITUTION_COPY_COMPLETE: the copy of a row, column or bank into its replacement is complete; the map switches at
the first tick after it, and after the retake where one is due (R458, R459). -/
def execSubstitutionCopyComplete (unit : UnitId) (s : State) : Host.Outcome State Fault Refusal :=
  match s.testOf unit, (unitStage unit).bind s.stage with
  | some t, some st =>
    let isEngine := match unit with | .engine _ _ => true | _ => false
    if !substitutable unit || isEngine || t.moved || t.copied || (st.substitute unit).isNone then .next s
    else
      .next { s with tests := s.tests.map (fun x =>
        if x.unit = unit then { x with copied := true, wait := if x.wait = .free then .tick else x.wait } else x) }
  | _, _ => .next s

/-- SCRIPT_BLOCK_RELOAD: the erring block is read again through the port of submission, checked and rewritten; a read
error or a wrong CRC escalates the partition (R469). A read through a port that cannot send ends in an error (R540). -/
def execScriptBlockReload (n block : Nat) (bytes : Option (List Byte)) (s : State) :
    Host.Outcome State Fault Refusal :=
  match s.stage n, s.ctxOf n with
  | some st, some (p, c) =>
    if st.reload ≠ some block then .next s
    else
      let words := if 512 * (block + 1) ≤ st.scriptLen then 512 else st.scriptLen - 512 * block
      match if (s.port c.port).canSend then bytes else none with
      | none => .next ((s.modStage n (fun t => { t with reload := none })).enterLevel3 p 0x02 n)
      | some bs =>
        if bs.length = 8 * words ∧ some (crc32 bs) = st.scriptCrc[block]? then
          .next (s.putStage n { st with
            reload := none, script := cellSetList st.script (512 * block) (words64 words bs) })
        else .next ((s.modStage n (fun t => { t with reload := none })).enterLevel3 p 0x02 n)
  | _, _ => .next s

end Sys2Proof.Machine
end

