-- ==== Sys2Proof/Machine/Clocks.lean ====
section
/-! DEFINITION. Thin margin, core locks, derating, the fmax ledger and operating-step changes
(spec/04_clock_generation.md R145 to R168, spec/08_gaffer.md R290). -/

namespace Sys2Proof.Machine

open Sys2Proof

/-! ### Moves of the output switch -/

/-- The output switch moves to the spare core, which realigns the tree (R158, R164); a droop request at the first edge
stretches it (R181). `target` is the step the vacated core is sent to. -/
def Clock.switchTo (k : Clock) (target : Nat) (droop : Bool) (delta : Nat) (gap : BitVec 16) : Clock :=
  let k1 : Clock := { k with realign := false }.swap gap
  let k2 : Clock := k1.putSpare (k1.spare.retune target)
  if droop then
    { k2.lose delta with q := delta, run := k2.run + 1, stretched := k2.stretched + 1, notice := true }
  else { k2 with q := 0, run := 0, notice := false }

/-- The step that a core off the tree is sent back to: the new target step while a change is under way, else τ (R155,
R163). -/
def Clock.home (k : Clock) : Nat := k.newTau.getD k.tau

/-- A stage reports ready for the step request of its context (R160). -/
def State.readyFor (s : State) (n : Nat) : State :=
  match s.ctxOf n with
  | none => s
  | some (p, _) =>
    s.modCtx p (fun c => { c with
      stepReq := c.stepReq.map (fun r => { r with waiting := r.waiting.filter (fun m => m ≠ n) }) })

/-- The ready report falls due when the core off the tree is locked at the new step, a waiting step-down made first (R160,
R163). -/
def State.checkReady (s : State) (n : Nat) : State :=
  match s.stage n with
  | none => s
  | some st =>
    match st.clock.newTau with
    | none => s
    | some t =>
      if st.clock.downTo.isNone && st.clock.spare.locked && decide (st.clock.spare.step = t) then s.readyFor n else s

/-- A local step-down (R155): the tree moves to the spare core, locked one step lower, and a trace entry is written. -/
def State.stepDown (s : State) (n : Nat) (st : Stage) : State :=
  let d := st.clock.drive.step
  let k : Clock := { st.clock.switchTo st.clock.home st.droop s.delta (Config.freeGap s.freeCtr) with
    downTo := none, downFrame := true, downs := st.clock.downs + 1 }
  let s1 : State := (s.putStage n { st with clock := k }).switched n
  (s1.traceAt n false 0x06 (s1.correctedStamp n) (d + 16 * (d - 1))).draw

/-- Thin margin (R152): within some 8 consecutive counted cycles the lowest slack code is below 4 on 2 or more. -/
def thin : List Nat → Bool
  | [] => false
  | c :: cs => decide (2 ≤ ((c :: cs).take 8).countP (fun x => decide (x < 4))) || thin cs

/-- The lowest of several slack codes. -/
def lowCode (codes : List Nat) : Option Nat := codes.foldl (fun m c => minCode m (some c)) none

/-- THIN_MARGIN: the lowest slack codes of consecutive counted cycles, which count towards the frame slack (R153) and decide
thin margin (R152): a step-down at once when the spare core is locked one step lower (R155); otherwise the spare core
retunes there first (R156); at the floor step a floor-margin error (R159). -/
def execThinMargin (n : Nat) (codes : List Nat) (s0 : State) : Host.Outcome State Fault Refusal :=
  let s : State := s0.modStage n (fun st =>
    if st.st = .lit then { st with slackNow := minCode st.slackNow (lowCode codes) } else st)
  match s.stage n, s.ctxOf n with
  | some st, some (_, c) =>
    let d := st.clock.drive.step
    if st.st ≠ .lit || st.clock.halted || !thin codes then .next s
    else if d ≤ c.reel.floor then
      .next (s.detect { stageErr 0x06 n (some (.clockPath n)) with ahead := st.seq.ahead })
    else if st.clock.spare.locked && decide (st.clock.spare.step + 1 = d) then
      .next ((s.stepDown n st).checkReady n)
    else
      .next (s.putStage n { st with clock :=
        { st.clock.putSpare (st.clock.spare.retune (d - 1)) with downTo := some (d - 1) } })
  | _, _ => .next s

/-- A core of a clock by number. -/
def Clock.core (k : Clock) (core : Nat) : Core := if core = 1 then k.core1 else k.core0

/-- Put a core by number. -/
def Clock.putCore (k : Clock) (core : Nat) (c : Core) : Clock :=
  if core = 1 then { k with core1 := c } else { k with core0 := c }

/-- A core that has lost lock leaves the tree for a spare core locked at or below its step and at or above the floor
(R167). -/
def Clock.rescue (k : Clock) (floor delta : Nat) (droop : Bool) (gap : BitVec 16) : Clock :=
  if !k.drive.locked && k.spare.locked && decide (k.spare.step ≤ k.drive.step) && decide (floor ≤ k.spare.step) then
    { k.switchTo k.home droop delta gap with downTo := none }
  else k

/-- The floor step of a stage's context, 0 without one. -/
def State.floorOf (s : State) (n : Nat) : Nat :=
  match s.ctxOf n with
  | none => 0
  | some (_, c) => c.reel.floor

/-- CORE_RETUNE_LOCK: a retuning core locks (R156). A waiting step-down is made, a stage without a locked driving core
goes on (R167), and a ready report falls due (R160, R163). -/
def execCoreRetuneLock (n core : Nat) (s : State) : Host.Outcome State Fault Refusal :=
  match s.stage n with
  | none => .next s
  | some st =>
    if !st.clocked || (st.clock.core core).locked || decide (1 < core) then .next s
    else
      let k : Clock := st.clock.putCore core { st.clock.core core with locked := true }
      let k1 : Clock := k.rescue (s.floorOf n) s.delta st.droop (Config.freeGap s.freeCtr)
      let st1 : Stage := { st with clock := k1 }
      let s1 : State := s.putStage n st1
      let s2 : State :=
        match k1.downTo with
        | some d =>
          if k1.spare.locked && decide (k1.spare.step = d) && decide (d + 1 = k1.drive.step) then s1.stepDown n st1 else s1
        | none => if k1.drive1 = k.drive1 then s1 else (s1.switched n).draw
      .next (s2.checkReady n)

/-- CORE_LOCK_LOST: a driving core's loss of lock is a detected error, and the stage moves to the spare core when it can
or stops issue until a core is locked; a spare core's loss raises an event alone, and the core is relocked (R167). -/
def execCoreLockLost (n core : Nat) (s : State) : Host.Outcome State Fault Refusal :=
  match s.stage n with
  | none => .next s
  | some st =>
    if !st.clocked || !(st.clock.core core).locked || decide (1 < core) then .next s
    else
      let drives := decide (core = 1) == st.clock.drive1
      let k : Clock := st.clock.putCore core { st.clock.core core with locked := false }
      if drives then
        let s1 : State := s.detect { stageErr 0x07 n (some (.clockPath n)) with ahead := st.seq.ahead }
        let k1 : Clock := k.rescue (s.floorOf n) s.delta st.droop (Config.freeGap s1.freeCtr)
        .next ((s1.modStage n (fun t => if t.clocked then { t with clock := k1 } else t)).switched n).draw
      else
        let s1 : State := s.putStage n { st with clock := k }
        .next ((s1.errorEvent (stageErr 0x08 n (some (.clockPath n))) 0x00 0).noteError (some (.clockPath n)) 0x08 .tick)

/-! ### Derating and the ledger -/

/-- FMAX_DERATE: 32 frames with step-downs in the window of 256 lower the usable fmax by one step from the next tick on;
below step 0 the stage is retired (R148, R149). -/
def execFmaxDerate (n : Nat) (s : State) : Host.Outcome State Fault Refusal :=
  match s.stage n with
  | none => .next s
  | some st =>
    if st.st = .retired || decide (st.clock.marginRun.count true < 32) then .next s
    else if st.usable = 0 then .next (s.retireStage n 0x04 0x00 0x10)
    else
      let st1 : Stage := { st with
        derates := capAt 255 (st.derates + 1), lastDerate := s.time.dayCount.toNat, fmaxDue := some (st.usable - 1)
        clock := { st.clock with marginRun := [] }.limitTarget (st.usable - 1) }
      .next (s.putStage n st1)

/-- LEDGER_WRITE: the ledger goes to the copy not in use; a write that fails leaves the flash as it was (R146, R148). -/
def execLedgerWrite (ok : Bool) (s : State) : Host.Outcome State Fault Refusal :=
  if !ok || s.inReset || !s.ledgerRead then .next s else .next s.saveLedger

/-! ### Operating-step changes -/

/-- STEP_BROADCAST_RECEIVED: a stage takes the new step and computes its target; it is ready at once when it drives there,
and otherwise retunes its spare core, after a step-down that is already waiting (R160). A core vacated by an earlier
step-down is retuned to the new target too (R163). -/
def execStepBroadcastReceived (n : Nat) (s : State) : Host.Outcome State Fault Refusal :=
  match s.stage n, s.ctxOf n with
  | some st, some (_, c) =>
    match c.stepReq with
    | none => .next s
    | some r =>
      if !st.clocked || r.accepted || !r.waiting.contains n || st.clock.newTau.isSome then .next s
      else
        let f := st.fmaxDue.getD st.usable
        let t := if r.code ≤ f then r.code else f
        let k : Clock := { st.clock with newTau := some t }
        let k1 : Clock :=
          if k.downTo.isSome || (decide (k.drive.step = t) && decide (k.tau ≤ t)) then k else k.putSpare (k.spare.retune t)
        let s1 : State := s.putStage n { st with clock := k1 }
        .next (if k.drive.step = t && k.downTo.isNone then s1.readyFor n else s1.checkReady n)
  | _, _ => .next s

/-- STEP_ACCEPTED: every stage has reported ready: the request is accepted and the STEP shot retires (R130, R160); rails
of stages about to drive at a higher step are raised (R290). -/
def execStepAccepted (part : Nat) (s : State) : Host.Outcome State Fault Refusal :=
  match s.ctx part with
  | none => .next s
  | some c =>
    match c.stepReq with
    | none => .next s
    | some r =>
      if r.accepted || !r.waiting.isEmpty then .next s
      else
        let s1 : State := s.modCtx part (fun c => { c with stepReq := some { r with accepted := true } })
        let s2 : State := s1.modPart part (fun st => { st with seq := { st.seq with stepWait := false } })
        .next (c.stages.foldl (fun t n => match t.stage n with
          | none => t
          | some st => match st.clock.newTau with
            | none => t
            | some k => t.raiseFor n k) s2)

end Sys2Proof.Machine
end

