-- ==== Sys2Proof/Machine/Control.lean ====
section
/-! DEFINITION. The slate, the cap code and the commands of the control ports (spec/02_control_plane.md R73 to R91),
with what the commands start: cuts (R488), park (R90, R91), levels 4 and 5 (R502, R503), re-discipline (R243) and
calibrate-now (R262). -/

namespace Sys2Proof.Machine

open Sys2Proof

/-! ### The slate -/

/-- A port's pending request. -/
def Slate.req (sl : Slate) : Port → Bool
  | .a => sl.reqA
  | .b => sl.reqB

/-- A revoked port that is not yet eligible again (R78). -/
def Slate.inel (sl : Slate) : Port → Bool
  | .a => sl.inelA
  | .b => sl.inelB

/-- A port's strobe, as honoured. -/
def Slate.stb (sl : Slate) : Port → Bool
  | .a => sl.stbA
  | .b => sl.stbB

/-- Set a port's request. -/
def Slate.setReq (sl : Slate) (p : Port) (v : Bool) : Slate :=
  match p with
  | .a => { sl with reqA := v }
  | .b => { sl with reqB := v }

/-- Set a port's eligibility mark. -/
def Slate.setInel (sl : Slate) (p : Port) (v : Bool) : Slate :=
  match p with
  | .a => { sl with inelA := v }
  | .b => { sl with inelB := v }

/-- Set a port's strobe and acknowledge together (R85, R88). -/
def Slate.setHand (sl : Slate) (p : Port) (v : Bool) : Slate :=
  match p with
  | .a => { sl with stbA := v, ackA := v }
  | .b => { sl with stbB := v, ackB := v }

/-- A port that can be granted: requesting and eligible (R74, R78). -/
def Slate.eligible (sl : Slate) (p : Port) : Bool := sl.req p && !sl.inel p

/-- Grant a port at a time; its heartbeat interval begins (R77). -/
def Slate.give (sl : Slate) (p : Port) (now : WaferTime) : Slate := { sl with holder := some p, hbAt := now }

/-- Grant when no port holds the slate: the one eligible requester, or by the tie bit when both ports' requests
appeared in the same cycle (R74, R75). -/
def Slate.judge (sl : Slate) (now : WaferTime) (tie : Bool) : Slate :=
  match sl.holder with
  | some _ => sl
  | none =>
    match sl.eligible .a, sl.eligible .b with
    | false, false => sl
    | true, false => sl.give .a now
    | false, true => sl.give .b now
    | true, true =>
      if tie then { sl.give sl.tie now with tie := sl.tie.other } else sl.give sl.tie now

/-- SLATE_REQUEST: synchronised requests first seen together in one reference cycle (R74, R75). Requests in reset are
ignored (Table 2.13). -/
def execSlateRequest (reqA reqB : Bool) (s : State) : Host.Outcome State Fault Refusal :=
  if s.inReset then .next s
  else
    let sl : Slate := { s.slate with reqA := s.slate.reqA || reqA, reqB := s.slate.reqB || reqB }
    .next { s with slate := sl.judge s.time.wafer (reqA && reqB) }

/-- The holder loses its grant: its handshake drops (R88) and an eligible pending request is granted (R76). -/
def Slate.drop (sl : Slate) (p : Port) (now : WaferTime) : Slate :=
  let s1 : Slate := { sl.setHand p false with holder := none }
  if s1.eligible p.other then s1.give p.other now else s1

/-- SLATE_RELEASE: a port deasserts its request; a holder's grant is dropped and the other port's pending request is
granted (R76, R81). -/
def execSlateRelease (p : Port) (s : State) : Host.Outcome State Fault Refusal :=
  if s.inReset then .next s
  else
    let sl : Slate := s.slate.setReq p false
    .next { s with slate := if sl.holder = some p then sl.drop p s.time.wafer else sl }

/-- SLATE_HEARTBEAT: a transition of the holder's heartbeat restarts its timeout (R77). -/
def execSlateHeartbeat (p : Port) (s : State) : Host.Outcome State Fault Refusal :=
  if s.slate.holder = some p then .next { s with slate := { s.slate with hbAt := s.time.wafer } } else .next s

/-- SLATE_REVOCATION: the holder's heartbeat has been silent for 8 ms: the grant is revoked, an entry names the port,
the port is ineligible, and a pending request is granted (R77, R78). -/
def execSlateRevocation (s : State) : Host.Outcome State Fault Refusal :=
  match s.slate.holder with
  | none => .next s
  | some p =>
    let s1 : State := { s with slate := (s.slate.setInel p true).drop p s.time.wafer }
    .next (s1.log 0x03 (leBytes 1 p.code))

/-- SLATE_REELIGIBLE: the revoked port's request has been deasserted for 100 µs (R78). -/
def execSlateReeligible (p : Port) (s : State) : Host.Outcome State Fault Refusal :=
  if s.slate.inel p && !s.slate.req p then .next { s with slate := s.slate.setInel p false } else .next s

/-! ### The cap code -/

/-- CAP_CODE_ACCEPT: the holder's code is accepted (R73, R82); the gaffer takes it at its next update. -/
def execCapCodeAccept (p : Port) (code : BitVec 4) (s : State) : Host.Outcome State Fault Refusal :=
  if s.slate.holder = some p && !s.inReset then .next { s with slate := { s.slate with cap := some code } } else .next s

/-- CAP_CROSSING_ERROR: the last code stays and an error event of kind 0x0F names the CAP crossing of the South block
(R83, R216, Table 6.6). -/
def execCapCrossingError (p : Port) (s : State) : Host.Outcome State Fault Refusal :=
  if s.slate.holder = some p && !s.inReset then
    let xid : BitVec 16 := BitVec.ofNat 16 (0x60B0 + p.code)
    .next ((s.errorEvent (crossingErr 0x0F xid none) 0 0).countCrossing xid 0x0F)
  else .next s

/-! ### Commands -/

/-- The four-phase command handshake and the state check (R73, R85, R89): only the holder's strobe is honoured and
none in reset; an accepted command is acknowledged, and runs only when `ok`, else an entry says so. -/
def State.command (s : State) (p : Port) (code : Nat) (ok : Bool) (f : State → State) : State :=
  if s.inReset || s.slate.holder ≠ some p || s.slate.stb p then s
  else
    let s1 : State := { s with slate := s.slate.setHand p true }
    if ok then f s1 else s1.log 0x02 (leBytes 1 p.code ++ leBytes 1 code ++ leBytes 1 s.code)

/-- CMD_IDLE (R85, Table 2.19). -/
def execCmdIdle (p : Port) (s : State) : Host.Outcome State Fault Refusal :=
  .next (s.command p 0 true (fun t => t))

/-- CMD_CUT_ALL: running, parked or recovering; a cut of every context is requested (R488). -/
def execCmdCutAll (p : Port) (s : State) : Host.Outcome State Fault Refusal :=
  .next (s.command p 1 (s.code = 3 || s.code = 4 || s.code = 5) (fun t => t.cutAll (.control p)))

/-- CMD_PARK: ready or running (R90). -/
def execCmdPark (p : Port) (s : State) : Host.Outcome State Fault Refusal :=
  .next (s.command p 2 (s.code = 2 || s.code = 3) (fun t => { t with pins := { t.pins with parked := true } }))

/-- CMD_UNPARK: parked (R91); a module that awaits a commanded power cycle stays parked (R503, R504). -/
def execCmdUnpark (p : Port) (s : State) : Host.Outcome State Fault Refusal :=
  .next (s.command p 3 (s.code = 4) (fun t =>
    if t.pins.pwrCycleReq then t else { t with pins := { t.pins with parked := false } }))

/-- CMD_CHIP_COMPUTE_RESET: ready, running, parked or recovering; escalation level 4 is entered with trigger 0x84
(R498, R502). -/
def execCmdChipComputeReset (p : Port) (s : State) : Host.Outcome State Fault Refusal :=
  .next (s.command p 4 (s.code = 2 || s.code = 3 || s.code = 4 || s.code = 5) (fun t => t.enterLevel4 0x84 0xFF))

/-- CMD_DUMP_POWER_CYCLE: every state but reset, booting and stopped; level 5 with the module parked (R503). -/
def execCmdDumpPowerCycle (p : Port) (saveOk copyOk : Bool) (s : State) : Host.Outcome State Fault Refusal :=
  .next (s.command p 5 (s.code ≠ 1 && s.code ≠ 6) (fun t =>
    ({ t with pins := { t.pins with parked := true } }).runLevel5 0x85 0xFF t.stamp saveOk copyOk))

/-- Re-discipline (R243): the anchor, the loop history and any lock go. A module that disciplines to PPS acquires
afresh, holding its correction when it was locked; a slave restarts its servo with no step, a step that waits for a tick
apart; with no time source the ageing correction is recomputed. A discipline event says so (Table 7.7). -/
def State.rediscipline (s : State) : State :=
  let s1 : State :=
    if s.ppsActive then
      let held := s.time.pps.locked || s.time.holdover
      let s1 : State := s.kindHoldover
      { s1 with time := { s1.time with
          pps := { Pps.idle with ignored := s.time.pps.ignored, lastEdge := s.time.pps.lastEdge }, holdover := held
          corr := if held then s1.time.corr else s1.yAge } }
    else if s.isSlave then
      let s1 : State := s.kindHoldover
      { s1 with time := { s1.time with
          holdover := s1.time.holdover || s1.time.slave.locked
          corr := if s1.time.holdover || s1.time.slave.locked then s1.time.corr else s1.yAge
          slave := { s1.time.slave with
            delays := [], offsets := [], lastOff := 0, acquired := false, locked := false, lockRun := 0, badRun := 0 } } }
    else { s with time := { s.time with corr := s.yAge } }
  s1.discipline 0x08

/-- CMD_REDISCIPLINE: ready, running or parked (R243). -/
def execCmdRediscipline (p : Port) (s : State) : Host.Outcome State Fault Refusal :=
  .next (s.command p 6 (s.code = 2 || s.code = 3 || s.code = 4) State.rediscipline)

/-- CMD_CALIBRATE_NOW: ready, running or parked, unless STRAP_IUCAL selects factory only; the hourly collection
starts at once with trigger command (R262, Table 2.19). DESIGN CHOICE (log entry 42): while a collection runs, the command
gives that collection its trigger, and one record ends it. -/
def execCmdCalibrateNow (p : Port) (s : State) : Host.Outcome State Fault Refusal :=
  .next (s.command p 7 ((s.code = 2 || s.code = 3 || s.code = 4) && s.strap 18 ≠ 2) (fun t =>
    { t with iu := { t.iu with collecting := some 2 } }))

/-- CMD_STROBE_FALL: the module lowers the acknowledge (R85). -/
def execCmdStrobeFall (p : Port) (s : State) : Host.Outcome State Fault Refusal :=
  if s.slate.stb p then .next { s with slate := s.slate.setHand p false } else .next s

/-- CMD_CROSSING_ERROR: the code never agreed: acknowledged, nothing executed, and an error event of kind 0x0F names
the CMD crossing (R87). -/
def execCmdCrossingError (p : Port) (s : State) : Host.Outcome State Fault Refusal :=
  .next (s.command p 0 true (fun t =>
    let xid : BitVec 16 := BitVec.ofNat 16 (0x60C0 + p.code)
    (t.errorEvent (crossingErr 0x0F xid none) 0 0).countCrossing xid 0x0F))

end Sys2Proof.Machine
end

