-- ==== Sys2Proof/Machine/Delivery.lean ====
section
/-! DEFINITION. Records at a port's head, the ring, the producer word, MSI-X and output completion
(spec/12_host_ports.md R406 to R414, R540). -/

namespace Sys2Proof.Machine

open Sys2Proof

/-- A port whose records go to a ring: bound, and able to send (R395, R410). -/
def HostPort.bound (q : HostPort) : Bool := q.ring.isSome && q.canSend

/-- Units of a ring of 2^n bytes. -/
def ringUnits (r : Ring) : Nat := 2 ^ (r.exponent - 4)

/-- Whether `units` fit (R410). -/
def HostPort.fits (q : HostPort) (units : Nat) : Bool :=
  match q.ring with
  | none => false
  | some r => decide (units + (q.produced - q.consumed) ≤ ringUnits r)

/-- Write a record's bytes at the produced position, going on from the start of the ring at its end (R409). -/
def HostPort.ringWrite (q : HostPort) (r : Ring) (rec : Record) : HostPort :=
  let bytes := rec.bytes q.seq
  let pos := q.produced % ringUnits r
  let room := 16 * (ringUnits r - pos)
  let outs :=
    if bytes.length ≤ room then [HostOut.ring (16 * pos) bytes]
    else [HostOut.ring (16 * pos) (bytes.take room), HostOut.ring 0 (bytes.drop room)]
  { q with
    sent := q.sent ++ outs, produced := q.produced + rec.body.units, seq := q.seq + 1, prodDue := true
    dropped := false }

/-- A record dropped at the head takes the next sequence number and is counted; the first since the last written
record signals vector 2 (R408, R410, R412). -/
def HostPort.dropOne (q : HostPort) : HostPort :=
  let q1 : HostPort := { q with
    lost := q.lost + 1, firstLost := if q.lost = 0 then q.seq else q.firstLost, lastLost := q.seq
    lostBind := q.lostBind + 1, seq := q.seq + 1, dropped := true }
  if q.dropped then q1 else q1.msix 2

/-- Drop `n` records at the head (R411). -/
def HostPort.dropMany : Nat → HostPort → HostPort
  | 0, q => q
  | n + 1, q => HostPort.dropMany n q.dropOne

/-- The lost-record count record of a port (Table 12.17). -/
def HostPort.lostRecord (q : HostPort) (time : Word) : Record :=
  { ctx := 0, epoch := 0, time := time
    body := .lost (capAt 0xFFFFFFFF q.lost) q.firstLost.toNat q.lastLost.toNat q.lostBind }

/-- A record reaches the head (R410): written, after the lost-record count record when records were lost and both
fit, or dropped. -/
def HostPort.deliver (q : HostPort) (rec : Record) (now : Word) : HostPort :=
  match q.ring with
  | none => q.dropOne
  | some r =>
    if !q.canSend then q.dropOne
    else if q.lost = 0 then (if q.fits rec.body.units then q.ringWrite r rec else q.dropOne)
    else if q.fits (3 + rec.body.units) then
      let q1 : HostPort := q.ringWrite r (q.lostRecord now)
      ({ q1 with lost := 0 }).ringWrite r rec
    else q.dropOne

/-- RECORD_AT_PORT_HEAD: the record or drop marker at the front of the port's queue is dealt with (R408 to R411). -/
def execRecordAtPortHead (p : Port) (s : State) : Host.Outcome State Fault Refusal :=
  match (s.port p).queue with
  | [] => .next s
  | .item r :: rest =>
    .next (s.modPort p (fun q => ({ q with queue := rest }).deliver r s.stamp))
  | .drop n :: rest => .next (s.modPort p (fun q => HostPort.dropMany n { q with queue := rest }))

/-- RECORD_QUEUE_DROP: a record of `units` units that finds the queue full becomes part of a drop marker (R411). -/
def execRecordQueueDrop (p : Port) (units : Nat) (s : State) : Host.Outcome State Fault Refusal :=
  .next (s.modPort p (fun q =>
    if 262144 < queueBytes q.queue + 16 * units then { q with queue := joinDrop q.queue } else q))

/-- PRODUCER_WORD_WRITE: the produced count goes to the producer word of a binding that exists (R409, R540); vector 0
falls due (R412). -/
def execProducerWordWrite (p : Port) (s : State) : Host.Outcome State Fault Refusal :=
  match (s.port p).ring with
  | none => .next s
  | some r =>
    if (s.port p).prodDue then
      .next (s.modPort p (fun q =>
        { q.post (.producer r.producer q.produced) with prodDue := false, vec0Due := true }))
    else .next s

/-- MSIX_RECORD_VECTOR: vector 0 after a producer-word write, at most once per 4 µs: the command comes when it is due
(R412, log entry 6). -/
def execMsixRecordVector (p : Port) (s : State) : Host.Outcome State Fault Refusal :=
  if (s.port p).vec0Due then
    .next (s.modPort p (fun q => { q.msix 0 with vec0Due := false, vec0At := some s.time.wafer }))
  else .next s

/-- An output line of a frame of a context is still held on a port (R540). -/
def HostPort.holds (q : HostPort) (part : Nat) (id : BitVec 8) (frame : Nat) : Bool :=
  q.held.any (fun o => match o with
    | .line p i f _ _ => decide (p = part) && decide (i = id) && decide (f.toNat = frame)
    | _ => false)

/-- OUTPUT_WRITES_COMPLETE: every output write of the oldest outstanding commit of a partition on a port has been
transmitted and acknowledged; its staging slots are free and vector 8 + p is signalled (R111, R414). The commits of a
context that has ended come first. -/
def execOutputWritesComplete (p : Port) (part : Nat) (s : State) : Host.Outcome State Fault Refusal :=
  match (s.port p).late.find? (fun x => x.1 = part) with
  | some x =>
    if (s.port p).holds x.1 x.2.1 x.2.2 then .next s
    else .next (s.modPort p (fun q => ({ q with late := q.late.filter (fun y => y ≠ x) }).msix (8 + part)))
  | none =>
    match s.ctx part with
    | none => .next s
    | some c =>
      match c.outs.find? (fun o => decide (o.2.1 = p)) with
      | none => .next s
      | some o =>
        if (s.port p).holds part c.id o.2.2 then .next s
        else
          .next ((s.modCtx part (fun c => { c with
            outs := c.outs.filter (fun x => !(decide (x.2.1 = p) && decide (x.2.2 = o.2.2))) })).modPort p
              (fun q => q.msix (8 + part)))

end Sys2Proof.Machine
end

