-- ==== Sys2Proof/Machine/Droop.lean ====
section
/-! DEFINITION. Droop: detectors, stretched and halted cycles, realignment, persistent droop and the notice
(spec/05_droop_and_stretch.md R169 to R186, spec/06_splices.md R207, spec/14_faults.md R478). -/

namespace Sys2Proof.Machine

open Sys2Proof

/-! ### Detectors -/

/-- Every reference of the stage is frozen: a detector is tripped, a halt goes on, or 16 stage cycles have not passed since
either (R170). -/
def Clock.frozen (k : Clock) : Bool := decide (k.tripped ≠ 0) || k.halted || decide (0 < k.freeze)

/-- A detector's replica delay is read, with the reference that its average has reached, which a freeze holds back (R169,
R170). -/
def Clock.readDet (k : Clock) (det delay ref : Nat) : Clock :=
  { k with
    detDelay := k.detDelay.set det delay
    detRef := if k.frozen && (k.detRef.getD det none).isSome then k.detRef else k.detRef.set det (some ref) }

/-- The margin loss of a detector lies at or above the trip point, which is within half a percentage point of the threshold
of STRAP_DROOP (R169). -/
def Clock.tripsAt (k : Clock) (det pct : Nat) : Bool :=
  match k.detRef.getD det none with
  | none => false
  | some r => decide ((199 + 2 * pct) * r ≤ 200 * k.detDelay.getD det 0)

/-- The margin loss of a detector lies more than one percentage point below the threshold (R171). -/
def Clock.clearsAt (k : Clock) (det pct : Nat) : Bool :=
  match k.detRef.getD det none with
  | none => true
  | some r => decide (100 * k.detDelay.getD det 0 < (99 + pct) * r)

/-- A detector trips (R169). -/
def Clock.trip (k : Clock) (det : Nat) : Clock := { k with tripped := k.tripped ||| BitVec.ofNat 16 (2 ^ det) }

/-- A detector clears; the freeze goes on for 16 stage cycles after the last one (R170, R171). -/
def Clock.untrip (k : Clock) (det : Nat) : Clock :=
  { k with tripped := k.tripped &&& ~~~ BitVec.ofNat 16 (2 ^ det), freeze := 16 }

/-! ### Edges -/

/-- One due rising edge with the droop request present (R178): stretched while the run is below N, else the tree halts. A
halted tree has no further due edge. -/
def Clock.dueEdge (k : Clock) (limit delta : Nat) : Clock :=
  if k.halted then k
  else if k.run < limit then
    { k.lose delta with run := k.run + 1, q := k.q + delta, stretched := k.stretched + 1, notice := true }
  else { k with halted := true, heldCores := 0, halts := k.halts + 1, stretched := k.stretched + 1, notice := true }

/-- Due edges in order. -/
def Clock.dueEdges (limit delta : Nat) : Nat → Clock → Clock
  | 0, k => k
  | e + 1, k => Clock.dueEdges limit delta e (k.dueEdge limit delta)

/-- The cycle that is due with the request clear (R178, R182): the run ends, and a realignment that was put off completes
with the lag its quarters need. -/
def Clock.clearEdge (k : Clock) : Clock :=
  if k.realign then
    let r := (4 - k.q % 4) % 4
    { k.lose r with run := 0, q := 0, realign := false, notice := false }
  else { k with run := 0 }

/-- Edges that fall due with the request clear; each is a stage cycle of the freeze (R170). -/
def Clock.clearEdges (k : Clock) (edges : Nat) : Clock :=
  if k.halted || decide (edges = 0) then k
  else
    let k1 := k.clearEdge
    { k1 with freeze := if k.tripped = 0 then k1.freeze - edges else k1.freeze }

/-- The edges that fall due on a stage after a detector has changed, before the next command of the stage (R178): the first
stretch makes its splices elastic (R207, R208). -/
def State.passEdges (s : State) (n : Nat) (st : Stage) (edges : Nat) : State :=
  if st.droop then
    if edges = 0 then s.putStage n st
    else (s.putStage n { st with clock := Clock.dueEdges s.runLimit s.delta edges st.clock }).unalign n
  else s.putStage n { st with clock := st.clock.clearEdges edges }

/-- DROOP_TRIP: a detector's margin loss reaches the threshold and it trips; while the request of the unmasked detectors is
present each due edge of a lit stage is stretched or halted (R169 to R178). `delay` is its replica delay and `ref` the
average that its reference has reached; `edges` counts the edges that fall due before the next command of the stage. -/
def execDroopTrip (n det delay ref edges : Nat) (s : State) : Host.Outcome State Fault Refusal :=
  match s.stage n with
  | none => .next s
  | some st =>
    if !st.clocked || decide (16 ≤ det) then .next s
    else
      let k := st.clock.readDet det delay ref
      .next (s.passEdges n { st with clock := if k.tripsAt det s.droopPct then k.trip det else k } edges)

/-- DROOP_CLEAR: a detector's margin loss has stayed low and it clears; with the last one the stage leaves droop (R171),
and the run ends at the next due edge (R178). A halted tree waits for HALT_END. -/
def execDroopClear (n det delay edges : Nat) (s : State) : Host.Outcome State Fault Refusal :=
  match s.stage n with
  | none => .next s
  | some st =>
    if !st.clocked || decide (16 ≤ det) then .next s
    else
      let k : Clock := { st.clock with detDelay := st.clock.detDelay.set det delay }
      .next (s.passEdges n { st with clock := if k.clearsAt det s.droopPct then k.untrip det else k } edges)

/-- The length of a halt in whole reference cycles, rounded up (R179): a core cycle of step s lasts 5 / (9 + s) ns. -/
def haltLength (cores step : Nat) : Nat := (cores * 5 + 4 * (9 + step) - 1) / (4 * (9 + step))

/-- HALT_END: the request is clear at least δ core cycles after the due edge and the tree runs again (R178). A halt of at
most 2 µs is a droop overrun, with a trace entry (R179). Of a halt begun before the last tick, what that tick has counted
is not counted again (R184); DESIGN CHOICE (log entry 36): its whole length stands in the longest-halt field of the frame
in which it ends (R186). -/
def execHaltEnd (n coreCycles : Nat) (s : State) : Host.Outcome State Fault Refusal :=
  match s.stage n with
  | none => .next s
  | some st =>
    if !st.clocked || !st.clock.halted || st.droop || decide (coreCycles < s.delta) then .next s
    else
      let len := haltLength coreCycles st.clock.drive.step
      let short := decide (len ≤ 500)
      let k : Clock := { st.clock.lose (coreCycles - st.clock.heldCores) with
        halted := false, heldCores := 0, run := 0, q := st.clock.q + coreCycles, freeze := 16
        longest := if st.clock.longest < len then len else st.clock.longest
        overruns := if short then st.clock.overruns + 1 else st.clock.overruns }
      let s1 : State := s.putStage n { st with clock := k.clearEdge }
      if short then .next (s1.traceAt n false 0x07 (s1.correctedStamp n) (capAt 0xFFFF len)) else .next s1

/-- PERSISTENT_DROOP: a halt has not ended after 2 µs: the stage reports it, and its partition goes to partition reset with
the tests of the clock path and the rail (R180, R476). -/
def execPersistentDroop (n : Nat) (s : State) : Host.Outcome State Fault Refusal :=
  match s.stage n with
  | none => .next s
  | some st =>
    if st.clocked && st.clock.halted then .next (s.escalateError (stageErr 0x09 n (some (.clockPath n)))) else .next s

/-- A test of a unit that no error joins (R478): it counts nothing against the allowance. -/
def State.startTest (s : State) (u : UnitId) (kind : Nat) : State :=
  match s.testOf u with
  | some _ => s
  | none =>
    let s1 : State := s.joinTest u kind .tick
    { s1 with tests := s1.tests.map (fun t => if t.unit = u then { t with joined := 0 } else t) }

/-- DROOP_OVERRUN_LIMIT: a stage's overruns reach 256 in an hour: its clock-path test runs and the count returns to zero;
once every stage of the rail that is not retired has reached it, the rail is re-checked too (R478). -/
def execDroopOverrunLimit (n : Nat) (s : State) : Host.Outcome State Fault Refusal :=
  match s.stage n with
  | none => .next s
  | some st =>
    if st.st = .retired || decide (st.clock.overruns < 256) then .next s
    else
      let s1 : State := s.putStage n { st with clock := { st.clock with overruns := 0, limitHit := true } }
      let s2 : State := s1.startTest (.clockPath n) 0x09
      let all := (railStages (railOf n)).all (fun m => match s2.stage m with
        | none => true
        | some t => decide (t.st = .retired) || t.clock.limitHit)
      .next (if all then s2.startTest (.rail (railOf n)) 0x09 else s2)

/-- NOTICE_ASSERT: a stage whose edges leave their alignment asserts its notice, and its splices switch to elastic mode
(R207, R208). -/
def execNoticeAssert (n : Nat) (s : State) : Host.Outcome State Fault Refusal :=
  match s.stage n with
  | none => .next s
  | some st =>
    if st.clocked then .next ((s.putStage n { st with clock := { st.clock with notice := true } }).unalign n)
    else .next s

end Sys2Proof.Machine
end

