-- ==== Sys2Proof/Machine/Ports.lean ====
section
/-! DEFINITION. The BAR0 words, binding, submission and slots, the CUT word, and the resets, links and returns of a
host port (spec/12_host_ports.md R395 to R405, R415, R422, R540, spec/14_faults.md R483,
spec/16_electrical.md R519). -/

namespace Sys2Proof.Machine

open Sys2Proof

/-- Mailbox words are acted on from the end of boot (R519), out of reset. -/
def State.hears (s : State) : Bool := s.pins.bootDone && !s.inReset

/-- A malformed write: discarded with an error event of kind 0x18 that names the port and offset (R397). -/
def State.malformed (s : State) (p : Port) (offset : Nat) : State := s.portEvent 0x18 p offset

/-! ### Submission -/

/-- SUBMIT: the descriptor fetch begins (R402); reserved address bits make the write malformed (R397). -/
def execSubmit (p : Port) (word : Word) (s : State) : Host.Outcome State Fault Refusal :=
  if !s.hears then .next s
  else if word.toNat % 64 ≠ 0 then .next (s.malformed p 0x0000)
  else .next (s.modPort p (fun q => { q with submitAt := q.submitAt ++ [word] }))

/-- What a fetched submission descriptor comes to (R402, Table 12.4). -/
inductive SubmitResult where
  | malformed
  | status (addr code : Nat) (tag : Nat)
  | request (sub : Submission) (addr : Nat)
  deriving DecidableEq, Repr

/-- Judge a fetched submission descriptor (R402). -/
def judgeSubmit (p : Port) (f : Fetch) : SubmitResult :=
  let reel := fieldAt f.bytes 0 8
  let len := fieldAt f.bytes 8 8
  let st := fieldAt f.bytes 16 8
  let tag := fieldAt f.bytes 24 8
  if f.err then
    if f.statusOk && st % 8 = 0 then .status st 0x04 (if f.tagOk then tag else 0) else .malformed
  else if st % 8 ≠ 0 then .malformed
  else if reel % 4096 = 0 && len % 4096 = 0 && decide (8192 ≤ len) && decide (len ≤ 2 ^ 32)
      && decide (fieldAt f.bytes 32 32 = 0) then
    .request { port := p, addr := reel, len := len, tag := BitVec.ofNat 64 tag } st
  else .status st 0x03 tag

/-- A submission status word (Table 12.5), followed by vector 1. -/
def State.status (s : State) (p : Port) (addr code slot tag : Nat) : State :=
  s.modPort p (fun q =>
    (q.post (.status addr (BitVec.ofNat 64 (code + 2 ^ 8 * slot + 2 ^ 16 * (tag % 2 ^ 48))))).msix 1)

/-- Free slots in ascending order (R403). -/
def State.freeSlots (s : State) : List Nat :=
  (List.range 16).filter (fun i => decide (s.slots[i]? = some none))

/-- A port's request for a slot: the lowest free one, or status 0x02 (R403, R405). -/
def State.takeSlot (s : State) (sub : Submission) (addr : Nat) : State :=
  match s.freeSlots with
  | [] => s.status sub.port addr 0x02 0xFF sub.tag.toNat
  | i :: _ =>
    ({ s with slots := s.slots.set i (some sub), slotOrder := s.slotOrder ++ [i] }).status sub.port addr 0x01 i
      sub.tag.toNat

/-- Everything but a slot request: a status word or a malformed write. -/
def State.refuseSubmit (s : State) (p : Port) (r : SubmitResult) : State :=
  match r with
  | .malformed => s.malformed p 0x0000
  | .status addr code tag => s.status p addr code 0xFF tag
  | .request _ _ => s

/-- The descriptor fetch in progress on a port, if one completes now; through a port that cannot send it ends in an error,
with nothing read (R540). -/
def State.takeFetch (s : State) (p : Port) (f : Option Fetch) : State × Option SubmitResult :=
  match f, (s.port p).submitAt with
  | some f, _ :: rest =>
    let got : Fetch := if (s.port p).canSend then f else { f with err := true, statusOk := false }
    (s.modPort p (fun q => { q with submitAt := rest }), some (judgeSubmit p got))
  | _, _ => (s, none)

/-- SUBMISSION_DESCRIPTOR_FETCHED: the fetches that complete in one reference cycle are judged, and slots are taken; with
one slot free and two requests the priority bit decides and then favours the loser (R402 to R404). -/
def execSubmissionDescriptorFetched (a b : Option Fetch) (s : State) : Host.Outcome State Fault Refusal :=
  let r1 := s.takeFetch .a a
  let r2 := r1.1.takeFetch .b b
  let s1 : State := r2.1
  match r1.2, r2.2 with
  | some (.request sa xa), some (.request sb xb) =>
    let tie := decide (s1.freeSlots.length = 1)
    let s2 : State := if s1.slotPri = .a then (s1.takeSlot sa xa).takeSlot sb xb else (s1.takeSlot sb xb).takeSlot sa xa
    .next (if tie then { s2 with slotPri := s1.slotPri.other } else s2)
  | some (.request sa xa), o =>
    .next ((match o with | none => s1 | some r => s1.refuseSubmit .b r).takeSlot sa xa)
  | o, some (.request sb xb) =>
    .next ((match o with | none => s1 | some r => s1.refuseSubmit .a r).takeSlot sb xb)
  | o, o' =>
    let s2 : State := match o with | none => s1 | some r => s1.refuseSubmit .a r
    .next (match o' with | none => s2 | some r => s2.refuseSubmit .b r)

/-! ### The CUT word -/

/-- The partition of the context that a CUT word names (R415): one whose ending record is not yet formed. -/
def State.cutTarget (s : State) (id : BitVec 8) (tag : Nat) : Option Nat :=
  partNumbers.find? (fun p => match s.ctx p with
    | none => false
    | some c => decide (c.id = id) && decide (c.tag.toNat % 2 ^ 32 = tag) && !c.recorded)

/-- A cut-complete record of status 0x01 or 0x02: zero counts, the requester's bit (R415). -/
def State.cutAnswer (s : State) (p : Port) (id epoch : BitVec 8) (part status : Nat) : State :=
  s.emit id epoch (.cutComplete
    { part := part, status := status, mask := cutBit (.host p), frames := 0, totals := .zero })

/-- CUT_WORD: the named context is cut, the request merged, or answered with status 0x01 or 0x02 (R415, R488). -/
def execCutWord (p : Port) (word : Word) (s : State) : Host.Outcome State Fault Refusal :=
  let id : BitVec 8 := word.truncate 8
  if !s.hears then .next s
  else if word.toNat / 2 ^ 8 % 2 ^ 24 ≠ 0 || id = 0 then .next (s.malformed p 0x0008)
  else
    match s.cutTarget id (word.toNat / 2 ^ 32) with
    | none => .next (s.cutAnswer p id 0 0xFF 0x01)
    | some part =>
      match s.ctx part with
      | none => .next s
      | some c =>
        if c.cuttable then .next (s.acceptCut part (.host p))
        else .next (s.cutAnswer p id c.epoch part 0x02)

/-! ### Binding -/

/-- BIND: the bind descriptor fetch begins (R399). -/
def execBind (p : Port) (word : Word) (s : State) : Host.Outcome State Fault Refusal :=
  if !s.hears then .next s
  else if word.toNat % 64 ≠ 0 then .next (s.malformed p 0x0010)
  else .next (s.modPort p (fun q => { q with bindAt := q.bindAt ++ [word] }))

/-- A bind descriptor that keeps Table 12.3. -/
def judgeBind (f : Fetch) : Option Ring :=
  let base := fieldAt f.bytes 0 8
  let n := fieldAt f.bytes 8 1
  let prod := fieldAt f.bytes 16 8
  if !f.err && base % 4096 = 0 && decide (16 ≤ n) && decide (n ≤ 30) && decide (fieldAt f.bytes 9 7 = 0)
      && prod % 8 = 0 && decide (fieldAt f.bytes 24 40 = 0) then
    some { base := base, exponent := n, producer := prod }
  else none

/-- The stage entry of the identity record (Table 12.19). -/
def Stage.identity (st : Stage) : Nat :=
  let code :=
    if st.held then 4
    else match st.st with | .lit => 0 | .dark => 1 | .unlit => 2 | .retired => 3
  st.fused % 16 + 2 ^ 4 * (st.usable % 16) + 2 ^ 8 * code + 2 ^ 11 * st.part.isSome.toNat
    + 2 ^ 12 * (st.part.getD 0) + 2 ^ 16 * capAt 2 st.freeEng.length + 2 ^ 18 * capAt 2 st.freeBank.length
    + 2 ^ 20 * (List.range 16).countP (fun i => !st.masked.getLsbD i)
    + 2 ^ 32 * capAt 255 st.derates + 2 ^ 40 * capAt 255 st.fmTrans

/-- The silicon version code of revision B0 (R18). -/
def siliconCode : Nat := 4

/-- Identity record bytes from 16 on (Table 12.18). -/
def State.identityBytes (s : State) (p : Port) : List Byte :=
  let key := publicKey s.signKey.toNat
  leBytes 1 1 ++ leBytes 1 siliconCode ++ leBytes 1 s.issue ++ leBytes 1 s.idFaults.toNat
    ++ leBytes 1 s.enabledCount ++ leBytes 1 s.moduleId ++ leBytes 1 p.code ++ zeros 1 ++ leBytes 8 s.serial.toNat
    ++ leBytes 4 s.time.bootCount.toNat ++ leBytes 4 s.time.dayCount.toNat ++ leBytes 1 s.time.hourCount
    ++ leBytes 1 s.era.toNat ++ zeros 2 ++ leBytes 4 s.epochWord.toNat ++ leBytes 8 s.anchorWord
    ++ leBytes 4 s.straps.fault.toNat ++ zeros 4 ++ s.straps.codes.flatMap (fun c => leBytes 1 c.toNat) ++ zeros 9
    ++ s.straps.levels.flatMap (fun l => leBytes 1 l) ++ zeros 9 ++ leBytes 8 s.chain.next ++ s.chain.head
    ++ leBytes 32 key.1 ++ leBytes 32 key.2 ++ leBytes 2 s.cert.length ++ zeros 6 ++ s.cert
    ++ zeros (1024 - s.cert.length) ++ s.stages.flatMap (fun st => leBytes 8 st.identity)

/-- Log entries of 64 bytes with the payload of each of kind 0x08 made zero. -/
def blankPowers : Nat → List Byte → List Byte
  | 0, bs => bs
  | n + 1, bs =>
    let e := bs.take 64
    (if e.headD 0 = 0x08 then e.take 16 ++ zeros 48 else e) ++ blankPowers n (bs.drop 64)

/-- The CRC-32 of a dailies set, its own field taken as zero, put into the header (Table 15.8). -/
def sealSet (bs : List Byte) : List Byte :=
  bs.take 36 ++ leBytes 4 (crc32 (bs.take 36 ++ zeros 4 ++ bs.drop 40)).toNat ++ bs.drop 40

/-- A dailies set as a host receives it: no record tells software the cap in force or an estimated power (R282, R285), so
the payload of a cap-unattainable entry is zero. DESIGN CHOICE (log entry 49): R510 delivers the set and R285 keeps these
figures from it. -/
def hostSet (data : List Byte) : List Byte :=
  let n := capAt 16384 (fieldAt data 16 8)
  let log := (data.drop 4096).take (64 * n)
  let shown := blankPowers n log
  if shown = log then data else sealSet (data.take 4096 ++ shown ++ data.drop (4096 + 64 * n))

/-- The bytes of one dailies chunk of a set (R510). -/
def chunkBody (boot : BitVec 32) (data : List Byte) (count i : Nat) : RecBody :=
  .dailies i count boot.toNat ((data.drop (2048 * i)).take 2048)

/-- The dailies-chunk records of the newest valid set (R400, R510). -/
def State.chunks (s : State) : List RecBody :=
  match s.newestSet with
  | none => []
  | some d =>
    let data := hostSet d.data
    let n := (data.length + 2047) / 2048
    (List.range n).map (chunkBody d.boot data n)

/-- Delivery of the newest valid set has begun after this boot, so that the other area may be erased (R509, R510). -/
def State.noteDelivery (s : State) : State :=
  if s.newestSet.isSome then { s with dailies := { s.dailies with delivered := true } } else s

/-- A module-level record formed now. -/
def State.moduleRecord (s : State) (b : RecBody) : Record := { ctx := 0, epoch := 0, time := s.stamp, body := b }

/-- A valid bind (R400): counts at zero and the producer word with them, the identity record, the lost-record count
when records were dropped, the dailies chunks, and then ordinary records. -/
def State.bindPort (s : State) (p : Port) (r : Ring) : State :=
  s.modPort p (fun q =>
    let q1 : HostPort := ({ q with
      ring := some r, produced := 0, consumed := 0, prodDue := false, vec0Due := true, stallTicks := 0
      stallTold := false }).post
        (.producer r.producer 0)
    let q2 : HostPort := q1.ringWrite r (s.moduleRecord (.identity (s.identityBytes p)))
    let q3 : HostPort := if q2.lost = 0 then q2 else { q2.ringWrite r (q2.lostRecord s.stamp) with lost := 0 }
    s.chunks.foldl (fun q b => q.deliver (s.moduleRecord b) s.stamp) { q3 with lostBind := 0 })

/-- BIND_DESCRIPTOR_FETCHED: a valid bind replaces the port's binding; any other is a malformed write (R399, R400). -/
def execBindDescriptorFetched (p : Port) (f : Fetch) (s : State) : Host.Outcome State Fault Refusal :=
  match (s.port p).bindAt with
  | [] => .next s
  | _ :: rest =>
    let s1 : State := s.modPort p (fun q => { q with bindAt := rest })
    match judgeBind f with
    | none => .next (s1.malformed p 0x0010)
    | some r => if (s1.port p).canSend then .next (s1.bindPort p r).noteDelivery else .next (s1.malformed p 0x0010)

/-- CONSUMED: the consumed count of the binding rises, never beyond the produced count (R398). -/
def execConsumed (p : Port) (word : Word) (s : State) : Host.Outcome State Fault Refusal :=
  let q := s.port p
  if !s.hears then .next s
  else if q.ring.isSome && decide (q.consumed ≤ word.toNat) && decide (word.toNat ≤ q.produced) then
    if word.toNat = q.consumed then .next s
    else .next (s.modPort p (fun q => { q with consumed := word.toNat, stallTicks := 0, stallTold := false }))
  else .next (s.malformed p 0x0018)

/-- A port's binding ends at a record boundary (R401, R540). -/
def HostPort.unbind (q : HostPort) : HostPort :=
  { q with
    ring := none, prodDue := false
    held := q.held.filter (fun o => match o with | .producer _ _ => false | _ => true) }

/-- UNBIND: the word written is zero (R401). -/
def execUnbind (p : Port) (word : Word) (s : State) : Host.Outcome State Fault Refusal :=
  if !s.hears then .next s
  else if word ≠ 0 then .next (s.malformed p 0x0020)
  else .next (s.modPort p HostPort.unbind)

/-! ### Malformed and early writes -/

/-- MAILBOX_WRITE_MALFORMED: a write that breaks Table 12.2 is discarded with an error event of kind 0x18 (R397). -/
def execMailboxWriteMalformed (p : Port) (offset : BitVec 16) (s : State) : Host.Outcome State Fault Refusal :=
  if s.hears then .next (s.malformed p offset.toNat) else .next s

/-- BAR0_WRITE_BEFORE_BOOT_END: discarded with no status word and no record (R519). -/
def execBar0WriteBeforeBootEnd (_p : Port) (_offset : BitVec 16) (s : State) : Host.Outcome State Fault Refusal :=
  .next s

/-! ### Resets, links and power states -/

/-- A reset of the port's function (R395, R540): its ring is unbound, descriptor fetches are abandoned, pending MSI-X
bits clear, and the function is in D0. Held output writes and status words and the sequence number stay. -/
def HostPort.funcReset (q : HostPort) (linkStays : Bool) : HostPort :=
  { q.unbind with submitAt := [], bindAt := [], msixPend := [], vec0Due := false, d3hot := false, up := q.up && linkStays }

/-- HOST_PORT_RESET: a conventional reset, hot reset, link-down or Function Level Reset, which alone leaves the link up
(R395, R401, R483, R540). -/
def execHostPortReset (p : Port) (kind : PortReset) (s : State) : Host.Outcome State Fault Refusal :=
  .next (s.modPort p (fun q => q.funcReset (decide (kind = .flr))))

/-- A link state that Table 14.1 reports: down, an uncorrectable error, or a width below the strapped maximum (R483). -/
def State.linkFault (s : State) : LinkError → Bool
  | .linkDown => true
  | .aer => true
  | .narrow lanes => decide (lanes < s.hostLanes)

/-- HOST_LINK_ERROR: an error event of kind 0x17 names the port; a link that goes down, or that cannot train at x4 or wider,
resets the function (R395, R483). A link that trains at its strapped width is no error. -/
def execHostLinkError (p : Port) (kind : LinkError) (s : State) : Host.Outcome State Fault Refusal :=
  let down := match kind with
    | .linkDown => true
    | .aer => false
    | .narrow lanes => decide (lanes < 4)
  let s1 : State := if down then s.modPort p (fun q => q.funcReset false) else s
  .next (if s.inReset || !s.linkFault kind then s1 else s1.portEvent 0x17 p 0)

/-- HOST_PORT_RETURN: in D0 with the link up, the port issues its held writes in their order and then each pending
vector once (R395, R540). -/
def execHostPortReturn (p : Port) (s : State) : Host.Outcome State Fault Refusal :=
  if s.inReset then .next s
  else
    .next (s.modPort p (fun q => { q with
      up := true, d3hot := false, sent := q.sent ++ q.held ++ q.msixPend.map HostOut.msix, held := [], msixPend := [] }))

/-- D3HOT_ENTRY: the function enters D3hot: unbound for records, its writes held (R395, R540). -/
def execD3hotEntry (p : Port) (s : State) : Host.Outcome State Fault Refusal :=
  if (s.port p).up then .next (s.modPort p (fun q => { q with d3hot := true })) else .next s

end Sys2Proof.Machine
end

