-- ==== Sys2Proof/Machine/JtagPort.lean ====
section
/-! DEFINITION. The IEEE 1149.1 port: boundary scan and identification (spec/00_scope.md R18; spec/01_stages.md R22), over
the contacts of spec/16_electrical.md Table 16.1. -/

namespace Sys2Proof.Machine

open Sys2Proof

/-- The digital signal contacts of Table 16.1 that the boundary register covers (R22): neither the host and ring lanes,
REFCLK_x, the tick pairs, the strap pins nor the power and sense contacts. -/
inductive Contact where
  | avsClk (i : Nat)
  | avsMdata (i : Nat)
  | avsSdata (i : Nat)
  | perstN (p : Port)
  | slateReq (p : Port)
  | slateGnt (p : Port)
  | slateHb (p : Port)
  | cap (p : Port) (bit : Nat)
  | cmd (p : Port) (bit : Nat)
  | cmdStb (p : Port)
  | cmdAck (p : Port)
  | faultN
  | belowFloorN
  | thermWarnN
  | pwrCycleReqN
  | state (bit : Nat)
  | bypassOpenN
  | resetN
  | pwrGood
  | coolantOk (p : Port)
  | refOut
  | ppsIn
  | gateIn
  | extIn (i : Nat)
  deriving DecidableEq, Repr

/-- The contacts of one control port (Table 2.13). -/
def controlContacts (p : Port) : List Contact :=
  [.slateReq p, .slateGnt p, .slateHb p] ++ (List.range 4).map (.cap p) ++ (List.range 3).map (.cmd p)
    ++ [.cmdStb p, .cmdAck p]

/-- The cells of the boundary register, one for each contact in the order of Table 16.1. DESIGN CHOICE (log entry 30): the
order and the one cell a contact stand for the BSDL file, which the manual does not hold. -/
def contacts : List Contact :=
  (List.range 6).flatMap (fun i => [.avsClk i, .avsMdata i, .avsSdata i]) ++ [.perstN .a, .perstN .b]
    ++ controlContacts .a ++ controlContacts .b
    ++ [.faultN, .belowFloorN, .thermWarnN, .pwrCycleReqN] ++ (List.range 3).map .state
    ++ [.bypassOpenN, .resetN, .pwrGood, .coolantOk .a, .coolantOk .b, .refOut, .ppsIn, .gateIn]
    ++ (List.range 8).map .extIn

/-- An output of the module (Table 16.5). -/
def Contact.isOutput : Contact → Bool
  | .avsClk _ | .avsMdata _ | .slateGnt _ | .cmdAck _ | .faultN | .belowFloorN | .thermWarnN | .pwrCycleReqN | .state _
  | .bypassOpenN | .refOut => true
  | .avsSdata _ | .perstN _ | .slateReq _ | .slateHb _ | .cap _ _ | .cmd _ _ | .cmdStb _ | .resetN | .pwrGood
  | .coolantOk _ | .ppsIn | .gateIn | .extIn _ => false

/-- CMD_ACK_x (Table 2.13). -/
def State.cmdAck (s : State) : Port → Bool
  | .a => s.slate.ackA
  | .b => s.slate.ackB

/-- The level of a contact that the module's own outputs give: an asserted active-low output is low and a released one is
pulled high (R70, Table 2.14), an AVSBus interface that the strapped map does not use is low (R515), REF_OUT is low until
the PLL locks (R137). None for an input and for a line that carries a clock or data. -/
def State.ownLevel (s : State) : Contact → Option Bool
  | .avsClk i | .avsMdata i => if s.avsUsed i then none else some false
  | .slateGnt p => some (s.grant p)
  | .cmdAck p => some (s.cmdAck p)
  | .faultN => some (!s.faultN)
  | .belowFloorN => some (!s.belowFloorN)
  | .thermWarnN => some (!s.thermWarnN)
  | .pwrCycleReqN => some (!s.pwrCycleReqN)
  | .bypassOpenN => some (!s.bypassOpenN)
  | .state b => some (s.code.testBit b)
  | .refOut => if s.time.refOut then none else some false
  | _ => none

/-- The cell of the boundary register that covers a contact. -/
def State.cell (s : State) (c : Contact) : Bool := s.jtag.boundary.getD (contacts.idxOf c) false

/-- The level an output pin carries: under EXTEST that of its boundary cell, else the module's own (R22). -/
def State.pinLevel (s : State) (c : Contact) : Option Bool :=
  if s.jtag.driving && c.isOutput then some (s.cell c) else s.ownLevel c

/-- The 32-bit identification register (R22): version, part number 0x5896, continuation count 0x7, code 0x2D, 1. -/
def idcode : BitVec 32 := BitVec.ofNat 32 (siliconCode * 2 ^ 28 + 0x5896 * 2 ^ 12 + 0x7 * 2 ^ 8 + 0x2D * 2 + 1)

/-- An instruction comes into force: the register captured 0b0000_0001 on its way (R22). -/
def Jtag.load (j : Jtag) (opcode : BitVec 8) : Jtag :=
  { j with ir := opcode, irCapture := 0x01, driving := decide (opcode = 0x00) }

/-- JTAG_EXTEST: the boundary register drives the output pins (R22). -/
def execJtagExtest (s : State) : Host.Outcome State Fault Refusal :=
  .next { s with jtag := s.jtag.load 0x00 }

/-- JTAG_SAMPLE_PRELOAD: the levels of the contacts are captured, an input's from outside, and new cells are loaded; no
pin is driven (R22). -/
def execJtagSamplePreload (sampled loaded : List Bool) (s : State) : Host.Outcome State Fault Refusal :=
  .next { s with jtag := { s.jtag.load 0x01 with
    captured := contacts.zipIdx.map (fun (c, i) => (s.ownLevel c).getD (sampled.getD i false))
    boundary := contacts.zipIdx.map (fun (_, i) => loaded.getD i false) } }

/-- JTAG_IDCODE: the identification register is selected and captured (R22). -/
def execJtagIdcode (s : State) : Host.Outcome State Fault Refusal :=
  .next { s with jtag := { s.jtag.load 0x02 with idcode := idcode } }

/-- JTAG_BYPASS: opcode 0xFF, or any reserved opcode, selects the one-bit bypass register, which captures 0 (R22). The
opcodes of the other three instructions are not this command. -/
def execJtagBypass (opcode : BitVec 8) (s : State) : Host.Outcome State Fault Refusal :=
  if opcode.toNat ≤ 0x02 then .next s else .next { s with jtag := { s.jtag.load opcode with bypass := false } }

end Sys2Proof.Machine
end

