-- ==== Sys2Proof/Machine/ShotWord.lean ====
section
/-! DEFINITION. The 64-bit shot word: the shot that a word encodes (spec/09_engines_and_shots.md Tables 9.2 to 9.7),
and the field rules of R311 that need nothing but the word (R300, R301, R311 to R323, R326, R329, R352, R536). -/

namespace Sys2Proof.Machine

open Sys2Proof

/-! ### Decoding -/

/-- The opcode of a word (Table 9.2). -/
def opcodeOf (w : Nat) : Nat := bitsOf w 58 6

/-- A field of a word. -/
def fieldOf (w lo width : Nat) : BitVec width := BitVec.ofNat width (bitsOf w lo width)

/-- One bit of a word. -/
def flagOf (w lo : Nat) : Bool := bitsOf w lo 1 = 1

/-- The word's bits below `n` are zero: a reserved tail. -/
def tailZero (w n : Nat) : Bool := bitsOf w 0 n = 0

/-- A shot whose reserved fields are zero, or none. -/
def shotIf (ok : Bool) (i : Instr) : Option Instr := if ok then some i else none

/-- The sequencer shots (Table 9.3). -/
def seqShotOf (n w : Nat) : Option Instr :=
  match opcodeOf w with
  | 0x00 => shotIf (tailZero w 58) (.nop n)
  | 0x01 => shotIf (tailZero w 58) (.runahead n)
  | 0x02 => shotIf (tailZero w 23) (.eof n
      { idle := fieldOf w 42 16, kindA := fieldOf w 36 6, kindB := fieldOf w 30 6, p := fieldOf w 25 5
        final := fieldOf w 23 2 } none)
  | 0x03 => shotIf (tailZero w 22) (.repeat_ n (fieldOf w 50 8) (fieldOf w 38 12) (fieldOf w 22 16))
  | 0x04 => shotIf (tailZero w 32) (.seta n (fieldOf w 54 4) (fieldOf w 48 6) (fieldOf w 32 16))
  | 0x05 => shotIf (tailZero w 32 && decide (bitsOf w 48 6 = 0)) (.inca n (fieldOf w 54 4) (fieldOf w 32 16))
  | 0x06 => shotIf (tailZero w 54) (.step n (fieldOf w 54 4))
  | 0x07 => shotIf (tailZero w 42) (.trace n (fieldOf w 42 16))
  | _ => none

/-- The layout that ACCLD and ACCADD share and ACCST extends (Table 9.4). -/
def accOf (w : Nat) : AccFields :=
  { engine := fieldOf w 52 6, reg := fieldOf w 44 4, tile := fieldOf w 38 6, ty := fieldOf w 36 2
    xa := flagOf w 33, xc := flagOf w 32 }

/-- Reserved fields of ACCLD and ACCADD are zero. -/
def accZero (w : Nat) : Bool := tailZero w 32 && decide (bitsOf w 48 4 = 0) && decide (bitsOf w 34 2 = 0)

/-- The matrix shots (Table 9.4). -/
def matrixShotOf (n w : Nat) : Option Instr :=
  match opcodeOf w with
  | 0x10 => shotIf (tailZero w 22) (.mma n
      { engine := fieldOf w 52 6, format := fieldOf w 48 4, areg := fieldOf w 44 4, breg := fieldOf w 40 4
        tile := fieldOf w 34 6, kcode := fieldOf w 26 8, z := flagOf w 25, xa := flagOf w 24, xb := flagOf w 23
        xc := flagOf w 22 })
  | 0x11 => shotIf (accZero w) (.accld n (accOf w))
  | 0x12 => shotIf (tailZero w 32) (.accst n (accOf w) (fieldOf w 48 4) (flagOf w 35) (flagOf w 34))
  | 0x13 => shotIf (accZero w) (.accadd n (accOf w))
  | 0x14 => shotIf (tailZero w 32 && decide (bitsOf w 44 8 = 0))
      (.accz n (fieldOf w 52 6) (fieldOf w 38 6) (fieldOf w 32 6))
  | _ => none

/-- The bank-move shots (Table 9.5). -/
def moveShotOf (n w : Nat) : Option Instr :=
  match opcodeOf w with
  | 0x18 => shotIf (tailZero w 26) (.movb n (fieldOf w 52 6) (fieldOf w 48 4) (fieldOf w 44 4) (fieldOf w 28 16)
      (flagOf w 27) (flagOf w 26))
  | 0x19 => some (.fillb n (fieldOf w 52 6) (fieldOf w 48 4) (fieldOf w 32 16) (fieldOf w 0 32))
  | 0x1A => shotIf (tailZero w 16) (.cvtb n
      { engine := fieldOf w 52 6, sreg := fieldOf w 48 4, dreg := fieldOf w 44 4, sfmt := fieldOf w 40 4
        dfmt := fieldOf w 36 4, groups := fieldOf w 20 16, r := flagOf w 19, s := flagOf w 18, xa := flagOf w 17
        xb := flagOf w 16 })
  | _ => none

/-- The fields of a two- or three-operand vector shot (Table 9.5). -/
def vecOf (w : Nat) : VecFields :=
  { engine := fieldOf w 52 6, d := fieldOf w 46 6, a := fieldOf w 40 6, b := fieldOf w 34 6, ty := fieldOf w 32 2
    x := flagOf w 31 }

/-- The fields of an immediate vector shot (Table 9.5). -/
def vecImmOf (w : Nat) : VecImm :=
  { engine := fieldOf w 52 6, d := fieldOf w 46 6, a := fieldOf w 40 6, ty := fieldOf w 32 2, imm := fieldOf w 0 32 }

/-- A two-operand vector shot uses tile b; a one-operand one reserves it (Table 9.5). -/
def vec2 (w : Nat) : Bool := tailZero w 31
def vec1 (w : Nat) : Bool := tailZero w 31 && decide (bitsOf w 34 6 = 0)

/-- The vector shots (Tables 9.5 and 9.6). -/
def vectorShotOf (n w : Nat) : Option Instr :=
  match opcodeOf w with
  | 0x20 => shotIf (vec2 w) (.vadd n (vecOf w))
  | 0x21 => shotIf (vec2 w) (.vsub n (vecOf w))
  | 0x22 => shotIf (vec2 w) (.vmul n (vecOf w))
  | 0x23 => shotIf (vec2 w) (.vfma n (vecOf w))
  | 0x24 => shotIf (vec2 w) (.vdiv n (vecOf w))
  | 0x25 => shotIf (vec1 w) (.vsqrt n (vecOf w))
  | 0x26 => shotIf (vec2 w) (.vmax n (vecOf w))
  | 0x27 => shotIf (vec2 w) (.vmin n (vecOf w))
  | 0x28 => shotIf (vec1 w) (.vabs n (vecOf w))
  | 0x29 => shotIf (vec1 w) (.vneg n (vecOf w))
  | 0x2A => shotIf (vec1 w) (.vrelu n (vecOf w))
  | 0x2B => shotIf (vec1 w) (.vmov n (vecOf w))
  | 0x2C => shotIf (vec1 w) (.vrsum n (vecOf w))
  | 0x2D => shotIf (vec1 w) (.vcsum n (vecOf w))
  | 0x2E => shotIf (bitsOf w 34 6 = 0) (.vscal n (vecImmOf w))
  | 0x2F => shotIf (bitsOf w 34 6 = 0) (.vaddi n (vecImmOf w))
  | 0x30 => shotIf (bitsOf w 34 12 = 0) (.vfill n (vecImmOf w))
  | _ => none

/-- The fields of SEND and RECV (Table 9.7). -/
def spliceOf (w : Nat) : SpliceFields :=
  { side := fieldOf w 56 2, slot := fieldOf w 44 12, reg := fieldOf w 40 4, beats := fieldOf w 28 12
    xa := flagOf w 27, xs := flagOf w 26 }

/-- Splice, token and output shots (Table 9.7, R326, R329). -/
def linkShotOf (n w : Nat) : Option Instr :=
  match opcodeOf w with
  | 0x38 => shotIf (tailZero w 26) (.send n (spliceOf w))
  | 0x39 => shotIf (tailZero w 26) (.recv n (spliceOf w))
  | 0x3A => shotIf (tailZero w 30) (.sigt n (fieldOf w 55 3) (fieldOf w 51 4) (fieldOf w 46 5) (fieldOf w 30 16))
  | 0x3B => shotIf (tailZero w 37) (.waitt n (fieldOf w 53 5) (fieldOf w 37 16))
  | 0x3C => shotIf (tailZero w 40) (.commit n (fieldOf w 46 12) (fieldOf w 42 4) (flagOf w 41) (flagOf w 40))
  | _ => none

/-- The shot of stage `n` that a word encodes: none for a reserved opcode or a non-zero reserved field (R311). -/
def shotOf (n w : Nat) : Option Instr :=
  let op := opcodeOf w
  if op < 0x10 then seqShotOf n w
  else if op < 0x18 then matrixShotOf n w
  else if op < 0x20 then moveShotOf n w
  else if op < 0x38 then vectorShotOf n w
  else linkShotOf n w

/-! ### Field rules -/

/-- Format codes 0x0 to 0x8 are in use (Table 9.1). -/
def formatOk (f : BitVec 4) : Bool := f.toNat ≤ 8

/-- An engine field names a logical engine (section 9.3). -/
def engineOk (e : BitVec 6) : Bool := e.toNat < 48

/-- A tile of a type: binary64 tiles are even (R301, R536). -/
def tileOk (ty : Nat) (t : BitVec 6) : Bool := ty ≠ 2 || t.toNat % 2 = 0

/-- An accumulator type code (R301). -/
def typeOk (ty : BitVec 2) : Bool := ty ≠ 3

/-- The code of int32 as the source of a conversion, beside the format codes of Table 9.1. -/
abbrev int32Code : Nat := 9

/-- The source code of an accumulator type (R301). -/
def typeCode (ty : BitVec 2) : Nat := if ty = 0 then 1 else if ty = 1 then int32Code else 0

/-- The destinations that are not narrower than a source (R352, Table 10.4), itself apart. -/
def notNarrower (src : Nat) : List Nat :=
  match src with
  | 1 => [0]
  | 2 => [1, 0]
  | 3 => [1, 0]
  | 4 => [2, 3, 1, 0]
  | 5 => [2, 3, 1, 0]
  | 6 => [2, 3, 1, 0]
  | 7 => [0]
  | 8 => [6, 4, 5, 2, 3, 1, 0]
  | 9 => [0]
  | _ => []

/-- A destination format narrower than a source (R352). -/
def narrower (src dst : Nat) : Bool := src ≠ dst && !(notNarrower src).contains dst

/-- The accumulator type of an MMA format (Table 9.1). -/
def formatType (f : Nat) : Nat := if f = 0 then 2 else if f = 6 || f = 8 then 1 else 0

/-- The tiles of a two- or three-operand vector shot. -/
def vecOk (f : VecFields) : Bool :=
  engineOk f.engine && typeOk f.ty && tileOk f.ty.toNat f.d && tileOk f.ty.toNat f.a && tileOk f.ty.toNat f.b

/-- The tiles of an immediate vector shot. -/
def vecImmOk (f : VecImm) : Bool :=
  engineOk f.engine && typeOk f.ty && tileOk f.ty.toNat f.d && tileOk f.ty.toNat f.a

/-- The fields of ACCLD and ACCADD. -/
def accOk (f : AccFields) : Bool := engineOk f.engine && typeOk f.ty && tileOk f.ty.toNat f.tile

/-- Every field of a shot is in the range chapter 9 gives it, by the word alone (R311): no field value is reserved
or malformed. Commands that are no shots have none of these fields. -/
def shotFieldsOk : Instr → Bool
  | .eof _ f _ => f.final ≠ 3 && (f.p ≠ 0 || f.kindB = 0)
  | .repeat_ _ b _ _ => b ≠ 0
  | .seta _ _ bank _ => bank.toNat < 48
  | .mma _ f => engineOk f.engine && formatOk f.format && tileOk (formatType f.format.toNat) f.tile
  | .accld _ f => accOk f
  | .accadd _ f => accOk f
  | .accst _ f o r _ => accOk f && formatOk o && (!r || narrower (typeCode f.ty) o.toNat)
  | .accz _ e first c => engineOk e && decide (first.toNat + c.toNat + 1 ≤ 64)
  | .movb _ e _ _ lines _ _ => engineOk e && lines ≠ 0
  | .fillb _ e _ lines _ => engineOk e && lines ≠ 0
  | .cvtb _ f => engineOk f.engine && formatOk f.sfmt && formatOk f.dfmt && f.groups ≠ 0
      && (!f.r || narrower f.sfmt.toNat f.dfmt.toNat)
  | .vadd _ f => vecOk f
  | .vsub _ f => vecOk f
  | .vmul _ f => vecOk f
  | .vfma _ f => vecOk f
  | .vdiv _ f => vecOk f && f.ty ≠ 1
  | .vsqrt _ f => vecOk f && f.ty ≠ 1 && f.b = 0
  | .vmax _ f => vecOk f
  | .vmin _ f => vecOk f
  | .vabs _ f => vecOk f && f.b = 0
  | .vneg _ f => vecOk f && f.b = 0
  | .vrelu _ f => vecOk f && f.b = 0
  | .vmov _ f => vecOk f && f.b = 0
  | .vrsum _ f => vecOk f && f.b = 0
  | .vcsum _ f => vecOk f && f.b = 0
  | .vscal _ f => vecImmOk f
  | .vaddi _ f => vecImmOk f
  | .vfill _ f => vecImmOk f && f.a = 0
  | .send _ f => f.beats ≠ 0
  | .recv _ f => f.beats ≠ 0
  | .sigt _ _ _ _ inc => inc ≠ 0
  | .waitt _ _ c => c ≠ 0
  | _ => true

/-- The formats a shot names, for the format set of R371. -/
def shotFormats : Instr → List Nat
  | .mma _ f => [f.format.toNat]
  | .accst _ _ o _ _ => [o.toNat]
  | .cvtb _ f => [f.sfmt.toNat, f.dfmt.toNat]
  | _ => []

end Sys2Proof.Machine
end

