-- ==== Sys2Proof/Machine/ReelCheck.lean ====
section
/-! DEFINITION. Reading a reel and tests 2 to 11 of the load check (spec/11_reels.md R364 to R384, with R100, R117,
R130, R131, R311 to R317, R325, R326, R329, R428). Each test gives the items that fail it with their place in the
reel's bytes; the first in that order is the one reported (R384). -/

namespace Sys2Proof.Machine

open Sys2Proof

/-! ### Refusal detail -/

/-- A failing item: its place in the reel's bytes and the fields of Table 11.13. -/
structure Fail where
  pos  : Nat
  row  : Nat
  col  : Nat
  kind : Nat
  bank : Nat
  item : Nat
  deriving DecidableEq, Repr

/-- A failing item with no stage, kind or bank. -/
def Fail.plain (pos item : Nat) : Fail := { pos := pos, row := 0xFF, col := 0xFF, kind := 0xFF, bank := 0xFF, item := item }

/-- A failing item of a stage. -/
def Fail.stage (pos row col item : Nat) : Fail := { Fail.plain pos item with row := row, col := col }

/-- No item applies (Table 11.13). -/
abbrev noItem : Nat := 0xFFFFFF

/-- The refusal detail of a test and item (Table 11.13). -/
def Fail.detail (f : Fail) (test : Nat) : Nat :=
  test + 2 ^ 8 * f.row + 2 ^ 16 * f.col + 2 ^ 24 * f.kind + 2 ^ 32 * f.bank + 2 ^ 40 * f.item

/-- The detail of a test that no item of the reel fails. -/
def plainDetail (test : Nat) : Nat := (Fail.plain 0 noItem).detail test

/-- The failing item that lies first in the reel's bytes; of items at one place, the first listed. -/
def firstFail : List Fail → Option Fail
  | [] => none
  | f :: fs =>
    match firstFail fs with
    | none => some f
    | some g => if g.pos < f.pos then some g else some f

/-- A failing item where a condition holds. -/
def failIf (b : Bool) (f : Fail) : List Fail := if b then [f] else []

/-! ### Reading -/

/-- A stage record with its place in the reel and its number. -/
structure PlacedRec where
  pos : Nat
  idx : Nat
  r   : StageRec

/-- An entry of a section: its place, its number and its bytes. -/
structure Entry where
  pos : Nat
  idx : Nat
  bs  : List Byte

/-- A reel image read into its sections (Tables 11.1 to 11.11). -/
structure Image where
  bytes : List Byte
  len   : Nat
  dirs  : List (Nat × Nat)
  recs  : List PlacedRec
  sched : List Entry
  segs  : List Entry
  outs  : List Entry

/-- Offset and length of a section: 0 call sheet, 1 stage scripts, 2 splice schedule, 3 memory segments, 4 output
map. -/
def Image.dir (m : Image) (i : Nat) : Nat × Nat := m.dirs.getD i (0, 0)

/-- A field at a place in the reel. -/
def Image.at (m : Image) (pos n : Nat) : Nat := fieldAt m.bytes pos n

/-- A kind entry (Table 11.5). -/
def readKind (bs : List Byte) : KindEntry :=
  { first := fieldAt bs 0 4, cycles := fieldAt bs 4 4
    feet := (List.range 48).map (fun b => (fieldAt bs (16 + 4 * b) 2, fieldAt bs (18 + 4 * b) 2)) }

/-- A stage record (Table 11.4). -/
def readRec (bs : List Byte) : StageRec :=
  { row := fieldAt bs 0 1, col := fieldAt bs 1 1, kind0 := fieldAt bs 3 1, words := fieldAt bs 4 4
    scriptOff := fieldAt bs 8 4, staging := fieldAt bs 12 4
    kinds := (List.range (fieldAt bs 2 1)).map (fun k => readKind ((bs.drop (24 + 208 * k)).take 208)) }

/-- `n` stage records from a place on. -/
def readRecs : Nat → Nat → Nat → List Byte → List PlacedRec
  | 0, _, _, _ => []
  | n + 1, idx, pos, bs =>
    let size := 24 + 208 * fieldAt bs 2 1
    { pos := pos, idx := idx, r := readRec (bs.take size) } :: readRecs n (idx + 1) (pos + size) (bs.drop size)

/-- The entries of a section: a head of `head` bytes with the count first, then `size` bytes an entry. No more are
read than the section holds. -/
def readEntries (bytes : List Byte) (dir : Nat × Nat) (head size : Nat) : List Entry :=
  let n := capAt ((dir.2 - head) / size) (fieldAt bytes dir.1 4)
  if dir.2 = 0 then []
  else (List.range n).map (fun i =>
    { pos := dir.1 + head + size * i, idx := i, bs := (bytes.drop (dir.1 + head + size * i)).take size })

/-- Row and column count of the call sheet (Table 11.2). -/
def shapeOf (bytes : List Byte) (off : Nat) : Nat × Nat := (fieldAt bytes off 1, fieldAt bytes (off + 1) 1)

/-- A shape within Table 11.2. -/
def shapeOk (h w : Nat) : Bool := decide (1 ≤ h) && decide (h ≤ 8) && decide (1 ≤ w) && decide (w ≤ 12)

/-- Read an image whose header has passed tests 2 and 3. -/
def readImage (bytes : List Byte) : Image :=
  let dirs := (List.range 5).map (fun i => (fieldAt bytes (24 + 16 * i) 8, fieldAt bytes (32 + 16 * i) 8))
  let cs := dirs.getD 0 (0, 0)
  let (h, w) := shapeOf bytes cs.1
  { bytes := bytes, len := fieldAt bytes 16 8, dirs := dirs
    recs := if shapeOk h w then readRecs (h * w) 0 (cs.1 + 32) (bytes.drop (cs.1 + 32)) else []
    sched := readEntries bytes (dirs.getD 2 (0, 0)) 8 8
    segs := readEntries bytes (dirs.getD 3 (0, 0)) 64 64
    outs := readEntries bytes (dirs.getD 4 (0, 0)) 16 32 }

/-- The shape, floor step and format set of an image. -/
def Image.h (m : Image) : Nat := (shapeOf m.bytes (m.dir 0).1).1
def Image.w (m : Image) : Nat := (shapeOf m.bytes (m.dir 0).1).2
def Image.floor (m : Image) : Nat := m.at ((m.dir 0).1 + 2) 1
def Image.formats (m : Image) : Nat := m.at ((m.dir 0).1 + 6) 2

/-- The script words of a stage record, or none when they run past the section (R372). -/
def Image.script (m : Image) (r : StageRec) : Option (List Nat) :=
  if r.scriptOff + 8 * r.words ≤ (m.dir 1).2 then
    some ((words64 r.words (m.bytes.drop ((m.dir 1).1 + r.scriptOff))).map BitVec.toNat)
  else none

/-- The place of a script word in the reel. -/
def Image.wordPos (m : Image) (r : StageRec) (a : Nat) : Nat := (m.dir 1).1 + r.scriptOff + 8 * a

/-- Row and column of a stage record by its number (R365, Table 11.2). -/
def Image.row (m : Image) (i : Nat) : Nat := i / m.w
def Image.col (m : Image) (i : Nat) : Nat := i % m.w

/-- The stage record that an entry's row and column bytes name, when they lie within the shape. -/
def Image.recAt (m : Image) (row col : Nat) : Option PlacedRec :=
  if row < m.h ∧ col < m.w then m.recs[row * m.w + col]? else none

/-! ### Kinds and REPEAT -/

/-- The words of a kind with their addresses: up to and including the first EOF; none when there is no EOF (R373). -/
def toEof : Nat → List Nat → Option (List (Nat × Nat))
  | _, [] => none
  | a, w :: ws => if opcodeOf w = 0x02 then some [(a, w)] else (toEof (a + 1) ws).map (fun t => (a, w) :: t)

/-- The words of a kind by its first word. -/
def kindWords (ws : List Nat) (first : Nat) : Option (List (Nat × Nat)) := toEof first (ws.drop first)

/-- The body length and iteration count of a REPEAT word (Table 9.3). -/
def repeatBody (w : Nat) : Nat := bitsOf w 50 8
def repeatCount (w : Nat) : Nat := bitsOf w 38 12 + 1

/-- The shots of a kind in script order with REPEAT expanded: address, iteration index, word (R315). The first
argument counts body words already issued. -/
def expandKind : Nat → List (Nat × Nat) → List (Nat × Nat × Nat)
  | _, [] => []
  | skip + 1, _ :: t => expandKind skip t
  | 0, (a, w) :: t =>
    if opcodeOf w = 0x03 then
      (a, 0, w) :: ((List.range (repeatCount w)).flatMap (fun i =>
        (t.take (repeatBody w)).map (fun x => (x.1, i, x.2))) ++ expandKind (repeatBody w) t)
    else (a, 0, w) :: expandKind 0 t

/-- The successors of a kind: those its EOF names (R374). -/
def successors (kw : List (Nat × Nat)) : List Nat :=
  match kw.getLast? with
  | none => []
  | some (_, w) =>
    bitsOf w 36 6 :: (if bitsOf w 25 5 = 0 then [] else [bitsOf w 30 6])

/-- Whether two intervals, low inclusive and high exclusive, share a point. -/
def meets (a b : Nat × Nat) : Bool := decide (a.1 < b.2) && decide (b.1 < a.2)

/-- The elements of a list that clash with another element of it. -/
def clashing {α : Type} (clash : α → α → Bool) (xs : List α) : List α :=
  (xs.zipIdx.filter (fun x => xs.zipIdx.any (fun y => decide (x.2 ≠ y.2) && clash x.1 y.1))).map Prod.fst

/-! ### Tests 2 to 6 -/

/-- Test 2: magic, length, section directory and alignment of the header (R364). -/
def test2 (bytes : List Byte) (len : Nat) : List Fail :=
  let l := fieldAt bytes 16 8
  let d := (List.range 5).map (fun i => (fieldAt bytes (24 + 16 * i) 8, fieldAt bytes (32 + 16 * i) 8))
  let ends := 4096 :: d.map (fun x => ceilTo 4096 (x.1 + x.2))
  failIf (fieldAt bytes 0 8 ≠ 0x004C454552574C58) (Fail.plain 0 0)
    ++ failIf (l ≠ len || l % 4096 ≠ 0 || decide (l < 8192) || decide (2 ^ 32 < l) || ends.getD 5 0 ≠ l) (Fail.plain 16 16)
    ++ (List.range 5).flatMap (fun i =>
      let x := d.getD i (0, 0)
      failIf (x.1 ≠ ends.getD i 0 || (decide (i < 2) && x.2 = 0)) (Fail.plain (24 + 16 * i) (24 + 16 * i)))

/-- Test 3: the format version and the target silicon version (R367). -/
def test3 (bytes : List Byte) (silicon : Nat) : List Fail :=
  failIf (fieldAt bytes 8 2 ≠ 1) (Fail.plain 8 8) ++ failIf (fieldAt bytes 10 2 ≠ 0) (Fail.plain 10 10)
    ++ failIf (fieldAt bytes 12 1 % 16 ≠ silicon) (Fail.plain 12 12)

/-- The body hash of a reel's bytes (R366). -/
def bodyHash (bytes : List Byte) : List Byte := sha256 (bytes.drop 4096)

/-- The body hash that a header states. -/
def headerHash (bytes : List Byte) : List Byte := (bytes.drop 104).take 32

/-- Test 4: the body hash (R366). -/
def test4 (bytes : List Byte) : List Fail := failIf (bodyHash bytes ≠ headerHash bytes) (Fail.plain 104 104)

/-- The fixed part of the call sheet (Table 11.2). -/
def Image.fixedFails (m : Image) : List Fail :=
  let o := (m.dir 0).1
  let f (off n : Nat) : Nat := m.at (o + off) n
  let bad (off : Nat) (b : Bool) : List Fail := failIf b (Fail.plain (o + off) noItem)
  bad 0 (f 0 1 = 0 || decide (8 < f 0 1)) ++ bad 1 (f 1 1 = 0 || decide (12 < f 1 1)) ++ bad 2 (decide (15 < f 2 1))
    ++ bad 3 (decide (15 < f 3 1) || decide (f 3 1 < f 2 1)) ++ bad 4 (decide (3 < f 4 1)) ++ bad 5 (f 5 1 ≠ 0)
    ++ bad 6 (decide (511 < f 6 2)) ++ bad 8 (f 8 4 = 0) ++ bad 12 (f 12 4 ≠ 0) ++ bad 22 (f 22 2 ≠ 0)
    ++ bad 24 (f 24 8 ≠ 0)

/-- The fields of one stage record (Tables 11.4 and 11.5), W and g apart. -/
def Image.recFails (m : Image) (x : PlacedRec) : List Fail :=
  let row := m.row x.idx
  let col := m.col x.idx
  let nk := m.at (x.pos + 2) 1
  let bad (off : Nat) (b : Bool) : List Fail := failIf b (Fail.stage (x.pos + off) row col x.idx)
  bad 0 (x.r.row ≠ row) ++ bad 1 (x.r.col ≠ col) ++ bad 2 (nk = 0 || decide (64 < nk)) ++ bad 3 (decide (nk ≤ x.r.kind0))
    ++ bad 4 (x.r.words = 0) ++ bad 8 (x.r.scriptOff % 4096 ≠ 0) ++ bad 16 (m.at (x.pos + 16) 8 ≠ 0)
    ++ x.r.kinds.zipIdx.flatMap (fun (k, i) =>
      let o := 24 + 208 * i
      failIf (decide (2 ^ 18 ≤ k.first)) { Fail.stage (x.pos + o) row col x.idx with kind := i }
        ++ failIf (m.at (x.pos + o + 8) 8 ≠ 0) { Fail.stage (x.pos + o + 8) row col x.idx with kind := i })

/-- A section's length and count agree with its table: an empty section, or its head and entries (and, for memory
segments, the data region behind them). -/
def Image.sizeFails (m : Image) (i head size most : Nat) (exact : Bool) : List Fail :=
  let (o, l) := m.dir i
  let n := m.at o 4
  let need := head + size * n
  let ok := decide (n ≤ most) && decide (need ≤ l) && (!exact || l = need)
  failIf (l ≠ 0 && !(decide (head ≤ l) && ok)) (Fail.plain o (24 + 16 * i))

/-- Test 5: layout (R369, R98 and the tables of the chapter). -/
def Image.test5 (m : Image) : List Fail :=
  let kindsOk := m.recs.all (fun x => decide (1 ≤ x.r.kinds.length) && decide (x.r.kinds.length ≤ 64))
  let need := 32 + (m.recs.map (fun x => 24 + 208 * x.r.kinds.length)).sum
  failIf (shapeOk m.h m.w && kindsOk && (m.dir 0).2 ≠ need) (Fail.plain 24 24)
    ++ m.fixedFails ++ m.recs.flatMap m.recFails ++ m.sizeFails 2 8 8 (2 ^ 20) true
    ++ m.sizeFails 3 64 64 (2 ^ 20) false ++ m.sizeFails 4 16 32 4096 true

/-- Test 6: the tick period code (R92, Table 11.3). -/
def Image.test6 (m : Image) (tick : Nat) : List Fail :=
  failIf (m.at ((m.dir 0).1 + 4) 1 ≠ tick) (Fail.plain ((m.dir 0).1 + 4) noItem)

/-! ### Test 7 -/

/-- Row, column and bank of a segment entry's detail: 0xFF where the byte names none. -/
def Image.segFail (m : Image) (e : Entry) (off : Nat) : Fail :=
  let row := fieldAt e.bs 0 1
  let col := fieldAt e.bs 1 1
  let bank := fieldAt e.bs 2 1
  let f := if row < m.h ∧ col < m.w then Fail.stage (e.pos + off) row col e.idx else Fail.plain (e.pos + off) e.idx
  if bank < 48 then { f with bank := bank } else f

/-- Row and column of an output entry's detail. -/
def Image.outFail (m : Image) (e : Entry) (off : Nat) : Fail :=
  let row := fieldAt e.bs 0 1
  let col := fieldAt e.bs 1 1
  if row < m.h ∧ col < m.w then Fail.stage (e.pos + off) row col e.idx else Fail.plain (e.pos + off) e.idx

/-- The staging lines of the stage an entry names; none when it names no stage of the shape. -/
def Image.stagingOf (m : Image) (e : Entry) : Option Nat :=
  (m.recAt (fieldAt e.bs 0 1) (fieldAt e.bs 1 1)).map (fun x => x.r.staging)

/-- Test 7: memory (R377, Tables 11.4, 11.9, 11.11). -/
def Image.test7 (m : Image) : List Fail :=
  m.recs.flatMap (fun x =>
    failIf (decide (262144 < x.r.words)) (Fail.stage (x.pos + 4) (m.row x.idx) (m.col x.idx) x.idx)
      ++ failIf (decide (32768 < x.r.staging)) (Fail.stage (x.pos + 12) (m.row x.idx) (m.col x.idx) x.idx))
    ++ m.segs.flatMap (fun e =>
      let stop := fieldAt e.bs 4 4 + fieldAt e.bs 8 4
      let top := match m.stagingOf e with
        | none => 65536
        | some g => if fieldAt e.bs 2 1 = 47 then 65536 - 2 * g else 65536
      failIf (fieldAt e.bs 8 4 ≠ 0 && decide (top < stop)) (m.segFail e 4))
    ++ m.outs.flatMap (fun e => match m.stagingOf e with
      | none => []
      | some g => failIf (decide (g < fieldAt e.bs 4 4 + fieldAt e.bs 8 4)) (m.outFail e 4))

/-! ### Test 8 -/

/-- The place of the first byte other than zero from a place on. -/
def firstNonzero : Nat → List Byte → Option Nat
  | _, [] => none
  | pos, b :: bs => if b = 0 then firstNonzero (pos + 1) bs else some pos

/-- Reserved header fields and the padding between sections (R364, Table 11.1). -/
def Image.padFails (m : Image) : List Fail :=
  failIf (decide (15 < m.at 12 1)) (Fail.plain 12 12) ++ failIf (m.at 13 3 ≠ 0) (Fail.plain 13 13)
    ++ (match firstNonzero 168 ((m.bytes.take 4096).drop 168) with | none => [] | some p => [Fail.plain p 168])
    ++ m.dirs.zipIdx.flatMap (fun (d, i) =>
      let e := d.1 + d.2
      match firstNonzero e ((m.bytes.drop e).take (ceilTo 4096 e - e)) with
      | none => []
      | some p => [Fail.plain p (24 + 16 * i)])

/-- The bytes of the stage-scripts section that a record's script takes. -/
def scriptSpan (r : StageRec) : Nat × Nat := (r.scriptOff, r.scriptOff + 8 * r.words)

/-- Two scripts may share an offset only with the same W, and may not overlap otherwise (R372). -/
def scriptClash (a b : PlacedRec) : Bool :=
  meets (scriptSpan a.r) (scriptSpan b.r) && !(a.r.scriptOff = b.r.scriptOff && a.r.words = b.r.words)

/-- The placement of scripts in their section (R372). -/
def Image.spanFails (m : Image) : List Fail :=
  let l := (m.dir 1).2
  let bad := m.recs.filter (fun x => decide (l < x.r.scriptOff + 8 * x.r.words)) ++ clashing scriptClash m.recs
  let open_ := ((m.bytes.drop (m.dir 1).1).take l).zipIdx.find? (fun (b, k) =>
    b ≠ 0 && !m.recs.any (fun x => decide (x.r.scriptOff ≤ k) && decide (k < x.r.scriptOff + 8 * x.r.words)))
  bad.map (fun x => Fail.stage (x.pos + 8) (m.row x.idx) (m.col x.idx) x.idx)
    ++ (match open_ with | none => [] | some (_, k) => [Fail.plain ((m.dir 1).1 + k) noItem])

/-- Whether a shot is legal in its stage's script, its own fields apart: a target within the shape (R326), a step at or
above the floor step (R131), kinds that the kind table holds (R313), and formats of the format set (R371). -/
def Image.shotLegal (m : Image) (nk : Nat) (i : Instr) : Bool :=
  (match i with
    | .sigt _ row col _ _ => decide (row.toNat < m.h) && decide (col.toNat < m.w)
    | .step _ code => decide (m.floor ≤ code.toNat)
    | .eof _ f _ => decide (f.kindA.toNat < nk) && (f.p = 0 || decide (f.kindB.toNat < nk))
    | _ => true)
  && (shotFormats i).all (fun f => m.formats / 2 ^ f % 2 = 1)

/-- The output map entries of a stage (R379). -/
def Image.owned (m : Image) (x : PlacedRec) : List Nat :=
  (m.outs.filter (fun e => decide (fieldAt e.bs 0 1 = m.row x.idx) && decide (fieldAt e.bs 1 1 = m.col x.idx))).map
    Entry.idx

/-- The opcodes a REPEAT body may not hold: RUNAHEAD, EOF, REPEAT and STEP (R315). -/
def barredInBody (w : Nat) : Bool := [0x01, 0x02, 0x03, 0x06].contains (opcodeOf w)

/-- One word of a script, judged with the words after it (R311 to R317, R329, R371). -/
def Image.wordOk (m : Image) (x : PlacedRec) (owned : List Nat) (a w : Nat) (rest : List Nat) : Bool :=
  (match shotOf 0 w with
    | none => false
    | some i => shotFieldsOk i && m.shotLegal x.r.kinds.length i)
  && (match opcodeOf w with
    | 0x01 => x.r.kinds.any (fun k => k.first = a)
    | 0x03 => decide (repeatBody w ≤ rest.length) && !(rest.take (repeatBody w)).any barredInBody
    | 0x3C => owned.contains (bitsOf w 46 12)
    | _ => true)

/-- COMMIT words of a REPEAT body whose XE adjustment reaches an entry the stage does not own (R329, R379). -/
def commitReach (owned : List Nat) (a w : Nat) (rest : List Nat) : List Nat :=
  if opcodeOf w = 0x03 then
    ((rest.take (repeatBody w)).zipIdx.filter (fun (v, _) =>
      opcodeOf v = 0x3C && flagOf v 40
        && !(List.range (repeatCount w)).all (fun i => owned.contains (bitsOf v 46 12 + i)))).map
      (fun (_, k) => a + 1 + k)
  else []

/-- The addresses of a script's failing words. -/
def Image.wordFails (m : Image) (x : PlacedRec) (owned : List Nat) : Nat → List Nat → List Nat
  | _, [] => []
  | a, w :: rest =>
    (if m.wordOk x owned a w rest then [] else [a]) ++ commitReach owned a w rest
      ++ m.wordFails x owned (a + 1) rest

/-- The kinds of a stage: an EOF in reach (R373), footprints (R370) and STEP shots (R130, R317). -/
def Image.kindFails (m : Image) (x : PlacedRec) (ws : List Nat) : List Fail :=
  let row := m.row x.idx
  let col := m.col x.idx
  x.r.kinds.zipIdx.flatMap (fun (k, i) =>
    let pos := x.pos + 24 + 208 * i
    match kindWords ws k.first with
    | none => [{ Fail.stage pos row col x.idx with kind := i }]
    | some kw =>
      let ahead := opcodeOf ((kw.headD (0, 0)).2) = 0x01
      let steps := kw.filter (fun y => opcodeOf y.2 = 0x06)
      k.feet.zipIdx.flatMap (fun (fa, b) =>
        failIf (decide (fa.1 < fa.2) || (fa.2 ≠ 0 && !ahead))
          { Fail.stage (pos + 16 + 4 * b) row col x.idx with kind := i, bank := b })
        ++ (if ahead || 1 < steps.length then
          steps.map (fun y => { Fail.stage (m.wordPos x.r y.1) row col y.1 with kind := i }) else []))

/-- The words and kinds of one stage. -/
def Image.scriptFails (m : Image) (x : PlacedRec) : List Fail :=
  match m.script x.r with
  | none => []
  | some ws =>
    (m.wordFails x (m.owned x) 0 ws).map (fun a => Fail.stage (m.wordPos x.r a) (m.row x.idx) (m.col x.idx) a)
      ++ m.kindFails x ws

/-- The reader's stage across a writer's side, within the shape (R375). -/
def Image.reader (m : Image) (row col side : Nat) : Option (Nat × Nat) :=
  match Side.ofCode side with
  | .north => if row = 0 then none else some (row - 1, col)
  | .south => if row + 1 < m.h then some (row + 1, col) else none
  | .east => if col + 1 < m.w then some (row, col + 1) else none
  | .west => if col = 0 then none else some (row, col - 1)

/-- A splice schedule entry (Table 11.7). -/
def readSched (bs : List Byte) : SchedEntry :=
  let w := fieldAt bs 0 8
  { row := bitsOf w 0 3, col := bitsOf w 3 4, side := Side.ofCode (bitsOf w 8 2), kind := bitsOf w 10 6
    slot := bitsOf w 16 12, beats := bitsOf w 28 12 }

/-- The beats that entries up to and with one reserve into the same reader side in the same kind (R428). -/
def Image.landingSum (m : Image) (e : Entry) : Nat :=
  let x := readSched e.bs
  ((m.sched.filter (fun f =>
    let y := readSched f.bs
    decide (f.idx ≤ e.idx) && y.kind = x.kind && y.row = x.row && y.col = x.col && y.side = x.side)).map
      (fun f => (readSched f.bs).beats)).sum

/-- Splice schedule entries (Table 11.7) and the landing buffer (R428). -/
def Image.schedFails (m : Image) : List Fail :=
  let (o, l) := m.dir 2
  failIf (l ≠ 0 && m.at (o + 4) 4 ≠ 0) (Fail.plain (o + 4) 56)
    ++ m.sched.flatMap (fun e =>
      let x := readSched e.bs
      let w := fieldAt e.bs 0 8
      failIf (decide (m.h ≤ x.row) || decide (m.w ≤ x.col) || flagOf w 7 || bitsOf w 40 24 ≠ 0 || x.beats = 0
        || ((m.reader x.row x.col x.side.code).isSome && decide (4096 < m.landingSum e))) (Fail.plain e.pos e.idx))

/-- A memory segment entry that keeps Table 11.9; `n` is the entry count. -/
def Image.segOk (m : Image) (n : Nat) (e : Entry) : Bool :=
  let f (off k : Nat) : Nat := fieldAt e.bs off k
  let src := f 3 1
  let lines := f 8 4
  decide (f 0 1 < m.h) && decide (f 1 1 < m.w) && decide (f 2 1 < 48) && decide (src ≤ 1) && decide (f 4 4 < 65536)
    && lines ≠ 0 && decide (lines ≤ 65536) && f 12 4 = 0 && f 24 8 = 0 && f 16 8 % 64 = 0
    && (src = 1 || (decide (64 + 64 * n ≤ f 16 8) && decide (f 16 8 + 64 * lines ≤ (m.dir 3).2) && f 32 32 = 0))

/-- Two segments share lines of one bank of one stage (R378). -/
def segClash (a b : Entry) : Bool :=
  (a.bs.take 3) = (b.bs.take 3)
    && meets (fieldAt a.bs 4 4, fieldAt a.bs 4 4 + fieldAt a.bs 8 4) (fieldAt b.bs 4 4, fieldAt b.bs 4 4 + fieldAt b.bs 8 4)

/-- Memory segments (Tables 11.8 and 11.9, R378). -/
def Image.segFails (m : Image) : List Fail :=
  let (o, l) := m.dir 3
  failIf (l ≠ 0 && m.at (o + 4) 60 ≠ 0) (Fail.plain (o + 4) 72)
    ++ (m.segs.filter (fun e => !m.segOk m.segs.length e) ++ clashing segClash m.segs).map (fun e => m.segFail e 0)

/-- An output map entry (Table 11.11). -/
def readOut (bs : List Byte) : OutEntry :=
  { row := fieldAt bs 0 1, col := fieldAt bs 1 1, port := fieldAt bs 2 1, tag := fieldAt bs 3 1 % 2 = 1
    offset := fieldAt bs 4 4, lines := fieldAt bs 8 4, count := fieldAt bs 12 4, base := fieldAt bs 16 8
    stride := fieldAt bs 24 8 }

/-- An output map entry that keeps Table 11.11. -/
def Image.outOk (m : Image) (e : Entry) : Bool :=
  let o := readOut e.bs
  decide (o.row < m.h) && decide (o.col < m.w) && decide (o.port ≤ 2) && decide (fieldAt e.bs 3 1 ≤ 1) && o.lines ≠ 0
    && decide (o.lines ≤ 32768) && o.count ≠ 0 && o.base % 64 = 0 && o.stride % 64 = 0
    && decide (64 * (o.lines + o.tag.toNat) ≤ o.stride)

/-- The host interval of R380. -/
def hostSpan (o : OutEntry) : Nat × Nat :=
  (o.base, o.base + (o.count - 1) * o.stride + 64 * (o.lines + o.tag.toNat))

/-- Two entries overlap in host memory, or in the staging lines of one stage (R380). -/
def outClash (a b : Entry) : Bool :=
  let x := readOut a.bs
  let y := readOut b.bs
  meets (hostSpan x) (hostSpan y)
    || (x.row = y.row && x.col = y.col && meets (x.offset, x.offset + x.lines) (y.offset, y.offset + y.lines))

/-- The output map (Tables 11.10 and 11.11, R380). -/
def Image.outFails (m : Image) : List Fail :=
  let (o, l) := m.dir 4
  failIf (l ≠ 0 && m.at (o + 4) 12 ≠ 0) (Fail.plain (o + 4) 88)
    ++ (m.outs.filter (fun e => !m.outOk e) ++ clashing outClash m.outs).map (fun e => m.outFail e 0)

/-- Test 8: every other malformed condition. -/
def Image.test8 (m : Image) : List Fail :=
  m.padFails ++ m.spanFails ++ m.recs.flatMap m.scriptFails ++ m.schedFails ++ m.segFails ++ m.outFails

/-! ### Tests 9 to 11 -/

/-- The frame budget B in stage cycles: T_tick · f · 7/8 − 96 (R100, Table 4.1). -/
def frameBudget (tick floor : Nat) : Nat := 350 * 2 ^ tick * (9 + floor) - 96

/-- Test 9: worst-case cycle counts (R100, R101). -/
def Image.test9 (m : Image) (tick : Nat) : List Fail :=
  m.recs.flatMap (fun x => x.r.kinds.zipIdx.flatMap (fun (k, i) =>
    failIf (decide (frameBudget tick m.floor < k.cycles))
      { Fail.stage (x.pos + 24 + 208 * i + 4) (m.row x.idx) (m.col x.idx) x.idx with kind := i }))

/-- Test 10: journal footprints with their successors (R117, R374). -/
def Image.test10 (m : Image) : List Fail :=
  m.recs.flatMap (fun x =>
    match m.script x.r with
    | none => []
    | some ws => x.r.kinds.zipIdx.flatMap (fun (k, i) =>
      let next := (successors ((kindWords ws k.first).getD [])).filterMap (fun y => x.r.kinds[y]?)
      k.feet.zipIdx.flatMap (fun (fa, b) =>
        failIf (decide (4096 < fa.1) || next.any (fun y => decide (4096 < fa.1 + (y.feet.getD b (0, 0)).2)))
          { Fail.stage (x.pos + 24 + 208 * i + 16 + 4 * b) (m.row x.idx) (m.col x.idx) x.idx with
            kind := i, bank := b })))

/-- A SEND or RECV of a stage's kind, REPEAT expanded: its word address, whether it sends, side code, slot and beats. -/
structure SlotShot where
  addr : Nat
  send : Bool
  side : Nat
  slot : Nat
  beats : Nat
  deriving DecidableEq, Repr

/-- The SEND and RECV shots of a kind in script order. -/
def slotShots (kw : List (Nat × Nat)) : List SlotShot :=
  (expandKind 0 kw).filterMap (fun (a, i, w) =>
    if opcodeOf w = 0x38 || opcodeOf w = 0x39 then
      some { addr := a, send := opcodeOf w = 0x38, side := bitsOf w 56 2
             slot := bitsOf w 44 12 + (if flagOf w 26 then i else 0), beats := bitsOf w 28 12 }
    else none)

/-- The SEND and RECV shots of every kind of a stage. -/
def Image.stageSlots (m : Image) (x : PlacedRec) : List (List SlotShot) :=
  match m.script x.r with
  | none => []
  | some ws => x.r.kinds.map (fun k => slotShots ((kindWords ws k.first).getD []))

/-- The writer's row, column and side that a SEND or RECV of a stage uses; none where it leaves the rectangle. -/
def Image.writerOf (m : Image) (row col : Nat) (s : SlotShot) : Option (Nat × Nat × Side) :=
  match m.reader row col s.side with
  | none => none
  | some (r, c) => if s.send then some (row, col, Side.ofCode s.side) else some (r, c, (Side.ofCode s.side).opposite)

/-- The schedule reserves a shot's slot with its beat count (R325). -/
def Image.reserved (m : Image) (row col kind : Nat) (s : SlotShot) : Bool :=
  match m.writerOf row col s with
  | none => false
  | some (r, c, d) => m.sched.any (fun e =>
      let y := readSched e.bs
      y.row = r && y.col = c && y.side = d && y.kind = kind && y.slot = s.slot && y.beats = s.beats)

/-- The shots of a kind that break R325; `seen` holds the earlier ones. -/
def Image.slotFails (m : Image) (row col kind : Nat) : List SlotShot → List SlotShot → List Nat
  | _, [] => []
  | seen, s :: rest =>
    let late := seen.any (fun t => t.side = s.side && decide (s.slot ≤ t.slot))
    (if m.reserved row col kind s && !late then [] else [s.addr]) ++ m.slotFails row col kind (seen ++ [s]) rest

/-- The number of shots of a stage's kind that use a schedule entry's slot on a side. -/
def countSlot (slots : List (List SlotShot)) (kind : Nat) (send : Bool) (side slot : Nat) : Nat :=
  ((slots.getD kind []).filter (fun s => s.send = send && s.side = side && s.slot = slot)).length

/-- Two entries reserve one slot on one splice in one kind, whatever their directions (R376). -/
def Image.schedClash (m : Image) (a b : Entry) : Bool :=
  let x := readSched a.bs
  let y := readSched b.bs
  x.kind = y.kind && x.slot = y.slot
    && ((x.row = y.row && x.col = y.col && x.side = y.side)
      || (m.reader x.row x.col x.side.code = some (y.row, y.col) && x.side.opposite = y.side))

/-- A schedule entry that keeps R376, the clash apart: a reader, a kind that both stages hold, one SEND and one
RECV. -/
def Image.schedOk (m : Image) (slots : List (List (List SlotShot))) (e : Entry) : Bool :=
  let x := readSched e.bs
  match m.reader x.row x.col x.side.code with
  | none => false
  | some (r, c) =>
    let here := slots.getD (x.row * m.w + x.col) []
    let there := slots.getD (r * m.w + c) []
    decide (x.kind < here.length) && decide (x.kind < there.length)
      && countSlot here x.kind true x.side.code x.slot = 1
      && countSlot there x.kind false x.side.opposite.code x.slot = 1

/-- The detail of a schedule entry in test 11: its writer and kind. -/
def schedFail (e : Entry) : Fail :=
  let x := readSched e.bs
  { Fail.stage e.pos x.row x.col e.idx with kind := x.kind }

/-- Test 11: the splice schedule (R325, R376). -/
def Image.test11 (m : Image) : List Fail :=
  let slots := m.recs.map m.stageSlots
  (m.recs.zip slots).flatMap (fun (x, ks) => ks.zipIdx.flatMap (fun (ss, k) =>
    (m.slotFails (m.row x.idx) (m.col x.idx) k [] ss).map (fun a =>
      { Fail.stage (m.wordPos x.r a) (m.row x.idx) (m.col x.idx) a with kind := k })))
    ++ (m.sched.filter (fun e => !m.schedOk slots e) ++ clashing m.schedClash m.sched).map schedFail

/-! ### The ordered tests -/

/-- A test of Table 11.12: its number, its reason code and what fails it. -/
structure ReelTest where
  number : Nat
  code   : Nat
  fails  : Unit → List Fail

/-- A refusal: reason code and detail (R384). -/
structure Refused where
  reason : Nat
  detail : Nat
  deriving DecidableEq, Repr

/-- The first test that fails (R381). -/
def firstTest : List ReelTest → Option Refused
  | [] => none
  | t :: ts =>
    match firstFail (t.fails ()) with
    | some f => some { reason := t.code, detail := f.detail t.number }
    | none => firstTest ts

/-- Tests 2 and 3, judged from the header alone (R383). -/
def headerTests (bytes : List Byte) (len silicon : Nat) : List ReelTest :=
  [{ number := 2, code := 0x17, fails := fun _ => test2 bytes len },
   { number := 3, code := 0x18, fails := fun _ => test3 bytes silicon }]

/-- Tests 4 to 11, judged from the whole reel. -/
def bodyTests (bytes : List Byte) (tick : Nat) : List ReelTest :=
  let m := readImage bytes
  [{ number := 4, code := 0x17, fails := fun _ => test4 bytes },
   { number := 5, code := 0x17, fails := fun _ => m.test5 },
   { number := 6, code := 0x19, fails := fun _ => m.test6 tick },
   { number := 7, code := 0x10, fails := fun _ => m.test7 },
   { number := 8, code := 0x17, fails := fun _ => m.test8 },
   { number := 9, code := 0x12, fails := fun _ => m.test9 tick },
   { number := 10, code := 0x15, fails := fun _ => m.test10 },
   { number := 11, code := 0x16, fails := fun _ => m.test11 }]

/-- A memory segment of a reel that passed the tests. -/
def readSegment (bs : List Byte) : Segment :=
  { row := fieldAt bs 0 1, col := fieldAt bs 1 1, bank := fieldAt bs 2 1, host := fieldAt bs 3 1 = 1
    first := fieldAt bs 4 4, lines := fieldAt bs 8 4, addr := fieldAt bs 16 8, hash := (bs.drop 32).take 32 }

/-- What the module keeps of a reel that passed tests 1 to 11. -/
def Image.reel (m : Image) : Reel :=
  let o := (m.dir 0).1
  { h := m.h, w := m.w, floor := m.floor, oper := m.at (o + 3) 1, peak := m.at (o + 8) 4
    last := BitVec.ofNat 48 (m.at (o + 16) 6), stages := m.recs.map PlacedRec.r
    sched := m.sched.map (fun e => readSched e.bs), segs := m.segs.map (fun e => readSegment e.bs)
    outs := m.outs.map (fun e => readOut e.bs), hash := headerHash m.bytes, scripts := (m.dir 1).1
    memory := (m.dir 3).1 }

end Sys2Proof.Machine
end

