-- ==== Sys2Proof/Machine/Load.lean ====
section
/-! DEFINITION. The load check, placement, acceptance and loading (spec/11_reels.md R381 to R390,
spec/12_host_ports.md R403, R405, spec/08_gaffer.md R284). -/

namespace Sys2Proof.Machine

open Sys2Proof

/-! ### Refusal -/

/-- A refused record is formed and the slot is freed (R384, R403); the hash is the body hash as read. -/
def State.refuseSlot (s : State) (slot : Nat) (r : Refused) (hash : List Byte) : State :=
  match (s.slots[slot]?).join with
  | none => { s with check := none, slotOrder := s.slotOrder.erase slot }
  | some sub =>
    let s1 : State := s.emit 0 0 (.refused slot r.reason sub.port.code sub.tag (BitVec.ofNat 64 r.detail) hash)
    { s1 with check := none, slots := s1.slots.set slot none, slotOrder := s1.slotOrder.erase slot }

/-- Test 1 fails: the module is parked (R90, R382). -/
def parkedRefusal : Refused := { reason := 0x1B, detail := plainDetail 1 }

/-- The reel could not be read (R383). -/
def unreadRefusal : Refused := { reason := 0x17, detail := plainDetail 0 }

/-- LOAD_CHECK_START: the check of the slot taken longest ago begins when no other runs; a parked module refuses it
unread, with a zero hash (R381, R383, R405). The cap in force at the gaffer is noted for test 14 (R82, R84, R284). -/
def execLoadCheckStart (s : State) : Host.Outcome State Fault Refusal :=
  if s.check.isSome || !s.hears then .next s
  else
    match s.slotOrder with
    | [] => .next s
    | slot :: _ =>
      if s.pins.parked then .next (s.refuseSlot slot parkedRefusal (zeros 32))
      else .next { s with check := some { slot := slot, cap := s.gaffer.cap, reel := none } }

/-- What the bytes read come to (R381, R383): a refusal with the hash as read, or the reel. The header alone judges
tests 2 and 3. -/
def judgeReel (bytes : List Byte) (len tick : Nat) : Refused × List Byte ⊕ Reel :=
  if bytes.length < 4096 then .inl (unreadRefusal, zeros 32)
  else
    match firstTest (headerTests bytes len siliconCode) with
    | some r => .inl (r, headerHash bytes)
    | none =>
      if bytes.length ≠ len then .inl (unreadRefusal, headerHash bytes)
      else
        match firstTest (bodyTests bytes tick) with
        | some r => .inl (r, headerHash bytes)
        | none => .inr (readImage bytes).reel

/-- LOAD_CHECK_READ_COMPLETE: the read of the reel ends, with its bytes or with an error, and tests 2 to 11 judge it
(R381 to R383). A read through a port that cannot send ends in an error (R540). -/
def execLoadCheckReadComplete (reel : Option (List Byte)) (s : State) : Host.Outcome State Fault Refusal :=
  match s.check with
  | none => .next s
  | some k =>
    match k.reel, (s.slots[k.slot]?).join with
    | none, some sub =>
      match if (s.port sub.port).canSend then reel else none with
      | none => .next (s.refuseSlot k.slot unreadRefusal (zeros 32))
      | some bytes =>
        match judgeReel bytes sub.len (s.strap 0) with
        | .inl (r, h) => .next (s.refuseSlot k.slot r h)
        | .inr reel => .next { s with check := some { k with reel := some reel } }
    | _, _ => .next s

/-! ### Placement -/

/-- A stage can be placed: enabled, in no partition, its release complete (R385). -/
def Stage.available (st : Stage) : Bool := st.enabled && st.part.isNone && !st.releasing

/-- Every stage of an origin's rectangle satisfies a condition. -/
def State.rectAll (s : State) (h w o : Nat) (p : Stage → Bool) : Bool :=
  (rectStages o h w).all (fun n => match s.stage n with | none => false | some st => p st)

/-- The origins whose rectangle lies on the grid and is available, lowest first; none after a latched stop
(R37, R385). -/
def State.candidates (s : State) (h w : Nat) : List Nat :=
  if s.pins.stop.isSome then []
  else (List.range numStages).filter (fun o =>
    decide (rowOf o + h ≤ 8) && decide (colOf o + w ≤ 12) && s.rectAll h w o Stage.available)

/-- Stages of a rectangle that satisfy a condition. -/
def State.rectCount (s : State) (h w o : Nat) (p : Stage → Bool) : Nat :=
  (rectStages o h w).countP (fun n => match s.stage n with | none => false | some st => p st)

/-- The first two keys of R386: stages below the operating step, unlit stages. -/
def State.placeKey (s : State) (r : Reel) (o : Nat) : Nat × Nat :=
  (s.rectCount r.h r.w o (fun st => decide (st.usable < r.oper)),
   s.rectCount r.h r.w o (fun st => decide (st.st = .unlit)))

/-- One key before another in the order of R386. -/
def keyBefore (a b : Nat × Nat) : Bool := decide (a.1 < b.1) || (a.1 = b.1 && decide (a.2 < b.2))

/-- The origin with the first key; the first listed on a tie. -/
def bestOrigin : List (Nat × (Nat × Nat)) → Option (Nat × (Nat × Nat))
  | [] => none
  | x :: t =>
    match bestOrigin t with
    | none => some x
    | some y => if keyBefore y.2 x.2 then some y else some x

/-- The chosen origin, or the reason test 15 fails with (R386). -/
def State.place (s : State) (r : Reel) : Nat ⊕ Nat :=
  let cands := s.candidates r.h r.w
  let kept := cands.filter (fun o => s.rectAll r.h r.w o (fun st => decide (r.floor ≤ st.usable)))
  match bestOrigin (kept.map (fun o => (o, s.placeKey r o))) with
  | some x => .inl x.1
  | none => .inr (if cands.isEmpty then 0x11 else 0x13)

/-! ### Acceptance -/

/-- Test 14 fails: the declared peak exceeds the cap share (R284). -/
def State.overShare (s : State) (cap : Nat) (r : Reel) : Bool :=
  let en := s.enabledCount
  decide (en ≠ 0) && decide (cap * (r.h * r.w) / en < r.peak)

/-- Tests 12 to 15 with placement (R382): a refusal, or the partition number and origin. -/
def State.judgeState (s : State) (cap : Nat) (r : Reel) : Refused ⊕ (Nat × Nat) :=
  match partNumbers.find? (fun p => (s.ctx p).isNone) with
  | none => .inl { reason := 0x1A, detail := plainDetail 12 }
  | some p =>
    if r.floor < s.strap 3 then .inl { reason := 0x13, detail := plainDetail 13 }
    else if s.overShare cap r then .inl { reason := 0x14, detail := plainDetail 14 }
    else
      match s.place r with
      | .inl o => .inr (p, o)
      | .inr reason => .inl { reason := reason, detail := plainDetail 15 }

/-- The context ID after another: 1 to 255 and then 1 again (R387). -/
def nextId (i : BitVec 8) : BitVec 8 := if i = 0xFF then 1 else i + 1

/-- The first ID after one that no context holds; eight contexts hold at most eight. -/
def State.freshId (s : State) : Nat → BitVec 8 → BitVec 8
  | 0, i => i
  | n + 1, i =>
    let j := nextId i
    if partNumbers.any (fun p => match s.ctx p with | none => false | some c => decide (c.id = j)) then s.freshId n j
    else j

/-- A context at acceptance (R387): epoch 0, nothing loaded, no frame begun. -/
def Ctx.accepted (id : BitVec 8) (sub : Submission) (slot origin : Nat) (r : Reel) (now : WaferTime) : Ctx :=
  { id := id, epoch := 0, tag := sub.tag, port := sub.port, slot := slot, origin := origin, reel := r, loadAt := now
    loadOk := none, loaded := false, begun := false, inFrame := false, frame := 0, take := 0, action := none
    slips := 0, retakes := 0, rollback := none, rolledRun := 0, oper := r.oper, stepReq := none, noProg := 0, counted := false
    cut := none, level := none, named := none, ended := none, endDue := none, recorded := false, released := []
    totals := .zero, outs := [], startStamp := 0, startTick := 0, startEpoch := 0, startEra := 0, startEnergy := 0
    maxCtx := 0, sumCtx := 0, standIns := 0 }

/-- Acceptance of a reel in a slot (R387): partition, context ID, epoch and the accepted record; the stages join the
partition and the slot is freed. -/
def State.acceptReel (s : State) (slot p o : Nat) (sub : Submission) (r : Reel) : State :=
  let id := s.freshId 16 s.lastCtx
  let c := Ctx.accepted id sub slot o r s.time.wafer
  let s1 : State := (s.putCtx p (some c)).modStages c.stages (fun st =>
    { st with part := some p, closing := none, stopped := false, skipping := false, idle := 0, unassigned := 0 })
  let s2 : State := s1.emit id 0 (.accepted slot p o sub.port.code r.h r.w sub.tag r.hash)
  { s2 with lastCtx := id, check := none, slots := s2.slots.set slot none, slotOrder := s2.slotOrder.erase slot }

/-- ACCEPTANCE_STEP: the parked state, tests 12 to 15, placement and acceptance in one step (R382, R385 to R387). A chip
compute reset holds it until it completes (R502). -/
def execAcceptanceStep (s : State) : Host.Outcome State Fault Refusal :=
  if s.level4.isSome then .next s
  else
  match s.check with
  | none => .next s
  | some k =>
    match k.reel, (s.slots[k.slot]?).join with
    | some r, some sub =>
      if s.pins.parked then .next (s.refuseSlot k.slot parkedRefusal r.hash)
      else
        match s.judgeState k.cap r with
        | .inl f => .next (s.refuseSlot k.slot f r.hash)
        | .inr (p, o) => .next (s.acceptReel k.slot p o sub r)
    | _, _ => .next s

/-! ### Loading -/

/-- A context that can still load: accepted, not loaded, not ending (R388, R389). -/
def Ctx.loading (c : Ctx) : Bool := !c.loaded && c.ended.isNone && c.endDue.isNone && c.cut.isNone && c.level.isNone

/-- The CRC-32 of each 512-word block of a script (R469). -/
def blockCrcs (bytes : List Byte) (words : Nat) : List (BitVec 32) :=
  (List.range ((words + 511) / 512)).map (fun b =>
    crc32 ((bytes.drop (4096 * b)).take (if 512 * (b + 1) ≤ words then 4096 else 8 * words - 4096 * b)))

/-- Load a stage's script from its bytes (R388). -/
def Stage.loadScript (st : Stage) (bytes : List Byte) (words : Nat) : Stage :=
  { st with
    script := cellSetList [] 0 (words64 words bytes), scriptLen := words, scriptCrc := blockCrcs bytes words
    reload := none }

/-- Write lines' bytes into a logical bank, without a journal (R388). -/
def Stage.loadLines (st : Stage) (bank first : Nat) (bytes : List Byte) : Stage :=
  { st with scratch := cellSetList st.scratch (lineKey (st.bankMap.getD bank bank) first) bytes }

/-- The number of host-memory segments before a segment number: the place of its bytes among those read. -/
def hostIndex (segs : List Segment) (i : Nat) : Nat := (segs.take i).countP Segment.host

/-- The source bytes of segment `i` (R377, R378): from the reel body, or read through the port of submission. -/
def segBytes (r : Reel) (body : List Byte) (host : List (List Byte)) (i : Nat) (g : Segment) : List Byte :=
  if g.host then host.getD (hostIndex r.segs i) [] else (body.drop (r.memory + g.addr - 4096)).take (64 * g.lines)

/-- Load one stage of a context: its script and its segments (R388). -/
def Stage.loadFrom (st : Stage) (r : Reel) (row col : Nat) (body : List Byte) (host : List (List Byte)) : Stage :=
  match r.stages[row * r.w + col]? with
  | none => st
  | some x =>
    let script := (body.drop (r.scripts + x.scriptOff - 4096)).take (8 * x.words)
    r.segs.zipIdx.foldl (fun t (g, i) =>
      if g.row = row ∧ g.col = col then t.loadLines g.bank g.first (segBytes r body host i g) else t)
      (st.loadScript script x.words)

/-- What the second read shows (R389): 0 sound, else the cause of the first check that fails, body before segments. -/
def loadVerdict (r : Reel) (body : List Byte) (host : List (List Byte)) : Nat :=
  let bad := r.segs.zipIdx.any (fun (g, i) => g.host
    && ((segBytes r body host i g).length ≠ 64 * g.lines || sha256 (segBytes r body host i g) ≠ g.hash))
  if sha256 body ≠ r.hash then 0x18 else if bad then 0x19 else 0

/-- REEL_LOAD: when every stage of the context is lit, each loads its script and segments from the second read (R388,
R439). `segments` are the bytes of the host-memory segments in entry order. A read through a port that cannot send ends in
an error, with nothing loaded (R389, R540). -/
def execReelLoad (part : Nat) (body : List Byte) (segments : List (List Byte)) (s : State) :
    Host.Outcome State Fault Refusal :=
  match s.ctx part with
  | none => .next s
  | some c =>
    if c.loading && (s.stagesOf c).all (fun st => decide (st.st = .lit)) then
      if !(s.port c.port).canSend then .next (s.modCtx part (fun c => { c with loadOk := some 0x1A }))
      else
      let s1 : State := c.stages.foldl (fun t n =>
        t.modStage n (fun st => st.loadFrom c.reel (c.offsets n).1 (c.offsets n).2 body segments)) s
      .next (s1.modCtx part (fun c => { c with loadOk := some (loadVerdict c.reel body segments) }))
    else .next s

/-- REEL_LOAD_COMPLETE: the loading of a context ends: it is loaded, or it fails with the cause of R389. -/
def execReelLoadComplete (part : Nat) (readError : Bool) (s : State) : Host.Outcome State Fault Refusal :=
  match s.ctx part with
  | none => .next s
  | some c =>
    if !c.loading then .next s
    else if readError then .next (s.failCtx part 0x1A 0xFF 0xFF)
    else
      match c.loadOk with
      | none => .next s
      | some 0 => .next (s.modCtx part (fun c => { c with loaded := true }))
      | some cause => .next (s.failCtx part cause 0xFF 0xFF)

/-- LOAD_TIMEOUT: the loading is not complete 10 s of wafer time after acceptance; the command is that expiry (R389, log
entry 6). -/
def execLoadTimeout (part : Nat) (s : State) : Host.Outcome State Fault Refusal :=
  match s.ctx part with
  | none => .next s
  | some c =>
    if c.loading then .next (s.failCtx part 0x1B 0xFF 0xFF) else .next s

end Sys2Proof.Machine
end

