-- ==== Sys2Proof/Machine/Arith.lean ====
section
/-! DEFINITION. Element formats and arithmetic: exact values, rounding, sums in chunks, vector operations, conversions,
MXFP4 blocks, stochastic rounding and the counts of results (spec/10_number_formats.md R337 to R361). -/

namespace Sys2Proof.Machine

open Sys2Proof

/-! ### Values -/

/-- The value of an element (R337): NaN, an infinity, or a sign with an integer times a power of two; zero keeps its
sign. -/
inductive Val where
  | nan
  | inf (neg : Bool)
  | fin (neg : Bool) (m : Nat) (e : Int)
  deriving DecidableEq, Repr

/-- The value of an integer. -/
def Val.ofInt (v : Int) : Val := .fin (decide (v < 0)) v.natAbs 0

/-- The integer that a value of non-negative exponent is; the values of integer formats. -/
def Val.toInt : Val → Int
  | .fin neg m e => if neg then -((m * 2 ^ e.toNat : Nat) : Int) else ((m * 2 ^ e.toNat : Nat) : Int)
  | _ => 0

/-- The value with the other sign. -/
def Val.negate : Val → Val
  | .nan => .nan
  | .inf neg => .inf !neg
  | .fin neg m e => .fin (!neg) m e

/-- A product, exact (R344, R346, R350): ∞ × 0 is NaN. -/
def Val.mul : Val → Val → Val
  | .nan, _ => .nan
  | _, .nan => .nan
  | .inf a, .inf b => .inf (a != b)
  | .inf a, .fin b m _ => if m = 0 then .nan else .inf (a != b)
  | .fin a m _, .inf b => if m = 0 then .nan else .inf (a != b)
  | .fin a m e, .fin b k f => .fin (a != b) (m * k) (e + f)

/-- A value is -0. -/
def Val.isNegZero : Val → Bool
  | .fin true 0 _ => true
  | _ => false

/-- The least exponent of the non-zero finite values of a list. -/
def minExp : List Val → Option Int
  | [] => none
  | .fin _ m e :: t =>
    if m = 0 then minExp t
    else match minExp t with
      | none => some e
      | some f => some (if e ≤ f then e else f)
  | _ :: t => minExp t

/-- A finite value in units of 2^x. -/
def Val.units (x : Int) : Val → Int
  | .fin neg m e => if neg then -((m * 2 ^ (e - x).toNat : Nat) : Int) else ((m * 2 ^ (e - x).toNat : Nat) : Int)
  | _ => 0

/-- The exact sum of a list (R344 to R346): NaN before infinities before finite values; a zero sum is +0 unless every
addend is -0. -/
def exactSum (xs : List Val) : Val :=
  if xs.contains .nan then .nan
  else if xs.contains (.inf false) && xs.contains (.inf true) then .nan
  else if xs.contains (.inf false) then .inf false
  else if xs.contains (.inf true) then .inf true
  else
    match minExp xs with
    | none => .fin (xs.all Val.isNegZero) 0 0
    | some x =>
      let t : Int := (xs.map (Val.units x)).sum
      if t = 0 then .fin false 0 0 else .fin (decide (t < 0)) t.natAbs x

/-! ### Formats -/

/-- A floating-point format (Table 10.1): trailing significand bits, exponent bits, bias, whether it has infinities, and
its largest finite value. -/
structure Fmt where
  trail : Nat
  exp   : Nat
  bias  : Nat
  ieee  : Bool
  topM  : Nat
  topE  : Int
  deriving DecidableEq, Repr

/-- A format laid out as IEEE 754 does. -/
def Fmt.ofIeee (trail exp bias : Nat) : Fmt :=
  { trail := trail, exp := exp, bias := bias, ieee := true, topM := 2 ^ (trail + 1) - 1, topE := (bias : Int) - trail }

/-- The floating format of a code (Table 10.1); the E2M1 element for MXFP4. -/
def fmtOf (code : Nat) : Fmt :=
  match code with
  | 0 => .ofIeee 52 11 1023
  | 1 => .ofIeee 23 8 127
  | 2 => .ofIeee 10 5 15
  | 3 => .ofIeee 7 8 127
  | 4 => { trail := 3, exp := 4, bias := 7, ieee := false, topM := 14, topE := 5 }
  | 5 => .ofIeee 2 5 15
  | _ => { trail := 1, exp := 2, bias := 1, ieee := false, topM := 3, topE := 1 }

/-- The exponent of a format's smallest step: its subnormal grid (R338). -/
def Fmt.floor (f : Fmt) : Int := 1 - (f.bias : Int) - f.trail

/-- The canonical NaN (Table 10.1). -/
def nanBits (code : Nat) : Nat :=
  match code with
  | 0 => 0x7FF8000000000000
  | 1 => 0x7FC00000
  | 2 => 0x7E00
  | 3 => 0x7FC0
  | 4 => 0x7F
  | _ => 0x7E

/-- Bits of an element of a format code; int32 is code 9 (Table 10.2). -/
def elemBits (code : Nat) : Nat :=
  match code with
  | 0 => 64
  | 1 => 32
  | 2 => 16
  | 3 => 16
  | 4 => 8
  | 5 => 8
  | 6 => 8
  | 7 => 4
  | 8 => 4
  | _ => 32

/-- S_f(K): the bytes of a row of K elements (R341, Table 10.2). -/
def rowBytes (code k : Nat) : Nat :=
  match code with
  | 7 => 17 * k / 32
  | 8 => k / 2
  | c => k * (elemBits c / 8)

/-- Whether a code is an integer format: INT8, INT4 or int32. -/
def isInt (code : Nat) : Bool := code = 6 || code = 8 || code = 9

/-- Read a floating-point element (R337): the NaN of E4M3 and the specials of the IEEE formats. -/
def Fmt.decode (f : Fmt) (bits : Nat) : Val :=
  let neg := decide (bits / 2 ^ (f.trail + f.exp) % 2 = 1)
  let x := bits / 2 ^ f.trail % 2 ^ f.exp
  let t := bits % 2 ^ f.trail
  if f.ieee && decide (x = 2 ^ f.exp - 1) then (if t = 0 then .inf neg else .nan)
  else if f.trail = 3 && decide (x = 15) && decide (t = 7) then .nan
  else if x = 0 then .fin neg t f.floor
  else .fin neg (2 ^ f.trail + t) ((x : Int) - f.bias - f.trail)

/-- Read an element of a code. -/
def decodeElem (code bits : Nat) : Val :=
  if isInt code then .ofInt (signed (elemBits code) bits) else (fmtOf code).decode bits

/-! ### Rounding -/

/-- How a rounding chooses: to nearest even, or by a 24-bit random number (R357, R360). -/
inductive Rounding where
  | even
  | random (u : Nat)
  deriving DecidableEq, Repr

/-- Round a magnitude to whole steps of 2^x. A random rounding takes the upper of the two neighbours when its number is
below the 24-bit fraction of the way up; for a negative value the upper neighbour is the one of lesser magnitude (R360). -/
def roundAt (x : Int) (neg : Bool) (m : Nat) (e : Int) (r : Rounding) : Nat :=
  if x ≤ e then m * 2 ^ (e - x).toNat
  else
    let d := 2 ^ (x - e).toNat
    let q := m / d
    let t := m % d
    if t = 0 then q
    else
      match r with
      | .even => if d < 2 * t ∨ (2 * t = d ∧ q % 2 = 1) then q + 1 else q
      | .random u =>
        if neg then (if u < 2 ^ 24 * (d - t) / d then q else q + 1)
        else if u < 2 ^ 24 * t / d then q + 1 else q

/-- The step of a format's grid at a magnitude: its precision above, its smallest step below (R338, R354). -/
def Fmt.step (f : Fmt) (m : Nat) (e : Int) : Int :=
  let x := e + (Nat.log2 m : Int) - f.trail
  if x < f.floor then f.floor else x

/-- A magnitude in steps of 2^x exceeds a format's largest finite value. -/
def Fmt.above (f : Fmt) (q : Nat) (x : Int) : Bool :=
  if f.topE ≤ x then decide (f.topM < q * 2 ^ (x - f.topE).toNat) else decide (f.topM * 2 ^ (f.topE - x).toNat < q)

/-- Round a value to a format with nothing above to stop it (R354 step 3): steps and their exponent. -/
def Fmt.roundTo (f : Fmt) (neg : Bool) (m : Nat) (e : Int) (r : Rounding) : Nat × Int :=
  if m = 0 then (0, f.floor) else (roundAt (f.step m e) neg m e r, f.step m e)

/-- Write steps of 2^x as a format's fields; the magnitude is in range. -/
def Fmt.encode (f : Fmt) (neg : Bool) (q : Nat) (x : Int) : Nat :=
  let sign := if neg then 2 ^ (f.trail + f.exp) else 0
  let (q1, x1) := if q = 2 ^ (f.trail + 1) then (q / 2, x + 1) else (q, x)
  if q1 < 2 ^ f.trail then sign + q1
  else sign + ((x1 + f.bias + f.trail).toNat * 2 ^ f.trail + (q1 - 2 ^ f.trail))

/-- Round a value once to nearest even (R344, R350); the Bool tells an overflow to infinity (R346). -/
def Fmt.near (f : Fmt) (v : Val) : Val × Bool :=
  match v with
  | .fin neg m e =>
    let (q, x) := f.roundTo neg m e .even
    if f.above q x then (.inf neg, true) else (.fin neg q x, false)
  | v => (v, false)

/-- The bits of a value that a format holds exactly; NaN is canonical (R339). -/
def Fmt.bits (f : Fmt) (code : Nat) (v : Val) : Nat :=
  match v with
  | .nan => nanBits code
  | .inf neg => (if neg then 2 ^ (f.trail + f.exp) else 0) + (2 ^ f.exp - 1) * 2 ^ f.trail
  | .fin neg m e =>
    let (q, x) := f.roundTo neg m e .even
    f.encode neg q x

/-! ### Element results -/

/-- An element result: its bits and what it counts (R361). -/
structure ElemRes where
  bits : Nat
  nan  : Bool
  inf  : Bool
  ovf  : Bool
  sat  : Bool
  wrap : Bool
  deriving DecidableEq, Repr

/-- A result that counts nothing. -/
def ElemRes.plain (bits : Nat) : ElemRes :=
  { bits := bits, nan := false, inf := false, ovf := false, sat := false, wrap := false }

/-- A floating result and whether an overflow led to it. -/
def floatRes (code : Nat) (v : Val) (ovf : Bool) : ElemRes :=
  { ElemRes.plain ((fmtOf code).bits code v) with
    nan := decide (v = .nan), inf := decide (v = .inf false) || decide (v = .inf true), ovf := ovf }

/-- An integer result reduced to `w` bits, a wrap when the exact value leaves the range (R347, R351). -/
def intRes (w : Nat) (v : Int) : ElemRes :=
  { ElemRes.plain (wrapBits w v) with wrap := decide (v < -(2 ^ (w - 1) : Int)) || decide ((2 ^ (w - 1) : Int) ≤ v) }

/-- What a list of results counts (R361). -/
def countRes (rs : List ElemRes) : Nat × Nat × Nat × Nat × Nat :=
  (rs.countP ElemRes.nan, rs.countP ElemRes.inf, rs.countP ElemRes.ovf, rs.countP ElemRes.sat, rs.countP ElemRes.wrap)

/-! ### Rows -/

/-- Element `k` of a row of `len` elements given as one little-endian number (R341): an MXFP4 element takes the scale of its
block, where 0xFF makes it NaN (R355). -/
def rowElem (code len row k : Nat) : Val :=
  let w := elemBits code
  let v := decodeElem code (row / 2 ^ (w * k) % 2 ^ w)
  if code = 7 then
    let s := row / 2 ^ (4 * len + 8 * (k / 32)) % 256
    if s = 255 then .nan
    else match v with
      | .fin neg m e => .fin neg m (e + s - 127)
      | v => v
  else v

/-- The elements of a row. -/
def rowElems (code len row : Nat) : List Val := (List.range len).map (rowElem code len row)

/-- The bits of the elements of a row that has no block scales. -/
def rowBits (w len row : Nat) : List Nat := (List.range len).map (fun k => row / 2 ^ (w * k) % 2 ^ w)

/-- A row as a number from its elements' bits. -/
def packRow (w : Nat) (xs : List Nat) : Nat := xs.foldr (fun b t => b + 2 ^ w * t) 0

/-! ### The multiply-accumulate path -/

/-- The chunk length of a format (Table 10.3). -/
def chunkOf (code : Nat) : Nat := if code ≤ 1 then 1 else 4

/-- Products enter an accumulator in chunks, each rounded once (R344); the Bool tells an overflow of any chunk. -/
def chunkFold (f : Fmt) (n : Nat) : Nat → Val × Bool → List Val → Val × Bool
  | 0, c, _ => c
  | k + 1, c, ps =>
    match ps with
    | [] => c
    | _ :: _ =>
      let r := f.near (exactSum (c.1 :: ps.take n))
      chunkFold f n k (r.1, c.2 || r.2) (ps.drop n)

/-- One output element of an MMA in a format (R344 to R348): `c` is the element's bits, or 0 when Z is set. -/
def mmaElem (code c : Nat) (a b : List Val) : ElemRes :=
  let ps := List.zipWith Val.mul a b
  if isInt code then intRes 32 (signed 32 c + (ps.map Val.toInt).sum)
  else
    let acc := if code = 0 then 0 else 1
    let r := chunkFold (fmtOf acc) (chunkOf code) ps.length (decodeElem acc c, false) ps
    floatRes acc r.1 r.2

/-- The residue of an element after an integer MMA, from the residues of the operands (R333). -/
def mmaResidue (c : Nat) (a b : List Val) : Nat :=
  let m (v : Val) : Nat := (v.toInt % 7).toNat
  (c + (List.zipWith (fun x y => m x * m y) a b).sum) % 7

/-! ### Accumulator and vector arithmetic -/

/-- The addition rule of R349 and R350. -/
def addRes (code a b : Nat) : ElemRes :=
  if isInt code then intRes 32 (signed 32 a + signed 32 b)
  else
    let r := (fmtOf code).near (exactSum [decodeElem code a, decodeElem code b])
    floatRes code r.1 r.2

/-- A product rounded once. -/
def mulRes (code a b : Nat) : ElemRes :=
  if isInt code then intRes 32 (signed 32 a * signed 32 b)
  else
    let r := (fmtOf code).near ((decodeElem code a).mul (decodeElem code b))
    floatRes code r.1 r.2

/-- A sum of a product and an addend rounded once (fusedMultiplyAdd). -/
def fmaRes (code a b d : Nat) : ElemRes :=
  if isInt code then intRes 32 (signed 32 a * signed 32 b + signed 32 d)
  else
    let r := (fmtOf code).near (exactSum [(decodeElem code a).mul (decodeElem code b), decodeElem code d])
    floatRes code r.1 r.2

/-- The sign bit's weight of a type code. -/
def signBit (code : Nat) : Nat := 2 ^ (elemBits code - 1)

/-- A difference: the sum with the second operand's sign changed. -/
def subRes (code a b : Nat) : ElemRes :=
  if isInt code then intRes 32 (signed 32 a - signed 32 b)
  else
    let r := (fmtOf code).near (exactSum [decodeElem code a, (decodeElem code b).negate])
    floatRes code r.1 r.2

/-- A quotient of finite values with a sticky last bit, wide enough to round once. -/
def quotient (f : Fmt) (na : Bool) (ma : Nat) (ea : Int) (nb : Bool) (mb : Nat) (eb : Int) : Val :=
  let k := f.trail + 5 + Nat.log2 mb
  let q := ma * 2 ^ k / mb
  let sticky := if ma * 2 ^ k % mb = 0 then 0 else 1
  .fin (na != nb) (2 * q + sticky) (ea - eb - k - 1)

/-- Division (R350): 0/0 and ∞/∞ are NaN, and a non-zero finite value over zero is an infinity. -/
def divVal (f : Fmt) : Val → Val → Val
  | .nan, _ => .nan
  | _, .nan => .nan
  | .inf _, .inf _ => .nan
  | .inf a, .fin b _ _ => .inf (a != b)
  | .fin a _ _, .inf b => .fin (a != b) 0 0
  | .fin a m e, .fin b k x =>
    if k = 0 then (if m = 0 then .nan else .inf (a != b))
    else if m = 0 then .fin (a != b) 0 0
    else quotient f a m e b k x

/-- A quotient rounded once. -/
def divRes (code a b : Nat) : ElemRes :=
  let f := fmtOf code
  let r := f.near (divVal f (decodeElem code a) (decodeElem code b))
  floatRes code r.1 r.2

/-- The integer square root, from its bit `b` downward. -/
def isqrtFrom (n : Nat) : Nat → Nat → Nat
  | 0, r => r
  | b + 1, r => isqrtFrom n b (if (r + 2 ^ b) * (r + 2 ^ b) ≤ n then r + 2 ^ b else r)

/-- The square root of a value (R350), with a sticky last bit. -/
def sqrtVal (f : Fmt) : Val → Val
  | .nan => .nan
  | .inf neg => if neg then .nan else .inf false
  | .fin neg m e =>
    if m = 0 then .fin neg 0 0
    else if neg then .nan
    else
      let k := 2 * (f.trail + 4) + (e % 2).toNat
      let n := m * 2 ^ k
      let r := isqrtFrom n (Nat.log2 n / 2 + 1) 0
      .fin false (2 * r + (if r * r = n then 0 else 1)) ((e - k) / 2 - 1)

/-- A square root rounded once. -/
def sqrtRes (code a : Nat) : ElemRes :=
  let f := fmtOf code
  let r := f.near (sqrtVal f (decodeElem code a))
  floatRes code r.1 r.2

/-- A value is below another in the order of VMAX and VMIN, where -0 lies below +0 (R350). -/
def Val.below (a b : Val) : Bool :=
  match a, b with
  | .inf true, .inf true => false
  | .inf true, _ => true
  | _, .inf true => false
  | .inf false, _ => false
  | _, .inf false => true
  | .fin n m e, .fin k l f =>
    let x := if e ≤ f then e else f
    let u := Val.units x (.fin n m e)
    let v := Val.units x (.fin k l f)
    if u = v then n && !k else decide (u < v)
  | _, _ => false

/-- The maximum or minimum of two elements (R350, R351): NaN when either is. -/
def maxMinRes (code a b : Nat) (max : Bool) : ElemRes :=
  if isInt code then
    .plain (if decide (signed 32 a < signed 32 b) == max then b else a)
  else
    let x := decodeElem code a
    let y := decodeElem code b
    if x = .nan ∨ y = .nan then floatRes code .nan false
    else if x.below y == max then { ElemRes.plain b with inf := decide (y = .inf false) || decide (y = .inf true) }
    else { ElemRes.plain a with inf := decide (x = .inf false) || decide (x = .inf true) }

/-- The absolute value: the sign bit cleared; for int32 the exact result reduced (R351). -/
def absRes (code a : Nat) : ElemRes :=
  if isInt code then intRes 32 (signed 32 a).natAbs else .plain (a % signBit code)

/-- The value with its sign changed: the sign bit flipped; for int32 the exact result reduced (R351). -/
def negRes (code a : Nat) : ElemRes :=
  if isInt code then intRes 32 (-signed 32 a)
  else .plain (if a / signBit code % 2 = 1 then a - signBit code else a + signBit code)

/-- One level of the pairwise tree of R322. -/
def pairUp (f : Fmt) : List (Val × Bool) → List (Val × Bool)
  | a :: b :: t =>
    let r := f.near (exactSum [a.1, b.1])
    (r.1, a.2 || b.2 || r.2) :: pairUp f t
  | t => t

/-- The pairwise tree sum of up to 32 elements (R322, R350), or the reduced exact sum of integers (R351). -/
def treeRes (code : Nat) (xs : List Nat) : ElemRes :=
  if isInt code then intRes 32 ((xs.map (fun a => signed 32 a)).sum)
  else
    let f := fmtOf code
    let l0 := xs.map (fun a => (decodeElem code a, false))
    let l5 := pairUp f (pairUp f (pairUp f (pairUp f (pairUp f l0))))
    match l5 with
    | r :: _ => floatRes code r.1 r.2
    | [] => .plain 0

/-- The immediate of a vector shot as its type's bits (R322, R350): a binary32 value is widened exactly for binary64, a NaN
to the canonical one. -/
def immBits (code imm : Nat) : Nat := if code = 0 then (fmtOf 0).bits 0 (decodeElem 1 imm) else imm

/-! ### Stochastic rounding -/

/-- The 24-bit random number of a seed and a counter (R359). -/
def randomOf (seed ctr : Word) : Nat :=
  let x0 : Word := seed ^^^ (ctr * 0x9E3779B97F4A7C15)
  let x1 : Word := (x0 ^^^ (x0 >>> 30)) * 0xBF58476D1CE4E5B9
  let x2 : Word := (x1 ^^^ (x1 >>> 27)) * 0x94D049BB133111EB
  let x3 : Word := x2 ^^^ (x2 >>> 31)
  x3.toNat / 2 ^ 40

/-- The seed of R358: frame number, row and column offset, logical engine. -/
def seedOf (frame : BitVec 48) (row col engine : Nat) : Word :=
  BitVec.ofNat 64 (frame.toNat + row * 2 ^ 48 + col * 2 ^ 51 + engine * 2 ^ 55)

/-- The counter of R358: element index and shot index. -/
def counterOf (j : Nat) (shot : BitVec 32) : Word := BitVec.ofNat 64 (j % 2 ^ 24 + shot.toNat % 2 ^ 30 * 2 ^ 24)

/-- How a conversion rounds: to nearest even, or by the random number of each element. -/
structure RoundSel where
  r    : Bool
  seed : Word
  shot : BitVec 32
  deriving DecidableEq, Repr

/-- The rounding of element `j`. -/
def RoundSel.at (k : RoundSel) (j : Nat) : Rounding :=
  if k.r then .random (randomOf k.seed (counterOf j k.shot)) else .even

/-! ### Conversions -/

/-- Conversion of a value to a floating format other than MXFP4 (R354, Table 10.5). -/
def toFloat (dst : Nat) (v : Val) (r : Rounding) (s : Bool) : ElemRes :=
  let f := fmtOf dst
  let top (neg : Bool) : ElemRes := { ElemRes.plain (f.encode neg f.topM f.topE) with sat := true }
  match v with
  | .nan => floatRes dst .nan false
  | .inf neg => if f.ieee then floatRes dst (.inf neg) false else if s then top neg else floatRes dst .nan false
  | .fin neg m e =>
    let (q, x) := f.roundTo neg m e r
    if f.above q x then
      (if s then top neg else floatRes dst (if f.ieee then .inf neg else .nan) true)
    else .plain (f.encode neg q x)

/-- Conversion of a value to INT8 or INT4 (R354, Table 10.5). -/
def toInteger (dst : Nat) (v : Val) (r : Rounding) (s : Bool) : ElemRes :=
  let w := elemBits dst
  let clamp (x : Int) : ElemRes := { ElemRes.plain (wrapBits w x) with sat := true }
  let lo : Int := -(2 ^ (w - 1) : Int)
  let hi : Int := 2 ^ (w - 1) - 1
  match v with
  | .nan => clamp 0
  | .inf neg => clamp (if neg then lo else hi)
  | .fin neg m e =>
    let q := roundAt 0 neg m e r
    let x : Int := if neg then -(q : Int) else q
    if x < lo then (if s then clamp lo else intRes w x)
    else if hi < x then (if s then clamp hi else intRes w x)
    else .plain (wrapBits w x)

/-- A finite value divided by a power of two. -/
def Val.scale (v : Val) (x : Int) : Val :=
  match v with
  | .fin neg m e => .fin neg m (e - x)
  | v => v

/-- The binary logarithm, rounded down, of the largest magnitude of a list; none when all are zero. -/
def maxLog : List Val → Option Int
  | [] => none
  | .fin _ m e :: t =>
    if m = 0 then maxLog t
    else match maxLog t with
      | none => some (e + Nat.log2 m)
      | some x => some (if x < e + Nat.log2 m then e + Nat.log2 m else x)
  | _ :: t => maxLog t

/-- An E2M1 element of a scaled block (R356): `q` beyond 6 is clamped. -/
def toE2M1 (v : Val) (r : Rounding) : ElemRes :=
  let f := fmtOf 7
  match v with
  | .nan => .plain 0
  | .inf neg => { ElemRes.plain (f.encode neg f.topM f.topE) with sat := true }
  | .fin neg m e =>
    let (q, x) := f.roundTo neg m e r
    if f.above q x then { ElemRes.plain (f.encode neg f.topM f.topE) with sat := true } else .plain (f.encode neg q x)

/-- A block of NaN: every element counts as NaN, and as an overflow when a scale above 254 made it (R356, R361). -/
def nanBlock (n : Nat) (ovf : Bool) : List ElemRes :=
  List.replicate n { ElemRes.plain 0 with nan := true, ovf := ovf }

/-- Encode one block (R356): element results and the scale. `j` is the index of its first element. -/
def toBlock (vs : List Val) (k : RoundSel) (s : Bool) (j : Nat) : List ElemRes × Nat :=
  let infs := vs.contains (.inf false) || vs.contains (.inf true)
  let put (scale : Nat) : List ElemRes × Nat :=
    (vs.zipIdx.map (fun (v, i) => toE2M1 (v.scale ((scale : Int) - 127)) (k.at (j + i))), scale)
  if vs.contains .nan then (nanBlock vs.length false, 255)
  else if infs && !s then (nanBlock vs.length false, 255)
  else if infs then put 254
  else
    match maxLog vs with
    | none => put 0
    | some l =>
      let sc := l - 2 + 127
      if sc < 0 then put 0
      else if 254 < sc then (if s then put 254 else (nanBlock vs.length true, 255))
      else put sc.toNat

/-- Blocks of 32 in order; `n` bounds their number. -/
def toBlocks (k : RoundSel) (s : Bool) : Nat → Nat → List Val → List (List ElemRes × Nat)
  | 0, _, _ => []
  | n + 1, j, vs =>
    match vs with
    | [] => []
    | _ :: _ => toBlock (vs.take 32) k s j :: toBlocks k s n (j + 32) (vs.drop 32)

/-- Convert a row of values to a destination format (R354, R356): the row's bytes as one number, and the element results.
`j` is the index of the first element. -/
def convertRow (dst : Nat) (vs : List Val) (k : RoundSel) (s : Bool) (j : Nat) : Nat × List ElemRes :=
  if dst = 7 then
    let bs := toBlocks k s vs.length j vs
    let es := bs.flatMap Prod.fst
    (packRow 4 (es.map ElemRes.bits) + 2 ^ (4 * vs.length) * packRow 8 (bs.map Prod.snd), es)
  else
    let es := vs.zipIdx.map (fun (v, i) =>
      if isInt dst then toInteger dst v (k.at (j + i)) s else toFloat dst v (k.at (j + i)) s)
    (packRow (elemBits dst) (es.map ElemRes.bits), es)

/-- The accumulator type code as a format code: binary32, int32 as 9, binary64 (R301). -/
def accCode (ty : BitVec 2) : Nat := typeCode ty

end Sys2Proof.Machine
end

