-- ==== Sys2Proof/Machine/Operands.lean ====
section
/-! DEFINITION. Shot operands: when a stage can issue, address registers, line ranges and the interlock, bank lines
through the journal, accumulator tiles, and the queues (spec/09_engines_and_shots.md R299 to R316, R333,
spec/03_frames.md R113 to R118, spec/10_number_formats.md R341 to R343, R361, spec/11_reels.md R377). -/

namespace Sys2Proof.Machine

open Sys2Proof

/-! ### Issue -/

/-- The sequencer of a stage can take its next shot (R305, R314): its script runs, nothing stops it, and a frame is in
progress whose end-of-frame shot has not issued, or the stage runs ahead (R112). A stage without a locked core does not
issue (R167), and an erring script block is first read again (R469). A rollback stops the work it covers (R122). -/
def Stage.issues (st : Stage) (c : Ctx) : Bool :=
  st.st = .lit && !st.stopped && !st.skipping && c.loaded && c.ended.isNone && c.endDue.isNone
    && st.clock.drive.locked && !st.clock.halted
    && decide (st.reload ≠ some (st.seq.pc / 512))
    && (if st.seq.ahead then c.rollback.isNone
        else c.inFrame && !st.seq.eof && (match c.rollback with | none => true | some rb => !rb.both))

/-- The stage, partition and context of a stage that can take its next shot. -/
def State.issuer (s : State) (n : Nat) : Option (Stage × Nat × Ctx) :=
  match s.stage n, s.ctxOf n with
  | some st, some (p, c) => if s.live && st.issues c then some (st, p, c) else none
  | _, _ => none

/-- Every earlier shot has retired (R308): none is in a queue, and no STEP waits for its acceptance (R130). -/
def Stage.drained (st : Stage) : Bool := st.flights.isEmpty && !st.seq.stepWait

/-- The iteration index of the enclosing REPEAT, 0 outside one (R315). -/
def Seq.iter (q : Seq) : Nat := match q.loop with | none => 0 | some l => l.iter

/-- The stride of the enclosing REPEAT in lines. -/
def Seq.stride (q : Seq) : Int := match q.loop with | none => 0 | some l => l.stride

/-- The script word after the shot at the head of issue (R315). -/
def Seq.advance (q : Seq) : Seq :=
  match q.loop with
  | none => { q with pc := q.pc + 1 }
  | some l =>
    if q.pc + 1 < l.start + l.len then { q with pc := q.pc + 1 }
    else if l.iter + 1 < l.count then { q with pc := l.start, loop := some { l with iter := l.iter + 1 } }
    else { q with pc := q.pc + 1, loop := none }

/-- A shot has issued: the stage has worked in the frame (R41), and the head of issue moves on. -/
def Seq.step (q : Seq) : Seq := { q.advance with worked := true, issued := q.issued + 1 }

/-- The shot index of the shot at the head of issue (R309). -/
def Seq.shot (q : Seq) : BitVec 32 := q.shotAt q.pc

/-! ### Address registers and ranges -/

/-- The bank of an address register (R306). -/
def Seq.bankOf (q : Seq) (reg : BitVec 4) : Nat := (q.ar.getD reg.toNat 0).toNat / 65536

/-- The line of an address register, adjusted by the iteration when the shot's X bit is set (R306, R315). -/
def Seq.lineOf (q : Seq) (reg : BitVec 4) (x : Bool) : Int :=
  ((q.ar.getD reg.toNat 0).toNat % 65536 : Nat) + (if x then (q.iter : Int) * q.stride else 0)

/-- A line range enters the staging region: the highest 2·g lines of logical bank 47 (R377). -/
def inStaging (g : Nat) (r : LineRange) : Bool := decide (r.bank = 47) && decide (65536 - 2 * g < r.first + r.count)

/-- The range of a number of lines from an address register, or none where it leaves the bank's lines 0 to 65,535 or
enters the staging region of `g` lines (R316, R377). -/
def Seq.range (q : Seq) (g : Nat) (reg : BitVec 4) (x : Bool) (count : Nat) : Option LineRange :=
  let l := q.lineOf reg x
  if l < 0 ∨ 65536 < l + count then none
  else
    let r : LineRange := { bank := q.bankOf reg, first := l.toNat, count := count }
    if inStaging g r then none else some r

/-- A tile adjusted by the iteration, 2·i for binary64, or none beyond tile 63 (R316, Table 9.5). -/
def Seq.tile (q : Seq) (t : BitVec 6) (wide x : Bool) : Option Nat :=
  let k := t.toNat + (if x then (if wide then 2 else 1) * q.iter else 0)
  if k + (if wide then 1 else 0) < 64 then some k else none

/-- Two ranges share a line (R307). -/
def LineRange.meets (a b : LineRange) : Bool :=
  decide (a.bank = b.bank) && decide (a.first < b.first + b.count) && decide (b.first < a.first + a.count)

/-- A shot with these ranges waits for an earlier shot that has not retired (R307). -/
def Flight.blocks (f : Flight) (reads writes : List LineRange) : Bool :=
  (reads ++ writes).any (fun r => f.writes.any r.meets) || writes.any (fun r => f.reads.any r.meets)

/-- A queue of four entries is full (R299, R305). -/
def Stage.queueFull (st : Stage) (d : Dest) : Bool := decide (4 ≤ st.flights.countP (fun f => f.dest = d))

/-- The staging lines of a stage in its context (R377). -/
def Ctx.stagingOf (c : Ctx) (n : Nat) : Nat := match c.stageRec n with | none => 0 | some r => r.staging

/-! ### Bank lines -/

/-- A line of a physical bank. -/
def Stage.bankLine (st : Stage) (phys line : Nat) : Line := bytesLine (cellGetList st.scratch (lineKey phys line) 64)

/-- A number of lines of a logical bank as one little-endian number (R341). -/
def Stage.readLines (st : Stage) (bank first count : Nat) : Nat :=
  leNat (cellGetList st.scratch (lineKey (st.physBank bank) first) (64 * count))

/-- The lines of a range as one number. -/
def Stage.readRange (st : Stage) (r : LineRange) : Nat := st.readLines r.bank r.first r.count

/-- A number as a count of lines. -/
def linesOf (count v : Nat) : List Line := (List.range count).map (fun i => BitVec.ofNat 512 (v / 2 ^ (512 * i)))

/-- Write one line through the journal (R116): the first write of an epoch copies the old line; none when the bank's
4,096 journal lines are used (R118). -/
def Stage.writeLine (st : Stage) (ahead : Bool) (phys line : Nat) (l : Line) : Option Stage :=
  let put (t : Stage) : Stage := { t with scratch := cellSetList t.scratch (lineKey phys line) (lineBytes l) }
  if st.journaled phys line ahead then some (put st)
  else if 4096 ≤ st.journal.countP (fun j => j.bank = phys) then none
  else some (put { st with
    journal := st.journal ++ [{ bank := phys, line := line, ahead := ahead, old := st.bankLine phys line }] })

/-- Write lines through the journal from a line of a physical bank upward. -/
def Stage.writeLines (st : Stage) (ahead : Bool) (phys : Nat) : Nat → List Line → Option Stage
  | _, [] => some st
  | line, l :: ls => (st.writeLine ahead phys line l).bind (fun t => t.writeLines ahead phys (line + 1) ls)

/-- Write the lines of a range through the journal. -/
def Stage.writeRange (st : Stage) (ahead : Bool) (r : LineRange) (ls : List Line) : Option Stage :=
  st.writeLines ahead (st.physBank r.bank) r.first ls

/-! ### Accumulator tiles -/

/-- The key of element `j` of a tile of a logical engine (R301). -/
def accKey (e t j : Nat) : Nat := (e * 64 + t) * 512 + j

/-- An accumulator type is binary64 (R301). -/
def isWide (ty : BitVec 2) : Bool := ty = 2

/-- The elements of a tile in row order: binary64 spans two tiles (R343). -/
def Stage.tileElems (st : Stage) (e t : Nat) (wide : Bool) : List Nat :=
  (List.range 512).map (fun j =>
    (cellGet st.acc (accKey e t j)).toNat + (if wide then 2 ^ 32 * (cellGet st.acc (accKey e (t + 1) j)).toNat else 0))

/-- The residue of a 4-byte element, 0 to 6 for negative values as well (R333). -/
def residueOf (b : BitVec 32) : BitVec 3 := BitVec.ofNat 3 ((signed 32 b.toNat % 7).toNat)

/-- Put one tile of 4-byte elements, with the residues of the values written (R333; log entry 22). -/
def Stage.putHalf (st : Stage) (e t : Nat) (xs : List (BitVec 32)) : Stage :=
  { st with
    acc := cellSetList st.acc (accKey e t 0) xs
    resid := cellSetList st.resid (accKey e t 0) (xs.map residueOf) }

/-- Put the elements of a tile (R301, R343). -/
def Stage.putTile (st : Stage) (e t : Nat) (wide : Bool) (xs : List Nat) : Stage :=
  let st1 := st.putHalf e t (xs.map (fun v => BitVec.ofNat 32 v))
  if wide then st1.putHalf e (t + 1) (xs.map (fun v => BitVec.ofNat 32 (v / 2 ^ 32))) else st1

/-- Count element results in the epoch their work belongs to (R361, R362). -/
def Stage.count (st : Stage) (ahead : Bool) (rs : List ElemRes) : Stage :=
  let r := countRes rs
  let k : Counts := { nan := r.1, inf := r.2.1, ovf := r.2.2.1, sat := r.2.2.2.1, wrap := r.2.2.2.2 }
  if ahead then { st with cntAhead := st.cntAhead.add k } else { st with cnt := st.cnt.add k }

/-! ### The course of a shot -/

/-- What a shot needs to issue: its queue, its ranges, whether its residues are compared, and the beats it moves. -/
structure Plan where
  dest    : Dest
  reads   : List LineRange
  writes  : List LineRange
  checked : Bool
  beats   : Nat
  /-- a COMMIT's output entry and the port that it names (R111, R379) -/
  slot    : Option (Nat × Port) := none
  /-- the array cycles of an MMA with its format, and the type of a vector shot (R272, R300) -/
  mat     : Option (Nat × Nat) := none
  vector  : Option Nat := none
  deriving DecidableEq, Repr

/-- The effect of a shot on its stage, with the epoch of its work; none when a journal is full (R118). -/
abbrev ShotEffect := Stage → Bool → Option Stage

/-- A shot waits at the head of issue: its queue is full or the interlock holds it (R305, R307). -/
def Stage.waits (st : Stage) (p : Plan) : Bool :=
  st.queueFull p.dest || st.flights.any (fun f => f.blocks p.reads p.writes)

/-- What stands at the head of issue when a shot is to issue (R188, R305, R311). -/
inductive Head where
  /-- this shot -/
  | shot
  /-- a word that no shot may hold -/
  | malformed
  /-- another shot -/
  | other
  deriving DecidableEq, Repr

/-- A shot as its word gives it: the slack code of an EOF is no field of its word. -/
def bareShot : Instr → Instr
  | .eof n f _ => .eof n f none
  | i => i

/-- The head of issue of stage `n`, where the script word is the shot `i`, encodes no shot or a field that chapter 9 does
not allow, or is another shot: shots issue in script order (R188, R311). -/
def Stage.head (st : Stage) (n : Nat) (i : Instr) : Head :=
  match shotOf n (cellGet st.script st.seq.pc).toNat with
  | none => .malformed
  | some j => if j = bareShot i then (if shotFieldsOk i then .shot else .malformed) else .other

/-- Add to a counter of a list. -/
def countAt (xs : List Nat) : Option (Nat × Nat) → List Nat
  | none => xs
  | some (i, k) => modAt xs i (fun v => v + k)

/-- The activity that a shot adds to its stage's counts (R272; log entry 35): its array cycles by format, its vector
operation by type, the lines it reads and writes, and the journal copies it made. -/
def Work.shot (w : Work) (p : Plan) (copies : Nat) : Work :=
  { w with
    mat := countAt w.mat p.mat, vector := countAt w.vector (p.vector.map (fun t => (t, 1)))
    reads := w.reads + (p.reads.map LineRange.count).sum, writes := w.writes + (p.writes.map LineRange.count).sum
    journal := w.journal + copies }

/-- The lines of a range that lie in one subarray of 4,096 lines (R464). -/
def LineRange.inSub (r : LineRange) (sub : Nat) : Nat :=
  (if r.first + r.count < 4096 * (sub + 1) then r.first + r.count else 4096 * (sub + 1))
    - (if r.first < 4096 * sub then 4096 * sub else r.first)

/-- The lines that ranges read in a subarray of a physical bank. -/
def Stage.readsIn (st : Stage) (rs : List LineRange) (phys sub : Nat) : Nat :=
  (rs.map (fun r => if st.physBank r.bank = phys then r.inSub sub else 0)).sum

/-- The column and cell trackers count the reads of their subarrays, and forget an entry after 1,024 or 65,536 of them
(R465, R466). -/
def Stage.noteReads (st : Stage) (rs : List LineRange) : Stage :=
  { st with
    columns := (st.columns.map (fun e => { e with reads := e.reads + st.readsIn rs e.bank e.sub })).filter
      (fun e => decide (e.reads ≤ 1024))
    cells := (st.cells.map (fun e => { e with reads := e.reads + st.readsIn rs e.bank e.sub })).filter
      (fun e => decide (e.reads ≤ 65536)) }

/-- Enter an issued shot in its queue and move the head of issue on. -/
def Stage.launch (st : Stage) (p : Plan) (q : Seq) (copies : Nat) : Stage :=
  { st.noteReads p.reads with
    work := st.work.shot p copies
    flights := st.flights ++ [{ no := q.issued, index := q.shot, dest := p.dest, ahead := q.ahead, checked := p.checked
                                reads := p.reads, writes := p.writes, left := p.beats, slot := p.slot }]
    seq := st.seq.step }

/-- A full journal: the write is not issued, and the context fails with its error event (R118, Table 14.1). -/
def State.journalFull (s : State) (n : Nat) (d : Dest) (shot : BitVec 32) (ahead : Bool) : State :=
  (s.errorEvent { stageErr 0x1B n none with engine := d.engineCode, shot := shot, ahead := ahead } 0x00 0).failStageCtx
    n 0x14

/-- The shot at the head of issue goes to a queue (R305): a word that chapter 9 does not allow is a script error (R311),
a shot that is not the script's next does not issue (R188), operands out of range fail the context (R316), a full queue or
the interlock makes it wait, a full journal fails the context, and otherwise the shot takes its effect and enters its
queue. Effects are placed at issue: the interlock makes that the same as any later moment (R307). -/
def State.issueTo (s : State) (n : Nat) (i : Instr) (plan : Seq → Nat → Option Plan)
    (effect : Seq → Ctx → ShotEffect) : State :=
  match s.issuer n with
  | none => s
  | some (st, _, c) =>
    match st.head n i with
    | .other => s
    | .malformed => s.scriptError n st.seq.pc
    | .shot =>
      match plan st.seq (c.stagingOf n) with
      | none => s.failStageCtx n 0x15
      | some p =>
        if st.waits p then s
        else
          match effect st.seq c st (c.aheadWork st) with
          | none => s.journalFull n p.dest st.seq.shot st.seq.ahead
          | some st1 => s.putStage n (st1.launch p st.seq (st1.journal.length - st.journal.length))

/-- The shot at the head of issue is executed by the sequencer (R305): `act` runs when the stage can issue it. -/
def State.sequence (s : State) (n : Nat) (i : Instr) (act : Stage → Nat → Ctx → State) : State :=
  match s.issuer n with
  | none => s
  | some (st, p, c) =>
    match st.head n i with
    | .other => s
    | .malformed => s.scriptError n st.seq.pc
    | .shot => act st p c

/-- A sequencer shot has issued, with what it does to the sequencer. -/
def State.sequenced (s : State) (n : Nat) (f : Seq → Seq) : State :=
  s.modStage n (fun st => { st with seq := f st.seq.step })

end Sys2Proof.Machine
end

