-- ==== Sys2Proof/Machine/Matrix.lean ====
section
/-! DEFINITION. Matrix shots and bank-move shots (spec/09_engines_and_shots.md R299 to R301, R319 to R323, R333,
spec/10_number_formats.md R341 to R349, R352 to R361). -/

namespace Sys2Proof.Machine

open Sys2Proof

/-- The lines of a number of bytes. -/
def lineCount (bytes : Nat) : Nat := (bytes + 63) / 64

/-- K of an MMA (Table 9.4). -/
def mmaK (f : MmaFields) : Nat := 32 * (f.kcode.toNat + 1)

/-- Whether an MMA's accumulator type is binary64 (Table 9.1). -/
def mmaWide (f : MmaFields) : Bool := formatType f.format.toNat = 2

/-- The array cycles of an MMA: K·512/R_f at the rates of Table 9.1 (R300). -/
def arrayCycles (code k : Nat) : Nat :=
  k * 512 / (match code with | 0 => 32 | 1 => 128 | 2 => 512 | 3 => 512 | 7 => 2048 | 8 => 2048 | _ => 1024)

/-- The plan of an MMA: 16 rows of A and 32 columns of B, each on a line boundary (R319). -/
def mmaPlan (f : MmaFields) (q : Seq) (g : Nat) : Option Plan :=
  let l := lineCount (rowBytes f.format.toNat (mmaK f))
  match q.tile f.tile (mmaWide f) f.xc, q.range g f.areg f.xa (16 * l), q.range g f.breg f.xb (32 * l) with
  | some _, some a, some b =>
    some { dest := .engine f.engine.toNat, reads := [a, b], writes := [], checked := true, beats := 0
           mat := some (f.format.toNat, arrayCycles f.format.toNat (mmaK f)) }
  | _, _, _ => none

/-- The rows of an operand of `n` rows of `k` elements, each on a line boundary (R319, R342). -/
def operandRows (code k n v : Nat) : List (List Val) :=
  let l := lineCount (rowBytes code k)
  (List.range n).map (fun i => rowElems code k (v / 2 ^ (512 * l * i) % 2 ^ (512 * l)))

/-- Every row with every column, in the order of the tile's elements. -/
def rowsByCols {α : Type} (rows cols : List α) : List (α × α) := rows.flatMap (fun a => cols.map (fun b => (a, b)))

/-- The element results of an MMA (R300, R344 to R348). -/
def mmaTile (code : Nat) (z : Bool) (old : List Nat) (a b : List (List Val)) : List ElemRes :=
  List.zipWith (fun c x => mmaElem code (if z then 0 else c) x.1 x.2) old (rowsByCols a b)

/-- The residues that an integer MMA leaves (R333): from the operands' residues, and from the stored value where the sum
wrapped. -/
def mmaResidues (z : Bool) (old : List Nat) (a b : List (List Val)) (rs : List ElemRes) : List (BitVec 3) :=
  List.zipWith (fun r x => if r.wrap then residueOf (BitVec.ofNat 32 r.bits) else x) rs
    (List.zipWith (fun c x => BitVec.ofNat 3 (mmaResidue (if z then 0 else c) x.1 x.2)) old (rowsByCols a b))

/-- The residues of a tile. -/
def Stage.tileResidues (st : Stage) (e t : Nat) : List Nat :=
  (List.range 512).map (fun j => (cellGet st.resid (accKey e t j)).toNat)

/-- The effect of an MMA (R300, R344): C + A·B, or A·B with Z, into the tile, counted once for each element. -/
def mmaEffect (f : MmaFields) (q : Seq) (g : Nat) : ShotEffect := fun st ahead =>
  let code := f.format.toNat
  let e := f.engine.toNat
  let l := lineCount (rowBytes code (mmaK f))
  match q.tile f.tile (mmaWide f) f.xc, q.range g f.areg f.xa (16 * l), q.range g f.breg f.xb (32 * l) with
  | some t, some ra, some rb =>
    let a := operandRows code (mmaK f) 16 (st.readRange ra)
    let b := operandRows code (mmaK f) 32 (st.readRange rb)
    let old := st.tileElems e t (mmaWide f)
    let rs := mmaTile code f.z old a b
    let st1 : Stage := st.putTile e t (mmaWide f) (rs.map ElemRes.bits)
    let st2 : Stage :=
      if isInt code then
        { st1 with resid := cellSetList st1.resid (accKey e t 0) (mmaResidues f.z (st.tileResidues e t) a b rs) }
      else st1
    some (st2.count ahead rs)
  | _, _, _ => none

/-- MMA: multiply A by B and accumulate into C (R300, R319, R344 to R348). -/
def execMma (n : Nat) (f : MmaFields) (s : State) : Host.Outcome State Fault Refusal :=
  .next (s.issueTo n (.mma n f) (mmaPlan f) (fun q c => mmaEffect f q (c.stagingOf n)))

/-- The bytes of one row of an accumulator tile's store format (R342). -/
def accRowBytes (wide : Bool) : Nat := if wide then 256 else 128

/-- The plan of ACCLD and ACCADD: 16 rows read (R321, R342). -/
def loadPlan (f : AccFields) (checked : Bool) (q : Seq) (g : Nat) : Option Plan :=
  match q.tile f.tile (isWide f.ty) f.xc, q.range g f.reg f.xa (16 * lineCount (accRowBytes (isWide f.ty))) with
  | some _, some r =>
    some { dest := .engine f.engine.toNat, reads := [r], writes := [], checked := checked, beats := 0 }
  | _, _ => none

/-- The elements of 16 rows of the store format (R342): the rows fill their lines. -/
def storeElems (wide : Bool) (v : Nat) : List Nat := rowBits (if wide then 64 else 32) 512 v

/-- The effect of ACCLD: bits copied unchanged (R349). -/
def loadEffect (f : AccFields) (q : Seq) (g : Nat) : ShotEffect := fun st _ =>
  let wide := isWide f.ty
  match q.tile f.tile wide f.xc, q.range g f.reg f.xa (16 * lineCount (accRowBytes wide)) with
  | some t, some r => some (st.putTile f.engine.toNat t wide (storeElems wide (st.readRange r)))
  | _, _ => none

/-- ACCLD: load a tile from bank rows (R321, R349). -/
def execAccld (n : Nat) (f : AccFields) (s : State) : Host.Outcome State Fault Refusal :=
  .next (s.issueTo n (.accld n f) (loadPlan f false) (fun q c => loadEffect f q (c.stagingOf n)))

/-- The residues that an int32 ACCADD leaves (R333). -/
def addResidues (old : List Nat) (vs : List Nat) (rs : List ElemRes) : List (BitVec 3) :=
  List.zipWith (fun r x => if r.wrap then residueOf (BitVec.ofNat 32 r.bits) else x) rs
    (List.zipWith (fun c v => BitVec.ofNat 3 ((c + (residueOf (BitVec.ofNat 32 v)).toNat) % 7)) old vs)

/-- The effect of ACCADD (R349). -/
def addEffect (f : AccFields) (q : Seq) (g : Nat) : ShotEffect := fun st ahead =>
  let wide := isWide f.ty
  let e := f.engine.toNat
  match q.tile f.tile wide f.xc, q.range g f.reg f.xa (16 * lineCount (accRowBytes wide)) with
  | some t, some r =>
    let vs := storeElems wide (st.readRange r)
    let rs := List.zipWith (fun c v => addRes (accCode f.ty) c v) (st.tileElems e t wide) vs
    let st1 : Stage := st.putTile e t wide (rs.map ElemRes.bits)
    let st2 : Stage :=
      if f.ty = 1 then
        { st1 with resid := cellSetList st1.resid (accKey e t 0) (addResidues (st.tileResidues e t) vs rs) }
      else st1
    some (st2.count ahead rs)
  | _, _ => none

/-- ACCADD: add bank rows into a tile (R321, R349). -/
def execAccadd (n : Nat) (f : AccFields) (s : State) : Host.Outcome State Fault Refusal :=
  .next (s.issueTo n (.accadd n f) (loadPlan f (decide (f.ty = 1)))
    (fun q c => addEffect f q (c.stagingOf n)))

/-- The lines of one ACCST row (Table 10.2). -/
def storeRowLines (ofmt : Nat) : Nat := lineCount (rowBytes ofmt 32)

/-- The plan of ACCST: 16 rows written, each on a line boundary (R320, R342). -/
def storePlan (f : AccFields) (ofmt : BitVec 4) (q : Seq) (g : Nat) : Option Plan :=
  match q.tile f.tile (isWide f.ty) f.xc, q.range g f.reg f.xa (16 * storeRowLines ofmt.toNat) with
  | some _, some r =>
    some { dest := .engine f.engine.toNat, reads := [], writes := [r], checked := false, beats := 0 }
  | _, _ => none

/-- A store that copies bits: binary32 to 0x1 and binary64 to 0x0 (R353). -/
def isRaw (ty : BitVec 2) (ofmt : Nat) : Bool := (ty = 0 && ofmt = 1) || (ty = 2 && ofmt = 0)

/-- The sixteen rows of a tile. -/
def tileRows (xs : List Nat) : List (List Nat) := (List.range 16).map (fun r => (xs.drop (32 * r)).take 32)

/-- One row of ACCST: its bytes as a number and its element results (R353, R354, R356). -/
def storeRow (ty : BitVec 2) (ofmt : Nat) (k : RoundSel) (s : Bool) (row : Nat) (xs : List Nat) :
    Nat × List ElemRes :=
  if isRaw ty ofmt then (packRow (elemBits ofmt) xs, [])
  else convertRow ofmt (xs.map (decodeElem (accCode ty))) k s (32 * row)

/-- The rounding of a conversion in a frame of work (R358): R has no effect between integers (R354). -/
def Ctx.roundSel (c : Ctx) (n : Nat) (st : Stage) (engine : Nat) (r : Bool) (src dst : Nat) : RoundSel :=
  let o := c.offsets n
  { r := r && !(isInt src && isInt dst), seed := seedOf (c.workFrame st) o.1 o.2 engine, shot := st.seq.shot }

/-- The effect of ACCST (R320, R342, R353, R354). -/
def storeEffect (f : AccFields) (n : Nat) (ofmt : BitVec 4) (rnd sat : Bool) (q : Seq) (c : Ctx) :
    ShotEffect := fun st ahead =>
  let wide := isWide f.ty
  let e := f.engine.toNat
  let l := storeRowLines ofmt.toNat
  match q.tile f.tile wide f.xc, q.range (c.stagingOf n) f.reg f.xa (16 * l) with
  | some t, some r =>
    let k := c.roundSel n st e rnd (accCode f.ty) ofmt.toNat
    let rows := (tileRows (st.tileElems e t wide)).zipIdx.map (fun (xs, i) => storeRow f.ty ofmt.toNat k sat i xs)
    (st.writeRange ahead r (rows.flatMap (fun x => linesOf l x.1))).map (fun st1 =>
      st1.count ahead (rows.flatMap Prod.snd))
  | _, _ => none

/-- ACCST: convert a tile and write it as 16 rows (R320, R342, R352 to R360). -/
def execAccst (n : Nat) (f : AccFields) (ofmt : BitVec 4) (r sat : Bool) (s : State) :
    Host.Outcome State Fault Refusal :=
  .next (s.issueTo n (.accst n f ofmt r sat) (storePlan f ofmt)
    (fun q c => storeEffect f n ofmt r sat q c))

/-- The plan of a shot that touches tiles alone. -/
def tilePlan (engine : BitVec 6) (checked : Bool) : Plan :=
  { dest := .engine engine.toNat, reads := [], writes := [], checked := checked, beats := 0 }

/-- Write zero to `count` tiles from a tile (R321). -/
def Stage.zeroTiles (st : Stage) (e t count : Nat) : Stage :=
  (List.range count).foldl (fun u i => u.putHalf e (t + i) (List.replicate 512 0)) st

/-- ACCZ: zero to consecutive tiles (R321). -/
def execAccz (n : Nat) (engine first countM1 : BitVec 6) (s : State) : Host.Outcome State Fault Refusal :=
  .next (s.issueTo n (.accz n engine first countM1) (fun _ _ => some (tilePlan engine false))
    (fun _ _ st _ => some (st.zeroTiles engine.toNat first.toNat (countM1.toNat + 1))))

/-! ### Bank moves -/

/-- The plan of a bank move from a source range to a destination range. -/
def movePlan (engine : BitVec 6) (src dst : Option LineRange) : Option Plan :=
  match src, dst with
  | some a, some b =>
    some { dest := .engine engine.toNat, reads := [a], writes := [b], checked := false, beats := 0 }
  | _, _ => none

/-- The effect of MOVB: every source line is read before a destination line is written (R323). -/
def moveEffect (src dst : Option LineRange) : ShotEffect := fun st ahead =>
  match src, dst with
  | some a, some b => st.writeRange ahead b (linesOf b.count (st.readRange a))
  | _, _ => none

/-- MOVB: copy lines through the journal (R323). -/
def execMovb (n : Nat) (engine : BitVec 6) (sreg dreg : BitVec 4) (lines : BitVec 16) (xa xb : Bool) (s : State) :
    Host.Outcome State Fault Refusal :=
  .next (s.issueTo n (.movb n engine sreg dreg lines xa xb)
    (fun q g => movePlan engine (q.range g sreg xa lines.toNat) (q.range g dreg xb lines.toNat))
    (fun q c => moveEffect (q.range (c.stagingOf n) sreg xa lines.toNat)
      (q.range (c.stagingOf n) dreg xb lines.toNat)))

/-- A line of one 32-bit pattern (R323). -/
def patternLine (pattern : BitVec 32) : Line := BitVec.ofNat 512 (packRow 32 (List.replicate 16 pattern.toNat))

/-- FILLB: fill lines with a pattern (R323). -/
def execFillb (n : Nat) (engine : BitVec 6) (dreg : BitVec 4) (lines : BitVec 16) (pattern : BitVec 32) (s : State) :
    Host.Outcome State Fault Refusal :=
  .next (s.issueTo n (.fillb n engine dreg lines pattern)
    (fun q g => (q.range g dreg false lines.toNat).map (fun r =>
      { dest := .engine engine.toNat, reads := [], writes := [r], checked := false, beats := 0 }))
    (fun q c st ahead => (q.range (c.stagingOf n) dreg false lines.toNat).bind (fun r =>
      st.writeRange ahead r (List.replicate r.count (patternLine pattern)))))

/-- The elements of a CVTB. -/
def cvtCount (f : CvtFields) : Nat := 64 * f.groups.toNat

/-- The lines of a CVTB stream in a format (R323). -/
def cvtLines (f : CvtFields) (code : Nat) : Nat := lineCount (rowBytes code (cvtCount f))

/-- The source and destination ranges of a CVTB (R323). -/
def cvtSrc (f : CvtFields) (q : Seq) (g : Nat) : Option LineRange := q.range g f.sreg f.xa (cvtLines f f.sfmt.toNat)
def cvtDst (f : CvtFields) (q : Seq) (g : Nat) : Option LineRange := q.range g f.dreg f.xb (cvtLines f f.dfmt.toNat)

/-- The stream that a CVTB writes, with its element results: a copy between equal formats (R354), zero after its end. -/
def cvtStream (f : CvtFields) (k : RoundSel) (v : Nat) : Nat × List ElemRes :=
  let src := f.sfmt.toNat
  if f.sfmt = f.dfmt then (v % 2 ^ (8 * rowBytes src (cvtCount f)), [])
  else convertRow f.dfmt.toNat (rowElems src (cvtCount f) v) k f.s 0

/-- The effect of CVTB (R323, R354, R356). -/
def cvtEffect (f : CvtFields) (n : Nat) (q : Seq) (c : Ctx) : ShotEffect := fun st ahead =>
  match cvtSrc f q (c.stagingOf n), cvtDst f q (c.stagingOf n) with
  | some a, some b =>
    let k := c.roundSel n st f.engine.toNat f.r f.sfmt.toNat f.dfmt.toNat
    let r := cvtStream f k (st.readRange a)
    (st.writeRange ahead b (linesOf b.count r.1)).map (fun st1 => st1.count ahead r.2)
  | _, _ => none

/-- CVTB: convert a stream of elements into bank lines (R323, R352 to R360). -/
def execCvtb (n : Nat) (f : CvtFields) (s : State) : Host.Outcome State Fault Refusal :=
  .next (s.issueTo n (.cvtb n f) (fun q g => movePlan f.engine (cvtSrc f q g) (cvtDst f q g))
    (fun q c => cvtEffect f n q c))

end Sys2Proof.Machine
end

