-- ==== Sys2Proof/Machine/Power.lean ====
section
/-! DEFINITION. The gaffer's update, the sense sweep and gains, broken sense, rail re-checks and slack-to-volts
(spec/08_gaffer.md R266 to R291, spec/14_faults.md R473 to R477). -/

namespace Sys2Proof.Machine

open Sys2Proof

/-! ### The update -/

/-- An update interval in 1/256 ns: 8 µs (R266). -/
def updateUnits : Nat := 8000 * 256

/-- The wafer time of the next update: a whole multiple of 8 µs, not before now and after the last update (R266). -/
def State.nextUpdate (s : State) : WaferTime :=
  let lo := match s.gaffer.lastUpdate with
    | none => s.time.wafer.toNat
    | some t => if s.time.wafer.toNat ≤ t.toNat then t.toNat + 1 else s.time.wafer.toNat
  BitVec.ofNat 72 (ceilTo updateUnits lo)

/-- The fixed allowance P_fix (R274). -/
def fixedPower : Rat := 150

/-- What the stages fed by a rail or segment report for an interval, in watts (R272 to R274, section 8.4): activity `d`,
static estimate `q`, and the largest other activity `n` and matrix activity `c` that they can report. -/
structure RailReport where
  d : Rat
  q : Rat
  n : Rat
  c : Rat
  deriving DecidableEq, Repr

/-- Microwatts at a voltage in watts: weights are nominal at 0.80 V (R274; log entry 35). -/
def wattsAt (mv uw : Nat) : Rat := (uw : Rat) / 1000000 * ((Config.voltScale mv : Nat) : Rat) / 1000

/-- A weighted sum of counts. -/
def weighed (weight : Nat → Nat) (counts : List Nat) : Nat := (counts.zipIdx.map (fun (k, i) => k * weight i)).sum

/-- A_mat of a stage (R272): array cycles by format, and no more than the limits of the interval let its arrays do at its step
(R276, R277). -/
def Stage.matActivity (st : Stage) (limit : Nat) : Nat :=
  capAt (Config.matTop st.clock.drive.step * limit / 16) (weighed Config.matWeight st.work.mat)

/-- The part of A_oth that a stage rail feeds (R272): vector operations and splice beats. -/
def Stage.othActivity (st : Stage) : Nat :=
  capAt (Config.otherTop st.clock.drive.step) (weighed Config.vectorWeight st.work.vector + st.work.beats * Config.beatWeight)

/-- The part of A_oth that an array segment feeds (R272): bank reads and writes and journal copies. -/
def Stage.bankActivity (st : Stage) : Nat :=
  capAt (Config.bankTop st.clock.drive.step)
    (st.work.reads * Config.readWeight + st.work.writes * Config.writeWeight + st.work.journal * Config.journalWeight)

/-- The voltage of a rail or segment in mV: an array segment stands at 0.75 V (Table 16.2). -/
def State.railVolt (s : State) (x : Nat) : Nat := if x < 24 then (s.rail x).volt else 750

/-- Leakage of a stage into a rail or segment, in microwatts: lit and dark stages leak, others contribute nothing (R273). -/
def Stage.leak (st : Stage) (n x mv : Nat) : Nat :=
  if st.clocked then
    (if x < 24 then Config.leakage n st.temps.sum mv else Config.arrayLeakage n st.temps.sum mv)
  else 0

/-- The step whose largest activity a stage counts with in P_hi, or none: a stage that is lit, one in power-up, and, since it
may return to work at a tick, a dark stage of a partition (section 8.4; DESIGN CHOICE, log entry 35). -/
def State.boundStep (s : State) (n : Nat) (st : Stage) : Option Nat :=
  if st.st = .lit || st.ready || (st.st = .dark && st.part.isSome) then some st.clock.drive.step
  else if st.power.isSome then some (match s.ctxOf n with | none => 15 | some (_, c) => c.tau st)
  else none

/-- What one stage adds to the report of a rail or segment. -/
def State.stageReport (s : State) (x n : Nat) (r : RailReport) : RailReport :=
  match s.stage n with
  | none => r
  | some st =>
    let mv := s.railVolt x
    let limit := if s.gaffer.limitOld < s.gaffer.limit then s.gaffer.limit else s.gaffer.limitOld
    let d := if st.st ≠ .lit then 0 else if x < 24 then st.matActivity limit + st.othActivity else st.bankActivity
    let top := match s.boundStep n st with
      | none => (0, 0)
      | some k => if x < 24 then (Config.otherTop k, Config.matTop k) else (Config.bankTop k, 0)
    { d := r.d + wattsAt mv d, q := r.q + (st.leak n x mv : Rat) / 1000000
      n := r.n + wattsAt mv top.1, c := r.c + wattsAt mv top.2 }

/-- The report of a rail or segment for the interval that an update ends (R272 to R274). -/
def State.railReport (s : State) (x : Nat) : RailReport :=
  (railStages x).foldl (fun r n => s.stageReport x n r) { d := 0, q := 0, n := 0, c := 0 }

/-- The reports of the 24 stage rails and 4 array segments. -/
def State.railReports (s : State) : List RailReport := (List.range 28).map s.railReport

/-- Estimated power P of an interval (R274). -/
def railsPower (rails : List Rail) (reports : List RailReport) : Rat :=
  fixedPower + ((rails.zip reports).map (fun (r, x) => x.q + r.gain * x.d)).sum

/-- The bound P_hi(L) of section 8.4. -/
def powerBound (rails : List Rail) (reports : List RailReport) (l : Nat) : Rat :=
  fixedPower + ((rails.zip reports).map (fun (r, x) => x.q + r.gain * (x.n + x.c * (l : Rat) / 16))).sum

/-- S(k, u): the sum of P over the k intervals ending now, newest first in the history (R279). -/
def lastSum (hist : List Rat) (k : Nat) : Rat := (hist.take k).sum

/-- Every check of R279 for a limit. -/
def limitPasses (bound : Nat → Rat) (hist : List Rat) (prev : Nat) (cap : Rat) (l : Nat) : Bool :=
  let h1 := bound (if prev < l then l else prev)
  let h2 := bound l
  [(125, cap * 11 / 10), (1250, cap)].all (fun (n, limit) =>
    decide (lastSum hist (n - 1) + h1 ≤ (n : Rat) * limit) && decide (lastSum hist (n - 2) + h1 + h2 ≤ (n : Rat) * limit))

/-- The largest limit from 1 to 16 that passes, or none (R279). -/
def chooseLimit (bound : Nat → Rat) (hist : List Rat) (prev : Nat) (cap : Rat) : Option Nat :=
  ((List.range 16).reverse.map (· + 1)).find? (limitPasses bound hist prev cap)

/-- The energy of an interval of P watts: millijoules carried into the count, microjoules kept (R286). -/
def Gaffer.addEnergy (g : Gaffer) (p : Rat) (units : Nat) : Gaffer :=
  let uj := g.energyFrac + p * (units : Rat) / 256 / 1000
  let mj := (uj / 1000).floor
  { g with energy := g.energy + BitVec.ofInt 64 mj, energyFrac := uj - 1000 * (mj : Rat) }

/-- A stored interval value after the cap is lowered (R281). -/
def clampTo (cap p : Rat) : Rat := if cap < p then cap else p

/-- Count one interval's activity of a rail (R275). -/
def Rail.countInterval (r : Rail) (x : RailReport) : Rail :=
  { r with act := { d := r.act.d + x.d, q := r.act.q + x.q, top := r.act.top + (x.n + x.c), num := r.act.num + 1 } }

/-- Add each rail's report; a rail without one counts nothing. -/
def countIntervals : List Rail → List RailReport → List Rail
  | r :: rs, x :: xs => r.countInterval x :: countIntervals rs xs
  | rs, _ => rs

/-- The gaffer after an update with estimated power `p` (R279, R281, R282, R286). -/
def Gaffer.update (g : Gaffer) (p : Rat) (bound : Nat → Rat) (cap units : Nat) (now : WaferTime) : Gaffer :=
  let h0 := (p :: g.hist).take 1250
  let hist := if cap < g.cap then h0.map (clampTo cap) else h0
  let choice := chooseLimit bound hist g.limit cap
  let l := choice.getD 1
  let run := if choice.isSome then 0 else g.infeasRun + 1
  { g.addEnergy p units with
    hist := hist, limit := l, limitOld := g.limit, cap := cap, limited := g.limited || decide (l < 16), infeasRun := run
    infeasMax := if choice.isSome then 0 else if g.infeasMax < p then p else g.infeasMax
    infeasTold := choice.isNone && g.infeasTold, lastUpdate := some now }

/-- GAFFER_UPDATE: wafer time moves to the next update (log entry 8); the stages report the interval's activity and count
anew, its power is formed and its energy added, and the issue limit is chosen (R266, R272, R274, R279, R281, R282,
R286). -/
def execGafferUpdate (s : State) : Host.Outcome State Fault Refusal :=
  if !s.pins.bootDone || s.inReset then .next s
  else
    let now := s.nextUpdate
    let units := match s.gaffer.lastUpdate with
      | none => updateUnits
      | some t => now.toNat - t.toNat
    let reports := s.railReports
    let p := railsPower s.rails reports
    let s1 : State := s.advance now
    .next { s1 with
      gaffer := s.gaffer.update p (powerBound s.rails reports) s.capNow units now
      rails := countIntervals s.rails reports
      stages := s1.stages.map (fun st => { st with work := .zero }) }

/-- CAP_UNATTAINABLE: a run of 1,250 infeasible updates is entered once in the dailies, with the cap and the largest P
of the run in whole watts (R282). -/
def execCapUnattainable (s : State) : Host.Outcome State Fault Refusal :=
  let g := s.gaffer
  if 1250 ≤ g.infeasRun && !g.infeasTold then
    let s1 : State := s.log 0x08 (leBytes 4 g.cap ++ leBytes 4 (capAt 0xFFFFFFFF g.infeasMax.floor.toNat))
    .next { s1 with gaffer := { s1.gaffer with infeasTold := true } }
  else .next s

/-- ISSUE_LIMIT_RECEIVED: a lit stage applies the limit that the gaffer has sent, from 1 to 16, one for every lit stage
(R276, R278). -/
def execIssueLimitReceived (n : Nat) (s : State) : Host.Outcome State Fault Refusal :=
  match s.stage n with
  | none => .next s
  | some st =>
    if st.st = .lit then .next (s.putStage n { st with limit := s.gaffer.limit })
    else .next s

/-! ### Sense -/

/-- The last update falls on a whole millisecond of wafer time, and its sweep has not begun (R271). -/
def Gaffer.sweepDue (g : Gaffer) : Bool :=
  match g.lastUpdate with
  | none => false
  | some t => decide (t.toNat % (1000000 * 256) = 0) && decide (g.lastSweep ≠ some t)

/-- SENSE_SWEEP: at an update on a whole millisecond of wafer time the sweep begins; the activity it will be judged by is
that of the millisecond before it (R271, R275). -/
def execSenseSweep (s : State) : Host.Outcome State Fault Refusal :=
  if !s.pins.bootDone || s.inReset || !s.gaffer.sweepDue then .next s
  else
    .next { s with
      gaffer := { s.gaffer with sweeping := true, lastSweep := s.gaffer.lastUpdate }
      rails := s.rails.map (fun r => { r with swept := r.act, act := .zero }) }

/-- The clamp of a gain (R275). -/
def clampGain (g : Rat) : Rat := if g < 1 / 2 then 1 / 2 else if 2 < g then 2 else g

/-- The gain after a sweep with a valid sense of `mv` millivolts and `ma` milliamperes (R275). -/
def Rail.newGain (r : Rail) (mv ma : Nat) : Rat :=
  let a := r.swept
  if a.num = 0 || decide (a.d = 0) || decide (a.d * 20 < a.top) then r.gain
  else
    let m := (mv : Rat) * (ma : Rat) / 1000000
    let g := (m - a.q / (a.num : Rat)) / (a.d / (a.num : Rat))
    clampGain (r.gain + (g - r.gain) / 8)

/-- A rail or segment after a sweep: its gain and its runs of clamped gains and missing senses (R275). -/
def Rail.sweep (r : Rail) (reading : Option (Nat × Nat)) : Rail :=
  let gain := match reading with
    | none => r.gain
    | some (mv, ma) => if r.gainHeld || r.gainDead then r.gain else r.newGain mv ma
  { r with
    gain := gain
    clampRun := if gain = 1 / 2 ∨ gain = 2 then r.clampRun + 1 else 0
    missRun := if reading.isSome then 0 else r.missRun + 1 }

/-- The offsets of the stages of a rail that are not retired, in mV (R473). -/
def State.offsets (s : State) (x : Nat) (mv : Nat) (monitors : List Nat) : List (Nat × Int) :=
  ((railStages x).filter (fun n => match s.stage n with
    | none => false
    | some st => decide (st.st ≠ .retired))).map (fun n => (n, (monitors.getD n 0 : Int) - mv))

/-- Every offset is large, of one sign, and within 15 mV of the others, on two or more stages (R473). -/
def allOff (d : List (Nat × Int)) : Bool :=
  decide (2 ≤ d.length) && (d.all (fun x => decide (40 < x.2)) || d.all (fun x => decide (x.2 < -40)))
    && d.all (fun x => d.all (fun y => decide (x.2 - y.2 ≤ 15)))

/-- The one stage whose offset is large while the others' are not (R474). -/
def oneOff (d : List (Nat × Int)) : Option Nat :=
  match d.filter (fun x => decide (40 < x.2.natAbs)) with
  | [x] => some x.1
  | _ => none

/-- One stage of a rail alone shows a large offset (R474): an error event names the stage, and its test is the rail
re-check. -/
def State.stageOffset (s : State) (x n : Nat) : State :=
  (s.errorEvent { stageErr 0x11 n (some (.sense n)) with aux := x } 0 0).joinTest (.sense n) 0x11 .free

/-- The checks of R473 and R474 for a stage rail after a sweep. -/
def State.checkSense (s : State) (monitors : List Nat) (x : Nat) (reading : Option (Nat × Nat)) : State :=
  match reading with
  | none => s.modRail x (fun r => { r with offRun := 0, oneRun := 0 })
  | some (mv, _) =>
    let d := s.offsets x mv monitors
    let r := s.rail x
    if allOff d then
      if r.offRun + 1 < 2 then s.modRail x (fun r => { r with offRun := r.offRun + 1, oneRun := 0 })
      else
        let s1 : State := s.modRail x (fun r => { r with offRun := 0, oneRun := 0 })
        if r.broken = 0 then s1.brokenSense x 0x11 else s1
    else
      match oneOff d with
      | none => s.modRail x (fun r => { r with offRun := 0, oneRun := 0 })
      | some n =>
        if 0 < r.oneRun && decide (r.oneStage = n) then
          (s.modRail x (fun r => { r with offRun := 0, oneRun := 0 })).stageOffset x n
        else s.modRail x (fun r => { r with offRun := 0, oneRun := 1, oneStage := n })

/-- The transaction that reads a rail or segment in a sweep (R269): the reads at its interface and rail selector, of which a
bad one is made once more; none where it fails twice. -/
def State.avsRead (s : State) (readings : List AvsRead) (x : Nat) : Option (Nat × Nat) :=
  match readings.find? (fun r => decide ((r.iface, r.sel) = s.avsAddr x)) with
  | none => none
  | some r => ((r.tries.take 2).find? Option.isSome).join

/-- SENSE_SWEEP_COMPLETE: the sweep's readings update the gains, and each stage rail's offsets are checked against its
stages' monitors (R269, R275, R473, R474). -/
def execSenseSweepComplete (readings : List AvsRead) (monitors : List Nat) (s : State) :
    Host.Outcome State Fault Refusal :=
  if !s.gaffer.sweeping then .next s
  else
    let s1 : State := { s with
      gaffer := { s.gaffer with sweeping := false }
      rails := s.rails.zipIdx.map (fun (r, x) => r.sweep (s.avsRead readings x)) }
    .next ((List.range 24).foldl (fun t x => t.checkSense monitors x (s.avsRead readings x)) s1)

/-- GAIN_CLAMP_OR_SENSE_MISSING: a gain 64 sweeps at a clamp or 8 sweeps without a sense: an error event of kind 0x12
names the rail, the gain is held, and the re-check is its test (R275, R476). -/
def execGainClampOrSenseMissing (x : Nat) (s : State) : Host.Outcome State Fault Refusal :=
  let r := s.rail x
  if decide (x < 28) && !r.gainHeld && !r.gainDead && (decide (64 ≤ r.clampRun) || decide (8 ≤ r.missRun)) then
    let s1 : State := (s.errorEvent (moduleErr 0x12 x (some (.rail x))) 0 0).joinTest (.rail x) 0x12 .free
    .next (s1.modRail x (fun r => { r with gainHeld := true }))
  else .next s

/-! ### The re-check -/

/-- RAIL_RECHECK: the re-check that a pending test needs begins; the rail's voltage steps by 10 mV and back (R475). -/
def execRailRecheck (x : Nat) (s : State) : Host.Outcome State Fault Refusal :=
  if decide (x < 28) && s.tests.any (recheckTest x) then
    .next ({ s with tests := s.tests.map (fun t => if recheckTest x t then { t with running := true } else t) }.modRail x
      (fun r => { r with recheck := true }))
  else .next s

/-- Three readings that moved by 10 ± 4 mV and back, first up or first down (R475). -/
def followed (up : Bool) (v : List Nat) : Bool :=
  match v with
  | [a, b, c] =>
    let d (p q : Nat) : Bool := decide (p + 6 ≤ q) && decide (q ≤ p + 14)
    if up then d a b && d c b else d b a && d b c
  | _ => false

/-- A stage's monitor followed the re-check and stayed within 40 mV of the rail's readings (R475). -/
def stageFollows (k : RecheckData) (up : Bool) (n : Nat) : Bool :=
  match k.monitors.find? (fun m => m.1 = n) with
  | none => false
  | some (_, v) => followed up v && (v.zip k.avs).all (fun (m, a) => decide (((m : Int) - a).natAbs ≤ 40))

/-- The stages of a rail whose monitors did not follow (R474, R475). -/
def State.laggards (s : State) (x : Nat) (k : RecheckData) (up : Bool) : List Nat :=
  (railStages x).filter (fun n => match s.stage n with
    | none => false
    | some st => decide (st.st ≠ .retired) && !stageFollows k up n)

/-- An array segment's re-check: two readings in range and close, currents within the continuous current (R475,
Table 16.2). -/
def segmentPasses (k : RecheckData) : Bool :=
  k.ok && (match k.avs with
    | [a, b] => [a, b].all (fun v => decide (1455 ≤ 2 * v) && decide (2 * v ≤ 1545)) && decide (((a : Int) - b).natAbs ≤ 10)
    | _ => false)
  && decide (k.currents.length = 2) && k.currents.all (fun i => decide (i ≤ 120000))

/-- Settle one pending test by a rail's re-check (R474, R476, R477): the rail by its result; a stage's sense lasting when
its monitor alone did not follow; a failing rail under persistent droop is a broken sense. -/
def State.settleRecheck (s : State) (x : Nat) (pass : Bool) (alone : List Nat) (t : Test) : State :=
  match t.unit with
  | .rail _ => s.classify t.unit (!pass)
  | .sense n => s.classify t.unit (decide (alone = [n]))
  | .clockPath _ => if pass || decide ((s.rail x).broken ≠ 0) then s else s.brokenSense x 0x09
  | _ => s

/-- RAIL_RECHECK_COMPLETE: the re-check's readings pass or fail the rail and settle the tests that wait for it; a gain held
for a transient error is updated again (R275, R475 to R477). -/
def execRailRecheckComplete (x : Nat) (data : RecheckData) (s : State) : Host.Outcome State Fault Refusal :=
  let r := s.rail x
  if !r.recheck then .next s
  else
    let up := decide (r.volt < 510)
    let lag := s.laggards x data up
    let avsOk := data.ok && followed up data.avs
    let pass := if x < 24 then avsOk && lag.isEmpty else segmentPasses data
    let alone := if avsOk then lag else []
    let waiting := s.tests.filter (recheckTest x)
    let s1 : State := waiting.foldl (fun t k => t.settleRecheck x pass alone k) s
    .next (s1.modRail x (fun r => { r with
      recheck := false, gainHeld := r.gainHeld && (r.gainDead || decide (r.broken ≠ 0)) }))

/-! ### Voltages -/

/-- The highest step that a stage of a rail drives at, as the supervisor has it (R168, R290). -/
def State.topDriven (s : State) (x : Nat) : Nat :=
  (railStages x).foldl (fun m n => match s.stage n with
    | none => m
    | some st => if st.clocked && decide (m < st.clock.supStep) then st.clock.supStep else m) 0

/-- The voltage that the loop gives a rail for the lowest slack code of its stages (R288). -/
def slackVolt (v : Nat) (slack : Option Nat) : Nat :=
  match slack with
  | none => v
  | some c =>
    if 13 ≤ c then (if v < 505 then 500 else v - 5)
    else if c ≤ 8 then (if 795 < v then 800 else v + 5)
    else v

/-- The lowest valid frame slack of a rail's stages over the evaluation interval that the last tick ends (R153, R288). -/
def State.railSlack (s : State) (x : Nat) : Option Nat :=
  (railStages x).foldl (fun m n => match s.stage n with
    | none => m
    | some st => minCode m (minCode st.slackLow st.slackTick)) none

/-- The evaluation of one stage rail (R288, R291), and the highest step driven as the next interval begins (R290). -/
def State.evaluate (s : State) (x : Nat) : State :=
  let v := slackVolt (s.rail x).volt (s.railSlack x)
  let s1 : State := if s.offLoop x || decide (v = (s.rail x).volt) then s else s.setVolt x v
  s1.modRail x (fun r => { r with topStep := s1.topDriven x })

/-- SLACK_TO_VOLTS: at a tick whose count is a multiple of 64 every stage rail is lowered, raised or held by the lowest valid
slack code of its stages over the last 64 ticks, and a new evaluation interval begins (R288, R290, R291). -/
def execSlackToVolts (s : State) : Host.Outcome State Fault Refusal :=
  if !s.pins.bootDone || s.inReset || decide (s.time.tickCount.toNat % 64 ≠ 0) then .next s
  else
    let s1 : State := (List.range 24).foldl State.evaluate s
    .next { s1 with stages := s1.stages.map (fun st => { st with slackTick := none, slackLow := none }) }

/-- AVSBUS_WRITE_FAILED: the rail stays at its last confirmed voltage; an error event of kind 0x13 names it and counts
against it (R291, R477). -/
def execAvsbusWriteFailed (x : Nat) (s : State) : Host.Outcome State Fault Refusal :=
  if decide (x < 24) && s.pins.bootDone && !s.inReset then
    let s1 : State := s.modRail x (fun r => { r with volt := r.confirmed })
    .next ((s1.errorEvent (moduleErr 0x13 x (some (.rail x))) 0x03 0).joinTest (.rail x) 0x13 .free)
  else .next s

end Sys2Proof.Machine
end

