-- ==== Sys2Proof/Machine/Spine.lean ====
section
/-! DEFINITION. Column spines: flit checks, failed segments, sinks and the unlit response (spec/13_fabric.md R424, R429 to
R437; spec/14_faults.md R480; spec/15_recovery.md R492). -/

namespace Sys2Proof.Machine

open Sys2Proof

/-! ### The flit header (Table 13.2) -/

/-- The fields of a spine flit header. -/
structure FlitHeader where
  cls    : Nat
  data   : Bool
  src    : Nat
  dst    : Nat
  ctx    : BitVec 8
  epoch  : BitVec 8
  op     : Nat
  tag    : BitVec 16
  line   : Nat
  bank   : Nat
  status : Nat
  /-- the argument of an event, in the same bits -/
  arg    : Nat
  deriving DecidableEq, Repr

/-- The fields of a header's bits (Table 13.2). -/
def flitFields (h : BitVec 128) : FlitHeader :=
  { cls := (h.extractLsb' 0 2).toNat, data := h.getLsbD 2, src := (h.extractLsb' 4 8).toNat
    dst := (h.extractLsb' 12 8).toNat, ctx := h.extractLsb' 20 8, epoch := h.extractLsb' 28 8
    op := (h.extractLsb' 36 4).toNat, tag := h.extractLsb' 40 16, line := (h.extractLsb' 56 16).toNat
    bank := (h.extractLsb' 72 6).toNat, status := (h.extractLsb' 78 2).toNat, arg := (h.extractLsb' 56 72).toNat }

/-- The bits of a header's fields. -/
def flitBits (f : FlitHeader) : BitVec 128 :=
  BitVec.ofNat 128 (f.cls + f.data.toNat * 2 ^ 2 + f.src * 2 ^ 4 + f.dst * 2 ^ 12 + f.ctx.toNat * 2 ^ 20
    + f.epoch.toNat * 2 ^ 28 + f.op * 2 ^ 36 + f.tag.toNat * 2 ^ 40
    + (if f.cls = 0 then f.arg else f.line + f.bank * 2 ^ 16 + f.status * 2 ^ 22) * 2 ^ 56)

/-- A flit that no sink may take: reserved class, operation or RS status, or a destination past 0x63 (R430). -/
def FlitHeader.malformed (f : FlitHeader) : Bool :=
  decide (0x64 ≤ f.dst) ||
  match f.cls with
  | 0 => decide (0x8 < f.op)
  | 1 => decide (0x1 < f.op) || decide (f.status = 3)
  | 2 => decide (0x2 < f.op)
  | _ => true

/-- The response that answers a request: class RS, the tag, bank and line echoed, source and destination exchanged; a
write is acknowledged, a read answered with data (Table 13.3). -/
def FlitHeader.reply (f : FlitHeader) (status : Nat) (data : Bool) : FlitHeader :=
  { f with cls := 1, data := data, src := f.dst, dst := f.src, op := if f.op = 0 then 0 else 1, status := status }

/-! ### Segments -/

/-- The segments of a column: 0 leaves the North block, 8 enters the South block (R425). -/
def segmentOk (col seg : Nat) : Bool := decide (col < 12) && decide (seg < 9)

/-- A segment's record, empty when nothing has been counted on it. -/
def State.spine (s : State) (col seg : Nat) : SpineSeg :=
  match s.spines.find? (fun x => x.col = col && x.seg = seg) with
  | some x => x
  | none => { col := col, seg := seg, errors := 0, resends := 0, failed := false }

/-- Put a segment's record. -/
def State.putSpine (s : State) (x : SpineSeg) : State :=
  { s with spines := x :: s.spines.filter (fun y => !(y.col = x.col && y.seg = x.seg)) }

/-- SPINE_FLIT_CRC_FAIL: a flit fails its CRC and is resent from the replay buffer (R431). -/
def execSpineFlitCrcFail (col seg : Nat) (s : State) : Host.Outcome State Fault Refusal :=
  let x := s.spine col seg
  if !segmentOk col seg || s.inReset || x.failed then .next s
  else .next (s.putSpine { x with resends := x.resends + 1 })

/-- The site at a segment's northern end (R480). -/
def northEnd (col seg : Nat) : Nat := if seg = 0 then 0x61 else 12 * (seg - 1) + col

/-- SPINE_SEGMENT_FAILED: 16 consecutive sends of one flit failed: the segment is lasting and every stage of its column is
retired (R431, R480). -/
def execSpineSegmentFailed (col seg : Nat) (s : State) : Host.Outcome State Fault Refusal :=
  let x := s.spine col seg
  if !segmentOk col seg || s.inReset || x.failed || decide (x.resends < 16) then .next s
  else
    let s1 : State := s.putSpine { x with failed := true }
    let s2 : State := s1.errorEvent { crossingErr 0x0D 0xFFFF none with stage := northEnd col seg } 0x00 0
    .next ((List.range 8).foldl (fun t r => t.retireStage (12 * r + col) 0x00 0x0D 0x10) s2)

/-! ### Sinks -/

/-- A flit of a context that its sink no longer serves: a stage serves its partition's context, an edge block every
context that exists; module traffic carries ID 0 (R492). -/
def State.staleFlit (s : State) (f : FlitHeader) : Bool :=
  decide (f.ctx ≠ 0) &&
  if f.dst < numStages then
    match s.ctxOf f.dst with
    | none => true
    | some (_, c) => decide (c.id ≠ f.ctx) || decide (c.epoch ≠ f.epoch)
  else
    !(partNumbers.any (fun p => match s.ctx p with
      | none => false
      | some c => decide (c.id = f.ctx) && decide (c.epoch = f.epoch)))

/-- The site codes of the South and North blocks (Table 6.6). -/
def southSite : Nat := 0x60
def northSite : Nat := 0x61

/-- A flit that a sink on a segment of a column can receive: every flit keeps to its source's and its target's spines
(R425, R432). Segment `r` lies north of the tap of row `r`, segment `r + 1` south of it. A flit between stages reaches
the South block on the source's spine, and from its relay the tap of the target on the target's own. -/
def FlitHeader.onPath (f : FlitHeader) (col seg : Nat) : Bool :=
  if f.dst < numStages then
    let mine := decide (colOf f.dst = col)
    if f.src = northSite then mine && decide (seg = rowOf f.dst)
    else if f.src = southSite then mine && decide (seg = rowOf f.dst + 1)
    else decide (f.src < numStages) &&
      ((decide (colOf f.src = col) && decide (seg = 8)) || (mine && decide (seg = rowOf f.dst + 1)))
  else if f.dst = southSite then decide (f.src < numStages) && decide (colOf f.src = col) && decide (seg = 8)
  else if f.dst = northSite then decide (f.src < numStages) && decide (colOf f.src = col) && decide (seg = 0)
  else false

/-- The CRC-16 of a flit: generator x^16 + x^12 + x^5 + 1 over the header and the data field, which is zero without a
line, from 0xFFFF (R429). DESIGN CHOICE (log entry 50): the bits enter from header bit 0 upward. -/
def flitCrc (header : BitVec 128) (d : Option Line) : BitVec 16 :=
  let bits := header.zeroExtend 640 ||| ((d.getD 0).zeroExtend 640 <<< 128)
  (List.range 640).foldl (fun c i =>
    let c1 := c <<< 1
    if c.getLsbD 15 != bits.getLsbD i then c1 ^^^ 0x1021 else c1) 0xFFFF

/-- A flit enters a spine (R429, R432). -/
def State.putFlit (s : State) (col : Nat) (north : Bool) (header : BitVec 128) (d : Option Line) : State :=
  { s with spineOut := s.spineOut ++
      [{ col := col, north := north, header := header, data := d, crc := flitCrc header d }] }

/-- An event enters a spine (R429). -/
def State.sendFlit (s : State) (col : Nat) (north : Bool) (f : FlitHeader) : State := s.putFlit col north (flitBits f) none

/-- The tap of a stage puts a response on its spine, towards the block that asked (R432, R437). -/
def State.respond (s : State) (n : Nat) (h : FlitHeader) (d : Option Line) : State :=
  s.putFlit (colOf n) (decide (h.dst = northSite)) (flitBits h) d

/-- Take the flit that `p` asks for, on its way along a column to a destination, off the spine; flits of one class from
one source to one destination keep their order (R433). `seen` holds the classes and sources that have an older flit on
the same way. -/
def takeFlit (col : Nat) (north : Bool) (dst : Nat) (p : FlitHeader → Bool) (seen : List (Nat × Nat)) :
    List SpineOut → Option (FlitHeader × List SpineOut)
  | [] => none
  | x :: t =>
    let f := flitFields x.header
    let onWay := decide (x.col = col) && decide (x.north = north) && decide (f.dst = dst)
    if onWay && p f && !seen.contains (f.cls, f.src) then some (f, t)
    else
      (takeFlit col north dst p (if onWay then (f.cls, f.src) :: seen else seen) t).map (fun r => (r.1, x :: r.2))

/-- The South or the North block takes a flit that it receives (R434): a stage's flit for another stage is moved to the
relay, which puts it on the target's spine northward (R432), and every other one is consumed. -/
def State.takeAtBlock (s : State) (col seg : Nat) (f : FlitHeader) (header : BitVec 128) : State :=
  match takeFlit col (decide (seg = 0)) f.dst (fun g => decide (flitBits g = header)) [] s.spineOut with
  | none => s
  | some (g, rest) =>
    let s1 : State := { s with spineOut := rest }
    if g.dst < numStages then s1.sendFlit (colOf g.dst) true g else s1

/-- The line of a physical bank as one number (R306). -/
def Stage.lineAt (st : Stage) (phys line : Nat) : Line :=
  (cellGetList st.scratch (lineKey phys line) 64).foldr (fun b a => a * 256#512 + b.zeroExtend 512) 0

/-- The tap of a stage answers requests itself: from the change tick of a lights-out handshake, and while the stage is not
lit (R437). -/
def Stage.tapUnlit (st : Stage) : Bool := decide (st.st ≠ .lit) || st.closing.isSome

/-- Store a line without a journal entry (R388). -/
def Stage.storeLine (st : Stage) (phys line : Nat) (d : Line) : Stage :=
  { st with scratch := cellSetList st.scratch (lineKey phys line) (leBytes 64 d.toNat) }

/-- A lit stage's router takes a request: a write stores its line in the logical bank without a journal entry and is
acknowledged, a read answers with the line; both answer "epoch discarded" to a stale epoch (R388, R434, R492). -/
def State.takeRequest (s : State) (n : Nat) (st : Stage) (f : FlitHeader) (d : Line) : State :=
  if s.staleFlit f then s.respond n (f.reply 2 false) none
  else
    let phys := st.bankMap.getD f.bank f.bank
    if f.op = 0 then
      let s1 : State := if f.bank < 48 then
          s.putStage n (st.storeLine phys f.line d)
        else s
      s1.respond n (f.reply 0 false) none
    else s.respond n (f.reply 0 true) (some (st.lineAt phys f.line))

/-- SPINE_FLIT_AT_SINK: a sink takes a flit. One with a reserved field is discarded and counted on its segment (R430), and
no flit reaches a sink off its path (R432). A request is answered by its stage's tap (R434, R437); the blocks take what
the stages sent, and the South block relays a signal between stages (R432). What another event or a trace push carries
acts by the command of that event. A good flit ends a run of resends (R431). -/
def execSpineFlitAtSink (col seg : Nat) (header : BitVec 128) (data : Line) (s : State) :
    Host.Outcome State Fault Refusal :=
  let x := s.spine col seg
  let f := flitFields header
  if !segmentOk col seg || s.inReset || x.failed then .next s
  else if f.malformed then .next (s.putSpine { x with errors := x.errors + 1, resends := 0 })
  else if !f.onPath col seg then .next s
  else
    let s1 : State := s.putSpine { x with resends := 0 }
    if f.cls = 2 ∧ f.op < 2 then
      match s1.stage f.dst with
      | none => .next s1
      | some st =>
        if st.tapUnlit then .next (s1.respond f.dst (f.reply 1 false) none) else .next (s1.takeRequest f.dst st f data)
    else if seg = 0 ∨ seg = 8 then .next (s1.takeAtBlock col seg f header)
    else .next s1

/-- RQ_TO_UNLIT_STAGE: the tap of a stage that is dark, unlit, retired or past the change tick of its handshake answers a
read or write request with an unlit response (R437). -/
def execRqToUnlitStage (n : Nat) (header : BitVec 128) (s : State) : Host.Outcome State Fault Refusal :=
  let f := flitFields header
  match s.stage n with
  | none => .next s
  | some st =>
    if !s.inReset && st.tapUnlit && decide (f.cls = 2) && decide (f.op < 2) then
      .next (s.respond n ({ f with dst := n }.reply 1 false) none)
    else .next s

end Sys2Proof.Machine
end

