-- ==== Sys2Proof/Machine/Recovery.lean ====
section
/-! DEFINITION. Hangs, cuts, the escalation ladder, resets and the power cycle (spec/15_recovery.md R484 to R507). -/

namespace Sys2Proof.Machine

open Sys2Proof

/-! ### Hangs -/

/-- The logical engines that hold an unretired shot and whose shots-retired counters have not moved since the first
counted tick (R486). -/
def Stage.stalled (st : Stage) : List Nat :=
  (List.range 48).filter (fun e =>
    st.flights.any (fun f => decide (f.dest = .engine e)) && decide (st.retired[e]? = st.retiredOld[e]?))

/-- Where the first bank operand range of a shot that has not issued begins: its address register and whether it strides
(Tables 9.4, 9.5 and 9.7). -/
def firstOperand : Instr → Option (BitVec 4 × Bool)
  | .mma _ f => some (f.areg, f.xa)
  | .accld _ f => some (f.reg, f.xa)
  | .accadd _ f => some (f.reg, f.xa)
  | .accst _ f _ _ _ => some (f.reg, f.xa)
  | .movb _ _ sreg _ _ xa _ => some (sreg, xa)
  | .fillb _ _ dreg _ _ => some (dreg, false)
  | .cvtb _ f => some (f.sreg, f.xa)
  | .send _ f => some (f.reg, f.xa)
  | .recv _ f => some (f.reg, f.xa)
  | .commit _ _ reg xa _ => some (reg, xa)
  | _ => none

/-- The bank and line where the dump of a named shot starts (R507). -/
def Flight.start (f : Flight) : Nat × Nat :=
  match f.reads ++ f.writes with
  | [] => (0, 0)
  | r :: _ => (r.bank, r.first)

/-- The same for the shot at the head of issue (R507). -/
def Stage.headStart (st : Stage) (n : Nat) : Nat × Nat :=
  match (shotOf n (cellGet st.script st.seq.pc).toNat).bind firstOperand with
  | none => (0, 0)
  | some (reg, x) => match st.seq.range 0 reg x 1 with
    | none => (0, 0)
    | some r => (r.bank, r.first)

/-- The oldest unretired shot of a stage, or the shot at the head of issue, with where its dump starts (R486, R309,
R507). -/
def Stage.oldestShot (st : Stage) (n : Nat) : BitVec 32 × Nat × Nat :=
  match st.flights with
  | [] => (st.seq.shotAt st.seq.pc, st.headStart n)
  | f :: _ => (f.index, f.start)

/-- The shot that a hang names on a stage: the oldest of its lowest stalled engine, or of the stage (R486). -/
def Stage.hangShot (st : Stage) (n : Nat) : Named :=
  match st.stalled with
  | [] =>
    let o := st.oldestShot n
    { stage := n, engine := 0xFF, shot := o.1, bank := o.2.1, first := o.2.2, dumped := false }
  | e :: _ => match st.flights.find? (fun f => decide (f.dest = .engine e)) with
    | none => { stage := n, engine := e, shot := 0xFFFFFFFF, bank := 0, first := 0, dumped := false }
    | some f => { stage := n, engine := e, shot := f.index, bank := f.start.1, first := f.start.2, dumped := false }

/-- The stage, engine and shot that a hang names (R486). -/
def State.nameHang (s : State) (c : Ctx) : Named :=
  let get (n : Nat) (f : Stage → Bool) : Bool := match s.stage n with | none => false | some st => f st
  let late := c.stages.filter (fun n => get n (fun st => !st.doneNow))
  let n := match late.find? (fun n => get n (fun st => !st.stalled.isEmpty)) with
    | some n => n
    | none => late.headD 0xFF
  match s.stage n with
  | none => { stage := n, engine := 0xFF, shot := 0xFFFFFFFF, bank := 0, first := 0, dumped := false }
  | some st => st.hangShot n

/-- HANG: at a cut-off the tick would be counted and the non-progress count is W - 1: stage, engine and shot are named in
an error event, and the tick becomes the cut tick of a cut by the monitor (R485, R486, R488). -/
def execHang (part : Nat) (s : State) : Host.Outcome State Fault Refusal :=
  match s.ctx part with
  | none => .next s
  | some c =>
    if c.cuttable && c.cut.isNone && s.counts c && decide (c.action.getD (s.tickActionOf c) = .wait)
        && decide (c.noProg + 1 = s.window) then
      let nm := s.nameHang c
      let s1 : State := s.errorEvent { stageErr 0x15 nm.stage none with engine := nm.engine, shot := nm.shot } 0x04 0
      .next ((s1.acceptCut part .monitor).modCtx part (fun c => { c with
        action := none, named := some nm, cut := c.cut.map (fun k => { k with fixed := true })
        level := some { level := 1, trigger := 0x15, start := s.stamp, stage := nm.stage } }))
    else .next s

/-- RING_STALL: a bound ring's unread records have not moved for W × 65,536 ticks: one dailies entry until the counter moves
(R487). -/
def execRingStall (p : Port) (s : State) : Host.Outcome State Fault Refusal :=
  let q := s.port p
  if q.ring.isSome && !q.stallTold && decide (s.window * 65536 ≤ q.stallTicks) then
    .next ((s.modPort p (fun q => { q with stallTold := true })).log 0x0A
      (leBytes 1 p.code ++ zeros 7 ++ leBytes 8 q.consumed))
  else .next s

/-! ### Cuts -/

/-- CUT_ACCEPT: a cut request of a context is accepted, or merged into its cut (R488). -/
def execCutAccept (part : Nat) (src : CutSource) (s : State) : Host.Outcome State Fault Refusal :=
  .next (s.acceptCut part src)

/-- An output write of a context of a partition. -/
def HostOut.ofCtx (p : Nat) (id : BitVec 8) : HostOut → Bool
  | .line q i _ _ _ => decide (q = p) && decide (i = id)
  | _ => false

/-- Held output writes of a context are discarded (R492). -/
def HostPort.discardLines (q : HostPort) (p : Nat) (id : BitVec 8) : HostPort :=
  { q with held := q.held.filter (fun o => !o.ofCtx p id) }

/-- CUT_TICK: the context epoch rises, cut notices go out, and output writes not yet issued are discarded with their
completion signals; into a lit stage's domain a notice goes by its crossing (R214, R490 steps 1 and 2, R492, R493). -/
def execCutTick (part : Nat) (s : State) : Host.Outcome State Fault Refusal :=
  match s.ctx part with
  | none => .next s
  | some c =>
    match c.ended, c.cut with
    | some e, some k =>
      if !e.cut || k.noticed then .next s
      else
        let s1 : State := s.modCtx part (fun c => { c with
          epoch := c.epoch + 1, cut := some { k with noticed := true }
          outs := c.outs.filter (fun o => !(s.port o.2.1).holds part c.id o.2.2) })
        let s2 : State := s1.raiseXings 6 (c.stages.filter (fun n => match s.stage n with
          | none => false
          | some st => decide (st.st = .lit)))
        .next { s2 with portA := s2.portA.discardLines part c.id, portB := s2.portB.discardLines part c.id }
    | _, _ => .next s

/-- Beats that a SEND has queued and that have not been sent leave with its queue (R490 step 3, R500); those sent stay in the
replay buffer until they are acknowledged (R492). -/
def Stage.dropUnsent (st : Stage) : Stage := st.modLinks (fun l => { l with unacked := l.unacked.take l.sent })

/-- A stage stops for a cut: issue, queues, staged outputs and landing buffers go, and no journal is restored (R490 step
3). -/
def Stage.cutStop (st : Stage) : Stage :=
  { st.emptyLand.dropUnsent with flights := [], staged := [], stopped := true, reload := none }

/-- The cut in progress of a stage's context, its notices sent. -/
def State.noticedCut (s : State) (n : Nat) : Option (Nat × Ctx × Cut) :=
  match s.ctxOf n with
  | none => none
  | some (p, c) =>
    match c.cut with
    | none => none
    | some k => if k.noticed then some (p, c, k) else none

/-- CUT_NOTICE: a lit stage takes the notice; one in power-up completes that first (R490 step 3). -/
def execCutNotice (n : Nat) (s : State) : Host.Outcome State Fault Refusal :=
  match s.stage n, s.noticedCut n with
  | some st, some (p, _, k) =>
    if st.st ≠ .lit || k.told.contains n then .next s
    else
      .next (((s.putStage n st.cutStop).modCtx p (fun c => { c with
        cut := some { k with told := n :: k.told } })).xingOk (stageXid n 6 0))
  | _, _ => .next s

/-- The dump of a named stage is still due (R490 step 4, R507). -/
def State.dumpDue (s : State) (c : Ctx) (n : Nat) : Bool :=
  match c.named with
  | none => false
  | some nm => nm.stage = n && !nm.dumped && decide (s.dumpLines ≠ 0)

/-- CUT_STOPPED: a stage that took the notice, its dump done, reports cut-stopped and begins its release (R490). -/
def execCutStopped (n : Nat) (s : State) : Host.Outcome State Fault Refusal :=
  match s.noticedCut n with
  | none => .next s
  | some (p, c, k) =>
    if !k.told.contains n || k.stopped.contains n || s.dumpDue c n then .next s
    else
      .next ((s.modStage n (fun st => { st with releasing := true })).modCtx p (fun c => { c with
        cut := some { k with stopped := n :: k.stopped } }))

/-- STAGE_DUMP: the named stage of a hang is dumped within its cut (R490 step 4, R507). -/
def execStageDump (n : Nat) (reads : DumpReads) (s : State) : Host.Outcome State Fault Refusal :=
  match s.noticedCut n with
  | none => .next s
  | some (p, c, _) =>
    if s.dumpDue c n then
      .next ((s.takeDump p reads 1).modCtx p (fun c => { c with
        named := c.named.map (fun nm => { nm with dumped := true }) }))
    else .next s

/-- Every splice fence of a partition is crossed: no end of a stage that is still the partition's, or of none, holds an
unacknowledged beat or a landed one (R492). -/
def State.fencesCrossed (s : State) (p : Nat) (c : Ctx) : Bool :=
  c.stages.all (fun n => match s.stage n with
    | none => true
    | some st =>
      (st.part.isSome && decide (st.part ≠ some p)) || !st.clocked ||
        Side.all.all (fun d => (st.link d).unacked.isEmpty && (st.land d).isEmpty))

/-- The spine fence is crossed: no response of an epoch before the cut is on its way to its requester (R492). -/
def State.spinesClear (s : State) (c : Ctx) : Bool :=
  s.spineOut.all (fun x =>
    let f := flitFields x.header
    !(decide (f.cls = 1) && decide (f.ctx = c.id) && decide (f.epoch ≠ c.epoch)))

/-- CUT_COMPLETE: every stage has released and every fence is crossed: the cut-complete and wrap records are formed, with
the recovery record of a hang's level 1, and the context leaves its partition (R490, R492, R498). -/
def execCutComplete (part : Nat) (saveOk : Bool) (s : State) : Host.Outcome State Fault Refusal :=
  match s.ctx part with
  | none => .next s
  | some c =>
    match c.ended, c.cut with
    | some e, some k =>
      if !e.cut || !k.noticed || c.recorded || !s.allReleased part c
          || !s.fencesCrossed part c || !s.spinesClear c then .next s
      else
        let s1 : State := s.endRecords part c e saveOk
        let s2 : State := match c.level with
          | none => s1
          | some lv => if lv.level = 1 then s1.recovery lv 0 (partMask part) else s1
        .next (s2.freePart part)
    | _, _ => .next s

/-! ### The escalation ladder -/

/-- The lit stages of a cut that have not reported cut-stopped (R495). -/
def State.unstopped (s : State) (p : Nat) (c : Ctx) (k : Cut) : List Nat :=
  c.stages.filter (fun n => !s.gone p c n && !k.stopped.contains n)

/-- The trigger that a level above inherits: a cut by a host or by command gives it no kind, a free value (R498, log
entry 5). -/
def State.triggerOf (s : State) (c : Ctx) : Nat :=
  match c.level with
  | none => (Config.freeByte s.freeCtr).toNat
  | some lv => lv.trigger

/-- Level 1 misses its bound (R495): level 2 while a stage has not stopped, else level 3. -/
def State.expireCut (s : State) (p : Nat) (c : Ctx) (k : Cut) : State :=
  let trig := s.triggerOf c
  let stage := match c.named with | none => 0xFF | some nm => nm.stage
  if !k.resumed && !(s.unstopped p c k).isEmpty then
    let s1 : State := match c.level with
      | none => s
      | some lv => s.recovery lv 1 (partMask p)
    (s1.modCtx p (fun c => { c with
      level := some { level := 2, trigger := trig, start := s.stamp, stage := stage }
      cut := some { k with mask := k.mask ||| 0x20 } })).draw
  else
    let s1 : State := if k.resumed then s.modCtx p (fun c => { c with level := none }) else s
    (s1.enterLevel3 p trig stage).draw

/-- Entry to level 5 by escalation: STATE reads 7, issue stops and the bypass closes (R448, R495, R503). -/
def State.enterLevel5 (s : State) (lv : Level) : State :=
  let s1 : State := s.recovery lv 1 s.allMask
  { s1 with
    level4 := none
    level5 := some { level := 5, trigger := lv.trigger, start := s.stamp, stage := lv.stage }
    pins := { s1.pins with issueStopped := true, failed := true, bypassOpen := false } }

/-- ESCALATION_BOUND_EXPIRY: a level in progress misses its bound and escalates to the next (R495 to R498). Level 4 is the
module's; the others are a partition's. -/
def execEscalationBoundExpiry (level part : Nat) (s : State) : Host.Outcome State Fault Refusal :=
  match level with
  | 4 => match s.level4 with
    | none => .next s
    | some lv => .next (s.enterLevel5 lv)
  | 3 => match (s.ctx part).bind Ctx.level with
    | none => .next s
    | some lv => if lv.level = 3 then .next (s.enterLevel4 lv.trigger lv.stage) else .next s
  | 2 => match s.ctx part with
    | none => .next s
    | some c => match c.level, c.cut with
      | some lv, some k =>
        if lv.level ≠ 2 then .next s
        else if k.resumed then .next (s.expireCut part c k)
        else .next (s.enterLevel3 part lv.trigger lv.stage)
      | _, _ => .next s
  | 1 => match s.ctx part with
    | none => .next s
    | some c => match c.cut with
      | none => .next s
      | some k =>
        let low := match c.level with | none => true | some lv => decide (lv.level = 1) || (decide (lv.level = 2) && k.resumed)
        if c.ended.isSome && k.noticed && low && !c.recorded then .next (s.expireCut part c k) else .next s
  | _ => .next s

/-- An engine reset on a stage (R500): engines, sequencer and queues start anew; banks, journals, router and clock stay. -/
def Stage.engineReset (st : Stage) : Stage :=
  { st.dropUnsent with
    flights := [], staged := [], acc := [], resid := [], seq := .start, stopped := true, releasing := true }

/-- ENGINE_RESET: level 2 resets each stage of the cut that has not reported cut-stopped, which then reports it; the cut goes
on (R496, R498, R500). -/
def execEngineReset (part : Nat) (s : State) : Host.Outcome State Fault Refusal :=
  match s.ctx part with
  | none => .next s
  | some c =>
    match c.level, c.cut with
    | some lv, some k =>
      if lv.level ≠ 2 || k.resumed then .next s
      else
        let ns := s.unstopped part c k
        let s1 : State := (s.modStages ns Stage.engineReset).modCtx part (fun c => { c with
          cut := some { k with stopped := ns ++ k.stopped, told := ns ++ k.told, resumed := true } })
        .next (s1.recovery lv 0 (partMask part))
    | _, _ => .next s

/-! ### Resets -/

/-- The logic reset of a stage within level 3 or 4 (Table 15.4, R501, R502): engines, sequencer, queues, landing buffers and
clock generator start anew; bank contents stay for the dump. -/
def Stage.logicReset (st : Stage) (tau floor : Nat) : Stage :=
  if !st.clocked then { st with power := none, ready := false }
  else
    { st.emptyLand with
      flights := [], staged := [], acc := [], resid := [], seq := .start
      cnt := .zero, cntAhead := .zero, slackNow := none, slackEof := none, slackTick := none
      clock := { st.clock.powerUp tau floor with tripped := 0, notice := false, stretched := 0, halts := 0, longest := 0
                                                 downs := 0, downFrame := false, marginOk := false }.report }

/-- Every splice with an end in a stage restarts (R211, R501), and its partners hear of the stage's step (R202). -/
def State.restartSplices (s : State) (n : Nat) : State :=
  ((s.modStage n (fun u => u.modLinks Link.restart)).modAllAcross n Link.restart).tellStep n

/-- The release within a reset: a dark stage returns to lit, the trace is sent, everything is written zero, and the stage
is in no partition (R43, R501 step 7). -/
def State.releaseNow (s : State) (n : Nat) : State :=
  let s1 : State := match s.stage n with
    | none => s
    | some st => if st.st = .dark then s.makeLit n else s
  (s1.flushTrace n 17).modStage n (fun st => if st.clocked then st.zeroAll.unassign else st.unassign)

/-- How a context in a reset has ended: as latched, or at the tick to come (R501; log entry 9). -/
def State.endedOf (s : State) (c : Ctx) (cause : Nat) : Ended :=
  match c.ended with
  | some e => e
  | none => s.endNextTick (match c.endDue with | some d => d | none => (c.cut.isSome, cause, 0xFF, 0xFF))

/-- The engine array BIST of the engine that a hang named starts (R501 step 5); the hang itself counts against no unit. -/
def State.hangTest (s : State) (c : Ctx) : State :=
  match c.named with
  | none => s
  | some nm =>
    match s.stage nm.stage with
    | none => s
    | some st => if nm.engine < 48 then
        s.startTest (.engine nm.stage (st.engineMap.getD nm.engine nm.engine)) 0x15
      else s

/-- PARTITION_RESET: level 3 of one partition: the stages it still holds are reset, the named stage is dumped, broken rails
are held, every stage is released and then the records are written (R43, R473, R495 to R501). -/
def execPartitionReset (part : Nat) (saveOk : Bool) (s : State) : Host.Outcome State Fault Refusal :=
  match s.ctx part with
  | none => .next s
  | some c =>
    match c.level with
    | none => .next s
    | some lv =>
      if lv.level ≠ 3 then .next s
      else
        let reads := match c.named.bind (fun nm => s.stage nm.stage) with
          | none => .unlit
          | some st => if st.st = .lit then .complete else .unlit
        let own := c.stages.filter (fun n => !s.gone part c n)
        let s1 : State := (s.takeDump part reads 3).hangTest c
        let s2 : State := own.foldl (fun t n =>
          (t.modStage n (fun st => st.logicReset (c.tau st) c.reel.floor)).restartSplices n) s1
        let s3 : State := s2.holdBroken (some part)
        let s4 : State := own.foldl State.releaseNow s3
        let s5 : State := if c.recorded then s4 else s4.endRecords part (c.noteTick s4.numCtx) (s4.endedOf c 0x22) saveOk
        .next (((s5.freePart part).recovery lv 0 (partMask part)).freeWaits part)

/-- A unit found failing by the tests of a chip compute reset (R502 step 6): lasting, with any test of it ended. -/
def State.resetFails (s : State) (kind : Nat) (u : UnitId) : State :=
  let t := s.testOf u
  (s.dropTest u).lasting u 0x00 (match t with | none => [kind] | some t => t.kinds) t

/-- CHIP_COMPUTE_RESET: level 4: every lit or dark stage and the spines reset, dumps, the tests with their failing units,
the release of every assigned stage, and then the records of every context (R43, R502). -/
def execChipComputeReset (failing : List UnitId) (saveOk : Bool) (s : State) : Host.Outcome State Fault Refusal :=
  match s.level4 with
  | none => .next s
  | some lv =>
    let parts := s.allMask
    let kind := if lv.trigger < 0x80 then lv.trigger else 0x00
    let s1 : State := s.dumpLevels 4
    let s2 : State := (List.range numStages).foldl (fun t n =>
      let u : State := t.modStage n (fun st => st.logicReset st.clock.tau (t.floorOf n))
      match t.stage n with
      | none => u
      | some st => if st.clocked then u.restartSplices n else u) s1
    let s3 : State := failing.foldl (fun t u => t.resetFails kind u) s2
    let s4 : State := (List.range numStages).foldl (fun t n => match t.stage n with
      | none => t
      | some st => if st.part.isSome then t.releaseNow n else t) s3
    let s5 : State := s4.recordContexts saveOk
    let s6 : State := (partNumbers.foldl State.freeWaits s5).freeAll
    .next ({ s6 with level4 := none, spineOut := [] }.recovery lv 0 parts)

/-- POWER_CYCLE_REQUEST: level 5 entered by escalation ends every context, copies the dailies and asserts PWR_CYCLE_REQ_N
(R498, R503). -/
def execPowerCycleRequest (saveOk copyOk : Bool) (s : State) : Host.Outcome State Fault Refusal :=
  match s.level5 with
  | none => .next s
  | some lv =>
    if s.pins.pwrCycleReq then .next s else .next (s.runLevel5 lv.trigger lv.stage lv.start saveOk copyOk)

end Sys2Proof.Machine
end

