-- ==== Sys2Proof/Machine/Ptp.lean ====
section
/-! DEFINITION. Ring frames and the PTP messages they carry, byte by byte (spec/13_fabric.md R442, Table 13.7;
spec/07_time_base.md R245 to R247). A PTP message keeps the byte order and field places of IEEE 1588-2019, which the
manual names and does not print (log entry 41). -/

namespace Sys2Proof.Machine

open Sys2Proof

/-! ### PTP timestamps -/

/-- 1/256 ns in a second. -/
abbrev unitsPerSecond : Nat := 256000000000

/-- The seconds, nanoseconds and correctionField of a wafer time in 1/256 ns (R247). -/
def ptpSeconds (t : Nat) : Nat := t / unitsPerSecond
def ptpNanos (t : Nat) : Nat := t % unitsPerSecond / 256
def ptpFraction (t : Nat) : Nat := 256 * (t % 256)

/-- The wafer time that a PTP timestamp and its correctionField give, in 1/256 ns (R247). -/
def ptpTime (m : PtpMsg) : Nat := m.seconds * unitsPerSecond + m.nanos * 256 + m.correction / 256

/-- clockIdentity of a module: 0x58, 0x4C, 0x57, four zero bytes and the module ID (R246). -/
def clockIdentity (moduleId : Nat) : BitVec 64 := BitVec.ofNat 64 (0x584C57 * 2 ^ 40 + moduleId % 256)

/-- portNumber: 1 for EAST and 2 for WEST (R246). -/
def portNumber : RingPort → Nat
  | .east => 1
  | .west => 2

/-- A message of the module with its header fields: versionPTP 2, minorVersionPTP 1, domain 0, twoStepFlag in Sync and
ptpTimescale clear (R245), with a timestamp (R247). -/
def ptpMessage (msgType moduleId : Nat) (rp : RingPort) (seqId : BitVec 16) (t : Nat) : PtpMsg :=
  { msgType := msgType, version := 2, minor := 1, domain := 0, flags := if msgType = 0x0 then 0x0200 else 0
    correction := ptpFraction t, clockId := clockIdentity moduleId, portNo := portNumber rp, seqId := seqId
    seconds := ptpSeconds t, nanos := ptpNanos t, reqClock := 0, reqPort := 0 }

/-- A received message is of the protocol of R245: one of the four types, versionPTP 2 and domain 0. -/
def ptpKnown (m : PtpMsg) : Bool :=
  (m.msgType = 0x0 || m.msgType = 0x8 || m.msgType = 0x1 || m.msgType = 0x9) && m.version = 2 && m.domain = 0

/-! ### Bytes -/

/-- The `n` bytes of a number, most significant first: network order. -/
def beBytes (n v : Nat) : List Byte := (leBytes n v).reverse

/-- The number in `n` bytes at an offset, most significant first. -/
def beField (bs : List Byte) (off n : Nat) : Nat := leNat ((bs.drop off).take n).reverse

/-- The bytes of a PTP message: the 34-byte header, the timestamp, and the requesting port of a Delay_Resp. -/
def ptpBytes (m : PtpMsg) : List Byte :=
  leBytes 1 (m.msgType % 16) ++ leBytes 1 (m.minor % 16 * 16 + m.version % 16)
    ++ beBytes 2 (if m.msgType = 0x9 then 54 else 44) ++ leBytes 1 m.domain ++ zeros 1 ++ beBytes 2 m.flags.toNat
    ++ beBytes 8 m.correction ++ zeros 4 ++ beBytes 8 m.clockId.toNat ++ beBytes 2 m.portNo ++ beBytes 2 m.seqId.toNat
    ++ zeros 1 ++ leBytes 1 (if m.msgType = 0x1 then 0x7F else 0xFC)
    ++ beBytes 6 m.seconds ++ beBytes 4 m.nanos
    ++ (if m.msgType = 0x9 then beBytes 8 m.reqClock.toNat ++ beBytes 2 m.reqPort else [])

/-- The PTP message that bytes hold. -/
def ptpOf (bs : List Byte) : PtpMsg :=
  { msgType := fieldAt bs 0 1 % 16, version := fieldAt bs 1 1 % 16, minor := fieldAt bs 1 1 / 16, domain := fieldAt bs 4 1
    flags := BitVec.ofNat 16 (beField bs 6 2), correction := beField bs 8 8, clockId := BitVec.ofNat 64 (beField bs 20 8)
    portNo := beField bs 28 2, seqId := BitVec.ofNat 16 (beField bs 30 2), seconds := beField bs 34 6
    nanos := beField bs 40 4, reqClock := BitVec.ofNat 64 (beField bs 44 8), reqPort := beField bs 52 2 }

/-- A ring frame of 512 bytes: header, payload filled with zeros, and CRC (R442). -/
def ringFrame (header payload : List Byte) : List Byte :=
  let body := header ++ payload ++ zeros (492 - payload.length)
  body ++ leBytes 4 (crc32 body).toNat

/-- A frame passes its CRC (R442). -/
def frameOk (bs : List Byte) : Bool :=
  decide (bs.length = 512) && decide (fieldAt bs 508 4 = (crc32 (bs.take 508)).toNat)

/-- The bytes of a frame that a ring port sends (Table 13.7, R442). -/
def RingOut.bytes : RingOut → List Byte
  | .time h m =>
    ringFrame (leBytes 1 0x1 ++ leBytes 1 h.master.toNat ++ leBytes 1 h.hop ++ leBytes 1 h.kind.toNat
      ++ leBytes 1 h.era.toNat ++ leBytes 2 h.serial.toNat ++ zeros 9) (ptpBytes m)
  | .status f =>
    ringFrame (leBytes 1 0x2 ++ leBytes 1 f.origin.toNat ++ leBytes 1 f.hop ++ zeros 5 ++ leBytes 8 f.serial.toNat)
      (leBytes 1 f.role.toNat ++ leBytes 1 f.lanes.toNat ++ leBytes 2 f.laneMap.toNat ++ leBytes 1 f.mapGen.toNat
        ++ leBytes 1 f.mapSwitch.toNat)

/-- The frame kind of a header's byte 0 (Table 13.7): a kind of 0x3 or more is reserved. -/
def frameKind (bs : List Byte) : Nat := fieldAt bs 0 1 % 16

/-- The time frame that bytes hold: a good CRC and kind 0x1 (Table 13.7). -/
def timeFrameOf (bs : List Byte) : Option (TimeHeader × PtpMsg) :=
  if frameKind bs = 0x1 ∧ frameOk bs then
    some ({ master := BitVec.ofNat 8 (fieldAt bs 1 1), hop := fieldAt bs 2 1, kind := BitVec.ofNat 2 (fieldAt bs 3 1)
            serial := BitVec.ofNat 16 (fieldAt bs 5 2), era := BitVec.ofNat 8 (fieldAt bs 4 1) }, ptpOf (bs.drop 16))
  else none

/-- The status frame that bytes hold: a good CRC and kind 0x2 (Table 13.7). -/
def statusFrameOf (bs : List Byte) : Option StatusFrame :=
  if frameKind bs = 0x2 ∧ frameOk bs then
    some { origin := BitVec.ofNat 8 (fieldAt bs 1 1), serial := BitVec.ofNat 64 (fieldAt bs 8 8), hop := fieldAt bs 2 1
           role := BitVec.ofNat 8 (fieldAt bs 16 1), lanes := BitVec.ofNat 8 (fieldAt bs 17 1)
           laneMap := BitVec.ofNat 16 (fieldAt bs 18 2), mapGen := BitVec.ofNat 8 (fieldAt bs 20 1)
           mapSwitch := BitVec.ofNat 8 (fieldAt bs 21 1) }
  else none

end Sys2Proof.Machine
end

