-- ==== Sys2Proof/Machine/Timebase.lean ====
section
/-! DEFINITION. The hour count, calibration collections, armed measurements and PPS discipline
(spec/07_time_base.md R234 to R243, R255 to R263, spec/14_faults.md R453, R478). -/

namespace Sys2Proof.Machine

open Sys2Proof

/-! ### Hours and calibration -/

/-- Write the days-in-service copy not in use with the sequence number raised (R234). -/
def Flash.saveDays (f : Flash) (day : BitVec 32) (hour : Nat) (boot : BitVec 32) : Flash :=
  match daysInUse f with
  | some (d, one) => f.putDays (!one) { seq := d.seq + 1, day := day, hour := hour, boot := boot }
  | none => f.putDays false { seq := 1, day := day, hour := hour, boot := boot }

/-- The correction after an hour count: y_age without a time source, and in holdover the held value less a/24
(R236, R241). -/
def State.hourCorr (s : State) : Rat :=
  if s.time.holdover then clampPpb (s.time.corr - s.ageing / 24) else if s.hasSource then s.time.corr else s.yAge

/-- HOUR_COUNT: every 3,600 s after the end of boot the hour count rises, the days in service are written, the ageing
correction follows, transient counts and overruns return to zero, and an hourly collection starts where it is strapped
(R234, R236, R241, R262, R453, R478). DESIGN CHOICE (log entry 42): while a collection runs, the hour count gives that
collection its trigger. -/
def execHourCount (s : State) : Host.Outcome State Fault Refusal :=
  if !s.pins.bootDone || s.inReset then .next s
  else
    let hour := if s.time.hourCount = 23 then 0 else s.time.hourCount + 1
    let day := if s.time.hourCount = 23 then s.time.dayCount + 1 else s.time.dayCount
    let s1 : State := { s with time := { s.time with hourCount := hour, dayCount := day } }
    .next { s1 with
      time := { s1.time with corr := s1.hourCorr }
      flash := s1.flash.saveDays day hour s1.time.bootCount
      transients := []
      stages := s1.stages.map (fun st => { st with clock := { st.clock with overruns := 0, limitHit := false } })
      iu := if s1.strap 18 = 1 then { s1.iu with collecting := some 1 } else s1.iu }

/-- BOOT_CALIBRATION_COMPLETE: the statistical calibration of boot ends: valid tables take force, the others keep their
factory or nominal tables, and a record is written (R261, R262). -/
def execBootCalibrationComplete (hits : List (Nat × List Nat)) (s : State) : Host.Outcome State Fault Refusal :=
  if s.pins.booting && decide (4 ≤ s.pins.bootPhase) && decide (s.strap 18 ≠ 2) then
    .next (({ s with iu := { s.iu with tables := calibrated s.iu.tables hits } }).calRecord 0 hits)
  else .next s

/-- CALIBRATION_COLLECTION_COMPLETE: an hourly or commanded collection completes; its valid tables take force at the next
tick, and a record is written (R262). -/
def execCalibrationCollectionComplete (hits : List (Nat × List Nat)) (s : State) : Host.Outcome State Fault Refusal :=
  match s.iu.collecting with
  | none => .next s
  | some trigger =>
    .next (({ s with iu := { s.iu with
      collecting := none, shadow := some (calibrated s.iu.tables hits) } }).calRecord trigger hits)

/-- CALIBRATION_ABANDON: a collection not complete in 60 s is abandoned, and the tables in force are kept (R262). It ends
with a record of no channel calibrated. -/
def execCalibrationAbandon (s : State) : Host.Outcome State Fault Refusal :=
  match s.iu.collecting with
  | none => .next s
  | some trigger => .next (({ s with iu := { s.iu with collecting := none } }).calRecord trigger [])

/-! ### The interval unit -/

/-- GATE_ARM: a rise of GATE_IN arms a measurement with the next number, when none is open (R257). -/
def execGateArm (s : State) : Host.Outcome State Fault Refusal :=
  if !s.pins.bootDone || s.inReset || s.iu.meas.isSome then .next s
  else
    .next { s with iu := { s.iu with
      number := s.iu.number + 1
      meas := some { number := s.iu.number, armAt := s.time.wafer.toNat, start := none, stops := [], lost := false
                     uncal := false } } }

/-- The hold-off in 1/256 ns (Table 2.5). -/
def State.holdOff (s : State) : Nat := [512, 1024, 2048, 4096, 8192, 16384].getD (s.strap 16) 2048

/-- What becomes of an edge at a conditioned input (R256). -/
inductive EdgeFate where
  | ignored
  | lost
  | taken
  deriving DecidableEq, Repr

/-- Within the hold-off of the input's last accepted edge an edge is ignored; after it but within the 4 ns conversion it is
lost; otherwise it is taken (R256). -/
def State.edgeFate (s : State) (input stamp : Nat) : EdgeFate :=
  match s.iu.lastIn.getD input none with
  | none => .taken
  | some t => if stamp < t + s.holdOff then .ignored else if stamp < t + 1024 then .lost else .taken

/-- A conditioned input's edge with its stamp: a lost one is counted, a taken one is the stamper's (R256, R258). -/
def State.inputEdge (s : State) (input stamp : Nat) : State :=
  match s.edgeFate input stamp with
  | .ignored => s
  | .lost =>
    let mine := decide (input = s.startInput) || s.stopInputs.contains input
    { s with iu := { s.iu with
      lost := s.iu.lost + 1, meas := s.iu.meas.map (fun m => { m with lost := m.lost || mine }) } }
  | .taken =>
    ({ s with iu := { s.iu with lastIn := setAt s.iu.lastIn input (some stamp) } }).measure input stamp
      (s.iu.table input).1.uncal

/-- INTERVAL_INPUT_EDGE: an edge of EXT_IN or PPS_IN (R256, R258). Within the hold-off of the last accepted edge it is
ignored; after it but within the 4 ns conversion it is lost and counted; otherwise it is stamped and taken. -/
def execIntervalInputEdge (input tap : Nat) (s : State) : Host.Outcome State Fault Refusal :=
  if !s.pins.bootDone || s.inReset || decide (8 < input) || decide (255 < tap) then .next s
  else .next (s.inputEdge input (s.inputStamp input tap))

/-- MEASUREMENT_CLOSE: GATE_IN seen low, or the 15th stop, closes the measurement (R259). -/
def execMeasurementClose (s : State) : Host.Outcome State Fault Refusal := .next (s.closeMeasure false)

/-- MEASUREMENT_TIMEOUT: 10 s after the arm stamp the measurement closes (R259). -/
def execMeasurementTimeout (s : State) : Host.Outcome State Fault Refusal := .next (s.closeMeasure true)

/-! ### PPS discipline -/

/-- One second, 10 µs, 1 µs and 50 ns in 1/256 ns. -/
abbrev second : Int := 256000000000
abbrev tenMicros : Int := 2560000
abbrev oneMicro : Int := 256000
abbrev fiftyNs : Int := 12800

/-- An interval is n · 1 s within 10 µs (R237). -/
def nearSeconds (n d : Int) : Bool := decide (-tenMicros ≤ d - n * second) && decide (d - n * second ≤ tenMicros)

/-- The spacing test of a PPS edge (R237): an earlier valid edge less than 2.5 s before it lies 1 s or 2 s before. -/
def Pps.spaced (p : Pps) (stamp : Int) : Bool :=
  match p.lastEdge with
  | none => true
  | some t => if 2 * (stamp - t) < 5 * second then nearSeconds 1 (stamp - t) || nearSeconds 2 (stamp - t) else true

/-- The loop's update with a phase error (R239), errors in 1/256 ns. -/
def loopStep (y : Rat) (e last : Int) : Rat := clampPpb (y - (e - last : Int) / 2048 - (e : Rat) / 16384)

/-- A correction stands at either clamp. -/
def atClamp (y : Rat) : Bool := y = 2000 || y = -2000

/-- A valid edge at which the correction stands at `y` is counted while that is a clamp (R242). -/
def Pps.clampEdge (p : Pps) (y : Rat) : Pps :=
  { p with clampRun := if atClamp y then p.clampRun + 1 else 0, told := p.told && atClamp y }

/-- An edge used by the loop: the correction and the counts of R239, R240 and R242. -/
def Pps.use (p : Pps) (y : Rat) (e : Int) : Pps × Rat :=
  let y1 := loopStep y e p.lastErr
  ({ p.clampEdge y1 with
    prevCorr := y, lastErr := e, outliers := 0, lockRun := if e.natAbs ≤ 12800 then p.lockRun + 1 else 0 }, y1)

/-- The phase error of an edge: its distance from the nearest whole second after the anchor (R238). -/
def phaseError (anchor stamp : Int) : Int :=
  let d := stamp - anchor
  d - (d + second / 2) / second * second

/-- A valid edge while acquisition runs (R238): the first is held, the next one second later sets the anchor and seeds
the correction; the Bool tells that it did. DESIGN CHOICE (log entry 42): a valid edge that does not lie one second after
the pending one becomes the pending one. -/
def State.ppsAcquire (s : State) (stamp : Int) : State × Bool :=
  let p := s.time.pps
  let hold : State := { s with time := { s.time with pps := { p with pending := some stamp, lastEdge := some stamp } } }
  match p.pending with
  | none => (hold, false)
  | some p0 =>
    if nearSeconds 1 (stamp - p0) then
      let y := clampPpb (s.time.corr - (stamp - p0 - second : Int) / 256)
      ({ s with time := { s.time with
          corr := y, holdover := false
          pps := { p with
            pending := none, anchor := some stamp, acquired := true, lastEdge := some stamp, lastErr := 0, lockRun := 0
            outliers := 0, clampRun := 0, told := false, prevCorr := s.time.corr } } }, true)
    else (hold, false)

/-- A valid edge while the loop runs (R238 to R240): used, or an outlier while locked, or off its second. -/
def State.ppsRun (s : State) (anchor stamp : Int) : State :=
  let p : Pps := { s.time.pps with lastEdge := some stamp }
  let e := phaseError anchor stamp
  if p.locked && decide (oneMicro < e.natAbs) then
    { s with time := { s.time with pps := { p.clampEdge s.time.corr with outliers := p.outliers + 1 } } }
  else if tenMicros < e.natAbs then
    { s with time := { s.time with pps := { p.clampEdge s.time.corr with lockRun := 0 } } }
  else
    let r := p.use s.time.corr e
    { s with time := { s.time with pps := r.1, corr := r.2 } }

/-- The stamp of an edge before the next internal tick: `back` whole reference periods before it lies the reference edge
that follows the edge, and a stamper's table converts the tap code (R237, R255, R260). -/
def State.stampBefore (s : State) (ch back tap : Nat) : Nat := s.stampAt ch (s.nextTick.toNat - back * 1024) tap

/-- The discipline takes a conditioned edge of PPS_IN (R237 to R240): a valid edge acquires or updates the correction, any
other is ignored and counted. -/
def State.ppsTake (s : State) (widthOk : Bool) (stamp : Int) : State :=
  let p := s.time.pps
  if !widthOk || !p.spaced stamp then { s with time := { s.time with pps := { p with ignored := p.ignored + 1 } } }
  else if p.acquired then s.ppsRun (p.anchor.getD 0) stamp
  else
    let r := s.ppsAcquire stamp
    if r.2 then r.1.discipline 0x01 else r.1

/-- PPS_EDGE: a crossing of PPS_IN whose pulse lasts `widthNs`. One of the edge that STRAP_PPS selects that the hold-off
lets through is conditioned edge of input 8 and of the discipline stamper alike (R255, R256); the discipline stamper's
stamp, found from the next internal tick, disciplines (R237 to R240) when the pulse has the strapped width (Table 2.9). -/
def execPpsEdge (falling : Bool) (widthNs back tap : Nat) (s : State) : Host.Outcome State Fault Refusal :=
  if !s.ppsActive || !s.time.epochFixed || s.inReset || decide (255 < tap) || falling != s.ppsFalling then .next s
  else
    let input := s.stampBefore 8 back tap
    let s1 : State := if s.pins.bootDone then s.inputEdge 8 input else s
    if s.edgeFate 8 input = .taken then
      .next (s1.ppsTake (decide (s.ppsMinWidth ≤ widthNs)) (s.stampBefore 9 back tap))
    else .next s1

/-- DISCIPLINE_LOCK: 16 consecutive small phase errors after P1 declare lock, unless the correction has stayed at a clamp
(R240, R242). -/
def execDisciplineLock (s : State) : Host.Outcome State Fault Refusal :=
  let p := s.time.pps
  if s.ppsActive && p.acquired && !p.locked && decide (16 ≤ p.lockRun) && decide (p.clampRun < 64) then
    let s1 : State := { s with time := { s.time with
      pps := { p with locked := true, outliers := 0 }, epochId := { s.time.epochId with kind := 1 } } }
    .next (s1.discipline 0x02)
  else .next s

/-- Discipline is lost (R241): a locked module enters holdover with the correction before the last used edge, an
acquiring one abandons acquisition; acquisition begins afresh with the next valid edge. -/
def State.losePps (s : State) : State :=
  let p := s.time.pps
  let p1 : Pps := { p with
    pending := none, acquired := false, locked := false, lockRun := 0, outliers := 0, clampRun := 0, told := false }
  if p.locked then
    let s1 : State := s.kindHoldover
    (({ s1 with time := { s1.time with pps := p1, holdover := true, corr := p.prevCorr } }).discipline 0x03)
  else
    let s1 : State := { s with time := { s.time with pps := p1, holdover := false } }
    (({ s1 with time := { s1.time with corr := s1.yAge } }).discipline 0x04)

/-- PPS_OUTLIER_LOSS: four consecutive outliers end the lock (R240, R241). -/
def execPpsOutlierLoss (s : State) : Host.Outcome State Fault Refusal :=
  if s.ppsActive && s.time.pps.locked && decide (4 ≤ s.time.pps.outliers) then .next s.losePps else .next s

/-- PPS_LOSS: no valid edge for 2.5 s ends the lock or the acquisition (R241). -/
def execPpsLoss (s : State) : Host.Outcome State Fault Refusal :=
  if s.ppsActive && (s.time.pps.acquired || s.time.pps.pending.isSome) then .next s.losePps else .next s

/-- DISCIPLINE_RANGE_EXCEEDED: the correction has stayed at a clamp for 64 consecutive valid edges (R242). -/
def execDisciplineRangeExceeded (s : State) : Host.Outcome State Fault Refusal :=
  let p := s.time.pps
  if s.ppsActive && decide (64 ≤ p.clampRun) && !p.told then
    let s1 : State := { s with time := { s.time with pps := { p with told := true } } }
    .next ((s1.discipline 0x05).errorEvent (moduleErr 0x19 0 none) 0x00 0)
  else .next s

end Sys2Proof.Machine
end

