-- ==== Sys2Proof/Machine/RingTime.lean ====
section
/-! DEFINITION. Ring time transfer: Sync, delay exchanges, the slave's servo, steps of wafer time and the tick-chain check
(spec/07_time_base.md R226, R227, R229, R233, R244 to R254). -/

namespace Sys2Proof.Machine

open Sys2Proof

/-- Ring frames go out and come in on a port that is up (R441). -/
def RingState.live (r : RingState) : Bool := r.up && !r.failed

/-- Time passes on the ring once the module epoch is fixed. -/
def State.ringTime (s : State) (rp : RingPort) : Bool := s.time.epochFixed && !s.inReset && (s.ring rp).live

/-- Send on a ring port. -/
def State.ringSend (s : State) (rp : RingPort) (o : RingOut) : State :=
  s.modRing rp (fun r => { r with sent := r.sent ++ [o] })

/-- Discard frames of a ring port and count them (R245, R442). -/
def State.countDiscards (s : State) (rp : RingPort) (k : Nat) : State :=
  s.modRing rp (fun r => { r with discards := r.discards + k })

/-- The stamper of a ring port (R255, R529). -/
def ringStamper : RingPort → Nat
  | .east => 11
  | .west => 12

/-- The time header of the frames that a module sends: a master's own, or that of the slave's parent one hop further
(R244, R246). -/
def State.timeHeader (s : State) : TimeHeader :=
  match s.isMaster, s.time.slave.parentSync with
  | false, some x =>
    { master := x.msg.master, hop := x.msg.hop + 1, kind := x.msg.kind, serial := x.msg.serial, era := s.era }
  | _, _ =>
    { master := BitVec.ofNat 8 s.moduleId, hop := 0, kind := s.time.epochId.kind, serial := s.time.epochId.serial
      era := s.era }

/-- Send a PTP message of a type with a timestamp (R245 to R247). -/
def State.sendPtp (s : State) (rp : RingPort) (msgType : Nat) (seqId : BitVec 16) (t : Nat) : State :=
  s.ringSend rp (.time s.timeHeader (ptpMessage msgType s.moduleId rp seqId t))

/-- Send Sync and its Follow_Up, which carries the departure stamp; both bear one sequenceId (R245, R247). -/
def State.sendSync (s : State) (rp : RingPort) (t1 : Nat) : State :=
  let q := (s.ring rp).syncSeq
  ((s.sendPtp rp 0x0 q s.time.wafer.toNat).sendPtp rp 0x8 q t1).modRing rp (fun r => { r with syncSeq := q + 1 })

/-- SYNC_SEND: a master sends Sync and Follow_Up on both ports with hop count 0, a slave on its non-parent port with its
parent's hop count plus 1 (R244, R246, R247). `edge` and `tap` are what the ring stamper found at the departure. -/
def execSyncSend (rp : RingPort) (edge tap : Nat) (s : State) : Host.Outcome State Fault Refusal :=
  if s.ringTime rp
      && (s.isMaster || (s.isSlave && decide (s.time.slave.parent ≠ some rp) && s.time.slave.parentSync.isSome)) then
    .next (s.sendSync rp (s.stampAt (ringStamper rp) edge tap))
  else .next s

/-- A Sync is no older than 1 s at an arrival (R248). -/
def SyncSeen.fresh (x : SyncSeen) (now : Nat) : Bool := decide (now ≤ x.t2 + 256000000000)

/-- The first of two Syncs is the better parent: lower hop count, then lower master module ID (R248; log entry 25). -/
def SyncSeen.better (a b : SyncSeen) : Bool :=
  decide (a.msg.hop < b.msg.hop) || (decide (a.msg.hop = b.msg.hop) && decide (a.msg.master.toNat < b.msg.master.toNat))

/-- The parent port by the Syncs of the last second; a tie takes WEST (R248). -/
def Slave.choose (v : Slave) (now : Nat) : Option RingPort :=
  let e := v.east.filter (fun x => x.fresh now)
  let w := v.west.filter (fun x => x.fresh now)
  match e, w with
  | none, none => none
  | some _, none => some .east
  | none, some _ => some .west
  | some a, some b => if a.better b then some .east else some .west

/-- A slave after a Sync: its parent is chosen anew, and a new parent port begins new exchanges (R248). -/
def Slave.take (v : Slave) (rp : RingPort) (x : SyncSeen) : Slave :=
  let v1 : Slave := match rp with
    | .east => { v with east := some x }
    | .west => { v with west := some x }
  let p := v1.choose x.t2
  if p = v.parent then v1 else { v1 with parent := p, delays := [], offsets := [] }

/-- The slave state after a Sync on a port is put; a locked slave's epoch kind follows its master (R251). -/
def State.followSync (s : State) (rp : RingPort) (m : SyncMsg) (v : Slave) : State :=
  let kind := if v.locked && decide (v.parent = some rp) then m.kind else s.time.epochId.kind
  { s with time := { s.time with slave := v, epochId := { s.time.epochId with kind := kind } } }

/-- A slave asks its parent: one Delay_Req, whose departure stamp waits for the answer (R244, R247, R249). -/
def State.askParent (s : State) (rp : RingPort) (t3 : Nat) : State :=
  let q := (s.ring rp).reqSeq
  let s1 : State := (s.sendPtp rp 0x1 q 0).modRing rp (fun r => { r with reqSeq := q + 1 })
  { s1 with time := { s1.time with slave := { s1.time.slave with asked := some (t3, q) } } }

/-- A slave takes a Sync: a change of its parent port is an event, and the parent is answered with a Delay_Req (R244,
R248). DESIGN CHOICE (log entry 42): the first choice of a parent port is no change and writes no event. -/
def State.takeSync (s : State) (rp : RingPort) (m : SyncMsg) (t2 t3 : Nat) : State :=
  let v := s.time.slave.take rp { msg := m, t2 := t2 }
  let s1 : State := s.followSync rp m v
  let s2 : State := if s.time.slave.parent.isSome && decide (v.parent ≠ s.time.slave.parent) then s1.discipline 0x06 else s1
  if v.parent = some rp then s2.askParent rp t3 else s2

/-- What one Sync frame and its Follow_Up frame carry, when both pass their checks and belong together (R245 to R247). -/
def syncPair (sync follow : List Byte) : Option SyncMsg :=
  match timeFrameOf sync, timeFrameOf follow with
  | some (h, a), some (_, b) =>
    if ptpKnown a ∧ ptpKnown b ∧ a.msgType = 0x0 ∧ b.msgType = 0x8 ∧ a.flags.getLsbD 9 ∧ a.seqId = b.seqId
        ∧ a.clockId = b.clockId then
      some { master := h.master, hop := h.hop, kind := h.kind, serial := h.serial, era := h.era, t1 := ptpTime b }
    else none
  | _, _ => none

/-- A received frame is discarded and counted: it fails its CRC, its kind is reserved, or it carries a message of no type
of R245 (R245, R442). -/
def discarded (frame : List Byte) : Bool :=
  !frameOk frame || decide (3 ≤ frameKind frame) || (match timeFrameOf frame with
    | none => false
    | some x => !ptpKnown x.2)

/-- The frames of a list that are discarded (R245, R442). -/
def discardCount (frames : List (List Byte)) : Nat := frames.countP discarded

/-- SYNC_RECEIVED: the two frames of a Sync and its Follow_Up arrive, the Sync at a reference edge and tap of the ring
stamper. A slave takes a Sync of hop count below 63 and answers its parent's with a Delay_Req; a master that receives
another master's Sync says so; a standalone module ignores it (R244 to R248). `reqEdge` and `reqTap` stamp the
departure of that Delay_Req. -/
def execSyncReceived (rp : RingPort) (sync follow : List Byte) (edge tap reqEdge reqTap : Nat) (s : State) :
    Host.Outcome State Fault Refusal :=
  if !s.ringTime rp then .next s
  else
    match syncPair sync follow with
    | none => .next (s.countDiscards rp (discardCount [sync, follow]))
    | some m =>
      if s.isMaster then
        (if m.master.toNat = s.moduleId then .next s else .next (s.discipline 0x09))
      else if s.isSlave && decide (m.hop < 63) then
        .next (s.takeSync rp m (s.stampAt (ringStamper rp) edge tap) (s.stampAt (ringStamper rp) reqEdge reqTap))
      else .next s

/-- The answer to a Delay_Req, with its arrival stamp and the requesting port (R244, R245). -/
def State.answerDelay (s : State) (rp : RingPort) (m : PtpMsg) (t4 : Nat) : State :=
  s.ringSend rp (.time s.timeHeader
    { ptpMessage 0x9 s.moduleId rp m.seqId t4 with reqClock := m.clockId, reqPort := m.portNo })

/-- DELAY_REQ_RECEIVED: a master on either port, or a slave on its non-parent port, answers with a Delay_Resp
(R244, R245). -/
def execDelayReqReceived (rp : RingPort) (frame : List Byte) (edge tap : Nat) (s : State) :
    Host.Outcome State Fault Refusal :=
  if !s.ringTime rp then .next s
  else if discarded frame then .next (s.countDiscards rp 1)
  else
    match timeFrameOf frame with
    | none => .next s
    | some (_, m) =>
      if m.msgType = 0x1 ∧ (s.isMaster ∨ (s.isSlave ∧ s.time.slave.parent ≠ some rp)) then
        .next (s.answerDelay rp m (s.stampAt (ringStamper rp) edge tap))
      else .next s

/-! ### The servo -/

/-- The mean of a list. -/
def mean (xs : List Rat) : Rat := xs.sum / xs.length

/-- Every value lies within 10 ns of the mean (R250). -/
def agree (xs : List Rat) : Bool := xs.all (fun x => decide (mean xs - 2560 ≤ x) && decide (x ≤ mean xs + 2560))

/-- The servo's correction at an exchange (R249), offsets in 1/256 ns. -/
def servoStep (y o last : Rat) : Rat := clampPpb (y - 2 * (o - last) / 256 - o / 1024)

/-- A used exchange: its delay and offset are kept; the servo runs once the slave has acquired and waits for no step
(R249 to R252). -/
def State.useExchange (s : State) (d o : Rat) : State :=
  let v := s.time.slave
  let runs := v.acquired && (match v.stepBy with
    | none => true
    | some b => decide (s.numCtx ≠ 0) && decide (-256000 ≤ b) && decide (b ≤ 256000))
  let small := decide (-5120 ≤ o) && decide (o ≤ 5120)
  let large := decide (o < -256000) || decide (256000 < o)
  let v1 : Slave := { v with
    delays := (d :: v.delays).take 16, offsets := (o :: v.offsets).take 16, lastOff := o
    lockRun := if runs && small then v.lockRun + 1 else 0
    badRun := if v.locked && large then v.badRun + 1 else 0 }
  { s with time := { s.time with
      slave := v1, corr := if runs then servoStep s.time.corr o v.lastOff else s.time.corr } }

/-- An exchange with the parent completes with its four stamps: delay and offset; a locked slave discards one whose delay
lies off the mean of the last 16 (R249). -/
def State.exchange (s : State) (x : SyncSeen) (t3 t4 : Nat) : State :=
  let v := s.time.slave
  let fwd : Rat := (x.t2 : Rat) - x.msg.t1
  let back : Rat := (t4 : Rat) - t3
  let d := (fwd + back) / 2
  let o := fwd - d
  let off := decide (d < mean v.delays - 2560) || decide (mean v.delays + 2560 < d)
  let s1 : State := { s with time := { s.time with slave := { v with asked := none } } }
  if v.locked && !v.delays.isEmpty && off then s1 else s1.useExchange d o

/-- DELAY_RESP_RECEIVED: the parent's answer to the Delay_Req that waits completes the exchange (R249); another's is no
answer of this slave. -/
def execDelayRespReceived (rp : RingPort) (frame : List Byte) (s : State) : Host.Outcome State Fault Refusal :=
  if !s.ringTime rp then .next s
  else if discarded frame then .next (s.countDiscards rp 1)
  else
    match timeFrameOf frame, s.time.slave.parentSync, s.time.slave.asked with
    | some (_, m), some x, some (t3, q) =>
      if s.isSlave ∧ s.time.slave.parent = some rp ∧ m.msgType = 0x9 ∧ m.seqId = q
          ∧ m.reqClock = clockIdentity s.moduleId ∧ m.reqPort = portNumber rp then
        .next (s.exchange x t3 (ptpTime m))
      else .next s
    | _, _, _ => .next s

/-! ### Steps of wafer time -/

/-- Bytes 16 to 175 of a time-step record (Table 7.6). -/
def timeStepBytes (reason : Nat) (new : BitVec 32) (era old now : Nat) (was : BitVec 32) : List Byte :=
  leBytes 1 2 ++ leBytes 1 reason ++ zeros 6 ++ leBytes 4 new.toNat ++ leBytes 4 era ++ leBytes 8 old ++ leBytes 8 now
    ++ leBytes 4 was.toNat ++ zeros 124

/-- A wafer time moved back by an amount. -/
def shiftTime (t : WaferTime) (b : Int) : WaferTime := BitVec.ofInt 72 ((t.toNat : Int) - b)

/-- A stamp kept from before a step of wafer time, in the new time. -/
def shiftStamp (t : Nat) (b : Int) : Nat := ((t : Int) - b).toNat

/-- A Sync last taken, its arrival in the new time after a step. -/
def SyncSeen.shift (x : SyncSeen) (b : Int) : SyncSeen := { x with t2 := shiftStamp x.t2 b }

/-- A slave steps at its next alignment boundary by a multiple of 20 ns: it takes the master's epoch, writes a time-step
record, and every stage loads its counter without debt (R226, R227, R229, R233, R250). -/
def State.stepTime (s : State) (b : Int) (reason : Nat) : State :=
  let v := s.time.slave
  let old : WaferTime := BitVec.ofNat 72 (ceilTo 5120 s.time.wafer.toNat)
  let now := shiftTime old b
  let was := s.epochWord
  let id := match v.parentSync with
    | none => s.time.epochId
    | some x => { s.time.epochId with source := x.msg.master, serial := x.msg.serial }
  let s1 : State := { s with
    time := { s.time with
      wafer := now, lastTick := s.time.lastTick.map (fun t => shiftTime t b), epochId := id, holdover := false
      tickIn := { s.time.tickIn with last := s.time.tickIn.last.map (fun t => shiftStamp t b) }
      slave := { v with stepBy := none, lockRun := 0, badRun := 0, lastOff := v.lastOff - b
                        asked := v.asked.map (fun x => (shiftStamp x.1 b, x.2))
                        east := v.east.map (fun x => x.shift b), west := v.west.map (fun x => x.shift b)
                        offsets := v.offsets.map (fun o => o - b) } }
    iu := { s.iu with lastIn := s.iu.lastIn.map (fun o => o.map (fun t => shiftStamp t b)) }
    gaffer := { s.gaffer with lastUpdate := s.gaffer.lastUpdate.map (fun t => shiftTime t b) }
    stages := s.stages.map (fun st => { st with island := now, clock := { st.clock with resync := true, pairW := now } }) }
  s1.emit 0 0 (.interval (timeStepBytes reason s1.epochWord s1.era.toNat (old.toNat % 2 ^ 64) (now.toNat % 2 ^ 64) was))

/-- A mean offset rounded to the nearest multiple of 20 ns (R250). -/
def stepOf (o : Rat) : Int := 5120 * nearest (o / 5120)

/-- The slave enters holdover while it waits or is lost (R250, R252). -/
def State.slaveHold (s : State) : State :=
  let s1 : State := s.kindHoldover
  { s1 with time := { s1.time with holdover := true } }

/-- SLAVE_ACQUIRE: 8 exchanges agree: a booting slave steps at once, one without contexts at the next tick; a small offset
is left to the servo; with contexts a large one waits in holdover (R250). -/
def execSlaveAcquire (s : State) : Host.Outcome State Fault Refusal :=
  let v := s.time.slave
  let o := mean (v.offsets.take 8)
  if !s.isSlave || v.acquired || decide (v.delays.length < 8) || !agree (v.delays.take 8) then .next s
  else
    let s1 : State := { s with time := { s.time with
      slave := { v with acquired := true, lockRun := 0, badRun := 0, stepBy := none } } }
    let wait : State := { s1 with time := { s1.time with slave := { s1.time.slave with stepBy := some (stepOf o) } } }
    if -5120 < o ∧ o < 5120 then .next s1
    else if s.pins.booting then .next (s1.stepTime (stepOf o) 0x00)
    else if s.numCtx = 0 then .next wait
    else if -256000 ≤ o ∧ o ≤ 256000 then .next s1
    else .next (wait.slaveHold.discipline 0x03)

/-- SLAVE_LOCK: 16 consecutive small offsets declare lock, and the epoch kind is the master's (R251). -/
def execSlaveLock (s : State) : Host.Outcome State Fault Refusal :=
  let v := s.time.slave
  match v.parentSync with
  | none => .next s
  | some x =>
    if s.isSlave && v.acquired && !v.locked && decide (16 ≤ v.lockRun) && v.stepBy.isNone then
      let s1 : State := { s with time := { s.time with
        slave := { v with locked := true, badRun := 0 }, epochId := { s.time.epochId with kind := x.msg.kind }
        tickIn := TimeBase.reset.tickIn, holdover := false } }
      .next (s1.discipline 0x02)
    else .next s

/-- SLAVE_HOLDOVER: a locked slave with a large offset on 4 exchanges, or with no Sync for 1 s, enters holdover and
acquires afresh (R252). -/
def execSlaveHoldover (s : State) : Host.Outcome State Fault Refusal :=
  let v := s.time.slave
  if s.isSlave && v.locked then
    let s1 : State := { s with time := { s.time with
      slave := { v with
        delays := [], offsets := [], acquired := false, locked := false, lockRun := 0, badRun := 0, stepBy := none } } }
    .next (s1.slaveHold.discipline 0x03)
  else .next s

/-- A slave that waits to step meets a tick at which a context exists: an offset of at most 1 µs is left to the servo, a
larger one waits in holdover (R250). -/
def State.waitStep (s : State) (b : Int) : State :=
  if -256000 ≤ b ∧ b ≤ 256000 then { s with time := { s.time with slave := { s.time.slave with stepBy := none } } }
  else if s.time.holdover then s
  else s.slaveHold.discipline 0x03

/-- WAFER_TIME_STEP: at a tick with no context a slave that waits to step steps to its master (R250). -/
def execWaferTimeStep (s : State) : Host.Outcome State Fault Refusal :=
  match s.time.slave.stepBy with
  | none => .next s
  | some b =>
    if s.isSlave && s.pins.bootDone && !s.inReset then
      .next (if s.numCtx = 0 then s.stepTime b 0x01 else s.waitStep b)
    else .next s

/-! ### The tick chain -/

/-- The tick-chain offset of an edge against the baseline; a difference above 50 ns on 4 consecutive ticks is written as an
event and an error event (R254). -/
def State.chainEdge (s : State) (tick : WaferTime) (stamp : Nat) : State :=
  let off : Int := (stamp : Int) - tick.toNat
  let c : TickIn := { s.time.tickIn with last := some stamp }
  match c.base with
  | none => { s with time := { s.time with tickIn := { c with base := some off, badRun := 0 } } }
  | some b =>
    let bad := if (off - b).natAbs ≤ 12800 then 0 else c.badRun + 1
    let s1 : State := { s with time := { s.time with tickIn := { c with badRun := bad } } }
    if bad = 4 then (s1.discipline 0x07).errorEvent (moduleErr 0x1A 0 none) 0x00 0 else s1

/-- The hold-off of TICK_IN is fixed at 64 ns (R254). -/
def TickIn.early (c : TickIn) (stamp : Nat) : Bool :=
  match c.last with
  | none => false
  | some t => decide (stamp < t + 16384)

/-- TICK_IN_EDGE: a locked slave stamps a rising edge of TICK_IN with its tick-in stamper and compares the tick-chain
offset with its baseline; an edge within the hold-off of the last one is ignored (R254). -/
def execTickInEdge (edge tap : Nat) (s : State) : Host.Outcome State Fault Refusal :=
  match s.time.lastTick with
  | none => .next s
  | some t =>
    let stamp := s.stampAt 10 edge tap
    if !s.isSlave || !s.time.slave.locked || s.time.tickIn.early stamp then .next s
    else .next (s.chainEdge t stamp)

end Sys2Proof.Machine
end

