-- ==== Sys2Proof/Machine/Ring.lean ====
section
/-! DEFINITION. The ring link: status frames, lane maps, lane tests and port failure (spec/13_fabric.md R441 to R447,
R450; spec/14_faults.md R481, R482). -/

namespace Sys2Proof.Machine

open Sys2Proof

/-- The other ring port. -/
def otherRing : RingPort → RingPort
  | .east => .west
  | .west => .east

/-- The site number of a ring port in error events (Table 12.13). -/
def ringSite : RingPort → Nat
  | .east => 0x62
  | .west => 0x63

/-- The lanes in a map. -/
def laneCount (m : BitVec 16) : Nat := (List.range 16).countP (fun i => m.getLsbD i)

/-- The lanes that STRAP_LINKS gives a port, as a map: lanes 0 up to its number (Table 2.11). -/
def State.strapMap (s : State) : BitVec 16 := BitVec.ofNat 16 (2 ^ s.ringLanes - 1)

/-- The lanes a port can use now: the strapped lanes less the lasting and the suspect ones (R445, R481). -/
def State.usableLanes (s : State) (rp : RingPort) : BitVec 16 :=
  let r := s.ring rp
  s.strapMap &&& ~~~(r.lasting ||| r.suspect.foldl (fun m l => m ||| laneBit l) 0)

/-- A ring-port error event of kind 0x16 (R446, R481). -/
def State.ringEvent (s : State) (rp : RingPort) (unit : Option UnitId) : State :=
  s.errorEvent { moduleErr 0x16 0 unit with stage := ringSite rp } 0x00 0

/-- The module leaves the ring: BYPASS_OPEN_N is deasserted, so both ports are down until the next boot (R446). -/
def State.failRing (s : State) (rp : RingPort) : State :=
  let s1 : State := s.modRing rp (fun r => { r with failed := true, up := false, exchange := none })
  let s2 : State := s1.modRing (otherRing rp) (fun r => { r with up := false, exchange := none })
  ({ s2 with pins := { s2.pins with bypassOpen := false } }).ringEvent rp none

/-- Begin the exchange that moves a port to a new transmit map: status frames carry the request (R445). A map of
fewer than 12 lanes fails the port (R446). -/
def State.requestMap (s : State) (rp : RingPort) (m : BitVec 16) : State :=
  if laneCount m < 12 then s.failRing rp
  else s.modRing rp (fun r => { r with exchange := some { newMap := m, gen := r.gen + 1 } })

/-- The status frame a module originates on a port: its map, or the requested one (R442, R444, R445). -/
def State.statusFrame (s : State) (rp : RingPort) : StatusFrame :=
  let r := s.ring rp
  let m := match r.exchange with
    | none => r.txMap
    | some e => e.newMap
  { origin := BitVec.ofNat 8 s.moduleId, serial := s.serial, hop := 0, role := BitVec.ofNat 8 (s.strap 10)
    lanes := BitVec.ofNat 8 (laneCount m), laneMap := m
    mapGen := match r.exchange with
      | none => r.gen
      | some e => e.gen
    mapSwitch := if r.exchange.isSome then 1 else 0 }

/-- STATUS_FRAME_SEND: a module sends its status frame with hop count 0 on an up port (R444). -/
def execStatusFrameSend (rp : RingPort) (s : State) : Host.Outcome State Fault Refusal :=
  if s.inReset || !(s.ring rp).live then .next s else .next (s.ringSend rp (.status (s.statusFrame rp)))

/-- The end of ring time for a slave: it corrects by its age, in holdover's epoch kind (R447, R236). -/
def State.leaveTime (s : State) : State :=
  let k : State := s.kindHoldover
  { k with time := { k.time with slave := .idle, holdover := false, corr := s.yAge } }

/-- A frame with the module's own ID and another serial: for the rest of the boot the module keeps no ring time and
runs standalone under R236, with a dailies entry (R447). -/
def State.duplicateSeen (s : State) (f : StatusFrame) : State :=
  if s.dupId then s
  else
    let t : State := if s.isSlave then s.leaveTime else s
    ({ t with dupId := true }).log 0x09 (leBytes 8 f.serial.toNat)

/-- A partner's request for a map: the receive map moves, and the generation is acknowledged (R445). -/
def State.answerMap (s : State) (rp : RingPort) (f : StatusFrame) : State :=
  let s1 : State := s.modRing rp (fun r => { r with rxMap := f.laneMap })
  s1.ringSend rp (.status { s1.statusFrame rp with mapSwitch := 2, mapGen := f.mapGen })

/-- The transmit map a port has, or is moving to. -/
def RingState.mapNow (r : RingState) : BitVec 16 :=
  match r.exchange with
  | none => r.txMap
  | some e => e.newMap

/-- The map switch that a partner's own frame, of hop count 0, carries (R445, R481): a request is answered, and takes
the same lane out of, or back into, the transmit map; an acknowledgement of the outstanding generation switches the
transmit map. -/
def State.mapSwitch (s : State) (rp : RingPort) (f : StatusFrame) : State :=
  if f.hop ≠ 0 then s
  else if f.mapSwitch = 1 then
    let s1 : State := s.answerMap rp f
    let m := f.laneMap &&& s1.usableLanes rp
    if m = (s1.ring rp).mapNow then s1 else s1.requestMap rp m
  else if f.mapSwitch = 2 then
    s.modRing rp (fun r => match r.exchange with
      | none => r
      | some e => if e.gen = f.mapGen then { r with txMap := e.newMap, gen := e.gen, exchange := none } else r)
  else s

/-- What a module does with a status frame it takes: a partner's map switch and a duplicate module ID are acted on, and the
frame is forwarded on the other port with its hop count raised by one, unless its hop count is 63 or more or it is the
module's own (R444, R445, R447). -/
def State.takeStatus (s : State) (rp : RingPort) (f : StatusFrame) : State :=
  let mine := decide (f.origin = BitVec.ofNat 8 s.moduleId)
  let s1 : State := if mine && decide (f.serial ≠ s.serial) then s.duplicateSeen f else s
  let s2 : State := s1.mapSwitch rp f
  if decide (63 ≤ f.hop) || (mine && decide (f.serial = s.serial)) || !(s2.ring (otherRing rp)).live then s2
  else s2.ringSend (otherRing rp) (.status { f with hop := f.hop + 1 })

/-- STATUS_FRAME_RECEIVED: a frame that passes its CRC and is a status frame is taken (R442, R444 to R447); one that fails it
or is of a reserved kind is discarded and counted. -/
def execStatusFrameReceived (rp : RingPort) (frame : List Byte) (s : State) : Host.Outcome State Fault Refusal :=
  if s.inReset || !(s.ring rp).live then .next s
  else
    match statusFrameOf frame with
    | some f => .next (s.takeStatus rp f)
    | none => .next (s.countDiscards rp (discardCount [frame]))

/-- RING_FRAME_CRC_FAIL: a frame that fails its CRC is discarded and counted (R442, R482). -/
def execRingFrameCrcFail (rp : RingPort) (frame : List Byte) (s : State) : Host.Outcome State Fault Refusal :=
  if s.inReset || !(s.ring rp).live || frameOk frame then .next s else .next (s.countDiscards rp 1)

/-- RING_PORT_UP: every lane of a port's map holds block lock for 1 ms, while the module is in the ring (R441, R448,
R450). -/
def execRingPortUp (rp : RingPort) (s : State) : Host.Outcome State Fault Refusal :=
  let m := s.usableLanes rp
  let r := s.ring rp
  if s.inReset || !s.pins.bypassOpen || r.failed || r.up then .next s
  else if laneCount m < 12 then .next (s.failRing rp)
  else .next (s.modRing rp (fun r => { r with up := true, txMap := m, rxMap := m, exchange := none }))

/-- RING_PARTNER_LOST: the port loses its partner and retrains; an exchange with that partner is void (R450). -/
def execRingPartnerLost (rp : RingPort) (s : State) : Host.Outcome State Fault Refusal :=
  if s.inReset || !(s.ring rp).live then .next s
  else .next (s.modRing rp (fun r => { r with up := false, exchange := none }))

/-- RING_LANE_SUSPECT: 16 uncorrectable codewords in 1 s, or lost block lock: the lane leaves the map for its test; a port
on 12 lanes keeps it, counts the error, and fails when the lane is lasting (R446, R481). -/
def execRingLaneSuspect (rp : RingPort) (lane : Nat) (s : State) : Host.Outcome State Fault Refusal :=
  let r := s.ring rp
  let u : UnitId := .ringLane rp lane
  if s.inReset || !r.live || !r.txMap.getLsbD lane || r.suspect.contains lane then .next s
  else
    let s1 : State := (s.ringEvent rp (some u)).joinTest u 0x16 .free
    if 12 < laneCount r.txMap then
      .next ((s1.modRing rp (fun r => { r with suspect := lane :: r.suspect })).requestMap rp (r.txMap &&& ~~~(laneBit lane)))
    else
      let s2 : State := s1.classify u false
      .next (if ((s2.ring rp).lasting).getLsbD lane then s2.failRing rp else s2)

/-- RING_LANE_TEST_COMPLETE: the 10 ms PRBS31 test of a lane outside the map: at most 1 bit error is transient and the
lane is restored by the exchange, otherwise it is lasting and stays out (R481). -/
def execRingLaneTestComplete (rp : RingPort) (lane errors : Nat) (s : State) : Host.Outcome State Fault Refusal :=
  let r := s.ring rp
  if s.inReset || !r.suspect.contains lane || r.txMap.getLsbD lane then .next s
  else
    let s1 : State := s.classify (.ringLane rp lane) (decide (1 < errors))
    let s2 : State := s1.modRing rp (fun r => { r with suspect := r.suspect.filter (fun l => l ≠ lane) })
    if ((s2.ring rp).lasting).getLsbD lane || !(s2.ring rp).live then .next s2
    else .next (s2.requestMap rp (r.txMap ||| laneBit lane))

/-- RING_MAP_EXCHANGE: the exchange completes and both ends of the port stripe in the new map (R445). -/
def execRingMapExchange (rp : RingPort) (s : State) : Host.Outcome State Fault Refusal :=
  let r := s.ring rp
  match r.exchange with
  | none => .next s
  | some e =>
    if s.inReset || !r.live then .next s
    else .next (s.modRing rp (fun r => { r with txMap := e.newMap, rxMap := e.newMap, gen := e.gen, exchange := none }))

/-- RING_PORT_FAILED: a port would need fewer than 12 lanes or does not come up in 200 ms of training: the module leaves
the ring until the next boot (R446). The other port of a module that has left may be declared failed in its turn. -/
def execRingPortFailed (rp : RingPort) (s : State) : Host.Outcome State Fault Refusal :=
  if s.inReset || (s.ring rp).failed || (!s.pins.bypassOpen && !(s.ring (otherRing rp)).failed) then .next s
  else .next (s.failRing rp)

end Sys2Proof.Machine
end

