-- ==== Sys2Proof/Machine/Shots.lean ====
section
/-! DEFINITION. Sequencer shots, token shots, splice shots, output commit, run-ahead and the retiring of shots
(spec/09_engines_and_shots.md R305 to R318, R324 to R329, R333 to R335, spec/03_frames.md R111 to R115, R130 to R132,
spec/13_fabric.md R428, spec/15_recovery.md R484). -/

namespace Sys2Proof.Machine

open Sys2Proof

/-! ### Sequencer shots -/

/-- NOP (Table 9.2). -/
def execNop (n : Nat) (s : State) : Host.Outcome State Fault Refusal :=
  .next (s.sequence n (.nop n) (fun _ _ _ => s.sequenced n id))

/-- RUNAHEAD reached by the sequencer acts as NOP: it only permits run-ahead of a kind it begins (R312). -/
def execRunahead (n : Nat) (s : State) : Host.Outcome State Fault Refusal :=
  .next (s.sequence n (.runahead n) (fun _ _ _ => s.sequenced n id))

/-- The kind of the next working frame of a stage (R313). -/
def eofKind (f : EofFields) (frame : BitVec 48) : Nat :=
  let j := frame.toNat + 1 + f.idle.toNat
  if f.p ≠ 0 ∧ j % 2 ^ f.p.toNat = 0 then f.kindB.toNat else f.kindA.toNat

/-- Whether an end-of-frame shot marks a frame final (R313). -/
def eofFinal (f : EofFields) (frame last : BitVec 48) : Bool :=
  f.final = 1 || (f.final = 2 && decide (frame = last))

/-- The fields of EOF are in range: its kinds are in the stage's kind table (R311, R313). -/
def eofOk (n : Nat) (f : EofFields) (c : Ctx) : Bool :=
  match c.stageRec n with
  | none => false
  | some r => decide (f.kindA.toNat < r.kinds.length) && decide (f.kindB.toNat < r.kinds.length)

/-- EOF: after every earlier shot has retired the frame's shots end, the stage is done, and its idle count, next kind
and finality are set (R103, R308, R313). `slack` is the lowest code of the counted cycles that no THIN_MARGIN gave; with
those it makes the frame slack (R153). Run-ahead stops before it (R113). -/
def execEof (n : Nat) (f : EofFields) (slack : Option Nat) (s : State) : Host.Outcome State Fault Refusal :=
  .next (s.sequence n (.eof n f slack) (fun st _ c =>
    if st.seq.ahead || !st.drained then s
    else if !eofOk n f c || st.seq.loop.isSome then s.scriptError n st.seq.pc
    else s.putStage n { st with
      idle := f.idle.toNat, slackNow := none, slackEof := minCode st.slackNow (slack.map (capAt 63))
      seq := { st.seq with
        pc := st.seq.pc + 1, eof := true, done := true, final := eofFinal f c.frame c.reel.last
        nextKind := eofKind f c.frame } }))

/-- REPEAT: the body that follows is issued `count` times (R315). -/
def execRepeat (n : Nat) (b : BitVec 8) (countM1 : BitVec 12) (stride : BitVec 16) (s : State) :
    Host.Outcome State Fault Refusal :=
  .next (s.sequence n (.repeat_ n b countM1 stride) (fun st _ _ =>
    if st.seq.loop.isSome then s.scriptError n st.seq.pc
    else s.sequenced n (fun q => { q with
      loop := some { start := st.seq.pc + 1, len := b.toNat, count := countM1.toNat + 1, stride := stride.toInt
                     iter := 0 } })))

/-- SETA: load an address register (R316). -/
def execSeta (n : Nat) (reg : BitVec 4) (bank : BitVec 6) (line : BitVec 16) (s : State) :
    Host.Outcome State Fault Refusal :=
  .next (s.sequence n (.seta n reg bank line) (fun _ _ _ =>
    s.sequenced n (fun q => { q with ar := setAt q.ar reg.toNat (bank ++ line) })))

/-- INCA: add a signed delta to a register's line; outside 0 to 65,535 the context fails (R316). -/
def execInca (n : Nat) (reg : BitVec 4) (delta : BitVec 16) (s : State) : Host.Outcome State Fault Refusal :=
  .next (s.sequence n (.inca n reg delta) (fun st _ _ =>
    let l := st.seq.lineOf reg false + delta.toInt
    if l < 0 ∨ 65535 < l then s.failStageCtx n 0x15
    else s.sequenced n (fun q => { q with
      ar := setAt q.ar reg.toNat (BitVec.ofNat 22 (65536 * st.seq.bankOf reg + l.toNat)) })))

/-- STEP: request an operating-step change; a second request in a take fails the context (R130, R131, R317). Run-ahead
stops before it (R113). -/
def execStep (n : Nat) (code : BitVec 4) (s : State) : Host.Outcome State Fault Refusal :=
  .next (s.sequence n (.step n code) (fun st p c =>
    if st.seq.ahead then s
    else if decide (code.toNat < c.reel.floor) || st.seq.loop.isSome then s.scriptError n st.seq.pc
    else if c.stepReq.isSome then s.failStageCtx n 0x1C
    else
      let waiting := c.stages.filter (fun m => match s.stage m with | none => false | some t => t.clocked)
      (s.modCtx p (fun c => { c with
        stepReq := some { code := code.toNat, waiting := waiting, accepted := false } })).sequenced n
          (fun q => { q with stepWait := true })))

/-- TRACE: one trace entry with the immediate, the shot index and the corrected stamp (R232, R318). -/
def execTrace (n : Nat) (imm : BitVec 16) (s : State) : Host.Outcome State Fault Refusal :=
  .next (s.sequence n (.trace n imm) (fun st _ _ =>
    (s.traceAt n false 0x05 (s.correctedStamp n) (imm.toNat + 2 ^ 16 * st.seq.shot.toNat)).sequenced n id))

/-! ### Run-ahead -/

/-- The first word of a kind of a stage is RUNAHEAD (R112, R312). -/
def Stage.permits (st : Stage) (r : StageRec) (kind : Nat) : Bool :=
  decide (opcodeOf (cellGet st.script (r.kindFirst kind)).toNat = 1)

/-- A stage may begin the next frame's shots before its tick (R112, R313): done, its frame not final, no idle frame to
come, the next kind permitting it, and no rollback of that work before. -/
def State.canRunAhead (s : State) (st : Stage) (c : Ctx) (r : StageRec) : Bool :=
  s.live && st.st = .lit && !st.stopped && !st.skipping && c.loaded && c.ended.isNone && c.endDue.isNone
    && c.rollback.isNone && !s.pins.parked && st.seq.done && !st.seq.ahead && !st.seq.final && !st.seq.noAhead
    && decide (st.idle = 0) && st.permits r st.seq.nextKind

/-- The sequencer as run-ahead work begins (R112, R119): at the first shot of the next kind with its own prologue, what
frame k declared kept for its commit. -/
def Seq.beginAhead (q : Seq) (r : StageRec) : Seq :=
  { q.beginKind r q.nextKind with
    ahead := true, kind := q.kind, nextKind := q.nextKind, eof := q.eof, done := q.done, final := q.final
    worked := q.worked, spliced := q.spliced }

/-- RUNAHEAD_START: a done stage begins the next frame's shots before the tick (R112, R119). -/
def execRunaheadStart (n : Nat) (s : State) : Host.Outcome State Fault Refusal :=
  match s.stage n, s.ctxOf n with
  | some st, some (_, c) =>
    match c.stageRec n with
    | none => .next s
    | some r =>
      if s.canRunAhead st c r then
        .next (s.putStage n { st with acc := [], resid := [], cntAhead := .zero, seq := st.seq.beginAhead r })
      else .next s
  | _, _ => .next s

/-! ### Tokens -/

/-- Add to a token counter; the Bool tells that it would pass 0xFFFF (R326). -/
def Seq.addToken (q : Seq) (token inc : Nat) : Seq × Bool :=
  let v := q.tokens.getD token 0 + inc
  ({ q with tokens := setAt q.tokens token (capAt 0xFFFF v) }, decide (0xFFFF < v))

/-- The argument of a token signal (section 13.2). -/
def tokenArg (token : BitVec 5) (inc frameLow : BitVec 16) (take : BitVec 4) : Nat :=
  token.toNat + inc.toNat * 2 ^ 5 + frameLow.toNat * 2 ^ 21 + take.toNat * 2 ^ 37

/-- The EV flit of a remote token signal (R326, R328, Tables 13.2 and 13.3): from the issuing stage to its target, with the
frame and the take that it belongs to. -/
def tokenFlit (n target : Nat) (c : Ctx) (token : BitVec 5) (inc : BitVec 16) : FlitHeader :=
  { cls := 0, data := false, src := n, dst := target, ctx := c.id, epoch := c.epoch, op := 2, tag := 0, line := 0, bank := 0
    status := 0
    arg := tokenArg token inc (c.frame.truncate 16) c.take }

/-- SIGT: after every earlier shot has retired, add to the target's counter (R326). A signal to another stage enters the
spine of the issuing stage as an EV flit that goes south (R432); run-ahead stops before it (R113). -/
def execSigt (n : Nat) (row : BitVec 3) (col : BitVec 4) (token : BitVec 5) (inc : BitVec 16) (s : State) :
    Host.Outcome State Fault Refusal :=
  .next (s.sequence n (.sigt n row col token inc) (fun st _ c =>
    let self := decide (c.offsets n = (row.toNat, col.toNat))
    if c.reel.h ≤ row.toNat ∨ c.reel.w ≤ col.toNat then s.scriptError n st.seq.pc
    else if !st.drained || (st.seq.ahead && !self) then s
    else if !self then
      (s.sendFlit (colOf n) false
        (tokenFlit n (c.origin + 12 * row.toNat + col.toNat) c token inc)).sequenced n id
    else if (st.seq.addToken token.toNat inc.toNat).2 then s.failStageCtx n 0x16
    else s.sequenced n (fun q => (q.addToken token.toNat inc.toNat).1)))

/-- WAITT: wait until the counter holds the count, then subtract it (R327). Run-ahead stops before it (R113). -/
def execWaitt (n : Nat) (token : BitVec 5) (count : BitVec 16) (s : State) : Host.Outcome State Fault Refusal :=
  .next (s.sequence n (.waitt n token count) (fun st _ _ =>
    let v := st.seq.tokens.getD token.toNat 0
    if st.seq.ahead || decide (v < count.toNat) then s
    else s.sequenced n (fun q => { q with tokens := setAt q.tokens token.toNat (v - count.toNat) })))

/-- What a stage does with a remote signal (R328). -/
inductive SignalUse where
  | apply
  | hold
  | discard
  deriving DecidableEq, Repr

/-- A remote signal by its frame and take (R328): the current take applies it, the next take or frame holds it, and
every other is discarded. A stage that skips the frame absorbs it, save where its idle count has run out and it is about
to begin; one that runs ahead has left the current frame. -/
def signalUse (st : Stage) (c : Ctx) (frameLow : BitVec 16) (take : BitVec 4) : SignalUse :=
  let next : BitVec 48 := if c.inFrame then c.frame + 1 else c.frame
  if c.inFrame && decide (frameLow = c.frame.truncate 16) && decide (take = c.take) then
    (if st.skipping then (if st.idle = 0 then .hold else .discard) else if st.seq.ahead then .discard else .apply)
  else if c.inFrame && decide (frameLow = c.frame.truncate 16) && decide (take = c.take + 1) then
    (if st.skipping then .discard else .hold)
  else if decide (frameLow = next.truncate 16) && decide (take = 0) then .hold
  else .discard

/-- What a stage does with a token signal that its tap delivers (R328). -/
def State.takeSignal (s : State) (n : Nat) (token : BitVec 5) (inc frameLow : BitVec 16) (take : BitVec 4) : State :=
  match s.stage n, s.ctxOf n with
  | some st, some (_, c) =>
    if !st.clocked || c.ended.isSome || c.endDue.isSome then s
    else
      match signalUse st c frameLow take with
      | .discard => s
      | .hold =>
        s.putStage n { st with seq := { st.seq with
          held := st.seq.held ++ [{ token := token.toNat, inc := inc.toNat, frame := frameLow, take := take }] } }
      | .apply =>
        let r := st.seq.addToken token.toNat inc.toNat
        if r.2 then s.failStageCtx n 0x16 else s.putStage n { st with seq := r.1 }
  | _, _ => s

/-- TOKEN_SIGNAL_ARRIVAL: a remote signal that the South block has relayed leaves its target's spine (R326, R328, R432). A
stage that is not lit or dark absorbs it, and one of another context epoch is discarded (R437, R492). -/
def execTokenSignalArrival (n : Nat) (token : BitVec 5) (inc frameLow : BitVec 16) (take : BitVec 4) (s : State) :
    Host.Outcome State Fault Refusal :=
  match takeFlit (colOf n) true n (fun f => f.cls = 0 && f.op = 2 && f.arg = tokenArg token inc frameLow take) []
      s.spineOut with
  | none => .next s
  | some (f, rest) =>
    let s1 : State := { s with spineOut := rest }
    if s1.staleFlit f then .next s1 else .next (s1.takeSignal n token inc frameLow take)

/-! ### Splice shots -/

/-- The beats of a range of lines: 256 bytes are four lines (R324). -/
def beatsOf (count v : Nat) : List (BitVec 2048) :=
  (List.range count).map (fun i => BitVec.ofNat 2048 (v / 2 ^ (2048 * i)))

/-- The plan of SEND and RECV (R305, R324). -/
def splicePlan (f : SpliceFields) (send : Bool) (q : Seq) (g : Nat) : Option Plan :=
  (q.range g f.reg f.xa (4 * f.beats.toNat)).map (fun r =>
    { dest := .splice (Side.ofCode f.side.toNat), reads := if send then [r] else [], writes := if send then [] else [r]
      checked := false, beats := f.beats.toNat })

/-- A splice shot names a side inside its partition (R325: the load check has seen to it). -/
def State.spliceShotOk (s : State) (n : Nat) (f : SpliceFields) : Bool :=
  match s.ctxOf n with
  | none => false
  | some (p, _) => (s.innerSides n p).contains (Side.ofCode f.side.toNat)

/-- A stage runs ahead: a shot of R113 waits for its tick. -/
def State.runsAhead (s : State) (n : Nat) : Bool :=
  match s.stage n with
  | none => false
  | some st => st.seq.ahead

/-- SEND: the beats of a slot are queued for their side (R324). -/
def execSend (n : Nat) (f : SpliceFields) (s : State) : Host.Outcome State Fault Refusal :=
  if s.runsAhead n || !s.spliceShotOk n f then .next s
  else
    .next (s.issueTo n (.send n f) (splicePlan f true) (fun q c st _ =>
      (q.range (c.stagingOf n) f.reg f.xa (4 * f.beats.toNat)).map (fun r =>
        { (st.modLink (Side.ofCode f.side.toNat) (fun l =>
            { l with unacked := l.unacked ++ beatsOf f.beats.toNat (st.readRange r) })) with
          seq := { st.seq with spliced := true } })))

/-- The four lines of a beat (R324). -/
def beatLines (b : BitVec 2048) : List Line := linesOf 4 b.toNat

/-- The first shot of a side's queue that is not complete, when it is a RECV (R324: slots are carried in ascending
order). -/
def Stage.receiving (st : Stage) (side : Side) : Option (Flight × LineRange) :=
  match st.flights.find? (fun f => f.dest = .splice side && decide (0 < f.left)) with
  | none => none
  | some f => match f.writes with
    | [r] => some (f, r)
    | _ => none

/-- Drain one beat of a landing buffer into the bank of the RECV that takes it (R324, R428); none when the journal is
full (R118). -/
def Stage.drainBeat (st : Stage) (side : Side) (f : Flight) (r : LineRange) (b : BitVec 2048)
    (rest : List (BitVec 2048)) : Option Stage :=
  let at_ : LineRange := { bank := r.bank, first := r.first + (r.count - 4 * f.left), count := 4 }
  (st.writeRange false at_ (beatLines b)).map (fun st1 =>
    { (st1.putLand side rest) with
      flights := st1.flights.map (fun x => if x.no = f.no then { x with left := x.left - 1 } else x) })

/-- Drain a landing buffer while a RECV takes its beats; `fuel` bounds the beats. -/
def State.drainSide (s : State) (n : Nat) (side : Side) : Nat → State
  | 0 => s
  | fuel + 1 =>
    match s.stage n with
    | none => s
    | some st =>
      match st.land side, st.receiving side with
      | b :: rest, some (f, r) =>
        match st.drainBeat side f r b rest with
        | none => s.journalFull n (.splice side) f.index false
        | some st1 => (s.putStage n st1).drainSide n side fuel
      | _, _ => s

/-- Drain what a landing buffer holds. -/
def State.drainRecv (s : State) (n : Nat) (side : Side) : State :=
  match s.stage n with
  | none => s
  | some st => s.drainSide n side (st.land side).length

/-- RECV: the beats of a slot go from the landing buffer into bank lines (R324, R428). -/
def execRecv (n : Nat) (f : SpliceFields) (s : State) : Host.Outcome State Fault Refusal :=
  if s.runsAhead n || !s.spliceShotOk n f then .next s
  else
    .next ((s.issueTo n (.recv n f) (splicePlan f false) (fun _ _ st _ =>
      some { st with seq := { st.seq with spliced := true } })).drainRecv n (Side.ofCode f.side.toNat))

/-! ### Output commit -/

/-- The output entry that a COMMIT names, with its declaration; none when the map does not hold it for this stage
(R329, R379). -/
def commitEntry (n : Nat) (entry : BitVec 12) (xe : Bool) (q : Seq) (c : Ctx) : Option (Nat × OutEntry) :=
  let e := entry.toNat + (if xe then q.iter else 0)
  match c.outEntry e with
  | none => none
  | some o => if c.offsets n = (o.row, o.col) then some (e, o) else none

/-- The parity of a frame (R111). -/
def parityOf (frame : BitVec 48) : Nat := frame.toNat % 2

/-- The first line of the staging slot of a parity (R377). -/
def slotLine (g p : Nat) : Nat := 65536 - (2 - p) * g

/-- Stage an output: the later COMMIT of an entry stands (R329), and its lines go to the slot without journal entries
(R377). -/
def Stage.stageOutput (st : Stage) (g : Nat) (e : Nat) (o : OutEntry) (parity : Nat) (ls : List Line) : Stage :=
  { st with
    staged := st.staged.filter (fun x => x.entry ≠ e) ++ [{ entry := e, parity := parity, lines := ls }]
    scratch := cellSetList st.scratch (lineKey (st.physBank 47) (slotLine g parity + o.offset))
      (ls.flatMap lineBytes) }

/-- COMMIT: the shot of an output entry enters the commit queue (R305, R329); its copy is made as it retires, since the
interlock of R307 keeps its lines until then (R111). Run-ahead stops before it (R113). No entry is judged at run time: the
load check has seen to it (R329). -/
def execCommit (n : Nat) (entry : BitVec 12) (reg : BitVec 4) (xa xe : Bool) (s : State) :
    Host.Outcome State Fault Refusal :=
  match s.issuer n with
  | none => .next s
  | some (st, _, c) =>
    match commitEntry n entry xe st.seq c with
    | none => .next s
    | some (e, o) =>
      if st.seq.ahead then .next s
      else
        .next (s.issueTo n (.commit n entry reg xa xe)
          (fun q g => (q.range g reg xa o.lines).map (fun r =>
            { dest := .commit, reads := [r], writes := [], checked := false, beats := 0
              slot := some (e, c.outPort o) }))
          (fun _ _ st _ => some st))

/-! ### Retiring -/

/-- The oldest shot of its queue (R299, R324). -/
def Stage.oldest (st : Stage) (f : Flight) : Bool :=
  st.flights.all (fun x => x.dest ≠ f.dest || decide (f.no ≤ x.no))

/-- A shot leaves its queue; an engine's shots-retired counter rises (R305, R484). -/
def Stage.retireShot (st : Stage) (f : Flight) : Stage :=
  { st with
    flights := st.flights.filter (fun x => x.no ≠ f.no)
    retired := match f.dest with
      | .engine e => modAt st.retired e (fun k => k + 1)
      | _ => st.retired }

/-- A COMMIT waits for the host writes released from its staging slot at the commit of frame k - 2 (R111).
DESIGN CHOICE (log entry 47): where a slot holds entries of both host ports, it waits for the writes of its own entry's
port; the rule says "the host port" and does not say which. -/
def State.slotBusy (s : State) (n : Nat) (f : Flight) : Bool :=
  match f.slot, s.ctxOf n with
  | some (_, q), some (_, c) =>
    c.outs.any (fun o => decide (o.1 = n) && decide (o.2.1 = q) && decide (o.2.2 % 2 = parityOf c.frame))
  | _, _ => false

/-- What a retiring COMMIT leaves: the lines of its entry in the staging slot of the frame's parity (R329). -/
def Stage.copyOut (st : Stage) (n : Nat) (c : Ctx) (f : Flight) : Stage :=
  match f.slot, f.reads with
  | some (e, _), [r] => match c.outEntry e with
    | none => st
    | some o => st.stageOutput (c.stagingOf n) e o (parityOf c.frame) (linesOf o.lines (st.readRange r))
  | _, _ => st

/-- SHOT_RETIRE: the oldest shot of a queue has its effect complete (R308); a COMMIT waits for its staging slot, and then
copies its lines (R111, R329). A
residue mismatch of a checked shot is a detected error of the engine, and the shot does not retire (R333 to R335). -/
def execShotRetire (n seqNo : Nat) (residueOk : Bool) (s : State) : Host.Outcome State Fault Refusal :=
  match s.stage n with
  | none => .next s
  | some st =>
    match st.flights.find? (fun f => f.no = seqNo) with
    | none => .next s
    | some f =>
      if !s.live || !st.clocked || !st.oldest f || decide (0 < f.left) || s.slotBusy n f then .next s
      else if f.checked && !residueOk then
        let e := f.dest.engineCode
        .next (s.detect { stageErr 0x01 n (some (.engine n (st.engineMap.getD e e))) with
          engine := e, shot := f.index, ahead := f.ahead })
      else
        let st1 := match s.ctxOf n with
          | none => st
          | some (_, c) => st.copyOut n c f
        .next (s.putStage n (st1.retireShot f))

end Sys2Proof.Machine
end

