-- ==== Sys2Proof/Machine/Splice.lean ====
section
/-! DEFINITION. Splices: realignment, beats, acknowledgement and replay, the lane test, sparing and trim
(spec/06_splices.md R193 to R213, R221 to R223, spec/14_faults.md R479). -/

namespace Sys2Proof.Machine

open Sys2Proof

/-! ### Beats -/

/-- A control beat's fields (Table 6.1). -/
structure Control where
  ack      : BitVec 7
  nak      : Bool
  mapSwitch : Nat
  gen      : BitVec 8
  reserved : Bool
  deriving DecidableEq, Repr

/-- The fields of a control beat. -/
def controlOf (data : BitVec 2048) : Control :=
  let v := data.toNat
  { ack := BitVec.ofNat 7 v, nak := decide (bitsOf v 7 1 = 1), mapSwitch := bitsOf v 32 2
    gen := BitVec.ofNat 8 (bitsOf v 34 8), reserved := decide (v / 2 ^ 42 ≠ 0) }

/-- The data of a control beat with these fields: zero credits and zero reserved bits (Table 6.1). -/
def controlData (c : Control) : BitVec 2048 :=
  BitVec.ofNat 2048 (c.ack.toNat + c.nak.toNat * 2 ^ 7 + c.mapSwitch * 2 ^ 32 + c.gen.toNat * 2 ^ 34)

/-- The control beat that an end sends (R196, R198, R222): what it expects next on the direction it reads, whether a check
error is outstanding there, and the map switch it answers or asks for. -/
def Link.controlBeat (l : Link) : BitVec 2048 :=
  let m : Nat × BitVec 8 := match l.mapAns, l.mapReq with
    | some g, _ => (2, g)
    | none, some (g, _) => (1, g)
    | none, none => (0, 0)
  controlData { ack := l.rxSeq, nak := l.nak, mapSwitch := m.1, gen := m.2, reserved := false }

/-- The payload beat that an end sends next (R197, R199): none at a beat position whose count modulo 16 is 15, with a replay due,
with a map switch asked for (R222), or with nothing to send. What a replay has to send again goes first; a new beat is not
sent while 64 are unacknowledged. -/
def Link.nextPayload (l : Link) : Option (BitVec 2048) :=
  if l.pos = 15 || l.replay || l.mapReq.isSome || (decide (l.again = 0) && decide (64 ≤ l.sent)) then none
  else l.unacked[l.sent - l.again]?

/-- The sequence number of the next payload beat that an end sends (R195). -/
def Link.nextSeq (l : Link) : BitVec 7 := l.txSeq + BitVec.ofNat 7 (l.sent - l.again)

/-- The next beat of an end with its check bits (R195, R197). -/
def Link.nextBeat (l : Link) : BitVec 2048 × BitVec 64 :=
  match l.nextPayload with
  | some d => (d, crc8Check d (beatSeed l.nextSeq false))
  | none => (l.controlBeat, crc8Check l.controlBeat (beatSeed l.nextSeq true))

/-- An end has sent its next beat: its write pointer and its beat position move on; an answer to a map switch is given. -/
def Link.wrote (l : Link) : Link :=
  { l with
    wptr := l.wptr + 1, pos := l.pos + 1
    sent := if l.nextPayload.isSome && decide (l.again = 0) then l.sent + 1 else l.sent
    again := if l.nextPayload.isSome then l.again - 1 else l.again
    mapAns := if l.nextPayload.isSome then l.mapAns else none }

/-- A beat enters a receive FIFO, changed in the bits that the wires flip (R194). -/
def Link.receive (l : Link) (b : BitVec 2048 × BitVec 64) (flips : BitVec 2048) (checkFlips : BitVec 64) : Link :=
  { l with fifo := l.fifo ++ [(b.1 ^^^ flips, b.2 ^^^ checkFlips)] }

/-- A splice check error is counted and nak is set (R196). Each beat that matches neither seed counts, also while an
earlier error is outstanding (log entry 23). -/
def Link.checkError (l : Link) : Link := { l with nak := true, errAge := 0 :: l.errAge }

/-- An end takes the oldest entry of its FIFO: its read pointer moves on, and the check errors counted grow one beat older
(R194, R200). -/
def Link.take (l : Link) : Link :=
  { l with
    fifo := l.fifo.drop 1, rptr := l.rptr + 1, errAge := (l.errAge.map (fun a => a + 1)).filter (fun a => a < 1024) }

/-- Acknowledged beats leave the SEND shots of a side, oldest first (R199, R324). -/
def ackFlights (side : Side) : Nat → List Flight → List Flight
  | _, [] => []
  | k, f :: fs =>
    if f.dest = .splice side ∧ f.writes = [] then
      let d := if k ≤ f.left then k else f.left
      { f with left := f.left - d } :: ackFlights side (k - d) fs
    else f :: ackFlights side k fs

/-- The beats that an acknowledgement covers (R198): those sent; any other value acknowledges nothing. -/
def Link.acked (l : Link) (ack : BitVec 7) : Nat :=
  let k := (ack - l.txSeq).toNat
  if k ≤ l.sent then k else 0

/-- What an end does with the acknowledgement and the nak of a control beat (R198, R199). DESIGN CHOICE (log entry 48): a
nak while beats are sent asks for a replay, also when one has just been made, and each replay counts as a failed send of
R200. -/
def Link.acknowledge (l : Link) (k : Nat) (nak : Bool) : Link :=
  { l with
    unacked := l.unacked.drop k, txSeq := l.txSeq + BitVec.ofNat 7 k, sent := l.sent - k, again := if l.again ≤ l.sent - k then l.again else l.sent - k
    failRun := if k = 0 then l.failRun else 0, replay := nak && decide (0 < l.sent - k) }

/-- What an end does with a map switch (R222): asked to, it reads with the partner's new map from the first such beat on and
answers; answered, it writes with its new map and sends again from the acknowledged sequence number. -/
def Link.switchMap (l : Link) (c : Control) (asked : Option (BitVec 8 × List (Nat × Nat))) : Link :=
  if c.mapSwitch = 1 then
    match asked with
    | none => l
    | some (g, m) =>
      if g ≠ c.gen then l
      else { l with
        rxMap := if l.rxGen = g then l.rxMap else m, rxGen := g, mapAns := some g }
  else if c.mapSwitch = 2 then
    match l.mapReq with
    | none => l
    | some (g, m) => if g = c.gen then { l with txMap := m, txGen := g, mapReq := none, again := l.sent } else l
  else l

/-- An end makes clock edges: a lit stage's that is not halted, or an edge block's, whose strobe runs while the module is
out of reset (R178, R194, R213). -/
def State.edgesAt (s : State) (e : End) : Bool :=
  if e.edge then !s.inReset
  else match s.stage e.stage with
    | none => false
    | some st => st.st = .lit && !st.clock.halted

/-- One end of a splice has restarted for a retake and the other has not: no beat of the rolled-back take may pass (R122). -/
def State.halfRestarted (s : State) (r : End) : Bool :=
  match s.ctxOf r.stage, neighbour r.stage r.side with
  | some (p, c), some m => match c.rollback with
    | none => false
    | some rb => rb.both && (s.innerSides r.stage p).contains r.side
        && (rb.aborted.contains r.stage != rb.aborted.contains m)
  | _, _ => false

/-- A direction carries beats, named by the end that reads it: both ends are open, and no restart stands between them (R46,
R122, R202). -/
def State.directionOpen (s : State) (r : End) : Bool :=
  match s.endLink r, s.endLink r.across with
  | some a, some b => a.carries && b.carries && !s.inReset && !s.halfRestarted r
  | _, _ => false

/-- Count a beat at a stage's end (R272). -/
def State.countBeat (s : State) (e : End) : State :=
  if e.edge then s else s.modStage e.stage (fun st => { st with work := { st.work with beats := st.work.beats + 1 } })

/-- The writer of a direction sends its next beat, unless the reader's FIFO holds 16 entries: then it holds (R194, R209). -/
def State.writeBeat (s : State) (r : End) (flips : BitVec 2048) (checkFlips : BitVec 64) : State :=
  match s.endLink r, s.endLink r.across with
  | some l, some w =>
    if 16 ≤ l.fifo.length then s
    else
      let s1 : State := (s.modEnd r (fun l => l.receive w.nextBeat flips checkFlips)).modEnd r.across Link.wrote
      if w.nextPayload.isSome then s1.countBeat r.across else s1
  | _, _ => s

/-- The reader acts on a control beat (R198, R199, R222); beats acknowledged leave the SEND shots of the side. -/
def State.takeControl (s : State) (r : End) (l : Link) (c : Control) : State :=
  let k := l.acked c.ack
  let asked := (s.endLink r.across).bind Link.mapReq
  let s1 : State := s.modEnd r (fun l => (l.acknowledge k c.nak).switchMap c asked)
  if r.edge then s1
  else s1.modStage r.stage (fun st => { st with flights := ackFlights r.side k st.flights })

/-- A stage keeps no beat it takes: it is in no partition, or it has stopped for a cut (R490, R492). -/
def State.dropsBeats (s : State) (n : Nat) : Bool :=
  match s.ctxOf n with
  | none => true
  | some (_, c) => match c.cut with
    | none => false
    | some k => k.told.contains n

/-- The reader takes payload beat e: its stage moves it to the landing buffer, which RECV shots drain (R196, R428). -/
def State.takePayload (s : State) (r : End) (data : BitVec 2048) : State :=
  let s1 : State := (s.modEnd r (fun l => { l with rxSeq := l.rxSeq + 1, nak := false })).countBeat r
  if r.edge || s1.dropsBeats r.stage then s1
  else
    let s2 : State := s1.modStage r.stage (fun st => st.putLand r.side (st.land r.side ++ [data]))
    match s2.stage r.stage with
    | none => s2
    | some st => if s2.live && !st.stopped then s2.drainRecv r.stage r.side else s2

/-- The reader of a direction takes the oldest entry of its FIFO, or waits where there is none (R209). It checks the entry
as payload and as control beat, or counts a check error (R195, R196). -/
def State.readBeat (s : State) (r : End) : State :=
  match s.endLink r with
  | none => s
  | some l =>
    match l.fifo with
    | [] => s
    | (data, check) :: _ =>
      let s1 : State := s.modEnd r Link.take
      if check = crc8Check data (beatSeed l.rxSeq false) then s1.takePayload r data
      else if check = crc8Check data (beatSeed l.rxSeq true) then
        let c := controlOf data
        if c.reserved || decide (c.mapSwitch = 3) then s1.modEnd r Link.checkError else s1.takeControl r l c
      else s1.modEnd r Link.checkError

/-- One edge of each end of a direction: the writer sends a beat and the reader takes one, each only where its clock makes
edges (R194, R209). -/
def State.beat (s : State) (r : End) (flips : BitVec 2048) (checkFlips : BitVec 64) : State :=
  if s.directionOpen r then
    let s1 : State := if s.edgesAt r.across then s.writeBeat r flips checkFlips else s
    if s1.edgesAt r then s1.readBeat r else s1
  else s

/-- SPLICE_BEAT_RECEIVED: the writer across sends its next beat, which the wires may change in some bits, and the reader of
the direction takes the oldest beat it holds (R194 to R199, R209). `edge` names the edge block's end of a boundary
splice (R213). -/
def execSpliceBeatReceived (n : Nat) (side : Side) (edge : Bool) (flips : BitVec 2048) (checkFlips : BitVec 64)
    (s : State) : Host.Outcome State Fault Refusal :=
  .next (s.beat { stage := n, side := side, edge := edge } flips checkFlips)

/-- SPLICE_NAK_REPLAY: a writer whose reader has set nak sends every unacknowledged payload beat again, in order (R199);
replays in a row without an acknowledgement are counted (R200). -/
def execSpliceNakReplay (n : Nat) (side : Side) (edge : Bool) (s : State) : Host.Outcome State Fault Refusal :=
  let e : End := { stage := n, side := side, edge := edge }
  match s.endLink e with
  | none => .next s
  | some l =>
    if l.replay && l.carries then
      .next (s.modEnd e (fun l => { l with replay := false, again := l.sent, failRun := l.failRun + 1 }))
    else .next s

/-! ### Aligned mode -/

/-- The reader takes entries while the writer holds, until one is left (R210). -/
def State.drainTo1 (s : State) (r : End) : Nat → State
  | 0 => s
  | fuel + 1 =>
    match s.endLink r with
    | none => s
    | some l => if 1 < l.fifo.length then (s.readBeat r).drainTo1 r fuel else s

/-- One direction realigns: the writer holds for m - 1 edges, and one entry is left between the two ends (R203, R210). -/
def State.realignSide (s : State) (r : End) : State :=
  let s1 : State := s.drainTo1 r 16
  match s1.endLink r with
  | none => s1
  | some l => if l.fifo.isEmpty then s1.writeBeat r 0 0 else s1

/-- SPLICE_REALIGN: with the conditions of aligned mode met, the writers hold until one entry lies between the pointers of
each direction, and both ends switch to aligned mode (R202, R203, R210). -/
def execSpliceRealign (n : Nat) (side : Side) (s : State) : Host.Outcome State Fault Refusal :=
  let e : End := { stage := n, side := side, edge := false }
  if s.alignable n side && s.edgesAt e && s.edgesAt e.across && s.directionOpen e then
    let s1 : State := (s.realignSide e).realignSide e.across
    .next (s1.modSplice e (fun l => { l with aligned := true }))
  else .next s

/-! ### The lane test -/

/-- Sends of the oldest payload beat in a row that failed: those replayed, and the last one when a nak waits
(R200). -/
def Link.failedSends (l : Link) : Nat := l.failRun + l.replay.toNat

/-- SPLICE_LANE_TEST_THRESHOLD: one beat failed on 4 consecutive sends, or its reader counted 16 check errors within 1,024
beats; both directions of the splice pause for the lane test (R200). The direction is named by the end that reads it. -/
def execSpliceLaneTestThreshold (n : Nat) (side : Side) (edge : Bool) (s : State) : Host.Outcome State Fault Refusal :=
  let r : End := { stage := n, side := side, edge := edge }
  match s.endLink r, s.endLink r.across with
  | some l, some w =>
    if !s.inReset && !l.paused && !l.failed && (decide (16 ≤ l.errAge.length) || decide (4 ≤ w.failedSends)) then
      let u : UnitId := .spliceDir n side (!edge)
      let s1 : State := s.modSplice r (fun l => { l with paused := true, aligned := false })
      .next ((s1.errorEvent (stageErr 0x0A n (some u)) 0x03 0).noteError (some u) 0x0A .tick)
    else .next s
  | _, _ => .next s

/-- The names that a direction has as a unit: by its writer, and by its reader (Table 12.16). -/
def directionUnits (w : End) : List UnitId :=
  let r := w.across
  (if w.edge then [] else [.spliceDir w.stage w.side false]) ++ (if r.edge then [] else [.spliceDir r.stage r.side true])

/-- The lane test that has found failing lanes on a direction, named by its writer (R222, R479). -/
def State.laneTest (s : State) (w : End) : Option Test :=
  s.tests.find? (fun t => t.running && (directionUnits w).contains t.unit)

/-- The stage that a direction's unit names. -/
def unitStageD (u : UnitId) : Nat := (unitStage u).getD 0

/-- The map switch of a direction in one go (R222): the writer asks, the reader switches and answers, and the writer goes on
in the new map with what is not acknowledged. -/
def State.exchangeMap (s : State) (w : End) (g : BitVec 8) (m : List (Nat × Nat)) : State :=
  (s.modEnd w (fun l => { l with txMap := m, txGen := g, mapReq := none, again := l.sent })).modEnd w.across
    (fun l => { l with rxMap := m, rxGen := g, mapAns := none })

/-- SPLICE_MAP_SWITCH: the writer of a paused splice takes its direction's failed lanes off its map, each moved to a free
spare of its window, and the two ends switch to the new map; where one of them makes no edges the switch stays asked for in
the control beats (R221, R222). The lanes are those the lane test found, and they are retired (R461, R479). -/
def execSpliceMapSwitch (n : Nat) (side : Side) (edge : Bool) (lanes : List (Nat × Nat)) (s : State) :
    Host.Outcome State Fault Refusal :=
  let w : End := { stage := n, side := side, edge := edge }
  match s.endLink w, s.laneTest w with
  | some l, some t =>
    match extendMap l.txMap lanes with
    | none => .next s
    | some m =>
      if !l.paused || lanes.map Prod.fst ≠ t.lanes then .next s
      else
        let g := l.txGen + 1
        let s1 : State := s.modSplice w (fun l => { l with paused := false, errAge := [], failRun := 0, replay := false })
        let s2 : State :=
          if s.edgesAt w && s.edgesAt w.across then s1.exchangeMap w g m
          else s1.modEnd w (fun l => { l with mapReq := some (g, m) })
        .next (lanes.foldl (fun v x => v.laneRetired t.unit (unitStageD t.unit) 0x0A m x) (s2.dropTest t.unit))
  | _, _ => .next s

/-- Failed lanes that the free spares of their windows can take, one after the other: any free spare of a window serves each
of its lanes (R221, R223). -/
def sparable : List (Nat × Nat) → List Nat → Bool
  | _, [] => true
  | m, lane :: t =>
    match openSpares m lane with
    | [] => false
    | x :: _ => sparable (m ++ [(lane, x)]) t

/-- SPLICE_FAILED: a failed lane has no free spare in its window, or both copies of the strobe or the notice have failed, and
the splice fails, retiring a stage (R223). -/
def execSpliceFailed (n : Nat) (side : Side) (edge : Bool) (s : State) : Host.Outcome State Fault Refusal :=
  let w : End := { stage := n, side := side, edge := edge }
  match s.endLink w, s.laneTest w with
  | some l, some t =>
    if l.paused && !l.failed && !sparable l.txMap t.lanes then
      .next ((s.dropTest t.unit).failSplice n side 0x02 0x0A)
    else .next s
  | _, _ => .next s

/-! ### Trim -/

/-- The nearest whole number of 2 ps steps to a lag; a tie goes up (R204; log entry 24). -/
def trimSteps (phi : Rat) : Int := (phi / 2 + 1 / 2).floor

/-- A lag lies within the residual bound of R205. -/
def within15 (phi : Rat) : Bool := decide (-15 ≤ phi) && decide (phi ≤ 15)

/-- The follower's line after an average (R204, R206): moved by the whole lag, confirmed, or tracked by one step; the
Bool tells that acquisition failed, and it is repeated from the next tick on. DESIGN CHOICE (log entry 45): the repeated
acquisition moves on from the setting that the line has. -/
def Link.average (l : Link) (phi : Rat) : Link × Bool :=
  match l.phase with
  | .reset =>
    let t : Int := (l.trim : Int) - 2 * trimSteps phi
    if t < 0 ∨ 126 < t then ({ l with trimWait := true }, true) else ({ l with trim := t.toNat, phase := .moved }, false)
  | .moved =>
    if within15 phi then ({ l with phase := .acquired, residual := phi }, false)
    else ({ l with phase := .reset, trimWait := true }, true)
  | .acquired =>
    let t := if 1 < phi ∧ 2 ≤ l.trim then l.trim - 2 else if phi < -1 ∧ l.trim + 2 ≤ 126 then l.trim + 2 else l.trim
    ({ l with trim := t, residual := phi, aligned := l.aligned && within15 phi }, false)

/-- Both stages of a splice run at one step with their edges aligned: where the interval channels measure (R204). -/
def State.measurable (s : State) (n m : Nat) : Bool :=
  match s.stage n, s.stage m with
  | some a, some b =>
    a.clocked && b.clocked && decide (a.clock.drive.step = b.clock.drive.step) && !a.clock.notice && !b.clock.notice
  | _, _ => false

/-- SPLICE_TRIM_AVERAGE: 64 valid measurements at the leader (`tL`) and the follower (`tF`) are averaged, and the follower
acquires or tracks its line (R204); an acquisition that fails raises an error event and is repeated (R206). -/
def execSpliceTrimAverage (n : Nat) (side : Side) (tL tF : Rat) (s : State) : Host.Outcome State Fault Refusal :=
  match neighbour n side with
  | none => .next s
  | some m =>
    let f := follower n m
    let d := if f = n then side else side.opposite
    match s.stage f with
    | none => .next s
    | some st =>
      if !s.measurable n m || (st.link d).elastic || (st.link d).failed || (st.link d).trimWait then .next s
      else
        let r := (st.link d).average ((tL - tF) / 2)
        let s1 : State := s.putStage f (st.modLink d (fun _ => r.1))
        if r.2 then
          let u : UnitId := .channel f d
          let e : ErrReport := { stageErr 0x0B f (some u) with xid := stageXid f 0xE d.code }
          .next ((s1.errorEvent e 0x00 0).noteError (some u) 0x0B .tick)
        else .next (s1.checkAligned f |>.checkAligned (if f = n then m else n))

end Sys2Proof.Machine
end

