-- ==== Sys2Proof/Machine/Thermal.lean ====
section
/-! DEFINITION. The coolant inputs, the temperature sensors and the stops they make (spec/08_gaffer.md R292 to
R298). -/

namespace Sys2Proof.Machine

open Sys2Proof

/-- An input has read low for 50 reference cycles: a latched coolant stop (R295 to R297). While RESET_N is asserted the low
level latches the stop in the same way, and nothing else is left to act on (R298). -/
def State.coolantLow (s : State) (input : Port) : State :=
  let s1 : State := { s with pins := match input with
    | .a => { s.pins with coolA := false }
    | .b => { s.pins with coolB := false } }
  if s1.pins.stop.isSome then s1
  else if !s1.pins.resetN then { s1 with pins := { s1.pins with stop := some false } }
  else if s1.inReset then s1
  else s1.stopModule false (leBytes 1 0 ++ leBytes 1 input.code ++ leBytes 1 0xFF ++ leBytes 1 0xFF)

/-- COOLANT_STOP: an input has read low for 50 reference cycles (R295, R298). -/
def execCoolantStop (input : Port) (s : State) : Host.Outcome State Fault Refusal := .next (s.coolantLow input)

/-- An input reads high again. -/
def State.coolantHigh (s : State) (input : Port) : State :=
  { s with pins := match input with
    | .a => { s.pins with coolA := true }
    | .b => { s.pins with coolB := true } }

/-- COOLANT_GLITCH: a low level that ended before 50 reference cycles is recorded and stops nothing; one of 50 or more has
made a stop (R295). -/
def execCoolantGlitch (input : Port) (cycles : BitVec 16) (s : State) : Host.Outcome State Fault Refusal :=
  if 50 ≤ cycles.toNat then .next ((s.coolantLow input).coolantHigh input)
  else if !s.pins.pwrGood then .next s
  else .next (s.log 0x06 (leBytes 1 input.code ++ leBytes 2 cycles.toNat))

/-- TEMPERATURE_READING: a sensor of a stage that is not retired is read, in reset too (R292, R298); out of reset a reading
at T_trip - 15 or more asserts THERM_WARN_N (R293), and two in a row at T_trip or more make a thermal stop (R294). -/
def execTemperatureReading (n sensor : Nat) (degC : Int) (s : State) : Host.Outcome State Fault Refusal :=
  match s.stage n with
  | none => .next s
  | some st =>
    if st.st = .retired || 4 ≤ sensor then .next s
    else
      let hot := decide (s.trip ≤ degC)
      let twice := hot && st.tempHot.getD sensor false
      let s1 : State := s.putStage n { st with
        temps := st.temps.set sensor degC, tempsOld := st.tempsOld.set sensor (st.temps.getD sensor 25)
        tempHot := st.tempHot.set sensor hot }
      if s.inReset then .next s1
      else
      let s2 : State := if s.trip - 15 ≤ degC then { s1 with pins := { s1.pins with thermWarn := true } } else s1
      if twice && s2.pins.stop.isNone then
        .next (s2.stopModule true (leBytes 1 1 ++ leBytes 1 0xFF ++ leBytes 1 n ++ leBytes 1 sensor
          ++ leBytes 2 (wrapBits 16 degC)))
      else .next s2

/-- THERM_WARN_DEASSERT: every sensor has read below T_trip - 18 for 1 ms (R293). -/
def execThermWarnDeassert (s : State) : Host.Outcome State Fault Refusal :=
  if s.sensorsBelow (s.trip - 18) then .next { s with pins := { s.pins with thermWarn := false } } else .next s

end Sys2Proof.Machine
end

