-- ==== Sys2Proof/Machine/Vector.lean ====
section
/-! DEFINITION. Vector shots (spec/09_engines_and_shots.md R302, R322, R334, R536, Table 9.6,
spec/10_number_formats.md R339, R349 to R351, R361). -/

namespace Sys2Proof.Machine

open Sys2Proof

/-- A vector shot on whole tiles: from the type's code and the elements of d, a and b, the results and whether they
are counted (R361: shots that only copy bits count nothing). -/
abbrev TileOp := Nat → List Nat → List Nat → List Nat → List ElemRes

/-- The plan of a vector shot: its tiles are in range (R316, R536). -/
def vecPlan (f : VecFields) (checked : Bool) (q : Seq) : Option Plan :=
  let w := isWide f.ty
  match q.tile f.d w f.x, q.tile f.a w f.x, q.tile f.b w f.x with
  | some _, some _, some _ => some { tilePlan f.engine checked with vector := some f.ty.toNat }
  | _, _, _ => none

/-- The effect of a vector shot: every source element is read before d is written (R322). -/
def vecEffect (f : VecFields) (counts : Bool) (op : TileOp) (q : Seq) : ShotEffect := fun st ahead =>
  let w := isWide f.ty
  let e := f.engine.toNat
  match q.tile f.d w f.x, q.tile f.a w f.x, q.tile f.b w f.x with
  | some d, some a, some b =>
    let rs := op (accCode f.ty) (st.tileElems e d w) (st.tileElems e a w) (st.tileElems e b w)
    let st1 : Stage := st.putTile e d w (rs.map ElemRes.bits)
    some (if counts then st1.count ahead rs else st1)
  | _, _, _ => none

/-- A vector multiplier's products are checked for the floating types (R334). -/
def mulChecked (f : VecFields) : Bool := f.ty ≠ 1

/-- Issue a vector shot. -/
def State.vector (s : State) (n : Nat) (i : Instr) (f : VecFields) (checked counts : Bool) (op : TileOp) : State :=
  s.issueTo n i (fun q _ => vecPlan f checked q) (fun q _ => vecEffect f counts op q)

/-- An operation of two sources, element by element. -/
def zipOp (g : Nat → Nat → Nat → ElemRes) : TileOp := fun code _ a b => List.zipWith (g code) a b

/-- An operation of one source, element by element. -/
def mapOp (g : Nat → Nat → ElemRes) : TileOp := fun code _ a _ => a.map (g code)

/-- VADD (R350, R351). -/
def execVadd (n : Nat) (f : VecFields) (s : State) : Host.Outcome State Fault Refusal :=
  .next (s.vector n (.vadd n f) f false true (zipOp addRes))

/-- VSUB (R350, R351). -/
def execVsub (n : Nat) (f : VecFields) (s : State) : Host.Outcome State Fault Refusal :=
  .next (s.vector n (.vsub n f) f false true (zipOp subRes))

/-- VMUL (R350, R351), its products checked (R334). -/
def execVmul (n : Nat) (f : VecFields) (s : State) : Host.Outcome State Fault Refusal :=
  .next (s.vector n (.vmul n f) f (mulChecked f) true (zipOp mulRes))

/-- A fused multiply-add of d with a and b, element by element. -/
def fmaOp : TileOp := fun code d a b => List.zipWith (fun x c => fmaRes code x.1 x.2 c) (a.zip b) d

/-- VFMA: d = a · b + d with one rounding (R350, R351), its products checked (R334). -/
def execVfma (n : Nat) (f : VecFields) (s : State) : Host.Outcome State Fault Refusal :=
  .next (s.vector n (.vfma n f) f (mulChecked f) true fmaOp)

/-- VDIV (R350). -/
def execVdiv (n : Nat) (f : VecFields) (s : State) : Host.Outcome State Fault Refusal :=
  .next (s.vector n (.vdiv n f) f false true (zipOp divRes))

/-- VSQRT (R350). -/
def execVsqrt (n : Nat) (f : VecFields) (s : State) : Host.Outcome State Fault Refusal :=
  .next (s.vector n (.vsqrt n f) f false true (mapOp sqrtRes))

/-- VMAX (R350, R351). -/
def execVmax (n : Nat) (f : VecFields) (s : State) : Host.Outcome State Fault Refusal :=
  .next (s.vector n (.vmax n f) f false true (zipOp (fun code a b => maxMinRes code a b true)))

/-- VMIN (R350, R351). -/
def execVmin (n : Nat) (f : VecFields) (s : State) : Host.Outcome State Fault Refusal :=
  .next (s.vector n (.vmin n f) f false true (zipOp (fun code a b => maxMinRes code a b false)))

/-- VABS: the sign bit cleared, or the int32 rule (R339, R350, R351). -/
def execVabs (n : Nat) (f : VecFields) (s : State) : Host.Outcome State Fault Refusal :=
  .next (s.vector n (.vabs n f) f false true (mapOp absRes))

/-- VNEG: the sign bit changed, or the int32 rule (R339, R350, R351). -/
def execVneg (n : Nat) (f : VecFields) (s : State) : Host.Outcome State Fault Refusal :=
  .next (s.vector n (.vneg n f) f false true (mapOp negRes))

/-- VRELU: VMAX with +0 (R350). -/
def execVrelu (n : Nat) (f : VecFields) (s : State) : Host.Outcome State Fault Refusal :=
  .next (s.vector n (.vrelu n f) f false true (mapOp (fun code a => maxMinRes code a 0 true)))

/-- VMOV: bits copied (R339, R350). -/
def execVmov (n : Nat) (f : VecFields) (s : State) : Host.Outcome State Fault Refusal :=
  .next (s.vector n (.vmov n f) f false false (mapOp (fun _ a => .plain a)))

/-- Row sums into column 0, zero elsewhere (Table 9.6, R322). -/
def rowSums : TileOp := fun code _ a _ =>
  (tileRows a).flatMap (fun xs => treeRes code xs :: List.replicate 31 (.plain 0))

/-- VRSUM (R322, R350, R351). -/
def execVrsum (n : Nat) (f : VecFields) (s : State) : Host.Outcome State Fault Refusal :=
  .next (s.vector n (.vrsum n f) f false true rowSums)

/-- Column sums into row 0, zero elsewhere (Table 9.6, R322). -/
def colSums : TileOp := fun code _ a _ =>
  (List.range 32).map (fun c => treeRes code ((List.range 16).map (fun r => a.getD (32 * r + c) 0)))
    ++ List.replicate 480 (.plain 0)

/-- VCSUM (R322, R350, R351). -/
def execVcsum (n : Nat) (f : VecFields) (s : State) : Host.Outcome State Fault Refusal :=
  .next (s.vector n (.vcsum n f) f false true colSums)

/-- An immediate vector shot as the vector shot on its tiles; it has no X bit (Table 9.5). -/
def immVec (f : VecImm) : VecFields := { engine := f.engine, d := f.d, a := f.a, b := f.a, ty := f.ty, x := false }

/-- VSCAL: a times the immediate (R322, R350, R351), its products checked (R334). -/
def execVscal (n : Nat) (f : VecImm) (s : State) : Host.Outcome State Fault Refusal :=
  .next (s.vector n (.vscal n f) (immVec f) (mulChecked (immVec f)) true
    (mapOp (fun code a => mulRes code a (immBits code f.imm.toNat))))

/-- VADDI: a plus the immediate (R322, R350, R351). -/
def execVaddi (n : Nat) (f : VecImm) (s : State) : Host.Outcome State Fault Refusal :=
  .next (s.vector n (.vaddi n f) (immVec f) false true
    (mapOp (fun code a => addRes code a (immBits code f.imm.toNat))))

/-- VFILL: the immediate in every element (R322, R339, R350). -/
def execVfill (n : Nat) (f : VecImm) (s : State) : Host.Outcome State Fault Refusal :=
  .next (s.vector n (.vfill n f) (immVec f) false false
    (mapOp (fun code _ => .plain (immBits code f.imm.toNat))))

end Sys2Proof.Machine
end

