-- ==== Sys2Proof/Machine/Dispatch.lean ====
section
/-! DEFINITION. One arm for each constructor of Instr: a direct call of its meaning. -/

namespace Sys2Proof.Machine

open Sys2Proof

def exec (i : Instr) (s : State) : Host.Outcome State Fault Refusal :=
  match i with
  | .powerGoodRise => Sys2Proof.Machine.execPowerGoodRise s
  | .powerGoodFall => Sys2Proof.Machine.execPowerGoodFall s
  | .resetAssert lowNs => Sys2Proof.Machine.execResetAssert lowNs s
  | .resetRelease coolGoodNs => Sys2Proof.Machine.execResetRelease coolGoodNs s
  | .referencePllLock => Sys2Proof.Machine.execReferencePllLock s
  | .referenceLockTimeout => Sys2Proof.Machine.execReferenceLockTimeout s
  | .referenceFault phasePs copyOk => Sys2Proof.Machine.execReferenceFault phasePs copyOk s
  | .supervisorMismatch output copyOk => Sys2Proof.Machine.execSupervisorMismatch output copyOk s
  | .strapRead mv => Sys2Proof.Machine.execStrapRead mv s
  | .meshTrimBoot ps => Sys2Proof.Machine.execMeshTrimBoot ps s
  | .meshTrimUpdate dir => Sys2Proof.Machine.execMeshTrimUpdate dir s
  | .carrierFlashBootRead bad => Sys2Proof.Machine.execCarrierFlashBootRead bad s
  | .dailiesBootCopy ok => Sys2Proof.Machine.execDailiesBootCopy ok s
  | .bootStageBist failing badLanes badRails => Sys2Proof.Machine.execBootStageBist failing badLanes badRails s
  | .bootEnd => Sys2Proof.Machine.execBootEnd s
  | .dailiesAreaErase => Sys2Proof.Machine.execDailiesAreaErase s
  | .slateRequest reqA reqB => Sys2Proof.Machine.execSlateRequest reqA reqB s
  | .slateRelease p => Sys2Proof.Machine.execSlateRelease p s
  | .slateHeartbeat p => Sys2Proof.Machine.execSlateHeartbeat p s
  | .slateRevocation => Sys2Proof.Machine.execSlateRevocation s
  | .slateReeligible p => Sys2Proof.Machine.execSlateReeligible p s
  | .capCodeAccept p code => Sys2Proof.Machine.execCapCodeAccept p code s
  | .capCrossingError p => Sys2Proof.Machine.execCapCrossingError p s
  | .cmdIdle p => Sys2Proof.Machine.execCmdIdle p s
  | .cmdCutAll p => Sys2Proof.Machine.execCmdCutAll p s
  | .cmdPark p => Sys2Proof.Machine.execCmdPark p s
  | .cmdUnpark p => Sys2Proof.Machine.execCmdUnpark p s
  | .cmdChipComputeReset p => Sys2Proof.Machine.execCmdChipComputeReset p s
  | .cmdDumpPowerCycle p saveOk copyOk => Sys2Proof.Machine.execCmdDumpPowerCycle p saveOk copyOk s
  | .cmdRediscipline p => Sys2Proof.Machine.execCmdRediscipline p s
  | .cmdCalibrateNow p => Sys2Proof.Machine.execCmdCalibrateNow p s
  | .cmdStrobeFall p => Sys2Proof.Machine.execCmdStrobeFall p s
  | .cmdCrossingError p => Sys2Proof.Machine.execCmdCrossingError p s
  | .coolantStop input => Sys2Proof.Machine.execCoolantStop input s
  | .coolantGlitch input cycles => Sys2Proof.Machine.execCoolantGlitch input cycles s
  | .temperatureReading n sensor degC => Sys2Proof.Machine.execTemperatureReading n sensor degC s
  | .thermWarnDeassert => Sys2Proof.Machine.execThermWarnDeassert s
  | .tick => Sys2Proof.Machine.execTick s
  | .commitCutoff => Sys2Proof.Machine.execCommitCutoff s
  | .idleCountExpiry n => Sys2Proof.Machine.execIdleCountExpiry n s
  | .unassignedCountExpiry n => Sys2Proof.Machine.execUnassignedCountExpiry n s
  | .stageRelease n => Sys2Proof.Machine.execStageRelease n s
  | .releaseComplete n saveOk => Sys2Proof.Machine.execReleaseComplete n saveOk s
  | .lightsOutHandshake n target noAck => Sys2Proof.Machine.execLightsOutHandshake n target noAck s
  | .lightsOutRequestReceived n side => Sys2Proof.Machine.execLightsOutRequestReceived n side s
  | .lightsOnHandshake n noAck => Sys2Proof.Machine.execLightsOnHandshake n noAck s
  | .lightsOnRequestReceived n side => Sys2Proof.Machine.execLightsOnRequestReceived n side s
  | .crossingTimeout xid => Sys2Proof.Machine.execCrossingTimeout xid s
  | .doubleSampleFailure xid => Sys2Proof.Machine.execDoubleSampleFailure xid s
  | .stagePowerUp n => Sys2Proof.Machine.execStagePowerUp n s
  | .stageReady n => Sys2Proof.Machine.execStageReady n s
  | .powerSwitchRampFailure n => Sys2Proof.Machine.execPowerSwitchRampFailure n s
  | .powerSwitchRetry n => Sys2Proof.Machine.execPowerSwitchRetry n s
  | .submit p word => Sys2Proof.Machine.execSubmit p word s
  | .submissionDescriptorFetched a b => Sys2Proof.Machine.execSubmissionDescriptorFetched a b s
  | .cutWord p word => Sys2Proof.Machine.execCutWord p word s
  | .bind p word => Sys2Proof.Machine.execBind p word s
  | .bindDescriptorFetched p f => Sys2Proof.Machine.execBindDescriptorFetched p f s
  | .consumed p word => Sys2Proof.Machine.execConsumed p word s
  | .unbind p word => Sys2Proof.Machine.execUnbind p word s
  | .mailboxWriteMalformed p offset => Sys2Proof.Machine.execMailboxWriteMalformed p offset s
  | .bar0WriteBeforeBootEnd p offset => Sys2Proof.Machine.execBar0WriteBeforeBootEnd p offset s
  | .hostPortReset p kind => Sys2Proof.Machine.execHostPortReset p kind s
  | .hostLinkError p kind => Sys2Proof.Machine.execHostLinkError p kind s
  | .hostPortReturn p => Sys2Proof.Machine.execHostPortReturn p s
  | .loadCheckStart => Sys2Proof.Machine.execLoadCheckStart s
  | .loadCheckReadComplete reel => Sys2Proof.Machine.execLoadCheckReadComplete reel s
  | .acceptanceStep => Sys2Proof.Machine.execAcceptanceStep s
  | .reelLoad part body segments => Sys2Proof.Machine.execReelLoad part body segments s
  | .reelLoadComplete part readError => Sys2Proof.Machine.execReelLoadComplete part readError s
  | .loadTimeout part => Sys2Proof.Machine.execLoadTimeout part s
  | .recordAtPortHead p => Sys2Proof.Machine.execRecordAtPortHead p s
  | .recordQueueDrop p units => Sys2Proof.Machine.execRecordQueueDrop p units s
  | .producerWordWrite p => Sys2Proof.Machine.execProducerWordWrite p s
  | .msixRecordVector p => Sys2Proof.Machine.execMsixRecordVector p s
  | .outputWritesComplete p part => Sys2Proof.Machine.execOutputWritesComplete p part s
  | .gafferUpdate => Sys2Proof.Machine.execGafferUpdate s
  | .capUnattainable => Sys2Proof.Machine.execCapUnattainable s
  | .issueLimitReceived n => Sys2Proof.Machine.execIssueLimitReceived n s
  | .senseSweep => Sys2Proof.Machine.execSenseSweep s
  | .senseSweepComplete readings monitors => Sys2Proof.Machine.execSenseSweepComplete readings monitors s
  | .gainClampOrSenseMissing x => Sys2Proof.Machine.execGainClampOrSenseMissing x s
  | .railRecheck x => Sys2Proof.Machine.execRailRecheck x s
  | .railRecheckComplete x data => Sys2Proof.Machine.execRailRecheckComplete x data s
  | .slackToVolts => Sys2Proof.Machine.execSlackToVolts s
  | .avsbusWriteFailed x => Sys2Proof.Machine.execAvsbusWriteFailed x s
  | .droopTrip n det delay ref edges => Sys2Proof.Machine.execDroopTrip n det delay ref edges s
  | .droopClear n det delay edges => Sys2Proof.Machine.execDroopClear n det delay edges s
  | .haltEnd n coreCycles => Sys2Proof.Machine.execHaltEnd n coreCycles s
  | .persistentDroop n => Sys2Proof.Machine.execPersistentDroop n s
  | .droopOverrunLimit n => Sys2Proof.Machine.execDroopOverrunLimit n s
  | .noticeAssert n => Sys2Proof.Machine.execNoticeAssert n s
  | .spliceRealign n side => Sys2Proof.Machine.execSpliceRealign n side s
  | .spliceBeatReceived n side edge flips checkFlips => Sys2Proof.Machine.execSpliceBeatReceived n side edge flips checkFlips s
  | .spliceNakReplay n side edge => Sys2Proof.Machine.execSpliceNakReplay n side edge s
  | .spliceLaneTestThreshold n side edge => Sys2Proof.Machine.execSpliceLaneTestThreshold n side edge s
  | .spliceMapSwitch n side edge lanes => Sys2Proof.Machine.execSpliceMapSwitch n side edge lanes s
  | .spliceFailed n side edge => Sys2Proof.Machine.execSpliceFailed n side edge s
  | .spliceTrimAverage n side tL tF => Sys2Proof.Machine.execSpliceTrimAverage n side tL tF s
  | .thinMargin n codes => Sys2Proof.Machine.execThinMargin n codes s
  | .coreRetuneLock n core => Sys2Proof.Machine.execCoreRetuneLock n core s
  | .coreLockLost n core => Sys2Proof.Machine.execCoreLockLost n core s
  | .fmaxDerate n => Sys2Proof.Machine.execFmaxDerate n s
  | .ledgerWrite ok => Sys2Proof.Machine.execLedgerWrite ok s
  | .stepAccepted part => Sys2Proof.Machine.execStepAccepted part s
  | .stepBroadcastReceived n => Sys2Proof.Machine.execStepBroadcastReceived n s
  | .shotRetire n seqNo residueOk => Sys2Proof.Machine.execShotRetire n seqNo residueOk s
  | .nop n => Sys2Proof.Machine.execNop n s
  | .runahead n => Sys2Proof.Machine.execRunahead n s
  | .runaheadStart n => Sys2Proof.Machine.execRunaheadStart n s
  | .eof n f slack => Sys2Proof.Machine.execEof n f slack s
  | .repeat_ n b countM1 stride => Sys2Proof.Machine.execRepeat n b countM1 stride s
  | .seta n reg bank line => Sys2Proof.Machine.execSeta n reg bank line s
  | .inca n reg delta => Sys2Proof.Machine.execInca n reg delta s
  | .step n code => Sys2Proof.Machine.execStep n code s
  | .trace n imm => Sys2Proof.Machine.execTrace n imm s
  | .mma n f => Sys2Proof.Machine.execMma n f s
  | .accld n f => Sys2Proof.Machine.execAccld n f s
  | .accst n f ofmt r x4 => Sys2Proof.Machine.execAccst n f ofmt r x4 s
  | .accadd n f => Sys2Proof.Machine.execAccadd n f s
  | .accz n engine first countM1 => Sys2Proof.Machine.execAccz n engine first countM1 s
  | .movb n engine sreg dreg lines xa xb => Sys2Proof.Machine.execMovb n engine sreg dreg lines xa xb s
  | .fillb n engine dreg lines pattern => Sys2Proof.Machine.execFillb n engine dreg lines pattern s
  | .cvtb n f => Sys2Proof.Machine.execCvtb n f s
  | .vadd n f => Sys2Proof.Machine.execVadd n f s
  | .vsub n f => Sys2Proof.Machine.execVsub n f s
  | .vmul n f => Sys2Proof.Machine.execVmul n f s
  | .vfma n f => Sys2Proof.Machine.execVfma n f s
  | .vdiv n f => Sys2Proof.Machine.execVdiv n f s
  | .vsqrt n f => Sys2Proof.Machine.execVsqrt n f s
  | .vmax n f => Sys2Proof.Machine.execVmax n f s
  | .vmin n f => Sys2Proof.Machine.execVmin n f s
  | .vabs n f => Sys2Proof.Machine.execVabs n f s
  | .vneg n f => Sys2Proof.Machine.execVneg n f s
  | .vrelu n f => Sys2Proof.Machine.execVrelu n f s
  | .vmov n f => Sys2Proof.Machine.execVmov n f s
  | .vrsum n f => Sys2Proof.Machine.execVrsum n f s
  | .vcsum n f => Sys2Proof.Machine.execVcsum n f s
  | .vscal n f => Sys2Proof.Machine.execVscal n f s
  | .vaddi n f => Sys2Proof.Machine.execVaddi n f s
  | .vfill n f => Sys2Proof.Machine.execVfill n f s
  | .send n f => Sys2Proof.Machine.execSend n f s
  | .recv n f => Sys2Proof.Machine.execRecv n f s
  | .sigt n row col token inc => Sys2Proof.Machine.execSigt n row col token inc s
  | .waitt n token count => Sys2Proof.Machine.execWaitt n token count s
  | .commit n entry reg xa xe => Sys2Proof.Machine.execCommit n entry reg xa xe s
  | .tokenSignalArrival n token inc frameLow take => Sys2Proof.Machine.execTokenSignalArrival n token inc frameLow take s
  | .scriptStoreUncorrectable n word bits => Sys2Proof.Machine.execScriptStoreUncorrectable n word bits s
  | .bankUncorrectable n phys line ahead restore => Sys2Proof.Machine.execBankUncorrectable n phys line ahead restore s
  | .prefetchSquashError n phys line => Sys2Proof.Machine.execPrefetchSquashError n phys line s
  | .columnDetector n phys sub col rows => Sys2Proof.Machine.execColumnDetector n phys sub col rows s
  | .cellTracker n phys sub row col => Sys2Proof.Machine.execCellTracker n phys sub row col s
  | .errorEventReceived e => Sys2Proof.Machine.execErrorEventReceived e s
  | .rollbackAbort n => Sys2Proof.Machine.execRollbackAbort n s
  | .rollbackComplete n => Sys2Proof.Machine.execRollbackComplete n s
  | .retakeLimit part => Sys2Proof.Machine.execRetakeLimit part s
  | .selfTestComplete unit result => Sys2Proof.Machine.execSelfTestComplete unit result s
  | .substitution unit => Sys2Proof.Machine.execSubstitution unit s
  | .substitutionCopyComplete unit => Sys2Proof.Machine.execSubstitutionCopyComplete unit s
  | .scriptBlockReload n block bytes => Sys2Proof.Machine.execScriptBlockReload n block bytes s
  | .hang part => Sys2Proof.Machine.execHang part s
  | .ringStall p => Sys2Proof.Machine.execRingStall p s
  | .cutAccept part src => Sys2Proof.Machine.execCutAccept part src s
  | .cutTick part => Sys2Proof.Machine.execCutTick part s
  | .cutNotice n => Sys2Proof.Machine.execCutNotice n s
  | .cutStopped n => Sys2Proof.Machine.execCutStopped n s
  | .cutComplete part saveOk => Sys2Proof.Machine.execCutComplete part saveOk s
  | .stageDump n reads => Sys2Proof.Machine.execStageDump n reads s
  | .escalationBoundExpiry level part => Sys2Proof.Machine.execEscalationBoundExpiry level part s
  | .engineReset part => Sys2Proof.Machine.execEngineReset part s
  | .partitionReset part saveOk => Sys2Proof.Machine.execPartitionReset part saveOk s
  | .chipComputeReset failing saveOk => Sys2Proof.Machine.execChipComputeReset failing saveOk s
  | .powerCycleRequest saveOk copyOk => Sys2Proof.Machine.execPowerCycleRequest saveOk copyOk s
  | .hourCount => Sys2Proof.Machine.execHourCount s
  | .bootCalibrationComplete hits => Sys2Proof.Machine.execBootCalibrationComplete hits s
  | .calibrationCollectionComplete hits => Sys2Proof.Machine.execCalibrationCollectionComplete hits s
  | .calibrationAbandon => Sys2Proof.Machine.execCalibrationAbandon s
  | .gateArm => Sys2Proof.Machine.execGateArm s
  | .intervalInputEdge input tap => Sys2Proof.Machine.execIntervalInputEdge input tap s
  | .measurementClose => Sys2Proof.Machine.execMeasurementClose s
  | .measurementTimeout => Sys2Proof.Machine.execMeasurementTimeout s
  | .ppsEdge falling widthNs back tap => Sys2Proof.Machine.execPpsEdge falling widthNs back tap s
  | .disciplineLock => Sys2Proof.Machine.execDisciplineLock s
  | .ppsOutlierLoss => Sys2Proof.Machine.execPpsOutlierLoss s
  | .ppsLoss => Sys2Proof.Machine.execPpsLoss s
  | .disciplineRangeExceeded => Sys2Proof.Machine.execDisciplineRangeExceeded s
  | .syncSend rp edge tap => Sys2Proof.Machine.execSyncSend rp edge tap s
  | .syncReceived rp sync follow edge tap reqEdge reqTap => Sys2Proof.Machine.execSyncReceived rp sync follow edge tap reqEdge reqTap s
  | .delayReqReceived rp frame edge tap => Sys2Proof.Machine.execDelayReqReceived rp frame edge tap s
  | .delayRespReceived rp frame => Sys2Proof.Machine.execDelayRespReceived rp frame s
  | .slaveAcquire => Sys2Proof.Machine.execSlaveAcquire s
  | .slaveLock => Sys2Proof.Machine.execSlaveLock s
  | .slaveHoldover => Sys2Proof.Machine.execSlaveHoldover s
  | .waferTimeStep => Sys2Proof.Machine.execWaferTimeStep s
  | .tickInEdge edge tap => Sys2Proof.Machine.execTickInEdge edge tap s
  | .statusFrameSend rp => Sys2Proof.Machine.execStatusFrameSend rp s
  | .statusFrameReceived rp frame => Sys2Proof.Machine.execStatusFrameReceived rp frame s
  | .ringFrameCrcFail rp frame => Sys2Proof.Machine.execRingFrameCrcFail rp frame s
  | .ringPortUp rp => Sys2Proof.Machine.execRingPortUp rp s
  | .ringLaneSuspect rp lane => Sys2Proof.Machine.execRingLaneSuspect rp lane s
  | .ringLaneTestComplete rp lane errors => Sys2Proof.Machine.execRingLaneTestComplete rp lane errors s
  | .ringMapExchange rp => Sys2Proof.Machine.execRingMapExchange rp s
  | .ringPortFailed rp => Sys2Proof.Machine.execRingPortFailed rp s
  | .spineFlitCrcFail col seg => Sys2Proof.Machine.execSpineFlitCrcFail col seg s
  | .spineSegmentFailed col seg => Sys2Proof.Machine.execSpineSegmentFailed col seg s
  | .spineFlitAtSink col seg header data => Sys2Proof.Machine.execSpineFlitAtSink col seg header data s
  | .rqToUnlitStage n header => Sys2Proof.Machine.execRqToUnlitStage n header s
  | .jtagExtest => Sys2Proof.Machine.execJtagExtest s
  | .jtagSamplePreload sampled loaded => Sys2Proof.Machine.execJtagSamplePreload sampled loaded s
  | .jtagIdcode => Sys2Proof.Machine.execJtagIdcode s
  | .jtagBypass opcode => Sys2Proof.Machine.execJtagBypass opcode s
  | .d3hotEntry p => Sys2Proof.Machine.execD3hotEntry p s
  | .ringPartnerLost rp => Sys2Proof.Machine.execRingPartnerLost rp s

end Sys2Proof.Machine
end

