-- ==== Sys2Proof/Machine/Step.lean ====
section
/-! DEFINITION. One step: take the command at the front of the queue and run it; on an empty queue the block
idles for one reference edge. -/

namespace Sys2Proof.Machine

open Sys2Proof

/-- The idle step: one reference edge adds 4 ns to wafer time once the module epoch is fixed (R225; log entry 7). -/
def idle (s : State) : State :=
  if s.time.epochFixed then s.advance (s.time.wafer + 1024) else s

/-- One step of the block: the command at the front of the queue runs on the state with the queue's rest. -/
def step (s : State) : Host.Outcome State Fault Refusal :=
  match s.pending with
  | [] => .next (idle s)
  | c :: rest => exec c { s with pending := rest }

/-- The state with the command that a word spells at the front of its queue; unchanged where it spells none. -/
def State.withFetchWord (s : State) (nbits w : Nat) : State :=
  match Sys2Proof.decodeTableWord nbits w with
  | none => s
  | some c => { s with pending := c :: s.pending }

end Sys2Proof.Machine
end

