-- ==== Sys2Proof/Safety.lean ====
section
/-! DEFINITION. The terms claims are stated in: a run that goes on, the invariant every step keeps, and what a statement
means by "only these parts may change". -/

namespace Sys2Proof.Machine

open Sys2Proof

/-- A run that meets neither a fault nor a refusal in `k` steps. -/
def SafeRun (k : Nat) (s : State) : Prop := ∃ t, Host.Core.run Sys2Proof.core k s = .next t

/-- A stage's sparse memories are in canonical form: scratchpad, accumulators, residues and script store. -/
def Stage.memWf (st : Stage) : Bool :=
  Memory.wf st.scratch && Memory.wf st.acc && Memory.wf st.resid && Memory.wf st.script

/-- A frequency correction within the range of R133, in ppb. -/
def inRange (y : Rat) : Prop := -2000 ≤ y ∧ y ≤ 2000

/-- The invariant that every step keeps: every memory is in canonical form; the block keeps its 96 stages, 8 partitions,
28 rails and segments, 16 submission slots and 40 edge-block ends (R15, R23, R38, R268, R403); the mesh trims are settings of R138; the frequency
correction stays within the range of R133; the hour count is below 24 (R234); the issue limit is 1 to 16 (R276). -/
structure State.Inv (s : State) : Prop where
  memory : ∀ st ∈ s.stages, st.memWf = true
  stages : s.stages.length = 96
  parts  : s.parts.length = 8
  rails  : s.rails.length = 28
  slots  : s.slots.length = 16
  edges  : s.edges.length = 40
  trims  : s.trims.length = 64 ∧ ∀ v ∈ s.trims, v ≤ 126 ∧ v % 2 = 0
  corr   : inRange s.time.corr
  prev   : inRange s.time.pps.prevCorr
  hour   : s.time.hourCount < 24
  limit  : 1 ≤ s.gaffer.limit ∧ s.gaffer.limit ≤ 16

/-- What every command leaves alone, whatever else it does: the queue, the module's serial and its signing key; and it
keeps the invariant. -/
structure State.Keeps (s t : State) : Prop where
  queue  : t.pending = s.pending
  serial : t.serial = s.serial
  key    : t.signKey = s.signKey
  inv    : s.Inv → t.Inv

/-- A state with the record queues, the dailies and the free-value counter of another: what forming records may
change. -/
def State.recordsOf (s t : State) : State :=
  { s with portA := t.portA, portB := t.portB, dailies := t.dailies, freeCtr := t.freeCtr }

/-- A state with the records and the pending tests and transient counts of another: what an error may change. -/
def State.errorsOf (s t : State) : State := { s.recordsOf t with tests := t.tests, transients := t.transients }

/-- A state with the records, tests, stages, splice ends of edge blocks, contexts, pins and flash of another: what a
retirement may change. -/
def State.retirementOf (s t : State) : State :=
  { s.errorsOf t with stages := t.stages, edges := t.edges, parts := t.parts, pins := t.pins, flash := t.flash }

/-- A stage with the splice ends of another, and with what R148 notes of its frame: what a move of a neighbour's clock or of
their rail's voltage may change in it. -/
def Stage.besideOf (st u : Stage) : Stage :=
  { st with
    linkN := u.linkN, linkE := u.linkE, linkS := u.linkS, linkW := u.linkW
    clock := { st.clock with marginOk := u.clock.marginOk } }

/-- A stage with the results of a vector shot in tile `d`, counted in the epoch of its work or not (R361, R362). -/
def Stage.vecPut (st : Stage) (f : VecFields) (d : Nat) (ahead counts : Bool) (rs : List ElemRes) : Stage :=
  let st1 := st.putTile f.engine.toNat d (isWide f.ty) (rs.map ElemRes.bits)
  if counts then st1.count ahead rs else st1

/-- The elements of a vector shot's source tile. -/
def Stage.vecIn (st : Stage) (f : VecFields) (a : Nat) : List Nat := st.tileElems f.engine.toNat a (isWide f.ty)

/-- A stage can issue, and a shot stands at its head of issue: the script word there encodes it, with every field in the
range that chapter 9 gives (R188, R305, R311). -/
def State.atHead (s : State) (n : Nat) (i : Instr) (st : Stage) (p : Nat) (c : Ctx) : Prop :=
  s.issuer n = some (st, p, c) ∧ st.head n i = .shot

/-- A vector shot stands at the head of issue of a stage and can take its effect: its tiles are in range and its queue has
room (R305, R316). -/
def State.vecReady (s : State) (n : Nat) (i : Instr) (f : VecFields) (st : Stage) (c : Ctx) (d a b : Nat) : Prop :=
  (∃ p, s.atHead n i st p c) ∧ st.seq.tile f.d (isWide f.ty) f.x = some d ∧
    st.seq.tile f.a (isWide f.ty) f.x = some a ∧ st.seq.tile f.b (isWide f.ty) f.x = some b ∧
    st.waits (tilePlan f.engine false) = false

/-- The state after a vector shot of stage `n` has put its results in tile `d`, counted or not, and has entered its engine's
queue, its products checked or not (R305, R334, R361). -/
def State.vecDone (s : State) (n : Nat) (f : VecFields) (st : Stage) (c : Ctx) (d : Nat) (checked counts : Bool)
    (rs : List ElemRes) : State :=
  s.putStage n ((st.vecPut f d (c.aheadWork st) counts rs).launch
    { tilePlan f.engine checked with vector := some f.ty.toNat } st.seq 0)

/-- A flit that the tap of stage `n` puts on its spine, towards the block that asked (R429, R432). -/
def tapFlit (n : Nat) (h : FlitHeader) (d : Option Line) : SpineOut :=
  { col := colOf n, north := decide (h.dst = northSite), header := flitBits h, data := d, crc := flitCrc (flitBits h) d }

/-- A lit stage of a context whose frame is in progress, with no rollback, end or recovery level under way. -/
def State.working (s : State) (n p : Nat) (st : Stage) (c : Ctx) : Prop :=
  s.stage n = some st ∧ s.ctxOf n = some (p, c) ∧ st.st = .lit ∧ c.inFrame = true ∧ c.rollback = none ∧
    c.ended = none ∧ c.endDue = none ∧ c.level = none

/-- The newest dailies entry is an error event with a body (R451, Table 15.9). -/
def State.toldError (s : State) (b : ErrBody) : Prop :=
  ∃ e, s.dailies.log.getLast? = some e ∧ e.kind = 0x01 ∧ e.payload = errBytes b

/-- The newest dailies entry of a state is the error event of a report made in `s`, with an action taken (R451). -/
def State.toldIn (s t : State) (e : ErrReport) (action : Nat) : Prop := t.toldError (s.errBody e action 0)

/-- The test of a unit is pending with one error of a kind joined (R452). -/
def State.pendingTest (s : State) (u : UnitId) (kind : Nat) : Prop :=
  ∃ k, s.testOf u = some k ∧ k.kinds = [kind] ∧ k.joined = 1

/-- A partition's context is at a recovery level with a trigger and a stage, its epoch one higher than before. -/
def State.atLevel3 (s : State) (p : Nat) (before : Ctx) (trigger stage : Nat) : Prop :=
  ∃ c l, s.ctx p = some c ∧ c.level = some l ∧ l.level = 3 ∧ l.trigger = trigger ∧ l.stage = stage ∧
    c.epoch = before.epoch + 1

/-- No stage runs and no context exists: what a shutdown, a stop or a power-down leaves. -/
def State.stilled (s : State) : Prop :=
  (∀ st ∈ s.stages, st.st = .unlit ∨ st.st = .retired) ∧ (∀ c ∈ s.parts, c = none)

end Sys2Proof.Machine
end

