-- ==== Sys2Proof/Certificates/Slice0/Obligations.lean ====
section
/-! DEFINITION. The statements for the provers: what each command of the block does, by the rules of spec/, and the
invariant that every step keeps. -/

open Sys2Proof Sys2Proof.Machine

/-! ### Power, reset and boot (chapters 2, 4, 7 and 16) -/

/-- POWER_GOOD_RISE (R518): with RESET_N asserted only PWR_GOOD is noted and the JTAG port is in Test-Logic-Reset; with
RESET_N released boot phase 1 begins, wafer time zero in every stage, unless a stop is latched or the module is failed or
awaits a power cycle. The reference domain is on the backup oscillator with REF_OUT low.

RESET_RELEASE (R298, R518): the inputs' high level is noted; a latched stop clears only after 1 ms of coolant with every
sensor below T_trip - 15 and PWR_GOOD high, and boot begins only with PWR_GOOD high and no stop latched, no failure and no
power cycle awaited. -/
def Obligations.PowerAndResetBeginBoot : Prop :=
  (∀ s : State, s.pins.pwrGood = false →
    (s.pins.resetN = false ∨ s.pins.stop.isSome ∨ s.pins.failed = true ∨ s.pins.pwrCycleReq = true →
      exec .powerGoodRise s = .next { s with
        pins := { s.pins with pwrGood := true }, jtag := .reset
        time := { s.time with onPll := false, refOut := false, refFault := false } }) ∧
    (s.pins.resetN = true → s.pins.stop = none → s.pins.failed = false → s.pins.pwrCycleReq = false →
      exec .powerGoodRise s = .next { s with
        pins := { s.pins with pwrGood := true, booting := true, bootPhase := 1 }, jtag := .reset
        stages := s.stages.map (fun st => { st with island := 0 })
        time := { s.time with
          onPll := false, refOut := false, refFault := false, wafer := 0, epochFixed := false, lastTick := none } })) ∧
  (∀ (s : State) (ns : Nat) (p : Pins), s.pins.resetN = false →
    p = { s.pins with resetN := true, coolA := s.pins.coolA || decide (0 < ns), coolB := s.pins.coolB || decide (0 < ns) } →
    (s.pins.pwrGood = false ∨ s.pins.failed = true ∧ s.pins.stop = none ∨ s.pins.pwrCycleReq = true ∧ s.pins.stop = none ∨
        s.pins.stop.isSome ∧ (ns < 1000000 ∨ s.sensorsBelow (s.trip - 15) = false) →
      exec (.resetRelease ns) s = .next { s with pins := p }) ∧
    (s.pins.pwrGood = true → s.pins.failed = false → s.pins.pwrCycleReq = false →
      s.pins.stop = none ∨ 1000000 ≤ ns ∧ s.sensorsBelow (s.trip - 15) = true →
      exec (.resetRelease ns) s = .next { s with
        pins := { p with stop := none, booting := true, bootPhase := if s.time.onPll then 2 else 1 }
        stages := s.stages.map (fun st => { st with island := 0 })
        time := { s.time with wafer := 0, epochFixed := s.time.onPll, lastTick := none } }))

/-- POWER_GOOD_FALL and RESET_ASSERT (R79, R504, R521, R523): a low of RESET_N below 1 µs changes nothing; otherwise no stage
runs, no context exists, boot is over, the slate and its requests are dropped, the ports are at reset and carrier flash is
as it was. The dailies SRAM stays unless the fall is the requested power cycle, which ends the failed condition (log
entry 10). -/
def Obligations.ShutdownStillsTheModule : Prop :=
  (∀ s : State, s.pins.pwrGood = true → ∃ t, exec .powerGoodFall s = .next t ∧ t.stilled ∧ t.slate = Slate.reset ∧
    t.pins.pwrGood = false ∧ t.pins.resetN = s.pins.resetN ∧ t.pins.stop = s.pins.stop ∧
    t.pins.bootDone = false ∧ t.pins.booting = false ∧ t.pins.issueStopped = true ∧ t.pins.bypassOpen = false ∧
    t.portA = HostPort.reset ∧ t.portB = HostPort.reset ∧ t.check = none ∧ t.tests = [] ∧ t.transients = [] ∧
    (s.pins.pwrCycleReq = false → t.dailies = s.dailies ∧ t.pins.failed = s.pins.failed ∧
      t.pins.belowFloor = s.pins.belowFloor) ∧
    (s.pins.pwrCycleReq = true → t.dailies = Dailies.absent ∧ t.pins.failed = false ∧ t.pins.pwrCycleReq = false) ∧
    t.flash = s.flash ∧ t.straps = s.straps ∧ t.trims = s.trims ∧ t.rails = s.rails ∧ t.gaffer = s.gaffer ∧
    t.chain = s.chain ∧ t.jtag = s.jtag ∧ t.idFaults = s.idFaults ∧ t.time.tickCount = s.time.tickCount) ∧
  (∀ (s : State) (ns : Nat), ns < 1000 → exec (.resetAssert ns) s = .next s) ∧
  (∀ (s : State) (ns : Nat), 1000 ≤ ns → ∃ t, exec (.resetAssert ns) s = .next t ∧ t.stilled ∧ t.slate = Slate.reset ∧
    t.pins = { s.pins with
      resetN := false, booting := false, bootPhase := 0, bootDone := false
      parked := s.pins.parked && s.pins.pwrCycleReq, thermWarn := false, bypassOpen := false, issueStopped := true } ∧
    t.dailies = s.dailies ∧ t.flash = s.flash ∧ t.straps = s.straps ∧ t.trims = s.trims ∧ t.rails = s.rails ∧
    t.chain = s.chain ∧ t.jtag = s.jtag ∧ t.portA = HostPort.reset ∧ t.portB = HostPort.reset)

/-- REFERENCE_PLL_LOCK, REFERENCE_LOCK_TIMEOUT, REFERENCE_FAULT and SUPERVISOR_MISMATCH (R26, R134 to R137, R225): a lock
moves the reference domain to the PLL and starts REF_OUT unless a reference fault holds it low, and in boot phase 1 fixes
the module epoch at wafer time zero in every stage; a timeout, a fault and a mismatch fail the module, log their code and
assert the power-cycle request, the last two with every context ended and the level-5 state entered. A fault moves the
source and REF_OUT in a module that has failed already and in reset too. -/
def Obligations.ReferenceAndSupervisorOutcomes : Prop :=
  (∀ s : State, s.pins.pwrGood = true → s.time.onPll = false →
    (s.pins.booting = true → s.pins.bootPhase = 1 → exec .referencePllLock s = .next { s with
      pins := { s.pins with bootPhase := 2 }
      stages := s.stages.map (fun st => { st with island := 0 })
      time := { s.time with
        onPll := true, refOut := !s.time.refFault, epochFixed := true, wafer := 0, lastTick := none } }) ∧
    (s.pins.booting = false ∨ s.pins.bootPhase ≠ 1 → exec .referencePllLock s = .next { s with
      time := { s.time with onPll := true, refOut := !s.time.refFault } })) ∧
  (∀ s : State, s.pins.booting = true → s.time.onPll = false → ∃ t, exec .referenceLockTimeout s = .next t ∧
    t.pins = { s.pins with failed := true, booting := false, pwrCycleReq := true, bypassOpen := false } ∧
    (∃ e, t.dailies.log.getLast? = some e ∧ e.kind = 0x05) ∧
    t = { s.recordsOf t with pins := t.pins }) ∧
  (∀ (s : State) (ps : Nat) (ok : Bool), s.time.onPll = true → s.inReset = false → s.pins.failed = false →
    ∃ t, exec (.referenceFault ps ok) s = .next t ∧
      t.time = { s.time with onPll := false, refOut := false, refFault := true } ∧ t.pins.failed = true ∧
      t.pins.pwrCycleReq = true ∧ t.pins.issueStopped = true ∧ t.pins.booting = false ∧ t.pins.bypassOpen = false ∧
      t.level4 = none ∧ t.level5.isSome ∧ t.straps = s.straps ∧ t.slate = s.slate ∧ t.chain = s.chain) ∧
  (∀ (s : State) (ps : Nat) (ok : Bool), s.time.onPll = true → s.inReset = false → s.pins.failed = true →
    ∃ t, exec (.referenceFault ps ok) s = .next t ∧
      t = { s with
        time := { s.time with onPll := false, refOut := false, refFault := true }
        dailies := t.dailies, flash := t.flash } ∧
      ∃ e, t.dailies.log.getLast? = some e ∧ e.kind = 0x05 ∧ e.payload = leBytes 2 (if 0xFFFF < ps then 0xFFFF else ps)) ∧
  (∀ (s : State) (ps : Nat) (ok : Bool), s.time.onPll = true → s.inReset = true →
    exec (.referenceFault ps ok) s = .next { s with time := { s.time with onPll := false, refOut := false } }) ∧
  (∀ (s : State) (out : BitVec 16) (ok : Bool), s.inReset = false → s.pins.failed = false →
    ∃ t, exec (.supervisorMismatch out ok) s = .next t ∧ t.time = s.time ∧ t.pins.failed = true ∧
      t.pins.pwrCycleReq = true ∧ t.pins.issueStopped = true ∧ t.level4 = none ∧ t.level5.isSome ∧
      t.straps = s.straps ∧ t.slate = s.slate ∧ t.chain = s.chain)

/-- STRAP_READ, MESH_TRIM_BOOT and MESH_TRIM_UPDATE (R58 to R61, R67, R138): the straps take their decoded levels in boot
phase 2; the trims are set in boot and after boot move by at most one 2 ps step inside 0 to 126 ps.

CARRIER_FLASH_BOOT_READ, DAILIES_BOOT_COPY and BOOT_STAGE_BIST (R27, R146, R227, R234 to R236, R263, R420, R508, R520): boot
phase 3 reads the flash areas, counts the boot in the newer valid days-in-service copy and in the other one, and gives the
boot its epoch identity and ageing correction; the boot copy clears the unsaved flag; boot phase 4 with no failing unit and no held rail leads to phase 5 with the bypass opened by the straps. -/
def Obligations.BootPhases : Prop :=
  ((∀ (s : State) (mv : List (List Nat)), s.pins.booting = true → s.pins.bootPhase = 2 → mv.length = 23 →
    exec (.strapRead mv) s = .next { s with
      straps := strapsOf (mv.map strapCode), pins := { s.pins with bootPhase := 3 } }) ∧
  (∀ (s : State) (ps : List Nat), s.pins.booting = true → s.pins.bootPhase = 2 ∨ s.pins.bootPhase = 3 →
    ps.length = 64 → (∀ v ∈ ps, v ≤ 126 ∧ v % 2 = 0) → exec (.meshTrimBoot ps) s = .next { s with trims := ps }) ∧
  (∀ (s : State) (dir : List Int), s.pins.bootDone = true → s.inReset = false →
    ∃ t, exec (.meshTrimUpdate dir) s = .next t ∧ t = { s with trims := t.trims } ∧
      t.trims.length = s.trims.length ∧
      ∀ (i v : Nat), s.trims[i]? = some v → v ≤ 126 → ∃ w, t.trims[i]? = some w ∧ w ≤ 126 ∧ w ≤ v + 2 ∧ v ≤ w + 2)) ∧
  ((∀ (s : State) (bad : List FlashArea), s.pins.booting = true → s.pins.bootPhase = 3 →
    ∃ t, exec (.carrierFlashBootRead bad) s = .next t ∧ t.pins = { s.pins with bootPhase := 4 } ∧
      t.time.epochId = { source := BitVec.ofNat 8 s.moduleId, serial := t.time.bootCount.truncate 16, kind := 0 } ∧
      t.time.corr = t.yAge ∧ t.iu.tables.length = 397 ∧
      (∀ d e, daysOf s.flash.days0 = some d → daysOf s.flash.days1 = some e → bad = [] →
        (e.seq < d.seq → t.time.bootCount = d.boot + 1 ∧ t.time.dayCount = d.day ∧ t.time.hourCount = d.hour ∧
          t.flash.days0 = s.flash.days0 ∧ t.flash.days1 = ({ d with seq := d.seq + 1, boot := d.boot + 1 } : Days).bytes) ∧
        (d.seq < e.seq → t.time.bootCount = e.boot + 1 ∧ t.time.dayCount = e.day ∧ t.time.hourCount = e.hour ∧
          t.flash.days0 = ({ e with seq := e.seq + 1, boot := e.boot + 1 } : Days).bytes ∧ t.flash.days1 = s.flash.days1)) ∧
      (.days 0 ∈ bad ∨ daysOf s.flash.days0 = none → .days 1 ∈ bad ∨ daysOf s.flash.days1 = none →
        t.time.bootCount = 1 ∧ t.time.dayCount = 0 ∧ t.time.hourCount = 0 ∧ t.idFaults.getLsbD 2 = true) ∧
      t = { s with
        pins := t.pins, time := t.time, iu := t.iu, stages := t.stages, flash := t.flash, chain := t.chain
        issue := t.issue, cert := t.cert, idFaults := t.idFaults, ringE := t.ringE, ringW := t.ringW
        edges := t.edges, spines := t.spines }) ∧
  (∀ s : State, s.pins.booting = true → s.pins.bootPhase = 4 → s.dailies.valid = true → s.dailies.unsaved = true →
    (∃ t, exec (.dailiesBootCopy true) s = .next t ∧ t.dailies = { s.dailies with unsaved := false } ∧
      (∃ d, t.newestSet = some d ∧ d.boot = s.dailies.boot) ∧ t = { s with dailies := t.dailies, flash := t.flash }) ∧
    exec (.dailiesBootCopy false) s = .next s) ∧
  (∀ (s : State) (lanes : List BadLane) (rails : List Nat), s.pins.booting = true → s.pins.bootPhase = 4 →
    s.idFaults.getLsbD 4 = false → (∀ st ∈ s.stages, st.held = false) →
    exec (.bootStageBist [] lanes rails) s = .next { s with
      pins := { s.pins with bootPhase := 5, bypassOpen := s.ringsEnabled } }))

/-- BOOT_END and DAILIES_AREA_ERASE (R34, R45, R94, R408, R453, R505, R509, R518): STATE leaves booting, counts start at zero,
every enabled stage is unlit, the dailies get a fresh header, and BELOW_FLOOR_N is judged; once delivery has begun an
erase takes the set that is not the newest. -/
def Obligations.BootEndMakesReady : Prop :=
  (∀ s : State, s.pins.booting = true → s.pins.bootPhase = 5 → s.slaveAlone = false →
    ∃ t, exec .bootEnd s = .next t ∧
      t.pins = { s.pins with
        booting := false, bootDone := true, parked := false, issueStopped := false
        belowFloor := decide (s.enabledCount < 88) } ∧
      t.time = { s.time with tickCount := 0 } ∧ t.gaffer.energy = 0 ∧ t.transients = [] ∧
      t.dailies = { valid := true, boot := s.time.bootCount, unsaved := false, count := 0, log := [], used := 0
                    written := 0, droppedN := 0, dumps := [], delivered := false } ∧
      t.portA = { s.portA with seq := 0 } ∧ t.portB = { s.portB with seq := 0 } ∧
      (∀ (n : Nat) (st : Stage), s.stage n = some st → st.st ≠ .retired →
        t.stage n = some { st with st := .unlit, part := none, unassigned := 0, idle := 0 }) ∧
      (∀ (n : Nat) (st : Stage), s.stage n = some st → st.st = .retired → t.stage n = some st) ∧
      t = { s with
        pins := t.pins, time := t.time, gaffer := t.gaffer, rails := t.rails, stages := t.stages, transients := []
        lastCtx := 0, portA := t.portA, portB := t.portB, iu := t.iu, dailies := t.dailies }) ∧
  (∀ (s : State) (a b : DailiesSet), s.pins.bootDone = true → s.inReset = false → s.dailies.delivered = true →
    s.flash.dailies0 = some a → s.flash.dailies1 = some b →
    exec .dailiesAreaErase s = .next { s with
      flash := if a.seq < b.seq then { s.flash with dailies0 := none } else { s.flash with dailies1 := none } })

/-! ### Slate, cap, commands, coolant and temperature (chapters 2 and 8) -/

/-- SLATE_REQUEST, SLATE_RELEASE, SLATE_HEARTBEAT, SLATE_REVOCATION and SLATE_REELIGIBLE (R74 to R78, R81): a single eligible
requester is granted, a tie goes by the tie bit, which then flips; a holder that lets go or is revoked loses its
handshake, and the other port's eligible request is granted; a revoked port stays ineligible until its request has been
away. Every reset leaves the tie bit in favour of port A, and a tie's loser keeps its request pending.

CAP_CODE_ACCEPT and CAP_CROSSING_ERROR (R73, R82, R83, R216): the holder's code replaces the last one; a crossing error
keeps the last one and writes an error event of kind 0x0F naming the port's CAP crossing. A port that is not the holder
has no effect. -/
def Obligations.SlateAndCap : Prop :=
  ((∀ s : State, s.inReset = false → s.slate.holder = none → s.slate.inelA = false → s.slate.reqA = false →
    s.slate.reqB = false →
    exec (.slateRequest true false) s = .next { s with
      slate := { s.slate with reqA := true, holder := some .a, hbAt := s.time.wafer } }) ∧
  (∀ s : State, s.inReset = false → s.slate.holder = none → s.slate.inelA = false → s.slate.inelB = false →
    exec (.slateRequest true true) s = .next { s with
      slate := { s.slate with
        reqA := true, reqB := true, holder := some s.slate.tie, hbAt := s.time.wafer, tie := s.slate.tie.other } }) ∧
  (∀ (s : State) (p : Port) (a b : Bool), s.inReset = false → s.slate.holder = some p →
    exec (.slateRequest a b) s = .next { s with
      slate := { s.slate with reqA := s.slate.reqA || a, reqB := s.slate.reqB || b } }) ∧
  (∀ s : State, s.inReset = false → s.slate.holder = some .a →
    (s.slate.reqB = true → s.slate.inelB = false → exec (.slateRelease .a) s = .next { s with
      slate := { s.slate with
        reqA := false, stbA := false, ackA := false, holder := some .b, hbAt := s.time.wafer } }) ∧
    (s.slate.reqB = false ∨ s.slate.inelB = true → exec (.slateRelease .a) s = .next { s with
      slate := { s.slate with reqA := false, stbA := false, ackA := false, holder := none } })) ∧
  (∀ (s : State) (p : Port), s.slate.holder = some p →
    exec (.slateHeartbeat p) s = .next { s with slate := { s.slate with hbAt := s.time.wafer } }) ∧
  (∀ (s : State) (p : Port), s.slate.holder = some p → ∃ t, exec .slateRevocation s = .next t ∧
    t.slate.holder ≠ some p ∧ t.slate.inel p = true ∧ t.slate.stb p = false ∧
    (s.slate.eligible p.other = true → t.slate.holder = some p.other) ∧
    (∃ e, t.dailies.log.getLast? = some e ∧ e.kind = 0x03 ∧ e.payload = [BitVec.ofNat 8 p.code]) ∧
    t = { s with slate := t.slate, dailies := t.dailies }) ∧
  (∀ (s : State) (p : Port), s.slate.inel p = true → s.slate.req p = false → ∃ t,
    exec (.slateReeligible p) s = .next t ∧ t.slate.inel p = false ∧ t = { s with slate := t.slate }) ∧
  State.reset.slate.tie = .a ∧
  (∀ s : State, s.pins.pwrGood = true → ∃ t, exec .powerGoodFall s = .next t ∧ t.slate.tie = .a) ∧
  (∀ (s : State) (ns : Nat), 1000 ≤ ns → ∃ t, exec (.resetAssert ns) s = .next t ∧ t.slate.tie = .a)) ∧
  ((∀ (s : State) (p : Port) (code : BitVec 4), s.slate.holder = some p → s.inReset = false →
    exec (.capCodeAccept p code) s = .next { s with slate := { s.slate with cap := some code } }) ∧
  (∀ (s : State) (p : Port) (code : BitVec 4), s.slate.holder ≠ some p →
    exec (.capCodeAccept p code) s = .next s ∧ exec (.capCrossingError p) s = .next s) ∧
  (∀ (s : State) (p : Port), s.slate.holder = some p → s.inReset = false → ∃ t,
    exec (.capCrossingError p) s = .next t ∧ t.slate = s.slate ∧
    (∃ e, t.dailies.log.getLast? = some e ∧ e.kind = 0x01 ∧ e.payload = errBytes
      (s.errBody (crossingErr 0x0F (BitVec.ofNat 16 (0x60B0 + p.code)) none) 0 0)) ∧ t = s.errorsOf t))

/-- CMD_IDLE, CMD_CUT_ALL, CMD_PARK, CMD_UNPARK, CMD_CHIP_COMPUTE_RESET and CMD_DUMP_POWER_CYCLE (R85, R89 to R91, R488, R502,
R503): the holder's fresh strobe is acknowledged and, in a state that accepts the code, the command has its effect.

Commands out of their states or from a port that may not give them (R73, R85, R89, Table 2.19): a command whose STATE does
not accept it is acknowledged and only entered in the dailies; one whose port does not hold the slate, or whose strobe is
still up, changes nothing.

CMD_REDISCIPLINE, CMD_CALIBRATE_NOW, CMD_STROBE_FALL and CMD_CROSSING_ERROR (R85, R87, R243, R262): re-discipline drops the
PPS anchor, history and lock, restarts a slave's servo, and gives a module with no time source its ageing correction; calibrate-now starts a collection of trigger command; the strobe's fall lowers the
acknowledge; a code that never agreed is acknowledged with an error event of kind 0x0F. -/
def Obligations.ControlCommands : Prop :=
  (∀ (s : State) (p : Port), s.inReset = false → s.slate.holder = some p → s.slate.stb p = false →
    exec (.cmdIdle p) s = .next { s with slate := s.slate.setHand p true } ∧
    (s.code = 3 ∨ s.code = 4 ∨ s.code = 5 → exec (.cmdCutAll p) s = .next { s with
      slate := s.slate.setHand p true
      parts := s.parts.map (fun o => o.map (fun c => c.acceptCut (.control p))) }) ∧
    (s.code = 2 ∨ s.code = 3 → exec (.cmdPark p) s = .next { s with
      slate := s.slate.setHand p true, pins := { s.pins with parked := true } }) ∧
    (s.code = 4 → s.pins.pwrCycleReq = false → exec (.cmdUnpark p) s = .next { s with
      slate := s.slate.setHand p true, pins := { s.pins with parked := false } }) ∧
    (s.code = 2 ∨ s.code = 3 ∨ s.code = 4 ∨ s.code = 5 → s.level4 = none → s.level5 = none → ∃ t,
      exec (.cmdChipComputeReset p) s = .next t ∧ t.slate = s.slate.setHand p true ∧
      t.level4 = some { level := 4, trigger := 0x84, start := s.stamp, stage := 0xFF } ∧
      t = { s.recordsOf t with slate := t.slate, level4 := t.level4, parts := t.parts, stages := t.stages }) ∧
    (s.code ≠ 1 → s.code ≠ 6 → ∀ saveOk copyOk : Bool, ∃ t, exec (.cmdDumpPowerCycle p saveOk copyOk) s = .next t ∧
      t.pins.pwrCycleReq = true ∧ t.pins.parked = true ∧ t.pins.issueStopped = true ∧ (∀ c ∈ t.parts, c = none) ∧
      t.level4 = none ∧ t.straps = s.straps ∧ t.time = s.time ∧ t.rails = s.rails)) ∧
  ((∀ (s : State) (p : Port), s.inReset = false → s.slate.holder = some p → s.slate.stb p = false →
    (s.code ≠ 2 → s.code ≠ 3 → exec (.cmdPark p) s = .next
      (({ s with slate := s.slate.setHand p true }).log 0x02
        (leBytes 1 p.code ++ leBytes 1 2 ++ leBytes 1 s.code))) ∧
    (s.code ≠ 4 → exec (.cmdUnpark p) s = .next
      (({ s with slate := s.slate.setHand p true }).log 0x02
        (leBytes 1 p.code ++ leBytes 1 3 ++ leBytes 1 s.code)))) ∧
  (∀ (s : State) (p : Port), s.slate.holder ≠ some p ∨ s.slate.stb p = true →
    exec (.cmdIdle p) s = .next s ∧ exec (.cmdCutAll p) s = .next s ∧ exec (.cmdPark p) s = .next s ∧
    exec (.cmdUnpark p) s = .next s ∧ exec (.cmdChipComputeReset p) s = .next s ∧
    exec (.cmdRediscipline p) s = .next s ∧ exec (.cmdCalibrateNow p) s = .next s)) ∧
  ((∀ (s : State) (p : Port), s.inReset = false → s.slate.holder = some p → s.slate.stb p = false →
    s.code = 2 ∨ s.code = 3 ∨ s.code = 4 →
    (s.ppsActive = true → ∃ t, exec (.cmdRediscipline p) s = .next t ∧ t.slate = s.slate.setHand p true ∧
      t.time.pps = { Pps.idle with ignored := s.time.pps.ignored, lastEdge := s.time.pps.lastEdge } ∧
      (s.time.pps.locked = true → t.time.corr = s.time.corr ∧ t.time.holdover = true) ∧
      t = { s.recordsOf t with slate := t.slate, time := t.time }) ∧
    (s.isSlave = true → ∃ t, exec (.cmdRediscipline p) s = .next t ∧ t.slate = s.slate.setHand p true ∧
      t.time.slave.acquired = false ∧ t.time.slave.locked = false ∧ t.time.slave.offsets = [] ∧
      t.time.slave.stepBy = s.time.slave.stepBy ∧
      t.time.corr = (if s.time.holdover || s.time.slave.locked then s.time.corr else s.yAge) ∧
      t = { s.recordsOf t with slate := t.slate, time := t.time }) ∧
    (s.ppsActive = false → s.isSlave = false → ∃ t, exec (.cmdRediscipline p) s = .next t ∧
      t.time = { s.time with corr := s.yAge } ∧ t = { s.recordsOf t with slate := s.slate.setHand p true, time := t.time }) ∧
    (s.strap 18 ≠ 2 → exec (.cmdCalibrateNow p) s = .next { s with
      slate := s.slate.setHand p true, iu := { s.iu with collecting := some 2 } })) ∧
  (∀ (s : State) (p : Port), s.slate.stb p = true →
    exec (.cmdStrobeFall p) s = .next { s with slate := s.slate.setHand p false }) ∧
  (∀ (s : State) (p : Port), s.inReset = false → s.slate.holder = some p → s.slate.stb p = false → ∃ t,
    exec (.cmdCrossingError p) s = .next t ∧ t.slate = s.slate.setHand p true ∧
    (∃ e, t.dailies.log.getLast? = some e ∧ e.kind = 0x01 ∧ e.payload = errBytes
      (s.errBody (crossingErr 0x0F (BitVec.ofNat 16 (0x60C0 + p.code)) none) 0 0)) ∧
    t = { s.errorsOf t with slate := t.slate }))

/-- COOLANT_STOP, COOLANT_GLITCH, TEMPERATURE_READING and THERM_WARN_DEASSERT (R292 to R298): a coolant stop latches, stills
the module and halts issue, and latches in reset too; a glitch below 50 cycles is only entered, a longer low is a stop; a
reading is kept in every state but retired, warns at T_trip - 15, and stops the module when two in a row are at T_trip or
more; the warning ends below T_trip - 18. -/
def Obligations.CoolantAndThermal : Prop :=
  (∀ (s : State) (p : Port), s.inReset = false → s.pins.stop = none → ∃ t,
    exec (.coolantStop p) s = .next t ∧ t.pins.stop = some false ∧ t.pins.issueStopped = true ∧
    (∀ st ∈ t.stages, st.st = .unlit ∨ st.st = .retired) ∧
    (match p with | .a => t.pins.coolA | .b => t.pins.coolB) = false ∧ t.straps = s.straps ∧ t.flash = s.flash ∧
    t.time = s.time ∧ t.slate = s.slate) ∧
  (∀ s : State, s.pins.resetN = false → s.pins.stop = none →
    exec (.coolantStop .a) s = .next { s with pins := { s.pins with coolA := false, stop := some false } } ∧
    exec (.coolantStop .b) s = .next { s with pins := { s.pins with coolB := false, stop := some false } }) ∧
  (∀ s : State, s.pins.stop.isSome →
    exec (.coolantStop .a) s = .next { s with pins := { s.pins with coolA := false } } ∧
    exec (.coolantStop .b) s = .next { s with pins := { s.pins with coolB := false } }) ∧
  (∀ (s : State) (p : Port) (k : BitVec 16),
    (k.toNat < 50 → s.pins.pwrGood = true →
      exec (.coolantGlitch p k) s = .next (s.log 0x06 (leBytes 1 p.code ++ leBytes 2 k.toNat))) ∧
    (50 ≤ k.toNat → s.inReset = false ∨ s.pins.resetN = false → ∃ t, exec (.coolantGlitch p k) s = .next t ∧
      t.pins.stop.isSome ∧ (match p with | .a => t.pins.coolA | .b => t.pins.coolB) = true)) ∧
  (∀ (s : State) (n sensor : Nat) (st u : Stage) (deg : Int), s.stage n = some st → st.st ≠ .retired → sensor < 4 →
    u = { st with
      temps := st.temps.set sensor deg, tempsOld := st.tempsOld.set sensor (st.temps.getD sensor 25)
      tempHot := st.tempHot.set sensor (decide (s.trip ≤ deg)) } →
    (s.inReset = true ∨ deg < s.trip - 15 → exec (.temperatureReading n sensor deg) s = .next (s.putStage n u)) ∧
    (s.inReset = false → s.trip - 15 ≤ deg → deg < s.trip ∨ st.tempHot.getD sensor false = false ∨ s.pins.stop.isSome →
      exec (.temperatureReading n sensor deg) s = .next
        { s.putStage n u with pins := { s.pins with thermWarn := true } }) ∧
    (s.inReset = false → s.trip ≤ deg → st.tempHot.getD sensor false = true → s.pins.stop = none → ∃ t,
      exec (.temperatureReading n sensor deg) s = .next t ∧ t.pins.stop = some true ∧ t.pins.issueStopped = true ∧
      t.pins.thermWarn = true ∧ ∀ st ∈ t.stages, st.st = .unlit ∨ st.st = .retired)) ∧
  (∀ s : State, s.sensorsBelow (s.trip - 18) = true →
    exec .thermWarnDeassert s = .next { s with pins := { s.pins with thermWarn := false } })

/-! ### Ticks, stages, crossings and power-up (chapters 1, 3 and 6) -/

/-- TICK (R93, R94, R133, R229, R231, R285): before the epoch is fixed nothing happens; before the end of boot a tick moves
wafer time, with every island's copy of it, and is not counted; from then on it is counted and the energy meter is latched;
at an alignment boundary the correction takes effect; and the control plane, slots, straps, ring ports, spines and the chain
are left alone. -/
def Obligations.TickCountsAndMovesTime : Prop :=
  (∀ s : State, s.inReset = true ∨ s.time.epochFixed = false → exec .tick s = .next s) ∧
  (∀ s : State, s.inReset = false → s.time.epochFixed = true → s.pins.bootDone = false → ∃ t,
    exec .tick s = .next t ∧
    t.time = { s.time with
      wafer := s.nextTick, lastTick := some s.nextTick
      applied := if s.nextTick.toNat % 5120 = 0 then divider s.time.corr else s.time.applied } ∧
    (∀ (n : Nat) (st : Stage), s.stage n = some st → ∃ u, t.stage n = some u ∧ u.island = s.nextTick ∧
      u = { st with island := u.island, clock := u.clock } ∧ u.clock.lag = st.clock.lag) ∧
    t = { s with time := t.time, stages := t.stages }) ∧
  (∀ s : State, s.inReset = false → s.time.epochFixed = true → s.pins.bootDone = true → ∃ t,
    exec .tick s = .next t ∧ t.time = { s.time with
      wafer := s.nextTick, lastTick := some s.nextTick, tickCount := s.time.tickCount + 1
      applied := if s.nextTick.toNat % 5120 = 0 then divider s.time.corr else s.time.applied } ∧
    t.gaffer = { s.gaffer with latched := s.gaffer.energy, limited := false } ∧
    t.straps = s.straps ∧ t.slate = s.slate ∧ t.trims = s.trims ∧ t.slots = s.slots ∧ t.slotOrder = s.slotOrder ∧
    t.check = s.check ∧ t.lastCtx = s.lastCtx ∧ t.chain = s.chain ∧ t.ringE = s.ringE ∧ t.ringW = s.ringW ∧
    t.spines = s.spines ∧ t.spineOut = s.spineOut ∧ t.jtag = s.jtag ∧ t.cert = s.cert ∧ t.level5 = s.level5)

/-- COMMIT_CUTOFF (R104, R105, R107, R108, R484, R489): each partition's tick action is fixed by the state at the cut-off, with
whether the tick counts towards a hang; a context
with an accepted cut has its cut tick fixed; a context that ends keeps its end; nothing else changes.

The tick action of Table 3.3 (R105, R107, R454): a frame that every stage has finished ends, or commits, and the next one
begins unless R107 holds it back; an unfinished one waits; a whole rollback is followed by RETAKE when every stage has
aborted and the frame has takes left; with no frame in progress one begins or is held. -/
def Obligations.TickActions : Prop :=
  (∀ s : State, s.pins.bootDone = true → s.inReset = false → ∃ t, exec .commitCutoff s = .next t ∧
    t = { s with parts := t.parts } ∧ t.parts.length = s.parts.length ∧
    (∀ p, s.ctx p = none → t.ctx p = none) ∧
    (∀ p c, s.ctx p = some c → c.ended = none → c.endDue = none → c.cut = none →
      t.ctx p = some { c with action := some (s.tickActionOf c), counted := s.countedTick c }) ∧
    (∀ p c k, s.ctx p = some c → c.ended = none → c.endDue = none → c.cut = some k →
      t.ctx p = some { c with cut := some { k with fixed := true }, action := none }) ∧
    (∀ p c, s.ctx p = some c → c.ended.isSome ∨ c.endDue.isSome → t.ctx p = some c)) ∧
  (∀ (s : State) (c : Ctx),
    (c.inFrame = true → c.rollback = none → s.commitOk c = true → s.allFinal c = true → s.tickActionOf c = .end_) ∧
    (c.inFrame = true → c.rollback = none → s.commitOk c = true → s.allFinal c = false → s.pins.parked = true →
      s.tickActionOf c = .commitHold) ∧
    (c.inFrame = true → c.rollback = none → s.commitOk c = true → s.allFinal c = false → s.pins.parked = false →
      c.loaded = true → (∀ n ∈ c.stages, ∀ st, s.stage n = some st → st.clocked = true ∧ st.power = none) →
      s.tickActionOf c = .commitBegin) ∧
    (c.inFrame = true → c.rollback = none →
      (∃ n ∈ c.stages, ∃ st, s.stage n = some st ∧ st.st = .lit ∧ st.skipping = false ∧ st.seq.done = false) →
      s.tickActionOf c = .wait) ∧
    (∀ rb, c.inFrame = true → c.rollback = some rb → rb.both = true → rb.wait = [] → c.rolledRun < 4 →
      s.tickActionOf c = .retake) ∧
    (∀ rb, c.inFrame = true → c.rollback = some rb → rb.both = true → (rb.wait ≠ [] ∨ 4 ≤ c.rolledRun) →
      s.tickActionOf c = .wait) ∧
    (c.inFrame = false → (s.pins.parked = true ∨ c.loaded = false) → s.tickActionOf c = .hold))

/-- What a commit leaves (R106, R116, R362): the frame number rises unless it is the largest, the take and the counts of the
frame are over, and in every stage of the partition no journal entry of the current epoch is left, what ran ahead is
current, and the counts of run-ahead work are those of the new current epoch. -/
def Obligations.CommitFreesTheEpoch : Prop :=
  ∀ (s : State) (p : Nat) (c : Ctx), s.ctx p = some c → c.reel.h ≠ 0 → c.reel.w ≠ 0 →
    rowOf c.origin + c.reel.h ≤ 8 → colOf c.origin + c.reel.w ≤ 12 → s.stages.length = 96 →
    (∃ d, (s.commitFrame p c).ctx p = some d ∧ d.inFrame = false ∧ d.take = 0 ∧ d.rolledRun = 0 ∧
      d.frame = (if c.frame = BitVec.allOnes 48 then c.frame else c.frame + 1)) ∧
    (∀ n ∈ c.stages, ∀ st, s.stage n = some st → ∃ u, (s.commitFrame p c).stage n = some u ∧
      u.journal = (st.journal.filter JEntry.ahead).map (fun j => { j with ahead := false }) ∧
      u.staged = [] ∧ u.cnt = st.cntAhead ∧ u.cntAhead = .zero ∧ u.scratch = st.scratch) ∧
    (∀ n, n ∉ c.stages → (s.commitFrame p c).stage n = s.stage n)

/-- IDLE_COUNT_EXPIRY, UNASSIGNED_COUNT_EXPIRY, STAGE_RELEASE and RELEASE_COMPLETE (R42 to R44, R314, R418, R419): a lit or
dark stage whose idle count has run out works again, a dark one lit; an unassigned dark stage with no test asks to go unlit
at 64 ticks; a release writes zero everywhere; and the last completed release of a context that was not cut ends it with its
records. -/
def Obligations.IdleReleaseAndEnd : Prop :=
  (∀ (s : State) (n p : Nat) (st : Stage) (c : Ctx), s.stage n = some st → s.ctxOf n = some (p, c) →
    st.skipping = true → st.idle = 0 → c.ended = none → c.inFrame = false →
    (st.st = .lit → exec (.idleCountExpiry n) s = .next (s.putStage n { st with skipping := false, closing := none })) ∧
    (st.st = .dark → ∃ t u, exec (.idleCountExpiry n) s = .next t ∧ t.stage n = some u ∧
      u = { st with
        st := .lit, skipping := false, closing := none, limit := s.gaffer.limit, traceBuf := u.traceBuf } ∧
      (∃ e, u.traceBuf = st.traceBuf ++ [e] ∧ e.kind = 0x02) ∧ t = { s with stages := t.stages } ∧
      ∀ m, m ≠ n → t.stage m = s.stage m)) ∧
  (∀ (s : State) (n : Nat) (st : Stage), s.stage n = some st → st.st = .dark → st.part = none → st.unassigned = 64 →
    (∀ t ∈ s.tests, unitStage t.unit ≠ some n) →
    exec (.unassignedCountExpiry n) s = .next (s.putStage n { st with closing := some .unlit })) ∧
  (∀ (s : State) (n : Nat) (st : Stage), s.stage n = some st → st.releasing = true → st.st = .lit → ∃ t u,
    exec (.stageRelease n) s = .next t ∧ t.stage n = some u ∧ u.scratch = [] ∧ u.journal = [] ∧ u.acc = [] ∧
    u.script = [] ∧ u.traceBuf = [] ∧ u.idle = 0 ∧ u.unassigned = 0 ∧ u.releasing = true ∧ u.part = st.part ∧
    (∀ m, m ≠ n → t.stage m = s.stage m) ∧ t = { s.recordsOf t with stages := t.stages }) ∧
  (∀ (s : State) (n p m : Nat) (st : Stage) (c : Ctx) (ok : Bool), s.stage n = some st → s.ctxOf n = some (p, c) →
    st.releasing = true → st.zeroed = true → m ∈ c.stages → m ≠ n → s.gone p c m = false →
    exec (.releaseComplete n ok) s = .next
      ((s.modStage n Stage.unassign).modCtx p (fun c => { c with released := n :: c.released }))) ∧
  (∀ (s : State) (n p : Nat) (st : Stage) (c : Ctx) (e : Ended) (ok : Bool), s.stage n = some st →
    s.ctxOf n = some (p, c) → st.releasing = true → st.zeroed = true → c.ended = some e → c.recorded = false →
    e.cut = false → (∀ m ∈ c.stages, m ≠ n → s.gone p c m = true) → ∃ t, exec (.releaseComplete n ok) s = .next t ∧
    t.ctx p = none ∧ (∀ u ∈ t.stages, u.part ≠ some p) ∧ t.chain.next = s.chain.next + 1 ∧
    t = { s.recordsOf t with stages := t.stages, parts := t.parts, flash := t.flash, chain := t.chain })

/-- LIGHTS_OUT_HANDSHAKE, LIGHTS_OUT_REQUEST_RECEIVED, LIGHTS_ON_HANDSHAKE and LIGHTS_ON_REQUEST_RECEIVED (R28, R46, R47, R211):
with every acknowledgement a stage asked to go dark is dark, and one asked to go unlit is unlit with nothing in its memories,
and every end across is marked, an edge block's too; without one the change is abandoned; a lit stage's splices become usable
with both ends restarted, but for a side whose neighbour is retired; an island that hears a request marks its side, or
restarts and unmarks it, unless it is retired or the stage across is.

STAGE_POWER_UP, STAGE_READY, POWER_SWITCH_RAMP_FAILURE and POWER_SWITCH_RETRY (R48, R49, R143, R471, R472): a placed unlit
stage ramps; when ready its memories are zero and its cores are locked at the target step and below; a first ramp
failure opens the switch and is retried once; a second retires the stage with reason 0x03. -/
def Obligations.StagesComeAndGo : Prop :=
  ((∀ (s : State) (n : Nat) (st : Stage), s.stage n = some st → st.closing = some .dark → ∃ t u,
    exec (.lightsOutHandshake n .dark []) s = .next t ∧ t.stage n = some u ∧ u.st = .dark ∧ u.closing = none ∧
    u.scratch = st.scratch ∧ u.acc = st.acc ∧ u.script = st.script ∧ (∀ d, (u.link d).usable = false) ∧
    (∀ d m v, neighbour n d = some m → t.stage m = some v → (v.link d.opposite).marked = true) ∧
    (∀ d i l, neighbour n d = none → edgeIndex n d = some i → t.edges[i]? = some l → l.marked = true) ∧
    t = { s with stages := t.stages, edges := t.edges, xings := t.xings }) ∧
  (∀ (s : State) (n : Nat) (st : Stage), s.stage n = some st → st.closing = some .unlit → ∃ t u,
    exec (.lightsOutHandshake n .unlit []) s = .next t ∧ t.stage n = some u ∧ u.st = .unlit ∧
    u.unassigned = st.unassigned ∧ u.scratch = [] ∧ u.acc = [] ∧ u.script = [] ∧
    (∀ d, (u.link d).marked = (st.link d).marked ∧ (u.link d).txMap = (st.link d).txMap) ∧
    (∀ d m v, neighbour n d = some m → t.stage m = some v → (v.link d.opposite).marked = true) ∧
    t = { s with stages := t.stages, edges := t.edges, xings := t.xings, rails := t.rails }) ∧
  (∀ (s : State) (n : Nat) (st : Stage) (g : LightsTarget) (no : List Side) (d : Side), s.stage n = some st →
    st.closing = some g → d ∈ no → (st.link d).barred = false → ∃ t u, exec (.lightsOutHandshake n g no) s = .next t ∧
    t.stage n = some u ∧ u.closing = none ∧ (u.st = st.st ∨ u.st = .retired)) ∧
  (∀ (s : State) (n : Nat) (side : Side) (st : Stage), s.stage n = some st → st.st ≠ .retired →
    exec (.lightsOutRequestReceived n side) s = .next
      (s.putStage n (st.modLink side (fun l => { l with marked := true, aligned := false }))) ∧
    ((st.link side).barred = false →
      ∃ t u, exec (.lightsOnRequestReceived n side) s = .next t ∧ t.stage n = some u ∧ (u.link side).marked = false ∧
      (u.link side).txSeq = 0 ∧ (u.link side).rxSeq = 0 ∧ (u.link side).unacked = [] ∧ (u.link side).fifo = [] ∧
      (u.link side).wptr = 0 ∧ (u.link side).rptr = 0 ∧
      (u.link side).aligned = false ∧ (∀ d, d ≠ side → u.link d = st.link d) ∧ t = { s with stages := t.stages } ∧
      (∀ m, m ≠ n → t.stage m = s.stage m))) ∧
  (∀ (s : State) (n : Nat) (side : Side) (st : Stage), s.stage n = some st →
    (st.st = .retired → exec (.lightsOutRequestReceived n side) s = .next s) ∧
    (st.st = .retired ∨ (st.link side).barred = true → exec (.lightsOnRequestReceived n side) s = .next s)) ∧
  (∀ (s : State) (n : Nat) (st : Stage), s.stage n = some st → st.st = .lit → ∃ t u,
    exec (.lightsOnHandshake n []) s = .next t ∧ t.stage n = some u ∧
    (∀ d, (st.link d).barred = false → (u.link d).usable = true) ∧
    (∀ d, (st.link d).usable = false → (st.link d).barred = false →
      (u.link d).txSeq = 0 ∧ (u.link d).rxSeq = 0 ∧ (u.link d).unacked = [] ∧ (u.link d).fifo = [] ∧
      (∀ m v, neighbour n d = some m → t.stage m = some v →
        (v.link d.opposite).marked = false ∧ (v.link d.opposite).unacked = [] ∧ (v.link d.opposite).fifo = [])) ∧
    (∀ d, (st.link d).usable = true ∨ (st.link d).barred = true → u.link d = st.link d) ∧ u.scratch = st.scratch ∧
    t = { s with stages := t.stages, edges := t.edges, xings := t.xings })) ∧
  ((∀ (s : State) (n : Nat) (st : Stage), s.stage n = some st → st.st = .unlit → st.held = false → st.part.isSome →
    st.power = none → st.ready = false →
    exec (.stagePowerUp n) s = .next (s.putStage n { st with power := some { attempt := 1, ramping := true } })) ∧
  (∀ (s : State) (n p : Nat) (st : Stage) (c : Ctx) (a : Nat), s.stage n = some st → s.ctxOf n = some (p, c) →
    st.st = .unlit → st.power = some { attempt := a, ramping := true } → ∃ t u, exec (.stageReady n) s = .next t ∧
    t.stage n = some u ∧ u.ready = true ∧ u.st = .unlit ∧ u.scratch = [] ∧ u.acc = [] ∧ u.script = [] ∧
    u.clock.core0 = { step := c.tau st, locked := true } ∧
    u.clock.core1 = { step := spareStep (c.tau st) c.reel.floor, locked := true } ∧ u.clock.drive1 = false ∧
    u.clock.resync = true ∧ u.clock.lag = 0 ∧
    (∀ m v, m ≠ n → s.stage m = some v → ∃ w, t.stage m = some w ∧ w = v.besideOf w) ∧
    t = { s with stages := t.stages, edges := t.edges, rails := t.rails }) ∧
  (∀ (s : State) (n : Nat) (st : Stage), s.stage n = some st → st.ready = false →
    st.power = some { attempt := 1, ramping := true } → ∃ t, exec (.powerSwitchRampFailure n) s = .next t ∧
    t.stage n = some { st with power := some { attempt := 1, ramping := false } } ∧
    (∃ e, t.dailies.log.getLast? = some e ∧ e.kind = 0x01 ∧ e.payload = errBytes (s.errBody (stageErr 0x10 n none) 3 0)) ∧
    t = { s.recordsOf t with stages := t.stages }) ∧
  (∀ (s : State) (n : Nat) (st : Stage), s.stage n = some st → st.ready = false → st.st ≠ .retired →
    st.power = some { attempt := 2, ramping := true } → ∃ t u, exec (.powerSwitchRampFailure n) s = .next t ∧
    t.stage n = some u ∧ u.st = .retired ∧ t = s.retirementOf t) ∧
  (∀ (s : State) (n : Nat) (st : Stage), s.stage n = some st → st.ready = false →
    st.power = some { attempt := 1, ramping := false } →
    exec (.powerSwitchRetry n) s = .next (s.putStage n { st with power := some { attempt := 2, ramping := true } })))

/-- CROSSING_TIMEOUT and DOUBLE_SAMPLE_FAILURE (R46, R47, R216, R218, R219): the first timeout of a four-phase crossing
returns its source to idle, is noted and counted against it with an error event of kind 0x0C, abandons a lights request and
stops a stage that missed its tick; a second in a row marks the crossing failed with kind 0x0D and retires the stage that
holds it; a double-sample failure keeps the last value and writes kind 0x0F. No other identifier names such a crossing. -/
def Obligations.CrossingFailures : Prop :=
  (∀ (s : State) (x : BitVec 16), s.inReset = false → xidFour x = true →
    (s.xing x).age = 0 → s.testOf (.crossing x) = none → s.transientOf (.crossing x) + 1 ≤ s.allow → ∃ t,
    exec (.crossingTimeout x) s = .next t ∧ (t.xing x).age = 1 ∧ (t.xing x).req = false ∧ (t.xing x).wait = true ∧
    s.toldIn t (crossingErr 0x0C x none) 0 ∧
    t.transientOf (.crossing x) = s.transientOf (.crossing x) + 1 ∧
    (∀ st, s.stage (xidSite x) = some st → ∃ u, t.stage (xidSite x) = some u ∧ u.scratch = st.scratch ∧
      (xidKind x = 2 → st.st = .lit → u.stopped = true ∧ u.seq.done = false) ∧
      (xidKind x = 4 → u.closing = none ∧ (u.link (Side.ofCode (xidInst x))).usable = false) ∧
      (xidKind x ≠ 2 → xidKind x ≠ 4 → u = st)) ∧
    (∀ m, m ≠ xidSite x → t.stage m = s.stage m) ∧
    t = { s.errorsOf t with xings := t.xings, stages := t.stages }) ∧
  (∀ (s : State) (x : BitVec 16) (st : Stage), s.inReset = false → xidFour x = true → 0 < (s.xing x).age →
    xidSite x < 96 → s.stage (xidSite x) = some st → st.st ≠ .retired → ∃ t u,
    exec (.crossingTimeout x) s = .next t ∧ (t.xing x).failed = true ∧ t.stage (xidSite x) = some u ∧ u.st = .retired ∧
    t = { s.retirementOf t with xings := t.xings }) ∧
  (∀ (s : State) (x : BitVec 16), s.inReset = false → xidDouble x = true → s.testOf (.crossing x) = none →
    s.transientOf (.crossing x) + 1 ≤ s.allow → ∃ t,
    exec (.doubleSampleFailure x) s = .next t ∧ t.transientOf (.crossing x) = s.transientOf (.crossing x) + 1 ∧
    s.toldIn t (crossingErr 0x0F x none) 0 ∧
    (∀ st, s.stage (xidSite x) = some st → ∃ u, t.stage (xidSite x) = some u ∧ u.scratch = st.scratch ∧ u.seq = st.seq ∧
      (xidKind x = 0x7 → u.clock.supStep = st.clock.supOld) ∧
      (xidKind x = 0x8 → u.temps = st.temps.set (xidInst x) (st.tempsOld.getD (xidInst x) 25)) ∧
      (xidKind x = 0x9 → u.clock.pairLag = st.clock.pairOld) ∧ (xidKind x = 0xA → u.slackTick = none) ∧
      (xidKind x = 0xD → (u.link (Side.ofCode (xidInst x))).partner = (st.link (Side.ofCode (xidInst x))).partOld)) ∧
    t = { s.errorsOf t with stages := t.stages, edges := t.edges }) ∧
  (∀ (s : State) (x : BitVec 16), (xidFour x = false → exec (.crossingTimeout x) s = .next s) ∧
    (xidDouble x = false → exec (.doubleSampleFailure x) s = .next s))

/-! ### Host ports and records (chapter 12) -/

/-- The BAR0 words (R397, R398, R399, R401, R402, R519): out of reset and after boot, SUBMIT and BIND with a 64-byte-aligned
address begin a descriptor fetch, CONSUMED raises the count inside 0 to the produced count, and a zero UNBIND ends the
binding; any other value is discarded with an error event of kind 0x18, and a write before the end of boot with none. -/
def Obligations.MailboxWords : Prop :=
  (∀ (s : State) (p : Port) (w : Word), s.pins.bootDone = true → s.inReset = false →
    (w.toNat % 64 = 0 → exec (.submit p w) s = .next (s.modPort p (fun q => { q with submitAt := q.submitAt ++ [w] })) ∧
      exec (.bind p w) s = .next (s.modPort p (fun q => { q with bindAt := q.bindAt ++ [w] }))) ∧
    (w.toNat % 64 ≠ 0 → exec (.submit p w) s = .next (s.portEvent 0x18 p 0x0000) ∧
      exec (.bind p w) s = .next (s.portEvent 0x18 p 0x0010)) ∧
    ((s.port p).ring.isSome → (s.port p).consumed < w.toNat → w.toNat ≤ (s.port p).produced →
      exec (.consumed p w) s = .next (s.modPort p (fun q =>
        { q with consumed := w.toNat, stallTicks := 0, stallTold := false }))) ∧
    ((s.port p).ring = none ∨ w.toNat < (s.port p).consumed ∨ (s.port p).produced < w.toNat →
      exec (.consumed p w) s = .next (s.portEvent 0x18 p 0x0018)) ∧
    ((s.port p).ring.isSome → w.toNat = (s.port p).consumed → w.toNat ≤ (s.port p).produced →
      exec (.consumed p w) s = .next s) ∧
    (w = 0 → ∃ t, exec (.unbind p w) s = .next t ∧ (t.port p).ring = none ∧ (t.port p).prodDue = false ∧
      (t.port p).vec0Due = (s.port p).vec0Due ∧ (t.port p).queue = (s.port p).queue ∧ (t.port p).seq = (s.port p).seq ∧
      (t.port p).sent = (s.port p).sent ∧
      t.port p.other = s.port p.other ∧ t = { s with portA := t.portA, portB := t.portB }) ∧
    (w ≠ 0 → exec (.unbind p w) s = .next (s.portEvent 0x18 p 0x0020)) ∧
    (∀ o : BitVec 16, exec (.mailboxWriteMalformed p o) s = .next (s.portEvent 0x18 p o.toNat))) ∧
  (∀ (s : State) (p : Port) (w : Word) (o : BitVec 16), s.pins.bootDone = false ∨ s.inReset = true →
    exec (.bar0WriteBeforeBootEnd p o) s = .next s ∧ exec (.submit p w) s = .next s ∧ exec (.cutWord p w) s = .next s ∧
    exec (.bind p w) s = .next s ∧ exec (.consumed p w) s = .next s ∧ exec (.unbind p w) s = .next s)

/-- SUBMISSION_DESCRIPTOR_FETCHED (R402 to R404): a descriptor that keeps Table 12.4 takes the lowest free slot with status
0x01, or status 0x02 when none is free; one that breaks it gets status 0x03; a fetch through a port
that cannot send reads nothing and is malformed; of two that meet with one slot free the priority bit chooses, and then
favours the other port. -/
def Obligations.SubmissionTakesASlot : Prop :=
  (∀ (s : State) (f : Fetch) (w : Word) (rest : List Word), s.portA.submitAt = w :: rest → s.portA.canSend = true →
    f.err = false → fieldAt f.bytes 16 8 % 8 = 0 → fieldAt f.bytes 0 8 % 4096 = 0 → fieldAt f.bytes 8 8 % 4096 = 0 →
    8192 ≤ fieldAt f.bytes 8 8 → fieldAt f.bytes 8 8 ≤ 2 ^ 32 → fieldAt f.bytes 32 32 = 0 →
    (∀ i, s.slots[i]? = some none → (∀ j, j < i → s.slots[j]? ≠ some none) → i < 16 →
      ∃ t, exec (.submissionDescriptorFetched (some f) none) s = .next t ∧
        t.slots = s.slots.set i (some { port := .a, addr := fieldAt f.bytes 0 8, len := fieldAt f.bytes 8 8
                                        tag := BitVec.ofNat 64 (fieldAt f.bytes 24 8) }) ∧
        t.slotOrder = s.slotOrder ++ [i] ∧ t.portA.submitAt = rest ∧ t.portB = s.portB ∧
        t = { s with slots := t.slots, slotOrder := t.slotOrder, portA := t.portA }) ∧
    ((∀ i, i < 16 → s.slots[i]? ≠ some none) →
      exec (.submissionDescriptorFetched (some f) none) s = .next
        ((s.modPort .a (fun q => { q with submitAt := rest })).status .a (fieldAt f.bytes 16 8) 0x02 0xFF
          (BitVec.ofNat 64 (fieldAt f.bytes 24 8)).toNat))) ∧
  (∀ (s : State) (f : Fetch) (w : Word) (rest : List Word), s.portA.submitAt = w :: rest → s.portA.canSend = false →
    exec (.submissionDescriptorFetched (some f) none) s = .next
      ((s.modPort .a (fun q => { q with submitAt := rest })).portEvent 0x18 .a 0x0000)) ∧
  (∀ (s : State) (f : Fetch) (w : Word) (rest : List Word), s.portB.submitAt = w :: rest → s.portB.canSend = true →
    f.err = false → fieldAt f.bytes 16 8 % 8 = 0 → fieldAt f.bytes 0 8 % 4096 ≠ 0 →
    exec (.submissionDescriptorFetched none (some f)) s = .next
      ((s.modPort .b (fun q => { q with submitAt := rest })).status .b (fieldAt f.bytes 16 8) 0x03 0xFF
        (fieldAt f.bytes 24 8))) ∧
  (∀ (s : State) (f g : Fetch) (w v : Word) (r1 r2 : List Word) (sa sb : Submission) (xa xb i : Nat),
    s.portA.submitAt = w :: r1 → s.portB.submitAt = v :: r2 → s.portA.canSend = true → s.portB.canSend = true →
    judgeSubmit .a f = .request sa xa → judgeSubmit .b g = .request sb xb → s.freeSlots = [i] → ∃ t,
    exec (.submissionDescriptorFetched (some f) (some g)) s = .next t ∧
    t.slots = s.slots.set i (some (if s.slotPri = .a then sa else sb)) ∧ t.slotPri = s.slotPri.other ∧
    t.slotOrder = s.slotOrder ++ [i])

/-- CUT_WORD (R415, R488): a cut request of a context that can be cut is accepted or merged; a name that no context has gets
status 0x01 and one that is ending gets 0x02, with the requester's bit and zero counts; a reserved bit is malformed. -/
def Obligations.CutWordNamesAContext : Prop :=
  ∀ (s : State) (p : Port) (w : Word), s.pins.bootDone = true → s.inReset = false →
    (w.toNat / 2 ^ 8 % 2 ^ 24 = 0 → w.truncate 8 ≠ (0 : BitVec 8) →
      (s.cutTarget (w.truncate 8) (w.toNat / 2 ^ 32) = none →
        exec (.cutWord p w) s = .next (s.emit (w.truncate 8) 0 (.cutComplete
          { part := 0xFF, status := 0x01, mask := cutBit (.host p), frames := 0, totals := .zero }))) ∧
      (∀ k c, s.cutTarget (w.truncate 8) (w.toNat / 2 ^ 32) = some k → s.ctx k = some c → c.cuttable = true →
        exec (.cutWord p w) s = .next (s.acceptCut k (.host p))) ∧
      (∀ k c, s.cutTarget (w.truncate 8) (w.toNat / 2 ^ 32) = some k → s.ctx k = some c → c.cuttable = false →
        exec (.cutWord p w) s = .next (s.emit (w.truncate 8) c.epoch (.cutComplete
          { part := k, status := 0x02, mask := cutBit (.host p), frames := 0, totals := .zero })))) ∧
    (w.toNat / 2 ^ 8 % 2 ^ 24 ≠ 0 ∨ w.truncate 8 = (0 : BitVec 8) →
      exec (.cutWord p w) s = .next (s.portEvent 0x18 p 0x0008))

/-- BIND_DESCRIPTOR_FETCHED, HOST_PORT_RESET, HOST_LINK_ERROR, HOST_PORT_RETURN and D3HOT_ENTRY (R395, R399 to R401, R483, R540):
a valid bind through a port that can send starts its ring at zero with a zero producer word first; a link that trains below
its strapped width is told, and one below x4 or down resets the function; a function reset unbinds, abandons fetches
and pending vectors, and leaves queue, sequence number and held output; D3hot holds writes until the port returns. -/
def Obligations.BindingAndPortStates : Prop :=
  (∀ (s : State) (p : Port) (f : Fetch) (w : Word) (rest : List Word) (r : Ring), (s.port p).bindAt = w :: rest →
    judgeBind f = some r → (s.port p).up = true → (s.port p).d3hot = false → s.newestSet = none → ∃ t,
    exec (.bindDescriptorFetched p f) s = .next t ∧ (t.port p).ring = some r ∧ (t.port p).consumed = 0 ∧
    (t.port p).lost = 0 ∧ (t.port p).lostBind = 0 ∧ (t.port p).bindAt = rest ∧
    (t.port p).produced = (if (s.port p).lost = 0 then 127 else 130) ∧
    (∃ outs, (t.port p).sent = (s.port p).sent ++ .producer r.producer 0 :: outs) ∧
    (t.port p).queue = (s.port p).queue ∧ t.port p.other = s.port p.other ∧
    t = { s with portA := t.portA, portB := t.portB }) ∧
  (∀ (s : State) (p : Port) (f : Fetch) (w : Word) (rest : List Word), (s.port p).bindAt = w :: rest →
    judgeBind f = none ∨ (s.port p).canSend = false → exec (.bindDescriptorFetched p f) s = .next
      ((s.modPort p (fun q => { q with bindAt := rest })).portEvent 0x18 p 0x0010)) ∧
  (∀ (s : State) (p : Port) (k : PortReset), ∃ t, exec (.hostPortReset p k) s = .next t ∧
    (t.port p).ring = none ∧ (t.port p).submitAt = [] ∧ (t.port p).bindAt = [] ∧ (t.port p).msixPend = [] ∧
    (t.port p).d3hot = false ∧ ((t.port p).up = true ↔ (s.port p).up = true ∧ k = .flr) ∧
    (t.port p).queue = (s.port p).queue ∧ (t.port p).seq = (s.port p).seq ∧
    (∀ k i f a d, HostOut.line k i f a d ∈ (s.port p).held → HostOut.line k i f a d ∈ (t.port p).held) ∧
    t.port p.other = s.port p.other ∧ t = { s with portA := t.portA, portB := t.portB }) ∧
  (∀ (s : State) (p : Port) (k : LinkError), s.inReset = false →
    (k = .aer ∨ (∃ l, k = .narrow l ∧ 4 ≤ l ∧ l < s.hostLanes) →
      exec (.hostLinkError p k) s = .next (s.portEvent 0x17 p 0)) ∧
    (∀ l, k = .narrow l → s.hostLanes ≤ l → exec (.hostLinkError p k) s = .next s) ∧
    (k = .linkDown ∨ (∃ l, k = .narrow l ∧ l < 4) → ∃ t, exec (.hostLinkError p k) s = .next t ∧
      (t.port p).up = false ∧ (t.port p).ring = none ∧ (∃ e, t.dailies.log.getLast? = some e ∧ e.kind = 0x01) ∧
      t = { s with portA := t.portA, portB := t.portB, dailies := t.dailies })) ∧
  (∀ (s : State) (p : Port), s.inReset = false → exec (.hostPortReturn p) s = .next (s.modPort p (fun q => { q with
    up := true, d3hot := false, sent := q.sent ++ q.held ++ q.msixPend.map HostOut.msix, held := [], msixPend := [] }))) ∧
  (∀ (s : State) (p : Port), (s.port p).up = true →
    exec (.d3hotEntry p) s = .next (s.modPort p (fun q => { q with d3hot := true })))

/-- RECORD_AT_PORT_HEAD and RECORD_QUEUE_DROP (R408 to R411): a record at the head of a port that can send and has room is
written at the produced position and takes the next sequence number; with no ring, or no room, it is dropped, counted and
takes the number; a record that finds the queue full joins a drop marker.

PRODUCER_WORD_WRITE, MSIX_RECORD_VECTOR and OUTPUT_WRITES_COMPLETE (R111, R409, R412, R414): the produced count goes to a
bound port's producer word once, vector 0 follows, and when no write of a commit is held its staging slots are free and
the partition's vector is signalled, for a commit whose context is gone as well.

RING_STALL (R487): a bound ring whose unread records have not moved for W × 65,536 ticks is entered once. -/
def Obligations.RecordsVectorsAndStalls : Prop :=
  ((∀ (s : State) (p : Port) (r : Record) (rest : List QItem), (s.port p).queue = .item r :: rest →
    (∀ g, (s.port p).ring = some g → (s.port p).canSend = true → (s.port p).lost = 0 → g.exponent = 30 →
      r.body.units + ((s.port p).produced - (s.port p).consumed) ≤ 2 ^ 26 →
      ∃ t, exec (.recordAtPortHead p) s = .next t ∧ (t.port p).queue = rest ∧
        (t.port p).produced = (s.port p).produced + r.body.units ∧ (t.port p).seq = (s.port p).seq + 1 ∧
        (t.port p).prodDue = true ∧ (t.port p).lost = 0 ∧ t.port p.other = s.port p.other ∧
        ((s.port p).produced % 2 ^ 26 = 0 → (r.bytes (s.port p).seq).length ≤ 2 ^ 30 →
          (t.port p).sent = (s.port p).sent ++ [.ring 0 (r.bytes (s.port p).seq)]) ∧
        t = { s with portA := t.portA, portB := t.portB }) ∧
    ((s.port p).ring = none → ∃ t, exec (.recordAtPortHead p) s = .next t ∧ (t.port p).queue = rest ∧
      (t.port p).lost = (s.port p).lost + 1 ∧ (t.port p).lostBind = (s.port p).lostBind + 1 ∧
      (t.port p).seq = (s.port p).seq + 1 ∧ (t.port p).lastLost = (s.port p).seq ∧
      (t.port p).produced = (s.port p).produced ∧ t = { s with portA := t.portA, portB := t.portB })) ∧
  (∀ (s : State) (p : Port) (n : Nat) (rest : List QItem), (s.port p).queue = .drop n :: rest → ∃ t,
    exec (.recordAtPortHead p) s = .next t ∧ (t.port p).lost = (s.port p).lost + n ∧
    (t.port p).seq = (s.port p).seq + BitVec.ofNat 32 n ∧ (t.port p).queue = rest ∧
    t = { s with portA := t.portA, portB := t.portB }) ∧
  (∀ (s : State) (p : Port) (n : Nat),
    (262144 < queueBytes (s.port p).queue + 16 * n → exec (.recordQueueDrop p n) s = .next
      (s.modPort p (fun q => { q with queue := joinDrop q.queue }))) ∧
    (queueBytes (s.port p).queue + 16 * n ≤ 262144 → exec (.recordQueueDrop p n) s = .next s))) ∧
  ((∀ (s : State) (p : Port) (r : Ring), (s.port p).ring = some r → (s.port p).prodDue = true →
    (s.port p).canSend = true → exec (.producerWordWrite p) s = .next (s.modPort p (fun q => { q with
      sent := q.sent ++ [.producer r.producer q.produced], prodDue := false, vec0Due := true }))) ∧
  (∀ (s : State) (p : Port), (s.port p).vec0Due = true → (s.port p).canSend = true →
    exec (.msixRecordVector p) s = .next (s.modPort p (fun q => { q with
      sent := q.sent ++ [.msix 0], vec0Due := false, vec0At := some s.time.wafer }))) ∧
  (∀ (s : State) (p : Port) (k n m : Nat) (c : Ctx) (rest : List (Nat × Port × Nat)), s.ctx k = some c →
    c.outs = (n, p, m) :: rest → (∀ x ∈ (s.port p).late, x.1 ≠ k) → (s.port p).holds k c.id m = false →
    (s.port p).canSend = true → ∃ t d,
    exec (.outputWritesComplete p k) s = .next t ∧ t.ctx k = some d ∧
    (∀ x ∈ d.outs, ¬ (x.2.1 = p ∧ x.2.2 = m)) ∧ (∀ x ∈ c.outs, ¬ (x.2.1 = p ∧ x.2.2 = m) → x ∈ d.outs) ∧
    (t.port p).sent = (s.port p).sent ++ [.msix (8 + k)] ∧
    t = { s with parts := t.parts, portA := t.portA, portB := t.portB }) ∧
  (∀ (s : State) (p : Port) (k f : Nat) (i : BitVec 8) (rest : List (Nat × BitVec 8 × Nat)),
    (s.port p).late = (k, i, f) :: rest → (s.port p).holds k i f = false → (s.port p).canSend = true → ∃ t,
    exec (.outputWritesComplete p k) s = .next t ∧ (t.port p).late = rest.filter (fun x => x ≠ (k, i, f)) ∧
    (t.port p).sent = (s.port p).sent ++ [.msix (8 + k)] ∧ t = { s with portA := t.portA, portB := t.portB })) ∧
  (∀ (s : State) (p : Port),
    ((s.port p).ring.isSome → (s.port p).stallTold = false → s.window * 65536 ≤ (s.port p).stallTicks → ∃ t,
      exec (.ringStall p) s = .next t ∧ (t.port p).stallTold = true ∧
      (∃ e, t.dailies.log.getLast? = some e ∧ e.kind = 0x0A ∧
        e.payload = leBytes 1 p.code ++ zeros 7 ++ leBytes 8 (s.port p).consumed) ∧
      t = { s with portA := t.portA, portB := t.portB, dailies := t.dailies }) ∧
    ((s.port p).stallTold = true ∨ (s.port p).stallTicks < s.window * 65536 → exec (.ringStall p) s = .next s))

/-! ### The load check, acceptance and loading (chapter 11) -/

/-- LOAD_CHECK_START and LOAD_CHECK_READ_COMPLETE (R84, R381 to R384, R403): the check of the oldest slot begins with the cap in
force, a parked module refuses it unread with reason 0x1B, a failed read is refused with 0x17, and bytes that pass tests
2 to 11 leave the reel for the acceptance step. A refusal writes its record and frees the slot.

ACCEPTANCE_STEP (R284, R382, R385 to R387): a reel that passes tests 12 to 15 gets the lowest free partition, epoch 0, a
context ID that no context holds, and every stage of its rectangle; one that fails is refused and its slot freed; a chip
compute reset holds the step. -/
def Obligations.LoadCheckAndAcceptance : Prop :=
  ((∀ (s : State) (k : Nat) (rest : List Nat), s.check = none → s.pins.bootDone = true → s.inReset = false →
    s.slotOrder = k :: rest →
    (s.pins.parked = false → exec .loadCheckStart s = .next { s with
      check := some { slot := k, cap := s.gaffer.cap, reel := none } }) ∧
    (∀ sub, s.pins.parked = true → s.slots[k]? = some (some sub) → ∃ t, exec .loadCheckStart s = .next t ∧
      t = { s.emit 0 0 (.refused k 0x1B sub.port.code sub.tag (BitVec.ofNat 64 parkedRefusal.detail) (zeros 32)) with
        check := none, slots := s.slots.set k none, slotOrder := s.slotOrder.erase k })) ∧
  (∀ (s : State) (k cap : Nat) (sub : Submission), s.check = some { slot := k, cap := cap, reel := none } →
    s.slots[k]? = some (some sub) →
    (∀ o, o = none ∨ (s.port sub.port).canSend = false → exec (.loadCheckReadComplete o) s = .next
      { s.emit 0 0 (.refused k 0x17 sub.port.code sub.tag (BitVec.ofNat 64 unreadRefusal.detail) (zeros 32)) with
        check := none, slots := s.slots.set k none, slotOrder := s.slotOrder.erase k }) ∧
    (∀ bytes r, (s.port sub.port).canSend = true → judgeReel bytes sub.len (s.strap 0) = .inr r →
      exec (.loadCheckReadComplete (some bytes)) s = .next { s with
        check := some { slot := k, cap := cap, reel := some r } }))) ∧
  ((∀ (s : State) (k cap p o : Nat) (sub : Submission) (r : Reel), s.level4 = none → s.pins.parked = false →
    s.check = some { slot := k, cap := cap, reel := some r } → s.slots[k]? = some (some sub) → s.parts.length = 8 →
    s.stages.length = 96 → s.judgeState cap r = .inr (p, o) → ∃ t c, exec .acceptanceStep s = .next t ∧
    t.ctx p = some c ∧ s.ctx p = none ∧ (∀ q, q < p → s.ctx q ≠ none) ∧ c.reel = r ∧ c.origin = o ∧ c.epoch = 0 ∧
    c.frame = 0 ∧ c.loaded = false ∧ c.tag = sub.tag ∧ c.port = sub.port ∧ c.id = t.lastCtx ∧
    (∀ n ∈ rectStages o r.h r.w, ∃ u, t.stage n = some u ∧ u.part = some p) ∧
    (∀ n, n ∉ rectStages o r.h r.w → t.stage n = s.stage n) ∧ (∀ q, q ≠ p → t.ctx q = s.ctx q) ∧
    t.check = none ∧ t.slots = s.slots.set k none ∧
    t = { s.recordsOf t with
      stages := t.stages, parts := t.parts, lastCtx := t.lastCtx, check := none, slots := t.slots
      slotOrder := s.slotOrder.erase k }) ∧
  (∀ (s : State) (k cap : Nat) (sub : Submission) (r : Reel) (f : Refused), s.level4 = none → s.pins.parked = false →
    s.check = some { slot := k, cap := cap, reel := some r } → s.slots[k]? = some (some sub) →
    s.judgeState cap r = .inl f → exec .acceptanceStep s = .next
      { s.emit 0 0 (.refused k f.reason sub.port.code sub.tag (BitVec.ofNat 64 f.detail) r.hash) with
        check := none, slots := s.slots.set k none, slotOrder := s.slotOrder.erase k }) ∧
  (∀ s : State, s.level4.isSome → exec .acceptanceStep s = .next s))

/-- REEL_LOAD, REEL_LOAD_COMPLETE and LOAD_TIMEOUT (R388, R389): with every stage lit the second read fills scripts and banks
without a journal and is judged by its hashes; a sound one completes the loading, and a read error, a wrong hash or the
timeout fails the context with cause 0x1A, 0x18 or 0x19, or 0x1B. -/
def Obligations.Loading : Prop :=
  (∀ (s : State) (p : Nat) (c : Ctx) (body : List Byte) (segs : List (List Byte)), s.ctx p = some c →
    c.loading = true → (∀ n ∈ c.stages, ∀ st, s.stage n = some st → st.st = .lit) →
    ((s.port c.port).canSend = false →
      exec (.reelLoad p body segs) s = .next (s.modCtx p (fun c => { c with loadOk := some 0x1A }))) ∧
    ((s.port c.port).canSend = true → ∃ t,
    exec (.reelLoad p body segs) s = .next t ∧
    t.ctx p = some { c with loadOk := some (loadVerdict c.reel body segs) } ∧
    (∀ n st, s.stage n = some st → ∃ u, t.stage n = some u ∧ u.journal = st.journal ∧ u.acc = st.acc ∧
      u.st = st.st ∧ u.part = st.part ∧ (n ∉ c.stages → u = st)) ∧
    t = { s with stages := t.stages, parts := t.parts })) ∧
  (∀ (s : State) (p : Nat) (c : Ctx), s.ctx p = some c → c.loading = true →
    (c.loadOk = some 0 → exec (.reelLoadComplete p false) s = .next (s.modCtx p (fun c => { c with loaded := true }))) ∧
    (∃ t d, exec (.reelLoadComplete p true) s = .next t ∧ t.ctx p = some d ∧
      d.endDue = some (false, 0x1A, 0xFF, 0xFF) ∧ t = { s with stages := t.stages, parts := t.parts }) ∧
    (∀ k, c.loadOk = some (k + 1) → ∃ t d, exec (.reelLoadComplete p false) s = .next t ∧ t.ctx p = some d ∧
      d.endDue = some (false, k + 1, 0xFF, 0xFF)) ∧
    (∃ t d, exec (.loadTimeout p) s = .next t ∧ t.ctx p = some d ∧ d.endDue = some (false, 0x1B, 0xFF, 0xFF) ∧
      t = { s with stages := t.stages, parts := t.parts }))

/-! ### The gaffer, sense and rails (chapter 8) -/

/-- GAFFER_UPDATE, CAP_UNATTAINABLE and ISSUE_LIMIT_RECEIVED (R266, R272 to R274, R276, R278, R281, R282, R286): an update
moves wafer time to its instant, puts the interval's power first in the history, which a lowered cap clamps, sets the limit
its rule chooses, or 1 with the infeasible run raised, and starts every stage's activity anew; a rail whose stages are
unlit or retired reports nothing; a run of 1,250 is entered once; a lit stage takes the one limit the gaffer has sent. -/
def Obligations.GafferUpdate : Prop :=
  (∀ (s : State) (p : Rat), s.pins.bootDone = true → s.inReset = false → p = railsPower s.rails s.railReports → ∃ t,
    exec .gafferUpdate s = .next t ∧ t.time = { s.time with
      wafer := s.nextUpdate
      applied := if s.nextUpdate.toNat % 5120 = 0 then divider s.time.corr else s.time.applied } ∧
    t.gaffer.hist = (if s.capNow < s.gaffer.cap then ((p :: s.gaffer.hist).take 1250).map (clampTo s.capNow)
      else (p :: s.gaffer.hist).take 1250) ∧
    t.gaffer.cap = s.capNow ∧ t.gaffer.limitOld = s.gaffer.limit ∧
    t.gaffer.limit =
      (chooseLimit (powerBound s.rails s.railReports) t.gaffer.hist s.gaffer.limit s.capNow).getD 1 ∧
    (chooseLimit (powerBound s.rails s.railReports) t.gaffer.hist s.gaffer.limit s.capNow = none →
      t.gaffer.infeasRun = s.gaffer.infeasRun + 1) ∧
    ((chooseLimit (powerBound s.rails s.railReports) t.gaffer.hist s.gaffer.limit s.capNow).isSome →
      t.gaffer.infeasRun = 0) ∧
    t.gaffer.lastUpdate = some s.nextUpdate ∧
    (∀ n st, s.stage n = some st → ∃ u, t.stage n = some u ∧
      u = { st with work := Work.zero, island := s.nextUpdate, clock := u.clock } ∧ u.clock.lag = st.clock.lag) ∧
    t = { s with time := t.time, gaffer := t.gaffer, rails := t.rails, stages := t.stages }) ∧
  (∀ (s : State) (x : Nat),
    (∀ n ∈ railStages x, ∀ st, s.stage n = some st → st.st = .unlit ∨ st.st = .retired) →
    (s.railReport x).d = 0 ∧ (s.railReport x).q = 0) ∧
  (∀ s : State, 1250 ≤ s.gaffer.infeasRun → s.gaffer.infeasTold = false → ∃ t, exec .capUnattainable s = .next t ∧
    t.gaffer = { s.gaffer with infeasTold := true } ∧
    (∃ e, t.dailies.log.getLast? = some e ∧ e.kind = 0x08 ∧ e.payload = leBytes 4 s.gaffer.cap ++
      leBytes 4 (capAt 0xFFFFFFFF s.gaffer.infeasMax.floor.toNat)) ∧
    t = { s with gaffer := t.gaffer, dailies := t.dailies }) ∧
  (∀ s : State, s.gaffer.infeasRun < 1250 ∨ s.gaffer.infeasTold = true → exec .capUnattainable s = .next s) ∧
  (∀ (s : State) (n : Nat) (st : Stage), s.stage n = some st →
    (st.st = .lit → exec (.issueLimitReceived n) s = .next (s.putStage n { st with limit := s.gaffer.limit })) ∧
    (st.st ≠ .lit → exec (.issueLimitReceived n) s = .next s))

/-- The choice of the issue limit (R279): it is the largest value from 1 to 16 that passes every check, and there is none
exactly when no value passes; a value passes when both windows hold both sums within their limits. -/
def Obligations.IssueLimitIsTheLargestThatPasses : Prop :=
  ∀ (bound : Nat → Rat) (hist : List Rat) (prev : Nat) (cap : Rat),
    (∀ l, chooseLimit bound hist prev cap = some l ↔ (1 ≤ l ∧ l ≤ 16 ∧ limitPasses bound hist prev cap l = true ∧
      ∀ k, l < k → k ≤ 16 → limitPasses bound hist prev cap k = false)) ∧
    (chooseLimit bound hist prev cap = none ↔
      ∀ k, 1 ≤ k → k ≤ 16 → limitPasses bound hist prev cap k = false) ∧
    (∀ l, limitPasses bound hist prev cap l = true ↔
      ((hist.take 124).sum + bound (max prev l) ≤ 125 * (cap * 11 / 10) ∧
       (hist.take 123).sum + bound (max prev l) + bound l ≤ 125 * (cap * 11 / 10) ∧
       (hist.take 1249).sum + bound (max prev l) ≤ 1250 * cap ∧
       (hist.take 1248).sum + bound (max prev l) + bound l ≤ 1250 * cap))

/-- SENSE_SWEEP, SENSE_SWEEP_COMPLETE and GAIN_CLAMP_OR_SENSE_MISSING (R269, R271, R275): a sweep begins once at an update on a
whole millisecond and takes the activity of the millisecond before it; a rail with no good reading, at once or repeated, keeps a gain and lengthens its missing run; a gain stays between 1/2 and 2;
64 clamped sweeps or 8 missing ones hold the gain, with an error event of kind 0x12.

RAIL_RECHECK and RAIL_RECHECK_COMPLETE (R475 to R477): a pending test of a rail starts its re-check; a re-check that no
test waits for any more ends with the rail as it was; one that passes in every reading counts the rail's errors as
transient. -/
def Obligations.SenseAndRechecks : Prop :=
  ((∀ s : State, s.gaffer.sweepDue = false → exec .senseSweep s = .next s) ∧
  (∀ (s : State) (w : WaferTime), s.pins.bootDone = true → s.inReset = false → s.gaffer.lastUpdate = some w →
    w.toNat % 256000000 = 0 → s.gaffer.lastSweep ≠ some w → ∃ t, exec .senseSweep s = .next t ∧
    t.gaffer = { s.gaffer with sweeping := true, lastSweep := some w } ∧ t.rails.length = s.rails.length ∧
    (∀ (x : Nat) (r : Rail), s.rails[x]? = some r → t.rails[x]? = some { r with swept := r.act, act := Activity.zero }) ∧
    t = { s with gaffer := t.gaffer, rails := t.rails }) ∧
  (∀ (s : State) (rs : List AvsRead) (ms : List Nat), s.gaffer.sweeping = true → ∃ t,
    exec (.senseSweepComplete rs ms) s = .next t ∧ t.gaffer = { s.gaffer with sweeping := false } ∧
    t.rails.length = s.rails.length ∧
    (∀ (x : Nat) (r : Rail), s.rails[x]? = some r → 1 / 2 ≤ r.gain → r.gain ≤ 2 → ∃ q, t.rails[x]? = some q ∧ 1 / 2 ≤ q.gain ∧
      q.gain ≤ 2 ∧ (s.avsRead rs x = none → q.gain = r.gain ∧ q.missRun = r.missRun + 1) ∧
      ((s.avsRead rs x).isSome → q.missRun = 0)) ∧
    t.straps = s.straps ∧ t.slate = s.slate ∧ t.time = s.time) ∧
  (∀ (s : State) (x : Nat), x < 28 → s.rails.length = 28 → (s.rail x).gainHeld = false → (s.rail x).gainDead = false →
    64 ≤ (s.rail x).clampRun ∨ 8 ≤ (s.rail x).missRun → ∃ t, exec (.gainClampOrSenseMissing x) s = .next t ∧
    t.rail x = { s.rail x with gainHeld := true } ∧ (∀ y, y ≠ x → t.rail y = s.rail y) ∧
    (∃ k, t.testOf (.rail x) = some k ∧ 0x12 ∈ k.kinds) ∧
    (∃ e, t.dailies.log.getLast? = some e ∧ e.kind = 0x01 ∧
      e.payload = errBytes (s.errBody (moduleErr 0x12 x (some (.rail x))) 0 0)) ∧
    t = { s.errorsOf t with rails := t.rails })) ∧
  ((∀ (s : State) (x : Nat) (k : Test), x < 28 → s.rails.length = 28 → s.testOf (.rail x) = some k → ∃ t j,
    exec (.railRecheck x) s = .next t ∧ t.rail x = { s.rail x with recheck := true } ∧
    t.testOf (.rail x) = some j ∧ j = { k with running := true } ∧
    t = { s with rails := t.rails, tests := t.tests }) ∧
  (∀ (s : State) (x : Nat) (d : RecheckData), (s.rail x).recheck = true → (∀ k ∈ s.tests, recheckTest x k = false) →
    exec (.railRecheckComplete x d) s = .next (s.modRail x (fun r => { r with
      recheck := false, gainHeld := r.gainHeld && (r.gainDead || decide (r.broken ≠ 0)) }))) ∧
  (∀ (s : State) (x : Nat) (d : RecheckData) (k : Test), 24 ≤ x → x < 28 → s.rails.length = 28 →
    (s.rail x).recheck = true → s.tests = [k] → k.unit = .rail x → segmentPasses d = true →
    s.transientOf (.rail x) + k.joined ≤ s.allow → ∃ t, exec (.railRecheckComplete x d) s = .next t ∧ t.tests = [] ∧
    t.transientOf (.rail x) = s.transientOf (.rail x) + k.joined ∧ (t.rail x).recheck = false ∧
    (t.rail x).gain = (s.rail x).gain ∧ t = { s with rails := t.rails, tests := t.tests, transients := t.transients }))

/-- SLACK_TO_VOLTS and AVSBUS_WRITE_FAILED (R153, R288, R290, R291): at each 64th tick a rail whose lowest slack over the
interval is ample falls by 5 mV to 500 mV at least, one with little rises by 5 mV to 800 mV at most, and others, held ones
and segments stay, and a new interval begins; a failed write puts the rail back to its confirmed voltage with an error event
of kind 0x13. -/
def Obligations.SlackToVolts : Prop :=
  (∀ s : State, s.time.tickCount.toNat % 64 ≠ 0 → exec .slackToVolts s = .next s) ∧
  (∀ s : State, s.pins.bootDone = true → s.inReset = false → s.time.tickCount.toNat % 64 = 0 → ∃ t,
    exec .slackToVolts s = .next t ∧ t = { s with rails := t.rails, stages := t.stages } ∧
    t.rails.length = s.rails.length ∧
    (∀ (x : Nat) (r : Rail), x < 24 → s.rails[x]? = some r → ∃ q, t.rails[x]? = some q ∧ q.topStep = s.topDriven x ∧
      (q.volt ≠ r.volt → q.confirmed = r.volt) ∧ (s.offLoop x = true → q.volt = r.volt) ∧
      (s.offLoop x = false → ∀ c, s.railSlack x = some c →
        (13 ≤ c → 505 ≤ r.volt → q.volt = r.volt - 5) ∧ (13 ≤ c → r.volt < 505 → q.volt = 500) ∧
        (c ≤ 8 → r.volt ≤ 795 → q.volt = r.volt + 5) ∧ (c ≤ 8 → 795 < r.volt → q.volt = 800) ∧
        (8 < c → c < 13 → q.volt = r.volt)) ∧
      (s.railSlack x = none → q.volt = r.volt)) ∧
    (∀ x, 24 ≤ x → t.rails[x]? = s.rails[x]?) ∧
    (∀ n st, s.stage n = some st → ∃ u, t.stage n = some u ∧ u = { st with
      slackTick := none, slackLow := none, clock := { st.clock with marginOk := u.clock.marginOk } })) ∧
  (∀ (s : State) (x : Nat) (r : Rail), x < 24 → s.pins.bootDone = true → s.inReset = false → s.rails[x]? = some r →
    ∃ t, exec (.avsbusWriteFailed x) s = .next t ∧ t.rails[x]? = some { r with volt := r.confirmed } ∧
    (∃ k, t.testOf (.rail x) = some k ∧ 0x13 ∈ k.kinds) ∧
    (∃ e, t.dailies.log.getLast? = some e ∧ e.kind = 0x01 ∧
      e.payload = errBytes (s.errBody (moduleErr 0x13 x (some (.rail x))) 3 0)) ∧
    t = { s.errorsOf t with rails := t.rails })

/-! ### Droop, clocks and operating steps (chapters 4 and 5) -/

/-- DROOP_TRIP and DROOP_CLEAR (R169 to R171, R174, R177, R178): a detector whose reading, against a reference that a trip
freezes, reaches the trip point is tripped; below the run limit each due edge with the request present is lengthened by δ
core cycles, which the stage's counter falls behind by; at the limit the tree halts; a masked detector alone asks for
nothing; when the last one clears the run ends at the next due edge and the references stay frozen for 16 cycles.

HALT_END, PERSISTENT_DROOP, DROOP_OVERRUN_LIMIT and NOTICE_ASSERT (R178 to R180, R207, R208, R478): a halt that ends counts
its length, and as an overrun with a trace entry when it is at most 500 reference cycles; one that does not end within
2 µs takes the partition to reset; 256 overruns start the clock path's test with the count at zero; a notice takes both
ends of every splice out of aligned mode. -/
def Obligations.DroopHaltsAndNotices : Prop :=
  ((∀ (s : State) (n d v r e : Nat) (st : Stage) (k : Clock), s.stage n = some st → st.st = .lit → d < 16 →
    k = st.clock.readDet d v r → st.clock.halted = false →
    (k.tripsAt d s.droopPct = true → st.masked.getLsbD d = false → 0 < e → st.clock.run + e ≤ s.runLimit → ∃ t u,
      exec (.droopTrip n d v r e) s = .next t ∧ t.stage n = some u ∧ u.clock.tripped.getLsbD d = true ∧
      u.clock.run = st.clock.run + e ∧ u.clock.q = st.clock.q + e * s.delta ∧
      u.clock.lag = st.clock.lag + ((e * s.delta : Nat) : Rat) * coreCycle st.clock.drive.step ∧
      u.clock.stretched = st.clock.stretched + e ∧
      u.clock.halted = false ∧ u.clock.notice = true ∧ (∀ f, (u.link f).aligned = false) ∧
      t = { s with stages := t.stages, edges := t.edges }) ∧
    (k.tripsAt d s.droopPct = true → st.masked.getLsbD d = false → st.clock.run = s.runLimit → 0 < e → ∃ t u,
      exec (.droopTrip n d v r e) s = .next t ∧ t.stage n = some u ∧ u.clock.halted = true ∧
      u.clock.halts = st.clock.halts + 1 ∧ u.clock.run = st.clock.run) ∧
    (k.tripsAt d s.droopPct = true → st.masked.getLsbD d = true → st.droop = false →
      exec (.droopTrip n d v r e) s = .next (s.putStage n { st with clock := (k.trip d).clearEdges e })) ∧
    (k.tripsAt d s.droopPct = false → st.droop = false →
      exec (.droopTrip n d v r e) s = .next (s.putStage n { st with clock := k.clearEdges e })) ∧
    (st.clock.tripped ≠ 0 ∨ 0 < st.clock.freeze → (st.clock.detRef.getD d none).isSome → k.detRef = st.clock.detRef)) ∧
  (∀ (s : State) (n d v e : Nat) (st : Stage) (k : Clock), s.stage n = some st → st.st = .lit → d < 16 →
    st.clock.halted = false → st.clock.realign = false → k = { st.clock with detDelay := st.clock.detDelay.set d v } →
    (k.clearsAt d s.droopPct = true →
      (st.clock.tripped &&& ~~~BitVec.ofNat 16 (2 ^ d)) &&& ~~~st.masked = 0 → ∃ u,
      exec (.droopClear n d v e) s = .next (s.putStage n u) ∧ u.clock.tripped.getLsbD d = false ∧
      u.clock.run = (if e = 0 then st.clock.run else 0) ∧
      u.clock.freeze = (if u.clock.tripped = 0 then 16 - e else 16) ∧
      u = { st with clock := { k with tripped := u.clock.tripped, run := u.clock.run, freeze := u.clock.freeze } }) ∧
    (k.clearsAt d s.droopPct = false → st.droop = false →
      exec (.droopClear n d v e) s = .next (s.putStage n { st with clock := k.clearEdges e })))) ∧
  ((∀ (s : State) (n k : Nat) (st : Stage), s.stage n = some st → st.clocked = true → st.clock.halted = true →
    st.droop = false → s.delta ≤ k → st.clock.realign = false → ∃ t u, exec (.haltEnd n k) s = .next t ∧
    t.stage n = some u ∧ u.clock.halted = false ∧ u.clock.run = 0 ∧ u.clock.heldCores = 0 ∧ u.clock.freeze = 16 ∧
    u.clock.lag = st.clock.lag + ((k - st.clock.heldCores : Nat) : Rat) * coreCycle st.clock.drive.step ∧
    u.clock.q = st.clock.q + k ∧ haltLength k st.clock.drive.step ≤ u.clock.longest ∧
    u.clock.overruns = st.clock.overruns + (if haltLength k st.clock.drive.step ≤ 500 then 1 else 0) ∧
    (∀ m, m ≠ n → t.stage m = s.stage m) ∧ t = { s with stages := t.stages }) ∧
  (∀ (s : State) (n p : Nat) (st : Stage) (c : Ctx), s.stage n = some st → s.ctxOf n = some (p, c) →
    st.clocked = true → st.clock.halted = true → c.level = none → s.testOf (.clockPath n) = none → ∃ t d l,
    exec (.persistentDroop n) s = .next t ∧ t.ctx p = some d ∧ d.level = some l ∧ l.level = 3 ∧ l.trigger = 0x09 ∧
    l.stage = n ∧ d.epoch = c.epoch + 1 ∧ (∃ k, t.testOf (.clockPath n) = some k ∧ k.kinds = [0x09]) ∧
    (∃ e ∈ t.dailies.log, e.kind = 0x01 ∧
      e.payload = errBytes (s.errBody (stageErr 0x09 n (some (.clockPath n))) 0x04 0))) ∧
  (∀ (s : State) (n : Nat) (st : Stage), s.stage n = some st → st.st ≠ .retired → 256 ≤ st.clock.overruns →
    s.testOf (.clockPath n) = none → ∃ t, exec (.droopOverrunLimit n) s = .next t ∧
    t.stage n = some { st with clock := { st.clock with overruns := 0, limitHit := true } } ∧
    (∃ k, t.testOf (.clockPath n) = some k ∧ k.joined = 0) ∧ t = { s with stages := t.stages, tests := t.tests }) ∧
  (∀ (s : State) (n : Nat) (st : Stage), s.stage n = some st → st.clocked = true → ∃ t u,
    exec (.noticeAssert n) s = .next t ∧ t.stage n = some u ∧ u.clock = { st.clock with notice := true } ∧
    (∀ d, (u.link d).aligned = false) ∧
    (∀ d m v, neighbour n d = some m → t.stage m = some v → (v.link d.opposite).aligned = false) ∧
    t = { s with stages := t.stages, edges := t.edges }))

/-- CORE_RETUNE_LOCK and CORE_LOCK_LOST (R155, R156, R167): a retuning core locks, and a step-down that waits for it is made; a
stage without a locked driving core goes on with a spare core that locks at or below its step and at or above the floor; a
spare core's loss of lock is an event of kind 0x08 with a test and the core unlocked; a driving core's loss is a detected
error of kind 0x07 that never leaves the stage on an unlocked core while such a spare stands.

STEP_BROADCAST_RECEIVED and STEP_ACCEPTED (R130, R160, R163): a stage takes the new target, no higher than its usable fmax,
and is ready at once when it drives there, or retunes its spare core to it; when every stage has reported ready the request
is accepted and the STEP shots retire. -/
def Obligations.CoresAndOperatingSteps : Prop :=
  ((∀ (s : State) (n i : Nat) (st : Stage) (k : Clock), s.stage n = some st → st.clocked = true → i ≤ 1 →
    (st.clock.core i).locked = false → k = st.clock.putCore i { st.clock.core i with locked := true } →
    (k.drive.locked = true → k.downTo = none →
      exec (.coreRetuneLock n i) s = .next ((s.putStage n { st with clock := k }).checkReady n)) ∧
    (∀ d, k.drive.locked = true → k.downTo = some d → k.spare = { step := d, locked := true } → d + 1 = k.drive.step →
      ∃ t u, exec (.coreRetuneLock n i) s = .next t ∧ t.stage n = some u ∧ u.clock.drive = k.spare ∧
      u.clock.drive1 = !k.drive1 ∧ u.clock.downTo = none ∧ u.clock.downs = k.downs + 1 ∧ u.clock.downFrame = true) ∧
    (k.drive.locked = false → k.spare.locked = true → k.spare.step ≤ k.drive.step → s.floorOf n ≤ k.spare.step →
      k.downTo = none → ∃ t u, exec (.coreRetuneLock n i) s = .next t ∧ t.stage n = some u ∧
      u.clock.drive = k.spare ∧ u.clock.drive1 = !k.drive1)) ∧
  (∀ (s : State) (n : Nat) (st : Stage), s.stage n = some st → st.clocked = true → st.clock.drive1 = false →
    st.clock.core1.locked = true → s.testOf (.clockPath n) = none → ∃ t, exec (.coreLockLost n 1) s = .next t ∧
    t.stage n = some { st with clock := { st.clock with core1 := { st.clock.core1 with locked := false } } } ∧
    (∃ k, t.testOf (.clockPath n) = some k ∧ k.kinds = [0x08]) ∧ t = { s.errorsOf t with stages := t.stages }) ∧
  (∀ (s : State) (n : Nat) (st : Stage), s.stage n = some st → st.clocked = true →
    st.clock.drive1 = false → st.clock.core0.locked = true → st.clock.core1.locked = true →
    st.clock.core1.step ≤ st.clock.core0.step → s.floorOf n ≤ st.clock.core1.step → s.testOf (.clockPath n) = none →
    ∃ t u, exec (.coreLockLost n 0) s = .next t ∧ t.stage n = some u ∧ u.clock.drive1 = true ∧
    u.clock.drive.locked = true ∧ (∃ k, t.testOf (.clockPath n) = some k ∧ k.kinds = [0x07]))) ∧
  ((∀ (s : State) (n p g : Nat) (st : Stage) (c : Ctx) (r : StepReq), s.stage n = some st → s.ctxOf n = some (p, c) →
    c.stepReq = some r → st.clocked = true → r.accepted = false → r.waiting.contains n = true →
    st.clock.newTau = none → st.clock.downTo = none → g = min r.code (st.fmaxDue.getD st.usable) →
    (st.clock.drive.step ≠ g → st.clock.spare.step ≠ g → ∃ t u,
      exec (.stepBroadcastReceived n) s = .next t ∧ t.stage n = some u ∧ u.clock.newTau = some g ∧
      u.clock.spare = { step := g, locked := false } ∧ u.clock.drive = st.clock.drive ∧
      t = { s with stages := t.stages }) ∧
    (st.clock.drive.step = g → st.clock.tau ≤ g → exec (.stepBroadcastReceived n) s = .next
      ((s.putStage n { st with clock := { st.clock with newTau := some g } }).readyFor n))) ∧
  (∀ (s : State) (p : Nat) (c : Ctx) (r : StepReq), s.ctx p = some c → c.stepReq = some r → r.accepted = false →
    r.waiting = [] → ∃ t d, exec (.stepAccepted p) s = .next t ∧ t.ctx p = some d ∧
    d.stepReq = some { r with accepted := true } ∧
    (∀ n st, s.stage n = some st → st.part = some p → ∃ u, t.stage n = some u ∧ u.seq.stepWait = false ∧
      u.clock = { st.clock with marginOk := u.clock.marginOk }) ∧
    (∀ n st, s.stage n = some st → st.part ≠ some p → ∃ u, t.stage n = some u ∧ u = st.besideOf u) ∧
    t = { s with stages := t.stages, parts := t.parts, rails := t.rails }))

/-- THIN_MARGIN (R152, R153, R155, R156, R159): slack codes join the frame slack; with two of eight in a row below 4 the stage
steps down at once to a spare core locked one step lower, with a trace entry; without one the spare core retunes there; at
the floor step it is a detected error of kind 0x06.

FMAX_DERATE and LEDGER_WRITE (R145, R146, R148, R149): 32 frames with step-downs note a usable fmax lower by one, with the
day, that the next tick puts into effect and never raises; the ledger goes to the copy not in use with the next sequence
number, and a copy reads back as it was written. -/
def Obligations.MarginsDeratesAndLedger : Prop :=
  (∀ (s : State) (n p : Nat) (codes : List Nat) (st v : Stage) (c : Ctx), s.stage n = some st →
    s.ctxOf n = some (p, c) → st.st = .lit → v = { st with slackNow := minCode st.slackNow (lowCode codes) } →
    (thin codes = false ∨ st.clock.halted = true → exec (.thinMargin n codes) s = .next (s.putStage n v)) ∧
    (thin codes = true → st.clock.halted = false →
      (c.reel.floor < st.clock.drive.step → st.clock.spare.locked = true →
        st.clock.spare.step + 1 = st.clock.drive.step → ∃ t u, exec (.thinMargin n codes) s = .next t ∧
        t.stage n = some u ∧ u.clock.drive = st.clock.spare ∧ u.clock.downs = st.clock.downs + 1 ∧
        u.clock.downFrame = true ∧ u.clock.drive1 = !st.clock.drive1 ∧ u.slackNow = v.slackNow ∧
        u.scratch = st.scratch ∧
        t = { s with stages := t.stages, edges := t.edges, parts := t.parts, freeCtr := t.freeCtr }) ∧
      (c.reel.floor < st.clock.drive.step → st.clock.spare.step + 1 ≠ st.clock.drive.step →
        exec (.thinMargin n codes) s = .next (s.putStage n { v with clock :=
          { st.clock.putSpare { step := st.clock.drive.step - 1, locked := false } with
            downTo := some (st.clock.drive.step - 1) } })) ∧
      (st.clock.drive.step ≤ c.reel.floor → exec (.thinMargin n codes) s = .next
        ((s.putStage n v).detect { stageErr 0x06 n (some (.clockPath n)) with ahead := st.seq.ahead })))) ∧
  ((∀ codes : List Nat, thin codes = true ↔ ∃ i, 2 ≤ ((codes.drop i).take 8).countP (fun c => decide (c < 4))) ∧
  (∀ (s : State) (n : Nat) (st : Stage), s.stage n = some st → st.st ≠ .retired →
    32 ≤ st.clock.marginRun.count true → st.usable ≠ 0 → ∃ u, exec (.fmaxDerate n) s = .next (s.putStage n u) ∧
    u.fmaxDue = some (st.usable - 1) ∧ u.usable = st.usable ∧
    u.derates = capAt 255 (st.derates + 1) ∧ u.lastDerate = s.time.dayCount.toNat ∧ u.clock.marginRun = [] ∧
    u.st = st.st) ∧
  (∀ (s : State) (n f : Nat) (st : Stage), s.stage n = some st → st.fmaxDue = some f → ∃ u,
    (s.derateTick n).stage n = some u ∧ u.usable = min f st.usable ∧ u.fmaxDue = none) ∧
  (∀ (s : State) (n : Nat) (st : Stage), s.stage n = some st → st.st ≠ .retired →
    32 ≤ st.clock.marginRun.count true → st.usable = 0 → ∃ t u, exec (.fmaxDerate n) s = .next t ∧
    t.stage n = some u ∧ u.st = .retired) ∧
  (∀ s : State, exec (.ledgerWrite false) s = .next s) ∧
  (∀ s : State, s.inReset = false → s.ledgerRead = true →
    (∀ a, ledgerOf s.flash.ledger0 = some a → (∀ b, ledgerOf s.flash.ledger1 = some b → b.seq < a.seq) →
      exec (.ledgerWrite true) s = .next { s with flash := { s.flash with
        ledger1 := ({ seq := a.seq + 1, days := s.time.dayCount, entries := s.ledgerEntries } : Ledger).bytes } }) ∧
    (∀ b, ledgerOf s.flash.ledger1 = some b → (∀ a, ledgerOf s.flash.ledger0 = some a → a.seq < b.seq) →
      exec (.ledgerWrite true) s = .next { s with flash := { s.flash with
        ledger0 := ({ seq := b.seq + 1, days := s.time.dayCount, entries := s.ledgerEntries } : Ledger).bytes } })) ∧
  (∀ l : Ledger, l.seq < 2 ^ 32 → l.entries.length = 96 →
    (∀ e ∈ l.entries, e.fused < 16 ∧ e.usable < 16 ∧ e.derates < 256 ∧ e.fmTrans < 256 ∧ e.reserved < 256 ∧
      e.lastDay < 2 ^ 32) → ledgerOf l.bytes = some l))

/-! ### Splices (chapter 6) -/

/-- SPLICE_REALIGN and SPLICE_TRIM_AVERAGE (R202 to R206, R210): a splice that meets R202, with both clocks making edges,
switches both ends to aligned mode with one entry between the pointers of each direction; the follower's line moves by the
whole lag, is confirmed within 15 ps, and then tracks by one step; an acquisition that fails waits for the next tick.

SPLICE_LANE_TEST_THRESHOLD, SPLICE_MAP_SWITCH and SPLICE_FAILED (R200, R221 to R223, R461, R479): 16 check errors or a beat
failed four times, at a stage's end or an edge block's, pause both directions with an error event of kind 0x0A and a test;
the switch moves the lanes the test found to free spares at both ends with the next generation, or stays asked for while an
end makes no edges; lanes without free spares fail the splice and retire the higher-numbered stage. -/
def Obligations.SpliceAlignmentAndLaneTest : Prop :=
  ((∀ (s : State) (n m : Nat) (d : Side) (a b : Stage), neighbour n d = some m → s.stage n = some a →
    s.stage m = some b → s.stages.length = 96 → s.alignable n d = true → a.clock.halted = false → b.clock.halted = false →
    s.directionOpen { stage := n, side := d, edge := false } = true → ∃ t u v,
    exec (.spliceRealign n d) s = .next t ∧ t.stage n = some u ∧ t.stage m = some v ∧ (u.link d).aligned = true ∧
    (v.link d.opposite).aligned = true ∧
    ((a.link d).fifo.length ≤ 1 → (b.link d.opposite).fifo.length ≤ 1 →
      (u.link d).fifo.length = 1 ∧ (v.link d.opposite).fifo.length = 1 ∧ t = { s with stages := t.stages })) ∧
  (∀ (s : State) (n : Nat) (d : Side), s.alignable n d = false → exec (.spliceRealign n d) s = .next s) ∧
  (∀ (s : State) (n m : Nat) (d : Side) (st : Stage) (a b : Rat), neighbour n d = some m → n < m → s.stage m = some st →
    s.measurable n m = true → (st.link d.opposite).elastic = false → (st.link d.opposite).failed = false →
    (st.link d.opposite).trimWait = false → ∃ t u,
    exec (.spliceTrimAverage n d a b) s = .next t ∧ t.stage m = some u ∧
    ((st.link d.opposite).phase = .reset → 0 ≤ ((st.link d.opposite).trim : Int) - 2 * trimSteps ((a - b) / 2) →
      ((st.link d.opposite).trim : Int) - 2 * trimSteps ((a - b) / 2) ≤ 126 →
      ((u.link d.opposite).trim : Int) = (st.link d.opposite).trim - 2 * trimSteps ((a - b) / 2) ∧
      (u.link d.opposite).phase = .moved) ∧
    ((st.link d.opposite).phase = .moved → -15 ≤ (a - b) / 2 → (a - b) / 2 ≤ 15 →
      (u.link d.opposite).phase = .acquired ∧ (u.link d.opposite).trim = (st.link d.opposite).trim) ∧
    ((st.link d.opposite).phase = .moved → (a - b) / 2 < -15 ∨ 15 < (a - b) / 2 →
      (u.link d.opposite).phase = .reset ∧ (u.link d.opposite).trimWait = true) ∧
    ((st.link d.opposite).phase = .acquired → (u.link d.opposite).phase = .acquired ∧
      (u.link d.opposite).trim ≤ (st.link d.opposite).trim + 2 ∧
      (st.link d.opposite).trim ≤ (u.link d.opposite).trim + 2))) ∧
  ((∀ (s : State) (n : Nat) (d : Side) (e : Bool) (r : End) (l w : Link), r = { stage := n, side := d, edge := e } →
    s.endLink r = some l → s.endLink r.across = some w → s.inReset = false → l.paused = false → l.failed = false →
    16 ≤ l.errAge.length ∨ 4 ≤ w.failedSends → s.testOf (.spliceDir n d (!e)) = none → ∃ t q,
    exec (.spliceLaneTestThreshold n d e) s = .next t ∧ t.endLink r = some q ∧ q.paused = true ∧ q.aligned = false ∧
    (∀ v, t.endLink r.across = some v → v.paused = true) ∧
    (∃ k, t.testOf (.spliceDir n d (!e)) = some k ∧ k.kinds = [0x0A]) ∧
    (∃ x ∈ t.dailies.log, x.kind = 0x01 ∧
      x.payload = errBytes (s.errBody (stageErr 0x0A n (some (.spliceDir n d (!e)))) 0x03 0)) ∧
    t = { s.errorsOf t with stages := t.stages, edges := t.edges }) ∧
  (∀ (s : State) (n : Nat) (d : Side) (e : Bool) (w : End) (l : Link) (k : Test) (lanes m : List (Nat × Nat)),
    w = { stage := n, side := d, edge := e } → s.endLink w = some l → s.laneTest w = some k → l.paused = true →
    lanes.map Prod.fst = k.lanes → extendMap l.txMap lanes = some m → ∃ t q,
    exec (.spliceMapSwitch n d e lanes) s = .next t ∧ t.endLink w = some q ∧ q.paused = false ∧
    q.unacked = l.unacked ∧ t.testOf k.unit = none ∧
    (s.edgesAt w = true → s.edgesAt w.across = true → q.txMap = m ∧ q.txGen = l.txGen + 1 ∧ q.again = l.sent ∧
      ∀ v, t.endLink w.across = some v → v.rxMap = m ∧ v.rxGen = l.txGen + 1) ∧
    (s.edgesAt w = false → q.txMap = l.txMap ∧ q.mapReq = some (l.txGen + 1, m))) ∧
  (∀ (s : State) (n : Nat) (d : Side) (e : Bool) (w : End) (l : Link) (v : Stage) (k : Test),
    w = { stage := n, side := d, edge := e } → s.endLink w = some l → s.laneTest w = some k → l.paused = true →
    l.failed = false → sparable l.txMap k.lanes = false → s.stage (spliceVictim n d) = some v → v.st ≠ .retired →
    ∃ t q u, exec (.spliceFailed n d e) s = .next t ∧ t.endLink w = some q ∧ q.failed = true ∧
    t.stage (spliceVictim n d) = some u ∧ u.st = .retired ∧ t.testOf k.unit = none ∧ t.straps = s.straps ∧
    t.time = s.time ∧ t.rails = s.rails))

/-- SPLICE_BEAT_RECEIVED and SPLICE_NAK_REPLAY (R194 to R200, R209, R428): on an open direction the writer puts its next beat
behind the 15 or fewer that its reader's FIFO holds, and holds at 16; the reader takes the oldest, a payload beat of the
number it expects landing there, and one whose check matches nothing being dropped with nak set and counted; a closed
direction moves nothing; a replay sends every unacknowledged beat again.

What an acknowledgement takes away (R198, R199): an acknowledgement that lies among the beats sent takes exactly the beats
up to it from the replay buffer and moves the writer's number to it; any other takes none. The fields of a control beat and
its bits determine each other (Table 6.1). -/
def Obligations.SpliceTraffic : Prop :=
  ((∀ (s : State) (n : Nat) (d : Side) (e : Bool) (r : End) (l w : Link) (x : BitVec 2048) (k : BitVec 64),
    r = { stage := n, side := d, edge := e } → s.endLink r = some l → s.endLink r.across = some w →
    (s.directionOpen r = false → exec (.spliceBeatReceived n d e x k) s = .next s) ∧
    (s.directionOpen r = true → s.edgesAt r = false → s.edgesAt r.across = true →
      (16 ≤ l.fifo.length → exec (.spliceBeatReceived n d e x k) s = .next s) ∧
      (l.fifo.length < 16 → ∃ t p q, exec (.spliceBeatReceived n d e x k) s = .next t ∧ t.endLink r = some p ∧
        t.endLink r.across = some q ∧ p = { l with fifo := l.fifo ++ [(w.nextBeat.1 ^^^ x, w.nextBeat.2 ^^^ k)] } ∧
        q.wptr = w.wptr + 1 ∧ q.pos = w.pos + 1 ∧ q.unacked = w.unacked ∧
        t = { s with stages := t.stages, edges := t.edges })) ∧
    (s.directionOpen r = true → s.edgesAt r = true → s.edgesAt r.across = false →
      (l.fifo = [] → exec (.spliceBeatReceived n d e x k) s = .next s) ∧
      (∀ y c rest, l.fifo = (y, c) :: rest → c ≠ crc8Check y (beatSeed l.rxSeq false) →
        c ≠ crc8Check y (beatSeed l.rxSeq true) → ∃ t p, exec (.spliceBeatReceived n d e x k) s = .next t ∧
        t.endLink r = some p ∧ p.fifo = rest ∧ p.rptr = l.rptr + 1 ∧ p.rxSeq = l.rxSeq ∧ p.nak = true ∧
        0 ∈ p.errAge ∧ t = { s with stages := t.stages, edges := t.edges }))) ∧
  (∀ (s : State) (n p : Nat) (d : Side) (st : Stage) (c : Ctx) (w : Link) (x : BitVec 2048) (r : End),
    r = { stage := n, side := d, edge := false } → s.stage n = some st → s.ctxOf n = some (p, c) → c.cut = none →
    st.stopped = true → s.directionOpen r = true → s.edgesAt r = true → s.edgesAt r.across = true →
    s.endLink r.across = some w → (st.link d).fifo = [] → w.nextPayload = some x → w.nextSeq = (st.link d).rxSeq → ∃ t u,
    exec (.spliceBeatReceived n d false 0 0) s = .next t ∧ t.stage n = some u ∧ u.land d = st.land d ++ [x] ∧
    (u.link d).rxSeq = (st.link d).rxSeq + 1 ∧ (u.link d).nak = false ∧ (u.link d).fifo = [] ∧
    (∀ f, f ≠ d → u.link f = st.link f ∧ u.land f = st.land f) ∧ u.scratch = st.scratch ∧
    t = { s with stages := t.stages, edges := t.edges }) ∧
  (∀ (s : State) (n : Nat) (d : Side) (e : Bool) (l : Link),
    s.endLink { stage := n, side := d, edge := e } = some l → l.replay = true → l.carries = true →
    exec (.spliceNakReplay n d e) s = .next (s.modEnd { stage := n, side := d, edge := e } (fun l =>
      { l with replay := false, again := l.sent, failRun := l.failRun + 1 })))) ∧
  (∀ (l : Link) (c : Control) (k : Nat), k = (c.ack - l.txSeq).toNat →
    (k ≤ l.sent → (l.acknowledge (l.acked c.ack) c.nak).txSeq = c.ack ∧
      (l.acknowledge (l.acked c.ack) c.nak).unacked = l.unacked.drop k ∧
      (l.acknowledge (l.acked c.ack) c.nak).sent = l.sent - k) ∧
    (l.sent < k → (l.acknowledge (l.acked c.ack) c.nak).txSeq = l.txSeq ∧
      (l.acknowledge (l.acked c.ack) c.nak).unacked = l.unacked)) ∧
  (∀ c : Control, c.mapSwitch < 4 → c.reserved = false → controlOf (controlData c) = c)

/-! ### Shots (chapters 9 and 10) -/

/-- Sequencer shots (Table 9.2, R130, R305, R312, R315, R316, R318, R327): at the head of issue of a stage that can issue, NOP
and RUNAHEAD only move the head of issue on; SETA and INCA write an address register; REPEAT opens its loop; WAITT takes
its count from a token counter that holds it; TRACE writes one entry; STEP asks every stage of the partition and waits. -/
def Obligations.SequencerShots : Prop :=
  ∀ (s : State) (n p : Nat) (st : Stage) (c : Ctx),
    (s.atHead n (.nop n) st p c → exec (.nop n) s = .next (s.modStage n (fun u => { u with seq := u.seq.step }))) ∧
    (s.atHead n (.runahead n) st p c →
      exec (.runahead n) s = .next (s.modStage n (fun u => { u with seq := u.seq.step }))) ∧
    (∀ (r : BitVec 4) (b : BitVec 6) (l : BitVec 16), s.atHead n (.seta n r b l) st p c → exec (.seta n r b l) s = .next
      (s.modStage n (fun u => { u with seq := { u.seq.step with ar := setAt u.seq.ar r.toNat (b ++ l) } }))) ∧
    (∀ (r : BitVec 4) (d : BitVec 16), s.atHead n (.inca n r d) st p c →
      (0 ≤ st.seq.lineOf r false + d.toInt → st.seq.lineOf r false + d.toInt ≤ 65535 →
        exec (.inca n r d) s = .next (s.modStage n (fun u => { u with seq := { u.seq.step with
          ar := setAt u.seq.ar r.toNat (BitVec.ofNat 22 (65536 * st.seq.bankOf r +
            (st.seq.lineOf r false + d.toInt).toNat)) } }))) ∧
      (st.seq.lineOf r false + d.toInt < 0 ∨ 65535 < st.seq.lineOf r false + d.toInt →
        exec (.inca n r d) s = .next (s.failStageCtx n 0x15))) ∧
    (∀ (b : BitVec 8) (k : BitVec 12) (d : BitVec 16), s.atHead n (.repeat_ n b k d) st p c →
      (st.seq.loop = none → exec (.repeat_ n b k d) s = .next (s.modStage n (fun u => { u with seq := { u.seq.step with
        loop := some { start := st.seq.pc + 1, len := b.toNat, count := k.toNat + 1, stride := d.toInt
                       iter := 0 } } }))) ∧
      (st.seq.loop.isSome → exec (.repeat_ n b k d) s = .next (s.scriptError n st.seq.pc))) ∧
    (∀ (t : BitVec 5) (k : BitVec 16), s.atHead n (.waitt n t k) st p c →
      (st.seq.ahead = false → k.toNat ≤ st.seq.tokens.getD t.toNat 0 →
        exec (.waitt n t k) s = .next (s.modStage n (fun u => { u with seq := { u.seq.step with
          tokens := setAt u.seq.tokens t.toNat (st.seq.tokens.getD t.toNat 0 - k.toNat) } }))) ∧
      (st.seq.ahead = true ∨ st.seq.tokens.getD t.toNat 0 < k.toNat → exec (.waitt n t k) s = .next s)) ∧
    (∀ i : BitVec 16, s.atHead n (.trace n i) st p c → ∃ t u, exec (.trace n i) s = .next t ∧ t.stage n = some u ∧
      u.seq = st.seq.step ∧ u.scratch = st.scratch ∧ u.acc = st.acc ∧
      (st.traceBuf.length < 2046 → u.traceBuf.length = st.traceBuf.length + 1) ∧
      (2046 ≤ st.traceBuf.length → u.traceBuf = st.traceBuf ∧ u.traceDrop = st.traceDrop + 1) ∧
      (∀ m, m ≠ n → t.stage m = s.stage m) ∧ t = { s with stages := t.stages, freeCtr := t.freeCtr }) ∧
    (∀ k : BitVec 4, s.atHead n (.step n k) st p c → st.seq.ahead = false → c.reel.floor ≤ k.toNat → st.seq.loop = none →
      (c.stepReq = none → ∃ t d u, exec (.step n k) s = .next t ∧ t.ctx p = some d ∧ t.stage n = some u ∧
        d.stepReq = some { code := k.toNat, accepted := false, waiting := c.stages.filter (fun m =>
          match s.stage m with | none => false | some v => v.clocked) } ∧ d.oper = c.oper ∧ u.seq.stepWait = true ∧
        u.seq.pc = st.seq.step.pc ∧ t = { s with stages := t.stages, parts := t.parts }) ∧
      (c.stepReq.isSome → exec (.step n k) s = .next (s.failStageCtx n 0x1C)))

/-- EOF and RUNAHEAD_START (R103, R112, R119, R153, R308, R313): at the head of issue, with every earlier shot retired, the
end-of-frame shot makes the stage done with its idle count, its finality, and the next working frame's kind, which is kind
B where P is not 0 and that frame's number is a multiple of 2^P, else kind A; the frame slack is the lowest code; with
earlier shots in their queues or running ahead it waits. A done stage whose next kind permits it then begins that kind's
shots with accumulators at zero and what it declared kept. -/
def Obligations.EndOfFrameAndRunahead : Prop :=
  (∀ (s : State) (n p : Nat) (st : Stage) (c : Ctx) (f : EofFields) (x : Option Nat),
    s.atHead n (.eof n f x) st p c →
    (st.seq.ahead = false → st.drained = true → st.seq.loop = none → eofOk n f c = true →
      ∃ t u, exec (.eof n f x) s = .next t ∧ t.stage n = some u ∧ u.idle = f.idle.toNat ∧ u.slackNow = none ∧
      u.slackEof = minCode st.slackNow (x.map (capAt 63)) ∧ u.seq.pc = st.seq.pc + 1 ∧ u.seq.eof = true ∧
      u.seq.done = true ∧ (u.seq.final = true ↔ f.final = 1 ∨ f.final = 2 ∧ c.frame = c.reel.last) ∧
      (f.p ≠ 0 → (c.frame.toNat + 1 + f.idle.toNat) % 2 ^ f.p.toNat = 0 → u.seq.nextKind = f.kindB.toNat) ∧
      (f.p = 0 ∨ (c.frame.toNat + 1 + f.idle.toNat) % 2 ^ f.p.toNat ≠ 0 → u.seq.nextKind = f.kindA.toNat) ∧
      u.seq.kind = st.seq.kind ∧ u.scratch = st.scratch ∧ u.acc = st.acc ∧ u.journal = st.journal ∧
      (∀ m, m ≠ n → t.stage m = s.stage m) ∧ t = { s with stages := t.stages }) ∧
    (st.seq.ahead = true ∨ st.flights ≠ [] ∨ st.seq.stepWait = true → exec (.eof n f x) s = .next s)) ∧
  (∀ (s : State) (n p : Nat) (st : Stage) (c : Ctx) (r : StageRec), s.stage n = some st → s.ctxOf n = some (p, c) →
    c.stageRec n = some r → s.canRunAhead st c r = true → ∃ t u, exec (.runaheadStart n) s = .next t ∧
    t.stage n = some u ∧ u.seq.ahead = true ∧ u.seq.pc = r.kindFirst st.seq.nextKind ∧ u.seq.nextKind = st.seq.nextKind ∧
    u.seq.done = true ∧ u.seq.final = false ∧ u.acc = [] ∧ u.resid = [] ∧ u.cnt = st.cnt ∧ u.cntAhead = .zero ∧
    u.scratch = st.scratch ∧ u.journal = st.journal ∧ t = { s with stages := t.stages })

/-- SIGT and TOKEN_SIGNAL_ARRIVAL (R326, R328, R432): a signal to the own stage adds to its counter once earlier shots have
retired; one to another stage of the partition leaves on the spine of the issuing stage's column as an event of its frame
and take; a counter that would pass 0xFFFF fails the context with cause 0x16. The oldest such event of its source on the
target's spine leaves it at its tap: one of the current frame and take is added, one of the next take or frame is held,
and any other is discarded; with no such event there nothing arrives. -/
def Obligations.TokenSignals : Prop :=
  (∀ (s : State) (n p : Nat) (st : Stage) (c : Ctx) (row : BitVec 3) (col : BitVec 4) (t : BitVec 5) (k : BitVec 16),
    s.atHead n (.sigt n row col t k) st p c → st.drained = true → row.toNat < c.reel.h → col.toNat < c.reel.w →
    (c.offsets n = (row.toNat, col.toNat) → st.seq.tokens.getD t.toNat 0 + k.toNat ≤ 0xFFFF →
      exec (.sigt n row col t k) s = .next (s.modStage n (fun u => { u with seq := { u.seq.step with
        tokens := setAt u.seq.step.tokens t.toNat (u.seq.step.tokens.getD t.toNat 0 + k.toNat) } }))) ∧
    (c.offsets n = (row.toNat, col.toNat) → 0xFFFF < st.seq.tokens.getD t.toNat 0 + k.toNat →
      exec (.sigt n row col t k) s = .next (s.failStageCtx n 0x16)) ∧
    (c.offsets n ≠ (row.toNat, col.toNat) → st.seq.ahead = false → ∃ v u x,
      exec (.sigt n row col t k) s = .next v ∧ v.stage n = some u ∧ u = { st with seq := st.seq.step } ∧
      v.spineOut = s.spineOut ++ [x] ∧ x.col = colOf n ∧ x.north = false ∧ x.data = none ∧
      x.header = flitBits (tokenFlit n (c.origin + 12 * row.toNat + col.toNat) c t k) ∧ x.crc = flitCrc x.header none ∧
      v = { s with stages := v.stages, spineOut := v.spineOut })) ∧
  (∀ (s : State) (n : Nat) (t : BitVec 5) (k fr : BitVec 16) (take : BitVec 4),
    (takeFlit (colOf n) true n (fun f => f.cls = 0 && f.op = 2 && f.arg = tokenArg t k fr take) [] s.spineOut = none →
      exec (.tokenSignalArrival n t k fr take) s = .next s) ∧
    (∀ g rest, takeFlit (colOf n) true n (fun f => f.cls = 0 && f.op = 2 && f.arg = tokenArg t k fr take) [] s.spineOut
        = some (g, rest) →
      (s.staleFlit g = true → exec (.tokenSignalArrival n t k fr take) s = .next { s with spineOut := rest }) ∧
      (∀ (p : Nat) (st : Stage) (c : Ctx), s.staleFlit g = false → s.stage n = some st → s.ctxOf n = some (p, c) →
        st.clocked = true → c.ended = none → c.endDue = none →
        c.inFrame = true → st.skipping = false → st.seq.ahead = false →
        (fr = c.frame.truncate 16 → take = c.take → st.seq.tokens.getD t.toNat 0 + k.toNat ≤ 0xFFFF →
          exec (.tokenSignalArrival n t k fr take) s =
            .next (({ s with spineOut := rest } : State).putStage n { st with seq := { st.seq with
              tokens := setAt st.seq.tokens t.toNat (st.seq.tokens.getD t.toNat 0 + k.toNat) } })) ∧
        (fr = c.frame.truncate 16 → take = c.take → 0xFFFF < st.seq.tokens.getD t.toNat 0 + k.toNat →
          exec (.tokenSignalArrival n t k fr take) s = .next (({ s with spineOut := rest } : State).failStageCtx n 0x16)) ∧
        ((fr = c.frame.truncate 16 ∧ take = c.take + 1) ∨ (fr = (c.frame + 1).truncate 16 ∧ take = 0) →
          exec (.tokenSignalArrival n t k fr take) s =
            .next (({ s with spineOut := rest } : State).putStage n { st with seq := { st.seq with
              held := st.seq.held ++ [{ token := t.toNat, inc := k.toNat, frame := fr, take := take }] } })) ∧
        (fr ≠ c.frame.truncate 16 → fr ≠ (c.frame + 1).truncate 16 →
          exec (.tokenSignalArrival n t k fr take) s = .next { s with spineOut := rest }))))

/-- Matrix and accumulator shots (R299 to R301, R319 to R321, R344, R349): with operands in range and room in the engine's
queue, MMA puts C + A·B, or A·B with Z, in its tile; ACCLD copies the rows' elements, ACCADD adds them, ACCST writes the
converted rows to the bank through the journal, and ACCZ writes zero; each enters its engine's queue. -/
def Obligations.MatrixAndAccumulatorShots : Prop :=
  (∀ (s : State) (n p : Nat) (st : Stage) (c : Ctx) (f : MmaFields) (t : Nat) (a b : LineRange),
    s.issuer n = some (st, p, c) → st.head n (.mma n f) = .shot → st.seq.tile f.tile (mmaWide f) f.xc = some t →
    st.seq.range (c.stagingOf n) f.areg f.xa (16 * lineCount (rowBytes f.format.toNat (mmaK f))) = some a →
    st.seq.range (c.stagingOf n) f.breg f.xb (32 * lineCount (rowBytes f.format.toNat (mmaK f))) = some b →
    st.waits { dest := .engine f.engine.toNat, reads := [a, b], writes := [], checked := true, beats := 0 } = false →
    ∃ v u, exec (.mma n f) s = .next v ∧ v.stage n = some u ∧
      u.acc = (st.putTile f.engine.toNat t (mmaWide f) ((mmaTile f.format.toNat f.z
        (st.tileElems f.engine.toNat t (mmaWide f)) (operandRows f.format.toNat (mmaK f) 16 (st.readRange a))
        (operandRows f.format.toNat (mmaK f) 32 (st.readRange b))).map ElemRes.bits)).acc ∧
      u.scratch = st.scratch ∧ u.journal = st.journal ∧ u.seq = st.seq.step ∧ u.flights.length = st.flights.length + 1 ∧
      (∀ m, m ≠ n → v.stage m = s.stage m) ∧ v = { s with stages := v.stages }) ∧
  (∀ (s : State) (n p : Nat) (st : Stage) (c : Ctx) (f : AccFields) (t : Nat) (a : LineRange),
    s.issuer n = some (st, p, c) → st.seq.tile f.tile (isWide f.ty) f.xc = some t →
    st.seq.range (c.stagingOf n) f.reg f.xa (16 * lineCount (accRowBytes (isWide f.ty))) = some a →
    (st.head n (.accld n f) = .shot →
      st.waits { dest := .engine f.engine.toNat, reads := [a], writes := [], checked := false, beats := 0 } = false →
      ∃ v u, exec (.accld n f) s = .next v ∧ v.stage n = some u ∧
      u.acc = (st.putTile f.engine.toNat t (isWide f.ty) (storeElems (isWide f.ty) (st.readRange a))).acc ∧
      u.scratch = st.scratch ∧ u.journal = st.journal ∧ u.cnt = st.cnt ∧ u.seq = st.seq.step ∧
      (∀ m, m ≠ n → v.stage m = s.stage m) ∧ v = { s with stages := v.stages }) ∧
    (st.head n (.accadd n f) = .shot →
      st.waits { dest := .engine f.engine.toNat, reads := [a], writes := [], checked := decide (f.ty = 1), beats := 0 }
        = false → ∃ v u, exec (.accadd n f) s = .next v ∧ v.stage n = some u ∧
      u.acc = (st.putTile f.engine.toNat t (isWide f.ty) ((List.zipWith (fun c v => addRes (accCode f.ty) c v)
        (st.tileElems f.engine.toNat t (isWide f.ty)) (storeElems (isWide f.ty) (st.readRange a))).map ElemRes.bits)).acc ∧
      u.scratch = st.scratch ∧ u.journal = st.journal ∧ u.seq = st.seq.step ∧
      (∀ m, m ≠ n → v.stage m = s.stage m) ∧ v = { s with stages := v.stages })) ∧
  (∀ (s : State) (n p : Nat) (st x : Stage) (c : Ctx) (f : AccFields) (o : BitVec 4) (r k : Bool) (a : LineRange) (t : Nat),
    s.issuer n = some (st, p, c) → st.head n (.accst n f o r k) = .shot →
    st.seq.tile f.tile (isWide f.ty) f.xc = some t →
    st.seq.range (c.stagingOf n) f.reg f.xa (16 * storeRowLines o.toNat) = some a →
    st.waits { dest := .engine f.engine.toNat, reads := [], writes := [a], checked := false, beats := 0 } = false →
    storeEffect f n o r k st.seq c st (c.aheadWork st) = some x → ∃ v u, exec (.accst n f o r k) s = .next v ∧
      v.stage n = some u ∧ u.scratch = x.scratch ∧ u.journal = x.journal ∧ u.acc = st.acc ∧ u.seq = st.seq.step ∧
      (∀ m, m ≠ n → v.stage m = s.stage m) ∧ v = { s with stages := v.stages }) ∧
  (∀ (s : State) (n p : Nat) (st : Stage) (c : Ctx) (e t k : BitVec 6), s.issuer n = some (st, p, c) →
    st.head n (.accz n e t k) = .shot → st.waits (tilePlan e false) = false → ∃ v u,
    exec (.accz n e t k) s = .next v ∧ v.stage n = some u ∧
    u.acc = (st.zeroTiles e.toNat t.toNat (k.toNat + 1)).acc ∧ u.scratch = st.scratch ∧ u.journal = st.journal ∧
    u.seq = st.seq.step ∧ (∀ m, m ≠ n → v.stage m = s.stage m) ∧ v = { s with stages := v.stages })

/-- Bank moves (R116, R323): MOVB copies its source lines as they stood, FILLB writes the pattern and CVTB the converted
stream, each through the journal in the epoch of the work; accumulators, other stages and the rest of the module are
left alone. -/
def Obligations.BankMoves : Prop :=
  (∀ (s : State) (n p : Nat) (st x : Stage) (c : Ctx) (e : BitVec 6) (r d : BitVec 4) (k : BitVec 16) (xa xb : Bool)
    (a b : LineRange), s.issuer n = some (st, p, c) → st.head n (.movb n e r d k xa xb) = .shot →
    st.seq.range (c.stagingOf n) r xa k.toNat = some a → st.seq.range (c.stagingOf n) d xb k.toNat = some b →
    st.waits { dest := .engine e.toNat, reads := [a], writes := [b], checked := false, beats := 0 } = false →
    st.writeRange (c.aheadWork st) b (linesOf b.count (st.readRange a)) = some x → ∃ v u,
    exec (.movb n e r d k xa xb) s = .next v ∧ v.stage n = some u ∧ u.scratch = x.scratch ∧ u.journal = x.journal ∧
    u.acc = st.acc ∧ u.seq = st.seq.step ∧ (∀ m, m ≠ n → v.stage m = s.stage m) ∧ v = { s with stages := v.stages }) ∧
  (∀ (s : State) (n p : Nat) (st x : Stage) (c : Ctx) (e : BitVec 6) (d : BitVec 4) (k : BitVec 16) (w : BitVec 32)
    (b : LineRange), s.issuer n = some (st, p, c) → st.head n (.fillb n e d k w) = .shot →
    st.seq.range (c.stagingOf n) d false k.toNat = some b →
    st.waits { dest := .engine e.toNat, reads := [], writes := [b], checked := false, beats := 0 } = false →
    st.writeRange (c.aheadWork st) b (List.replicate b.count (patternLine w)) = some x → ∃ v u,
    exec (.fillb n e d k w) s = .next v ∧ v.stage n = some u ∧ u.scratch = x.scratch ∧ u.journal = x.journal ∧
    u.acc = st.acc ∧ u.seq = st.seq.step ∧ (∀ m, m ≠ n → v.stage m = s.stage m) ∧ v = { s with stages := v.stages }) ∧
  (∀ (s : State) (n p : Nat) (st x : Stage) (c : Ctx) (f : CvtFields) (a b : LineRange), s.issuer n = some (st, p, c) →
    st.head n (.cvtb n f) = .shot → cvtSrc f st.seq (c.stagingOf n) = some a →
    cvtDst f st.seq (c.stagingOf n) = some b →
    st.waits { dest := .engine f.engine.toNat, reads := [a], writes := [b], checked := false, beats := 0 } = false →
    st.writeRange (c.aheadWork st) b (linesOf b.count (cvtStream f
      (c.roundSel n st f.engine.toNat f.r f.sfmt.toNat f.dfmt.toNat) (st.readRange a)).1) = some x → ∃ v u,
    exec (.cvtb n f) s = .next v ∧ v.stage n = some u ∧ u.scratch = x.scratch ∧ u.journal = x.journal ∧
    u.acc = st.acc ∧ u.seq = st.seq.step ∧ (∀ m, m ≠ n → v.stage m = s.stage m) ∧ v = { s with stages := v.stages })

/-- What a write through the journal does (R116, R118): when it is made, the line written holds the new bytes and every other
line is unchanged; the first write of a line in an epoch journals what it held, later ones journal nothing; it is not
made exactly when the bank's 4,096 journal lines are used. -/
def Obligations.JournaledWrite : Prop :=
  ∀ (st : Stage) (ahead : Bool) (phys line : Nat) (l : Line), Memory.wf st.scratch = true →
    (st.writeLine ahead phys line l = none ↔
      st.journaled phys line ahead = false ∧ 4096 ≤ st.journal.countP (fun j => j.bank = phys)) ∧
    (∀ x, st.writeLine ahead phys line l = some x →
      (∀ i, i < 64 → cellGet x.scratch (lineKey phys line + i) = (lineBytes l).getD i 0) ∧
      (∀ k, k < lineKey phys line ∨ lineKey phys line + 64 ≤ k → cellGet x.scratch k = cellGet st.scratch k) ∧
      (st.journaled phys line ahead = true → x.journal = st.journal) ∧
      (st.journaled phys line ahead = false → x.journal = st.journal ++
        [{ bank := phys, line := line, ahead := ahead, old := st.bankLine phys line }]) ∧
      x.acc = st.acc ∧ x.seq = st.seq ∧ x.flights = st.flights)

/-- Vector arithmetic (R302, R322, R334, R350): VADD, VSUB, VMUL, VFMA, VDIV and VSQRT put the element results of their
sources in the destination tile, counted, and enter the engine's queue; the products of VMUL and VFMA on floating types
are checked.

Vector comparisons, signs and moves (R302, R322, R350, R361): VMAX and VMIN choose between their sources; VABS, VNEG, VRELU
and VMOV take one source, and VMOV copies bits and counts nothing.

Vector sums and immediate shots (R302, R322, R334, R339, R350): VRSUM and VCSUM put tree sums in column 0 or row 0 and zero
elsewhere; VSCAL, VADDI and VFILL take the immediate, which VFILL copies into every element without counts. -/
def Obligations.VectorShots : Prop :=
  (∀ (s : State) (n : Nat) (f : VecFields) (st : Stage) (c : Ctx) (d a b : Nat),
    (s.vecReady n (.vadd n f) f st c d a b → exec (.vadd n f) s = .next (s.vecDone n f st c d
      false true (List.zipWith (addRes (accCode f.ty)) (st.vecIn f a) (st.vecIn f b)))) ∧
    (s.vecReady n (.vsub n f) f st c d a b → exec (.vsub n f) s = .next (s.vecDone n f st c d
      false true (List.zipWith (subRes (accCode f.ty)) (st.vecIn f a) (st.vecIn f b)))) ∧
    (s.vecReady n (.vdiv n f) f st c d a b → exec (.vdiv n f) s = .next (s.vecDone n f st c d
      false true (List.zipWith (divRes (accCode f.ty)) (st.vecIn f a) (st.vecIn f b)))) ∧
    (s.vecReady n (.vmul n f) f st c d a b → exec (.vmul n f) s = .next (s.vecDone n f st c d
      (decide (f.ty ≠ 1)) true (List.zipWith (mulRes (accCode f.ty)) (st.vecIn f a) (st.vecIn f b)))) ∧
    (s.vecReady n (.vfma n f) f st c d a b → exec (.vfma n f) s = .next (s.vecDone n f st c d
      (decide (f.ty ≠ 1)) true (List.zipWith (fun x z => fmaRes (accCode f.ty) x.1 x.2 z)
        ((st.vecIn f a).zip (st.vecIn f b)) (st.vecIn f d)))) ∧
    (s.vecReady n (.vsqrt n f) f st c d a b → exec (.vsqrt n f) s = .next (s.vecDone n f st c d
      false true ((st.vecIn f a).map (sqrtRes (accCode f.ty))))) ∧
    (s.vecReady n (.vmax n f) f st c d a b → exec (.vmax n f) s = .next (s.vecDone n f st c d
      false true (List.zipWith (fun x y => maxMinRes (accCode f.ty) x y true) (st.vecIn f a) (st.vecIn f b)))) ∧
    (s.vecReady n (.vmin n f) f st c d a b → exec (.vmin n f) s = .next (s.vecDone n f st c d
      false true (List.zipWith (fun x y => maxMinRes (accCode f.ty) x y false) (st.vecIn f a) (st.vecIn f b)))) ∧
    (s.vecReady n (.vabs n f) f st c d a b → exec (.vabs n f) s = .next (s.vecDone n f st c d
      false true ((st.vecIn f a).map (absRes (accCode f.ty))))) ∧
    (s.vecReady n (.vneg n f) f st c d a b → exec (.vneg n f) s = .next (s.vecDone n f st c d
      false true ((st.vecIn f a).map (negRes (accCode f.ty))))) ∧
    (s.vecReady n (.vrelu n f) f st c d a b → exec (.vrelu n f) s = .next (s.vecDone n f st c d
      false true ((st.vecIn f a).map (fun x => maxMinRes (accCode f.ty) x 0 true)))) ∧
    (s.vecReady n (.vmov n f) f st c d a b → exec (.vmov n f) s = .next (s.vecDone n f st c d
      false false ((st.vecIn f a).map ElemRes.plain))) ∧
    (s.vecReady n (.vrsum n f) f st c d a b → exec (.vrsum n f) s = .next (s.vecDone n f st c d
      false true ((tileRows (st.vecIn f a)).flatMap (fun xs =>
        treeRes (accCode f.ty) xs :: List.replicate 31 (.plain 0))))) ∧
    (s.vecReady n (.vcsum n f) f st c d a b → exec (.vcsum n f) s = .next (s.vecDone n f st c d
      false true ((List.range 32).map (fun k => treeRes (accCode f.ty) ((List.range 16).map (fun r =>
        (st.vecIn f a).getD (32 * r + k) 0))) ++ List.replicate 480 (.plain 0))))) ∧
  (∀ (s : State) (n : Nat) (f : VecImm) (st : Stage) (c : Ctx) (d a b : Nat),
    (s.vecReady n (.vscal n f) (immVec f) st c d a b → exec (.vscal n f) s = .next (s.vecDone n (immVec f) st c d
      (decide (f.ty ≠ 1)) true ((st.vecIn (immVec f) a).map (fun x =>
        mulRes (accCode f.ty) x (immBits (accCode f.ty) f.imm.toNat))))) ∧
    (s.vecReady n (.vaddi n f) (immVec f) st c d a b → exec (.vaddi n f) s = .next (s.vecDone n (immVec f) st c d
      false true ((st.vecIn (immVec f) a).map (fun x =>
        addRes (accCode f.ty) x (immBits (accCode f.ty) f.imm.toNat))))) ∧
    (s.vecReady n (.vfill n f) (immVec f) st c d a b → exec (.vfill n f) s = .next (s.vecDone n (immVec f) st c d
      false false ((st.vecIn (immVec f) a).map (fun _ =>
        .plain (immBits (accCode f.ty) f.imm.toNat))))))

/-- Int32 vector shots (R351): VADD, VSUB, VMUL, VFMA, VABS, VNEG, VSCAL, VADDI, VRSUM and VCSUM form the exact integer result
and reduce it modulo 2^32, and a result outside the int32 range is a wrap, which the frame's totals count; VABS and VNEG of
-2^31 give -2^31 and wrap; VMAX, VMIN and VRELU compare as signed integers; VMOV and VFILL copy bits.

Integer vectors reduce modulo 2^32 and moves copy (R302, R350, R351): after an int32 VADD, VSUB or VMUL each element of the
destination is the sum, difference or product of the sources' elements as 32-bit words, after VMOV the source's element;
every element of every other tile, and every bank line, is as it was. -/
def Obligations.Int32Vectors : Prop :=
  ((∀ v : Int, (intRes 32 v).bits = (v % 2 ^ 32).toNat ∧
    ((intRes 32 v).wrap = true ↔ v < -2 ^ 31 ∨ 2 ^ 31 ≤ v)) ∧
  intRes 32 (signed 32 0x80000000).natAbs = { ElemRes.plain 0x80000000 with wrap := true } ∧
  intRes 32 (-signed 32 0x80000000) = { ElemRes.plain 0x80000000 with wrap := true } ∧
  (∀ (st : Stage) (f : VecFields) (d : Nat) (rs : List ElemRes),
    (st.vecPut f d false true rs).cnt.wrap = capAt (2 ^ 48 - 1) (st.cnt.wrap + rs.countP ElemRes.wrap)) ∧
  (∀ (s : State) (n : Nat) (f : VecFields) (st : Stage) (c : Ctx) (d a b : Nat) (x y z : List Nat), f.ty = 1 →
    x = st.vecIn f a → y = st.vecIn f b → z = st.vecIn f d →
    (s.vecReady n (.vadd n f) f st c d a b → exec (.vadd n f) s = .next (s.vecDone n f st c d
      false true (List.zipWith (fun u v => intRes 32 (signed 32 u + signed 32 v)) x y))) ∧
    (s.vecReady n (.vsub n f) f st c d a b → exec (.vsub n f) s = .next (s.vecDone n f st c d
      false true (List.zipWith (fun u v => intRes 32 (signed 32 u - signed 32 v)) x y))) ∧
    (s.vecReady n (.vmul n f) f st c d a b → exec (.vmul n f) s = .next (s.vecDone n f st c d
      false true (List.zipWith (fun u v => intRes 32 (signed 32 u * signed 32 v)) x y))) ∧
    (s.vecReady n (.vfma n f) f st c d a b → exec (.vfma n f) s = .next (s.vecDone n f st c d
      false true (List.zipWith (fun u w => intRes 32 (signed 32 u.1 * signed 32 u.2 + signed 32 w)) (x.zip y) z))) ∧
    (s.vecReady n (.vmax n f) f st c d a b → exec (.vmax n f) s = .next (s.vecDone n f st c d
      false true (List.zipWith (fun u v => .plain (if signed 32 u < signed 32 v then v else u)) x y))) ∧
    (s.vecReady n (.vmin n f) f st c d a b → exec (.vmin n f) s = .next (s.vecDone n f st c d
      false true (List.zipWith (fun u v => .plain (if signed 32 u < signed 32 v then u else v)) x y))) ∧
    (s.vecReady n (.vabs n f) f st c d a b → exec (.vabs n f) s = .next (s.vecDone n f st c d
      false true (x.map (fun u => intRes 32 (signed 32 u).natAbs)))) ∧
    (s.vecReady n (.vneg n f) f st c d a b → exec (.vneg n f) s = .next (s.vecDone n f st c d
      false true (x.map (fun u => intRes 32 (-signed 32 u))))) ∧
    (s.vecReady n (.vrelu n f) f st c d a b → exec (.vrelu n f) s = .next (s.vecDone n f st c d
      false true (x.map (fun u => .plain (if signed 32 u < 0 then 0 else u))))) ∧
    (s.vecReady n (.vmov n f) f st c d a b → exec (.vmov n f) s = .next (s.vecDone n f st c d
      false false (x.map ElemRes.plain))) ∧
    (s.vecReady n (.vrsum n f) f st c d a b → exec (.vrsum n f) s = .next (s.vecDone n f st c d
      false true ((tileRows x).flatMap (fun us =>
        intRes 32 (us.map (fun u => signed 32 u)).sum :: List.replicate 31 (.plain 0))))) ∧
    (s.vecReady n (.vcsum n f) f st c d a b → exec (.vcsum n f) s = .next (s.vecDone n f st c d
      false true ((List.range 32).map (fun k => intRes 32
        (((List.range 16).map (fun r => x.getD (32 * r + k) 0)).map (fun u => signed 32 u)).sum) ++
        List.replicate 480 (.plain 0))))) ∧
  (∀ (s : State) (n : Nat) (f : VecImm) (st : Stage) (c : Ctx) (d a b : Nat) (x : List Nat), f.ty = 1 →
    x = st.vecIn (immVec f) a →
    (s.vecReady n (.vscal n f) (immVec f) st c d a b → exec (.vscal n f) s = .next (s.vecDone n (immVec f) st c d
      false true (x.map (fun u => intRes 32 (signed 32 u * signed 32 f.imm.toNat))))) ∧
    (s.vecReady n (.vaddi n f) (immVec f) st c d a b → exec (.vaddi n f) s = .next (s.vecDone n (immVec f) st c d
      false true (x.map (fun u => intRes 32 (signed 32 u + signed 32 f.imm.toNat))))) ∧
    (s.vecReady n (.vfill n f) (immVec f) st c d a b → exec (.vfill n f) s = .next (s.vecDone n (immVec f) st c d
      false false (x.map (fun _ => .plain f.imm.toNat)))))) ∧
  (∀ (s : State) (n : Nat) (f : VecFields) (st : Stage) (c : Ctx) (d a b : Nat), f.ty = 1 → Memory.wf st.acc = true →
    (∀ op : BitVec 32 → BitVec 32 → BitVec 32, ∀ i : Instr,
      (i = .vadd n f ∧ op = (· + ·)) ∨ (i = .vsub n f ∧ op = (· - ·)) ∨ (i = .vmul n f ∧ op = (· * ·)) ∨
        (i = .vmov n f ∧ op = (fun x _ => x)) → s.vecReady n i f st c d a b → ∃ t u,
      exec i s = .next t ∧ t.stage n = some u ∧
      (∀ j, j < 512 → cellGet u.acc (accKey f.engine.toNat d j) =
        op (cellGet st.acc (accKey f.engine.toNat a j)) (cellGet st.acc (accKey f.engine.toNat b j))) ∧
      (∀ k, k < accKey f.engine.toNat d 0 ∨ accKey f.engine.toNat d 512 ≤ k → cellGet u.acc k = cellGet st.acc k) ∧
      u.scratch = st.scratch ∧ (∀ m, m ≠ n → t.stage m = s.stage m) ∧ t = { s with stages := t.stages }))

/-- Shots that do not issue (R118, R188, R305, R307, R311, R316): on a stage that cannot issue a shot changes nothing; a shot
that is not the script's next does not issue; a word that encodes no shot, or a field that the chapter does not allow, is a
detected error of kind 0x02; operands out of range fail the context with cause 0x15; a full queue or the interlock leaves
the shot at the head of issue. -/
def Obligations.ShotsThatDoNotIssue : Prop :=
  (∀ (s : State) (n : Nat), s.issuer n = none → ∀ (f : VecFields) (m : MmaFields) (x : AccFields),
    exec (.nop n) s = .next s ∧ exec (.vadd n f) s = .next s ∧ exec (.mma n m) s = .next s ∧
    exec (.accld n x) s = .next s) ∧
  (∀ (s : State) (n p : Nat) (st : Stage) (c : Ctx) (f : VecFields), s.issuer n = some (st, p, c) →
    (∀ (i : Instr) (w : Nat), i = .nop n ∨ i = .vadd n f ∨ i = .vmul n f → w = (cellGet st.script st.seq.pc).toNat →
      (∀ j, shotOf n w = some j → j ≠ i → exec i s = .next s) ∧
      (shotOf n w = none ∨ shotOf n w = some i ∧ shotFieldsOk i = false →
        exec i s = .next (s.scriptError n st.seq.pc))) ∧
    (∀ i : Instr, i = .vadd n f ∨ i = .vmax n f → st.head n i = .shot →
      (st.seq.tile f.d (isWide f.ty) f.x = none → exec i s = .next (s.failStageCtx n 0x15)) ∧
      ((∃ d a b, st.seq.tile f.d (isWide f.ty) f.x = some d ∧
          st.seq.tile f.a (isWide f.ty) f.x = some a ∧ st.seq.tile f.b (isWide f.ty) f.x = some b) →
        4 ≤ st.flights.countP (fun x => x.dest = .engine f.engine.toNat) → exec i s = .next s))) ∧
  (∀ (s : State) (n p : Nat) (st : Stage) (c : Ctx) (e : BitVec 6) (d : BitVec 4) (k : BitVec 16) (w : BitVec 32)
    (b r : LineRange) (x : Flight), s.atHead n (.fillb n e d k w) st p c →
    st.seq.range (c.stagingOf n) d false k.toNat = some b → x ∈ st.flights → r ∈ x.reads → r.bank = b.bank →
    r.first < b.first + b.count → b.first < r.first + r.count → exec (.fillb n e d k w) s = .next s) ∧
  (∀ (s : State) (n p : Nat) (st : Stage) (c : Ctx) (e : BitVec 6) (d : BitVec 4) (k : BitVec 16) (w : BitVec 32)
    (b : LineRange), s.atHead n (.fillb n e d k w) st p c →
    st.seq.range (c.stagingOf n) d false k.toNat = some b →
    st.waits { dest := .engine e.toNat, reads := [], writes := [b], checked := false, beats := 0 } = false →
    st.writeRange (c.aheadWork st) b (List.replicate b.count (patternLine w)) = none →
    exec (.fillb n e d k w) s = .next (s.journalFull n (.engine e.toNat) st.seq.shot st.seq.ahead))

/-- SEND, RECV, COMMIT and SHOT_RETIRE (R111, R305, R308, R324, R329, R333 to R335, R379): SEND queues its beats for its side;
RECV enters its queue; COMMIT enters the commit queue with its entry; the oldest shot of a queue leaves it, a COMMIT only
once its slot's earlier writes are out, and then its lines are in the slot of the frame's parity; a shot whose residue
shows an error is a detected error of kind 0x01 and stays. -/
def Obligations.SpliceShotsCommitAndRetire : Prop :=
  (∀ (s : State) (n p : Nat) (st : Stage) (c : Ctx) (f : SpliceFields) (r : LineRange), s.issuer n = some (st, p, c) →
    st.seq.ahead = false → s.spliceShotOk n f = true →
    st.seq.range (c.stagingOf n) f.reg f.xa (4 * f.beats.toNat) = some r →
    (st.head n (.send n f) = .shot →
      st.waits { dest := .splice (Side.ofCode f.side.toNat), reads := [r], writes := [], checked := false
                 beats := f.beats.toNat } = false → ∃ t u, exec (.send n f) s = .next t ∧ t.stage n = some u ∧
      (u.link (Side.ofCode f.side.toNat)).unacked = (st.link (Side.ofCode f.side.toNat)).unacked ++
        beatsOf f.beats.toNat (st.readRange r) ∧ u.seq.pc = st.seq.step.pc ∧ u.seq.spliced = true ∧
      u.scratch = st.scratch ∧ u.flights.length = st.flights.length + 1 ∧ (∀ m, m ≠ n → t.stage m = s.stage m) ∧
      t = { s with stages := t.stages }) ∧
    (st.head n (.recv n f) = .shot →
      st.waits { dest := .splice (Side.ofCode f.side.toNat), reads := [], writes := [r], checked := false
                 beats := f.beats.toNat } = false → st.land (Side.ofCode f.side.toNat) = [] → ∃ t u,
      exec (.recv n f) s = .next t ∧ t.stage n = some u ∧ u.seq.pc = st.seq.step.pc ∧ u.seq.spliced = true ∧
      u.scratch = st.scratch ∧ (∃ x, u.flights = st.flights ++ [x] ∧ x.writes = [r] ∧ x.left = f.beats.toNat) ∧
      (∀ m, m ≠ n → t.stage m = s.stage m) ∧ t = { s with stages := t.stages })) ∧
  (∀ (s : State) (n p : Nat) (st : Stage) (c : Ctx) (k : BitVec 12) (g : BitVec 4) (xa xe : Bool) (e : Nat)
    (o : OutEntry) (r : LineRange), s.atHead n (.commit n k g xa xe) st p c → st.seq.ahead = false →
    commitEntry n k xe st.seq c = some (e, o) → st.seq.range (c.stagingOf n) g xa o.lines = some r →
    st.waits { dest := .commit, reads := [r], writes := [], checked := false, beats := 0
               slot := some (e, c.outPort o) } = false → ∃ t u, exec (.commit n k g xa xe) s = .next t ∧ t.stage n = some u ∧
    (∃ x, u.flights = st.flights ++ [x] ∧ x.dest = .commit ∧ x.slot = some (e, c.outPort o) ∧ x.reads = [r]) ∧
    u.staged = st.staged ∧ u.scratch = st.scratch ∧ u.journal = st.journal ∧ u.seq = st.seq.step ∧
    (∀ m, m ≠ n → t.stage m = s.stage m) ∧ t = { s with stages := t.stages }) ∧
  (∀ (s : State) (n k : Nat) (st : Stage) (f : Flight) (ok : Bool), s.stage n = some st →
    st.flights.find? (fun x => x.no = k) = some f → s.live = true → st.clocked = true → st.oldest f = true → f.left = 0 →
    (s.slotBusy n f = true → exec (.shotRetire n k ok) s = .next s) ∧
    (s.slotBusy n f = false → f.checked = false ∨ ok = true → f.slot = none →
      exec (.shotRetire n k ok) s = .next (s.putStage n (st.retireShot f))) ∧
    (∀ (p e : Nat) (c : Ctx) (o : OutEntry) (q : Port) (r : LineRange), s.slotBusy n f = false →
      f.checked = false ∨ ok = true → s.ctxOf n = some (p, c) → f.slot = some (e, q) → f.reads = [r] →
      c.outEntry e = some o → ∃ t u, exec (.shotRetire n k ok) s = .next t ∧ t.stage n = some u ∧
      u.flights = st.flights.filter (fun x => x.no ≠ k) ∧
      u.staged = st.staged.filter (fun x => x.entry ≠ e) ++
        [{ entry := e, parity := parityOf c.frame, lines := linesOf o.lines (st.readRange r) }] ∧
      u.journal = st.journal ∧ u.acc = st.acc ∧ u.seq = st.seq ∧ (∀ m, m ≠ n → t.stage m = s.stage m) ∧
      t = { s with stages := t.stages }) ∧
    (s.slotBusy n f = false → f.checked = true → exec (.shotRetire n k false) s = .next (s.detect
      { stageErr 0x01 n (some (.engine n (st.engineMap.getD f.dest.engineCode f.dest.engineCode))) with
        engine := f.dest.engineCode, shot := f.index, ahead := f.ahead })))

/-! ### Errors, rollback, tests and substitution (chapters 3 and 14) -/

/-- SCRIPT_STORE_UNCORRECTABLE, BANK_UNCORRECTABLE, PREFETCH_SQUASH_ERROR and ERROR_EVENT_RECEIVED (R120, R121, R310, R332,
R451, R452, R467, R469): a detected error of the frame in progress begins a rollback of both epochs on every lit stage,
takes one retake, drops the step request and starts its unit's test; a corrected script word is counted only; one of
run-ahead work rolls back the run-ahead epoch alone; an error whose good content is nowhere escalates; a squashed prefetch
is told and tested only. -/
def Obligations.DetectedErrorsRollBack : Prop :=
  (∀ (s : State) (n word bits p : Nat) (st : Stage) (c : Ctx), s.working n p st c → s.live = true →
    st.seq.ahead = false → c.committing = false → 2 ≤ bits → s.testOf (.scriptRow n (word / 32)) = none → ∃ t d,
    exec (.scriptStoreUncorrectable n word bits) s = .next t ∧ t.ctx p = some d ∧
    d.rollback = some { both := true, wait := s.rollStages c, aborted := [], kind := 0x02, stage := n } ∧
    d.retakes = c.retakes + 1 ∧ d.rolledRun = c.rolledRun + 1 ∧ d.stepReq = none ∧
    t.stage n = some { st with reload := some (word / 512) } ∧
    t.toldError (s.errBody { stageErr 0x02 n (some (.scriptRow n (word / 32))) with shot := st.seq.shotAt word }
      (if c.rolledRun < 3 then 0x01 else 0x04) 0) ∧
    t.pendingTest (.scriptRow n (word / 32)) 0x02 ∧
    t = { s.errorsOf t with parts := t.parts, stages := t.stages, xings := t.xings }) ∧
  (∀ (s : State) (n word bits p : Nat) (st : Stage) (c : Ctx), s.working n p st c → s.live = true → bits < 2 →
    exec (.scriptStoreUncorrectable n word bits) s =
      .next (s.putStage n { st with scriptCorrected := st.scriptCorrected + bits })) ∧
  (∀ (s : State) (n word bits : Nat) (st : Stage), s.stage n = some st → st.part = none →
    exec (.scriptStoreUncorrectable n word bits) s = .next s) ∧
  (∀ (s : State) (n phys line p : Nat) (st : Stage) (c : Ctx), s.working n p st c → c.committing = false →
    s.testOf (rowUnit n phys line) = none →
    (st.journaled phys line true = true ∨ st.journaled phys line false = true → ∃ t d,
      exec (.bankUncorrectable n phys line false false) s = .next t ∧ t.ctx p = some d ∧
      d.rollback = some { both := true, wait := s.rollStages c, aborted := [], kind := 0x03, stage := n } ∧
      d.retakes = c.retakes + 1 ∧ t.pendingTest (rowUnit n phys line) 0x03 ∧
      t = { s.errorsOf t with parts := t.parts, xings := t.xings }) ∧
    (st.journaled phys line true = true → s.rollStages c ≠ [] → ∃ t d,
      exec (.bankUncorrectable n phys line true false) s = .next t ∧ t.ctx p = some d ∧
      d.rollback = some { both := false, wait := s.rollStages c, aborted := [], kind := 0x03, stage := n } ∧
      d.retakes = c.retakes ∧ d.rolledRun = c.rolledRun ∧ d.stepReq = c.stepReq ∧
      t.toldError (s.errBody (st.bankReport n phys line true false) 0x02 0) ∧
      t = { s.errorsOf t with parts := t.parts, xings := t.xings }) ∧
    (st.journaled phys line true = false → st.journaled phys line false = false → ∃ t,
      exec (.bankUncorrectable n phys line false false) s = .next t ∧ t.atLevel3 p c 0x03 n ∧
      t.toldError (s.errBody (st.bankReport n phys line false false) 0x04 0) ∧
      t = { s.errorsOf t with parts := t.parts, stages := t.stages }) ∧
    (∃ t, exec (.bankUncorrectable n phys line false true) s = .next t ∧ t.atLevel3 p c 0x03 n)) ∧
  (∀ (s : State) (n phys line : Nat) (st : Stage), s.stage n = some st → st.clocked = true →
    s.testOf (rowUnit n phys line) = none → ∃ t, exec (.prefetchSquashError n phys line) s = .next t ∧
    t.toldError (s.errBody (stageErr 0x04 n (some (rowUnit n phys line))) 0 0) ∧
    t.pendingTest (rowUnit n phys line) 0x04 ∧ t = s.errorsOf t) ∧
  (∀ (s : State) (e : ErrReport), s.inReset = false →
    (e.kind = 0 ∨ 0x1B < e.kind → exec (.errorEventReceived e) s = .next s) ∧
    (e.kind = 0x10 ∨ e.kind = 0x17 ∨ e.kind = 0x18 ∨ e.kind = 0x19 ∨ e.kind = 0x1A → ∃ t,
      exec (.errorEventReceived e) s = .next t ∧
      t.toldError (s.errBody e (if e.kind = 0x10 then 0x03 else 0x00) 0) ∧
      t = { s.recordsOf t with xings := t.xings }) ∧
    (∀ (p : Nat) (st : Stage) (c : Ctx), e.kind = 0x01 ∨ e.kind = 0x06 ∨ e.kind = 0x07 → s.working e.stage p st c →
      c.committing = false → e.ahead = false → e.unit = none → ∃ t d, exec (.errorEventReceived e) s = .next t ∧
      t.ctx p = some d ∧
      d.rollback = some { both := true, wait := s.rollStages c, aborted := [], kind := e.kind, stage := e.stage } ∧
      d.retakes = c.retakes + 1 ∧ t = { s.recordsOf t with parts := t.parts, xings := t.xings }))

/-- What the abort restores (R116, R122): a journaled line gets back the pre-image of its oldest current-epoch entry, or,
when it has none, of its oldest run-ahead entry; every byte of every other line is unchanged; the journal is empty. A
run-ahead rollback restores by run-ahead entries alone and keeps the others. -/
def Obligations.RollbackRestoresPreImages : Prop :=
  ∀ (st : Stage) (b l i : Nat), Memory.wf st.scratch = true → (∀ j ∈ st.journal, j.line < 65536) → l < 65536 → i < 64 →
    (∀ j, st.journal.find? (fun j => j.bank = b && j.line = l && !j.ahead) = some j →
      cellGet (st.restore true).scratch (lineKey b l + i) = (lineBytes j.old).getD i 0) ∧
    (∀ j, st.journal.find? (fun j => j.bank = b && j.line = l && !j.ahead) = none →
      st.journal.find? (fun j => j.bank = b && j.line = l && j.ahead) = some j →
      cellGet (st.restore true).scratch (lineKey b l + i) = (lineBytes j.old).getD i 0) ∧
    ((∀ j ∈ st.journal, ¬ (j.bank = b ∧ j.line = l)) →
      cellGet (st.restore true).scratch (lineKey b l + i) = cellGet st.scratch (lineKey b l + i)) ∧
    (st.restore true).journal = [] ∧
    (∀ j, st.journal.find? (fun j => j.bank = b && j.line = l && j.ahead) = some j →
      cellGet (st.restore false).scratch (lineKey b l + i) = (lineBytes j.old).getD i 0) ∧
    ((∀ j ∈ st.journal, j.ahead = true → ¬ (j.bank = b ∧ j.line = l)) →
      cellGet (st.restore false).scratch (lineKey b l + i) = cellGet st.scratch (lineKey b l + i)) ∧
    (st.restore false).journal = st.journal.filter (fun j => !j.ahead)

/-- ROLLBACK_ABORT, ROLLBACK_COMPLETE and RETAKE_LIMIT (R122, R124, R132, R454): a stage of a rollback of both epochs restores
its journal, empties its queues, accumulators, landing buffers and counts, discards the step change, stands at the start for
the retake, and restarts the splices inside its partition; a run-ahead abort keeps the current epoch; the last report ends a run-ahead
rollback; the fourth take of a frame escalates. -/
def Obligations.AbortCompleteAndRetakeLimit : Prop :=
  (∀ (s : State) (n p : Nat) (st : Stage) (c : Ctx) (rb : Rollback), s.stage n = some st → s.ctxOf n = some (p, c) →
    c.rollback = some rb → n ∈ rb.wait → n ∉ rb.aborted →
    (rb.both = true → ∃ t u, exec (.rollbackAbort n) s = .next t ∧ t.stage n = some u ∧
      u.scratch = (st.restore true).scratch ∧ u.journal = [] ∧ u.flights = [] ∧ u.staged = [] ∧ u.acc = [] ∧
      u.resid = [] ∧ u.cnt = .zero ∧ u.cntAhead = .zero ∧ (∀ d, u.land d = []) ∧
      u.clock = st.clock.discard c.reel.floor ∧ u.slackNow = none ∧ u.slackEof = none ∧
      u.seq = { Seq.start with kind := st.seq.kind, nextKind := st.seq.kind, held := st.seq.held } ∧
      (∀ d ∈ s.innerSides n p, u.link d = (st.link d).restart) ∧
      (∀ d, d ∉ s.innerSides n p → u.link d = st.link d) ∧ u.script = st.script ∧ u.traceBuf = st.traceBuf ∧
      t.ctx p = some { c with rollback := some { rb with aborted := n :: rb.aborted } } ∧
      (∀ m, m ≠ n → t.stage m = s.stage m) ∧ t = { s with stages := t.stages, parts := t.parts, xings := t.xings }) ∧
    (rb.both = false → c.inFrame = true → st.seq.ahead = true → ∃ t u, exec (.rollbackAbort n) s = .next t ∧
      t.stage n = some u ∧ u.scratch = (st.restore false).scratch ∧ u.journal = st.journal.filter (fun j => !j.ahead) ∧
      u.cnt = st.cnt ∧ u.cntAhead = .zero ∧ u.flights = st.flights.filter (fun f => !f.ahead) ∧
      u.seq.ahead = false ∧ u.seq.done = true ∧ u.seq.noAhead = true ∧ (∀ d, u.link d = st.link d) ∧
      (∀ d, u.land d = st.land d) ∧ u.staged = st.staged ∧ u.seq.nextKind = st.seq.nextKind ∧
      (∀ m, m ≠ n → t.stage m = s.stage m) ∧ t = { s with stages := t.stages, parts := t.parts, xings := t.xings })) ∧
  (∀ (s : State) (n p : Nat) (c : Ctx) (rb : Rollback), s.ctxOf n = some (p, c) → c.rollback = some rb →
    (n ∈ rb.aborted → rb.both = true → exec (.rollbackComplete n) s = .next (s.modCtx p (fun c => { c with
      rollback := some { rb with wait := rb.wait.filter (fun m => m ≠ n) } }))) ∧
    (n ∈ rb.aborted → rb.both = false → (∀ m ∈ rb.wait, m = n) →
      exec (.rollbackComplete n) s = .next (s.modCtx p (fun c => { c with rollback := none }))) ∧
    (n ∉ rb.aborted → exec (.rollbackComplete n) s = .next s)) ∧
  (∀ (s : State) (p : Nat) (c : Ctx) (rb : Rollback), s.ctx p = some c → c.rollback = some rb → c.level = none →
    (rb.both = true → 4 ≤ c.rolledRun → ∃ t, exec (.retakeLimit p) s = .next t ∧ t.atLevel3 p c rb.kind rb.stage ∧
      t = { s with stages := t.stages, parts := t.parts }) ∧
    (rb.both = false ∨ c.rolledRun < 4 → exec (.retakeLimit p) s = .next s))

/-- COLUMN_DETECTOR and CELL_TRACKER (R465, R466): corrected errors of a column enter its tracker, which fires at four
distinct rows with kind 0x05 and a test of the column; a second corrected error at one cell starts the test of its row
with no event. SUBSTITUTION and SUBSTITUTION_COPY_COMPLETE (R457 to R459): a tested engine's role moves to the first free
stand-in and counts as one; a copied bank waits for the tick; with nothing free nothing moves.

SELF_TEST_COMPLETE and SCRIPT_BLOCK_RELOAD (R452, R457, R461, R469): a substituted engine that passes within ALLOW becomes a
free stand-in and its transient count takes the joined errors; one that fails stays out of the maps, with the retirement
stored in carrier flash; a reloaded block of the right length and CRC is rewritten, and a failed reload escalates. -/
def Obligations.SubstitutionAndTests : Prop :=
  ((∀ (s : State) (n phys sub col : Nat) (rows : List Nat) (st : Stage), s.stage n = some st → st.clocked = true →
    (∀ e ∈ st.columns, ¬ (e.bank = phys ∧ e.sub = sub)) →
    (rows.dedup.length < 4 → exec (.columnDetector n phys sub col rows) s = .next (s.putStage n { st with
      columns := st.columns ++ [{ bank := phys, sub := sub, col := col, rows := rows.dedup, reads := 0 }]
      corrected := st.corrected + rows.length })) ∧
    (4 ≤ rows.dedup.length → s.testOf (.bankCol n phys sub col) = none → ∃ t,
      exec (.columnDetector n phys sub col rows) s = .next t ∧
      t.stage n = some { st with corrected := st.corrected + rows.length } ∧
      t.toldError (s.errBody (stageErr 0x05 n (some (.bankCol n phys sub col))) 0 0) ∧
      t.pendingTest (.bankCol n phys sub col) 0x05 ∧ t = { s.errorsOf t with stages := t.stages })) ∧
  (∀ (s : State) (n phys sub row col : Nat) (st : Stage), s.stage n = some st → st.clocked = true →
    ((∀ e ∈ st.cells, ¬ (e.bank = phys ∧ e.sub = sub)) →
      exec (.cellTracker n phys sub row col) s = .next (s.putStage n { st with
        cells := st.cells ++ [{ bank := phys, sub := sub, row := row, col := col, reads := 0 }]
        corrected := st.corrected + 1 })) ∧
    (∀ e, st.cells.find? (fun x => x.bank = phys && x.sub = sub && x.row = row && x.col = col) = some e →
      s.testOf (.bankRow n phys sub row) = none → ∃ t, exec (.cellTracker n phys sub row col) s = .next t ∧
      t.stage n = some { st with cells := st.cells.erase e, corrected := st.corrected + 1 } ∧
      t.pendingTest (.bankRow n phys sub row) 0x05 ∧ t = { s with stages := t.stages, tests := t.tests })) ∧
  (∀ (s : State) (n e : Nat) (st : Stage) (k : Test), s.stage n = some st → s.testOf (.engine n e) = some k →
    k.moved = false → k.wait = .free →
    (∀ (r : Nat) (rest : List Nat), st.freeEng = r :: rest → ∃ t j, exec (.substitution (.engine n e)) s = .next t ∧
      t.stage n = some { st with engineMap := st.engineMap.map (fun x => if x = e then r else x), freeEng := rest } ∧
      t.testOf (.engine n e) = some j ∧ j = { k with moved := true, repl := some r, wide := false } ∧
      (∀ p c, s.ctxOf n = some (p, c) → t.ctx p = some { c with standIns := c.standIns + 1 }) ∧
      t = { s with stages := t.stages, tests := t.tests, parts := t.parts }) ∧
    (st.freeEng = [] → exec (.substitution (.engine n e)) s = .next s)) ∧
  (∀ (s : State) (n b : Nat) (st : Stage) (k : Test), s.stage n = some st → s.testOf (.bank n b) = some k →
    k.moved = false → k.copied = false →
    (st.freeBank ≠ [] → ∃ t j, exec (.substitutionCopyComplete (.bank n b)) s = .next t ∧
      t.testOf (.bank n b) = some j ∧ j = { k with copied := true, wait := if k.wait = .free then .tick else k.wait } ∧
      t = { s with tests := t.tests }) ∧
    (st.freeBank = [] → exec (.substitutionCopyComplete (.bank n b)) s = .next s))) ∧
  ((∀ (s : State) (n e : Nat) (st : Stage) (k : Test) (r : TestResult), s.stage n = some st →
    s.testOf (.engine n e) = some k → k.moved = true →
    (r.failed = false → s.transientOf (.engine n e) + k.joined ≤ s.allow → ∃ t,
      exec (.selfTestComplete (.engine n e) r) s = .next t ∧ t.testOf (.engine n e) = none ∧
      t.stage n = some { st with freeEng := st.freeEng ++ [e] } ∧
      t.transientOf (.engine n e) = s.transientOf (.engine n e) + k.joined ∧
      t = { s with stages := t.stages, tests := t.tests, transients := t.transients }) ∧
    (r.failed = true → ∃ t, exec (.selfTestComplete (.engine n e) r) s = .next t ∧ t.testOf (.engine n e) = none ∧
      t.stage n = some st ∧ (∃ f, t.flash.retire0 = some f ∨ t.flash.retire1 = some f) ∧
      t = { s.recordsOf t with tests := t.tests, flash := t.flash })) ∧
  (∀ (s : State) (u : UnitId) (r : TestResult), s.testOf u = none → exec (.selfTestComplete u r) s = .next s) ∧
  (∀ (s : State) (n p block : Nat) (st : Stage) (c : Ctx), s.stage n = some st → s.ctxOf n = some (p, c) →
    c.level = none → st.reload = some block →
    ((s.port c.port).canSend = true → ∀ (bs : List Byte) (words : Nat),
      words = (if 512 * (block + 1) ≤ st.scriptLen then 512 else st.scriptLen - 512 * block) → bs.length = 8 * words →
      some (crc32 bs) = st.scriptCrc[block]? → exec (.scriptBlockReload n block (some bs)) s = .next (s.putStage n
        { st with reload := none, script := cellSetList st.script (512 * block) (words64 words bs) })) ∧
    (∀ bs : List Byte, some (crc32 bs) ≠ st.scriptCrc[block]? ∨ (s.port c.port).canSend = false → ∃ t,
      exec (.scriptBlockReload n block (some bs)) s = .next t ∧ t.atLevel3 p c 0x02 n) ∧
    (∃ t, exec (.scriptBlockReload n block none) s = .next t ∧ t.atLevel3 p c 0x02 n ∧
      t = { s with stages := t.stages, parts := t.parts })) ∧
  (∀ (s : State) (n block : Nat) (st : Stage) (bs : Option (List Byte)), s.stage n = some st →
    st.reload ≠ some block → exec (.scriptBlockReload n block bs) s = .next s))

/-! ### Hangs, cuts and escalation (chapter 15) -/

/-- HANG and CUT_ACCEPT (R485, R486, R488): a frame that would wait for the W-th counted tick names a stage, an engine and a
shot in an error event of kind 0x15, and its tick becomes the cut tick of a cut by the monitor; an accepted request
begins a cut or joins the one in progress, and one for a context that cannot be cut changes nothing. CUT_TICK (R490,
R492): the context epoch rises, notices are sent, by their crossings to the lit stages, and held output lines of the
context are discarded. -/
def Obligations.HangAndCutTick : Prop :=
  (∀ (s : State) (p : Nat) (c : Ctx), s.ctx p = some c → c.cut = none →
    (c.cuttable = true → s.counts c = true → c.action.getD (s.tickActionOf c) = .wait →
      c.noProg + 1 = s.window → ∃ t, exec (.hang p) s = .next t ∧ t.ctx p = some { c with
        action := none, named := some (s.nameHang c)
        cut := some { mask := 0x10, fixed := true, noticed := false, told := [], stopped := [], resumed := false }
        level := some { level := 1, trigger := 0x15, start := s.stamp, stage := (s.nameHang c).stage } } ∧
      t.toldError (s.errBody { stageErr 0x15 (s.nameHang c).stage none with
        engine := (s.nameHang c).engine, shot := (s.nameHang c).shot } 0x04 0) ∧
      t = { s.recordsOf t with parts := t.parts }) ∧
    (c.noProg + 1 ≠ s.window → exec (.hang p) s = .next s) ∧
    (∀ src, c.cuttable = true → exec (.cutAccept p src) s = .next (s.modCtx p (fun c => { c with
      cut := some { mask := cutBit src, fixed := false, noticed := false, told := [], stopped := []
                    resumed := false } })))) ∧
  (∀ (s : State) (p : Nat) (c : Ctx) (src : CutSource), s.ctx p = some c →
    (∀ k, c.cut = some k → ∃ t, exec (.cutAccept p src) s = .next t ∧
      t.ctx p = some { c with cut := some { k with mask := k.mask ||| cutBit src } } ∧
      t = { s with parts := t.parts }) ∧
    (c.cuttable = false → ∃ t, exec (.cutAccept p src) s = .next t ∧ t.ctx p = some c ∧ t = { s with parts := t.parts })) ∧
  (∀ (s : State) (p : Nat) (c : Ctx) (e : Ended) (k : Cut), s.ctx p = some c → c.ended = some e → e.cut = true →
    c.cut = some k →
    (k.noticed = false → ∃ t, exec (.cutTick p) s = .next t ∧ t.ctx p = some { c with
        epoch := c.epoch + 1, cut := some { k with noticed := true }
        outs := c.outs.filter (fun o => !(s.port o.2.1).holds p c.id o.2.2) } ∧
      (∀ q : Port, t.port q = { s.port q with held := (s.port q).held.filter (fun o => !o.ofCtx p c.id) }) ∧
      (∀ n ∈ c.stages, ∀ st, s.stage n = some st → st.st = .lit →
        ∃ x ∈ t.xings, x.xid = stageXid n 6 0 ∧ (x.req = true ∨ x.pending = true)) ∧
      t = { s with parts := t.parts, portA := t.portA, portB := t.portB, xings := t.xings }) ∧
    (k.noticed = true → exec (.cutTick p) s = .next s))

/-- CUT_NOTICE, STAGE_DUMP, CUT_STOPPED and CUT_COMPLETE (R490, R492, R498, R507): a lit stage that takes the notice stops and
empties its queues, staged outputs and landing buffers, beats it has sent staying in their replay buffers, its journal
untouched; a named stage is dumped before it reports cut-stopped, which begins its release; when every stage is released
and every fence crossed the cut-complete and wrap records are formed and the context is gone. -/
def Obligations.CutRunsToItsEnd : Prop :=
  (∀ (s : State) (n p : Nat) (st : Stage) (c : Ctx) (k : Cut), s.stage n = some st → s.ctxOf n = some (p, c) →
    c.cut = some k → k.noticed = true →
    (n ∉ k.told → st.st = .lit → ∃ t u, exec (.cutNotice n) s = .next t ∧ t.stage n = some u ∧ u.flights = [] ∧
      u.staged = [] ∧ (∀ d, u.land d = [] ∧ (u.link d).unacked = (st.link d).unacked.take (st.link d).sent) ∧
      u.stopped = true ∧ u.journal = st.journal ∧ u.scratch = st.scratch ∧
      u.acc = st.acc ∧ t.ctx p = some { c with cut := some { k with told := n :: k.told } } ∧
      (∀ m, m ≠ n → t.stage m = s.stage m) ∧ t = { s with stages := t.stages, parts := t.parts, xings := t.xings }) ∧
    (n ∈ k.told ∨ st.st ≠ .lit → exec (.cutNotice n) s = .next s) ∧
    (n ∈ k.told → n ∉ k.stopped → s.dumpDue c n = false → exec (.cutStopped n) s = .next
      ((s.modStage n (fun st => { st with releasing := true })).modCtx p (fun c => { c with
        cut := some { k with stopped := n :: k.stopped } }))) ∧
    (∀ (nm : Named) (reads : DumpReads), c.named = some nm → nm.stage = n → nm.dumped = false → s.dumpLines ≠ 0 →
      exec (.cutStopped n) s = .next s ∧ ∃ t, exec (.stageDump n reads) s = .next t ∧
      t.ctx p = some { c with named := some { nm with dumped := true } } ∧
      (t.dailies.written = s.dailies.written + 1 ∨ t.dailies.droppedN = s.dailies.droppedN + 1) ∧
      (∃ e, t.dailies.log.getLast? = some e ∧ e.kind = 0x0C) ∧
      t = { s with parts := t.parts, dailies := t.dailies })) ∧
  (∀ (s : State) (p : Nat) (c : Ctx) (e : Ended) (k : Cut) (ok : Bool), s.ctx p = some c → c.ended = some e →
    e.cut = true → c.cut = some k → k.noticed = true → c.recorded = false →
    (s.allReleased p c = true → s.fencesCrossed p c = true → s.spinesClear c = true → ∃ t, exec (.cutComplete p ok) s = .next t ∧
      t.ctx p = none ∧ (∀ u ∈ t.stages, u.part ≠ some p) ∧ (∀ q, q ≠ p → t.ctx q = s.ctx q) ∧
      t.chain.next = s.chain.next + 1 ∧
      t = { s.recordsOf t with stages := t.stages, parts := t.parts, flash := t.flash, chain := t.chain }) ∧
    (s.allReleased p c = false ∨ s.fencesCrossed p c = false ∨ s.spinesClear c = false →
      exec (.cutComplete p ok) s = .next s))

/-- ESCALATION_BOUND_EXPIRY (R495 to R498, R503): level 1 goes to level 2 while a stage has not stopped and to level 3
otherwise; level 2 goes to level 3, level 3 to level 4 and level 4 to level 5, each keeping the trigger and stage of the
level below and beginning now; a level that is not in progress does not expire. -/
def Obligations.LevelsEscalate : Prop :=
  (∀ (s : State) (p : Nat) (c : Ctx) (k : Cut) (v : Level), s.ctx p = some c → c.cut = some k → c.level = some v →
    (v.level = 1 → c.ended.isSome → k.noticed = true → c.recorded = false → k.resumed = false →
      (s.unstopped p c k ≠ [] → ∃ t, exec (.escalationBoundExpiry 1 p) s = .next t ∧ t.ctx p = some { c with
        level := some { level := 2, trigger := v.trigger, start := s.stamp
                        stage := match c.named with | none => 0xFF | some nm => nm.stage }
        cut := some { k with mask := k.mask ||| 0x20 } } ∧ t = { s.recordsOf t with parts := t.parts }) ∧
      (s.unstopped p c k = [] → ∃ t, exec (.escalationBoundExpiry 1 p) s = .next t ∧
        t.atLevel3 p c v.trigger v.stage ∧ t = { s.recordsOf t with parts := t.parts, stages := t.stages })) ∧
    (v.level = 2 → k.resumed = false → ∃ t, exec (.escalationBoundExpiry 2 p) s = .next t ∧
      t.atLevel3 p c v.trigger v.stage ∧ t = { s.recordsOf t with parts := t.parts, stages := t.stages }) ∧
    (v.level = 3 → s.level4 = none → s.level5 = none → ∃ t, exec (.escalationBoundExpiry 3 p) s = .next t ∧
      t.level4 = some { level := 4, trigger := v.trigger, start := s.stamp, stage := v.stage } ∧
      (∀ st ∈ t.stages, st.part.isSome → st.stopped = true) ∧
      t = { s.recordsOf t with parts := t.parts, stages := t.stages, level4 := t.level4 })) ∧
  (∀ (s : State) (p : Nat) (v : Level), s.level4 = some v → ∃ t, exec (.escalationBoundExpiry 4 p) s = .next t ∧
    t.level4 = none ∧ t.level5 = some { level := 5, trigger := v.trigger, start := s.stamp, stage := v.stage } ∧
    t.pins = { s.pins with issueStopped := true, failed := true, bypassOpen := false } ∧
    t = { s.recordsOf t with level4 := t.level4, level5 := t.level5, pins := t.pins }) ∧
  (∀ (s : State) (p : Nat), s.level4 = none → exec (.escalationBoundExpiry 4 p) s = .next s) ∧
  (∀ (s : State) (p : Nat) (c : Ctx), s.ctx p = some c → c.level = none →
    exec (.escalationBoundExpiry 2 p) s = .next s ∧ exec (.escalationBoundExpiry 3 p) s = .next s)

/-- ENGINE_RESET, PARTITION_RESET, CHIP_COMPUTE_RESET and POWER_CYCLE_REQUEST (R43, R419, R496, R498, R500 to R503): an engine
reset clears what a stage issues and keeps its banks, journal and clock; a partition reset ends its context with records
and gives its stages back; a chip compute reset ends every context and empties the spines; level 5 asks for the power
cycle once, the ledger written first (R148). -/
def Obligations.ResetsOfTheLadder : Prop :=
  (∀ (s : State) (p : Nat) (c : Ctx) (k : Cut) (v : Level), s.ctx p = some c → c.cut = some k → c.level = some v →
    (v.level = 2 → k.resumed = false → ∃ t, exec (.engineReset p) s = .next t ∧ t.ctx p = some { c with
        cut := some { k with stopped := s.unstopped p c k ++ k.stopped, told := s.unstopped p c k ++ k.told
                             resumed := true } } ∧
      (∀ n ∈ s.unstopped p c k, ∀ st, s.stage n = some st → t.stage n = some { st.dropUnsent with
        flights := [], staged := [], acc := [], resid := [], seq := .start, stopped := true, releasing := true }) ∧
      (∀ n, n ∉ s.unstopped p c k → t.stage n = s.stage n) ∧
      t = { s.recordsOf t with stages := t.stages, parts := t.parts }) ∧
    (v.level ≠ 2 → exec (.engineReset p) s = .next s)) ∧
  (∀ (s : State) (p : Nat) (c : Ctx) (v : Level) (ok : Bool), s.ctx p = some c → c.level = some v →
    (v.level = 3 → ∃ t, exec (.partitionReset p ok) s = .next t ∧ t.ctx p = none ∧
      (∀ u ∈ t.stages, u.part ≠ some p) ∧ (∀ q, q ≠ p → t.ctx q = s.ctx q) ∧
      (c.recorded = false → t.chain.next = s.chain.next + 1) ∧ t.level4 = s.level4 ∧
      t = { s.retirementOf t with chain := t.chain }) ∧
    (v.level ≠ 3 → exec (.partitionReset p ok) s = .next s)) ∧
  (∀ (s : State) (v : Level) (ok : Bool), s.level4 = some v → (∀ us, ∃ t, exec (.chipComputeReset us ok) s = .next t ∧
      t.level4 = none ∧ t.spineOut = [] ∧ (∀ c ∈ t.parts, c = none)) ∧
    ∃ t, exec (.chipComputeReset [] ok) s = .next t ∧
      (∃ e, t.dailies.log.getLast? = some e ∧ e.kind = 0x0B) ∧
      t = { s.retirementOf t with chain := t.chain, level4 := none, spineOut := [] }) ∧
  (∀ (s : State) (us : List UnitId) (ok : Bool), s.level4 = none → exec (.chipComputeReset us ok) s = .next s) ∧
  (∀ (s : State) (v : Level) (ok ok2 : Bool), s.level5 = some v → s.pins.pwrCycleReq = false → ∃ t,
    exec (.powerCycleRequest ok ok2) s = .next t ∧
    t.pins = { s.pins with issueStopped := true, pwrCycleReq := true } ∧ (∀ c ∈ t.parts, c = none) ∧
    (ok2 = true → ∃ d, t.newestSet = some d) ∧
    (s.ledgerRead = true → ∃ l : Ledger, (t.flash.ledger0 = l.bytes ∨ t.flash.ledger1 = l.bytes) ∧
      l.entries = t.ledgerEntries ∧ l.days = t.time.dayCount) ∧
    t = { s.recordsOf t with
      pins := t.pins, parts := t.parts, stages := t.stages, flash := t.flash, chain := t.chain, level4 := none }) ∧
  (∀ (s : State) (ok ok2 : Bool), s.level5 = none ∨ s.pins.pwrCycleReq = true →
    exec (.powerCycleRequest ok ok2) s = .next s)

/-! ### Hours, calibration, the interval unit and discipline (chapter 7) -/

/-- HOUR_COUNT, BOOT_CALIBRATION_COMPLETE, CALIBRATION_COLLECTION_COMPLETE and CALIBRATION_ABANDON (R234, R236, R261, R262, R453,
R478): an hour raises the counts, writes the days in service, gives the ageing correction where there is no time source,
and returns transient counts and overruns to zero; a valid collection gives its channel a statistical table, at once in
boot and as the shadow table otherwise; an abandoned one keeps the tables; a days-in-service copy reads as the record that
was written (Table 7.2). -/
def Obligations.HoursAndCalibration : Prop :=
  (∀ s : State, s.pins.bootDone = true → s.inReset = false → ∃ t, exec .hourCount s = .next t ∧
    t.time.hourCount = (if s.time.hourCount = 23 then 0 else s.time.hourCount + 1) ∧
    t.time.dayCount = (if s.time.hourCount = 23 then s.time.dayCount + 1 else s.time.dayCount) ∧ t.transients = [] ∧
    (∃ d : Days, (t.flash.days0 = d.bytes ∨ t.flash.days1 = d.bytes) ∧ d.day = t.time.dayCount ∧
      d.hour = t.time.hourCount ∧ d.boot = s.time.bootCount) ∧
    (s.time.holdover = false → s.hasSource = false → t.time.corr = t.yAge) ∧
    (s.time.holdover = false → s.hasSource = true → t.time.corr = s.time.corr) ∧
    (s.time.holdover = true → t.time.corr = clampPpb (s.time.corr - s.ageing / 24)) ∧
    (∀ n st, s.stage n = some st → t.stage n = some { st with
      clock := { st.clock with overruns := 0, limitHit := false } }) ∧
    (s.strap 18 = 1 → t.iu = { s.iu with collecting := some 1 }) ∧ (s.strap 18 ≠ 1 → t.iu = s.iu) ∧
    t = { s with time := t.time, flash := t.flash, transients := [], stages := t.stages, iu := t.iu }) ∧
  (∀ s : State, s.pins.bootDone = false ∨ s.inReset = true → exec .hourCount s = .next s) ∧
  (∀ (s : State) (hits : List (Nat × List Nat)), s.pins.booting = true → 4 ≤ s.pins.bootPhase → s.strap 18 ≠ 2 → ∃ t,
    exec (.bootCalibrationComplete hits) s = .next t ∧ t.iu.tables.length = s.iu.tables.length ∧
    (∀ i x, s.iu.tables[i]? = some x →
      (hits.find? (fun h => h.1 = i) = none → t.iu.tables[i]? = some x) ∧
      (∀ h, hits.find? (fun h => h.1 = i) = some h → hitsValid h.2 = true →
        t.iu.tables[i]? = some (.statistical h.2, x.2)) ∧
      (∀ h, hits.find? (fun h => h.1 = i) = some h → hitsValid h.2 = false → t.iu.tables[i]? = some x)) ∧
    t.iu = { s.iu with tables := t.iu.tables } ∧ t = { s.recordsOf t with iu := t.iu }) ∧
  (∀ (s : State) (g : Nat) (hits : List (Nat × List Nat)), s.iu.collecting = some g →
    (∃ t, exec (.calibrationCollectionComplete hits) s = .next t ∧
      t.iu = { s.iu with collecting := none, shadow := some (calibrated s.iu.tables hits) } ∧
      t = { s.recordsOf t with iu := t.iu }) ∧
    ∃ t, exec .calibrationAbandon s = .next t ∧ t.iu = { s.iu with collecting := none } ∧
      t = { s.recordsOf t with iu := t.iu }) ∧
  (∀ (s : State) (hits : List (Nat × List Nat)), s.iu.collecting = none →
    exec (.calibrationCollectionComplete hits) s = .next s ∧ exec .calibrationAbandon s = .next s) ∧
  (∀ d : Days, d.seq < 2 ^ 32 → d.hour < 24 → daysOf d.bytes = some d)

/-- GATE_ARM, INTERVAL_INPUT_EDGE, MEASUREMENT_CLOSE and MEASUREMENT_TIMEOUT (R256 to R259): a rise of the gate arms one
measurement with the next number; an edge inside the hold-off is ignored, one inside the conversion time is lost, and one
taken starts the measurement from the start input; a close or timeout gives both queues the measurement's record. -/
def Obligations.ArmedMeasurements : Prop :=
  (∀ s : State, s.pins.bootDone = true → s.inReset = false →
    (s.iu.meas = none → exec .gateArm s = .next { s with iu := { s.iu with
      number := s.iu.number + 1
      meas := some { number := s.iu.number, armAt := s.time.wafer.toNat, start := none, stops := [], lost := false
                     uncal := false } } }) ∧
    (s.iu.meas.isSome → exec .gateArm s = .next s) ∧
    (∀ input tap v, input ≤ 8 → tap ≤ 255 → v = s.inputStamp input tap →
      (∀ v0, s.iu.lastIn.getD input none = some v0 → v - v0 < s.holdOff →
        exec (.intervalInputEdge input tap) s = .next s) ∧
      (∀ v0, s.iu.lastIn.getD input none = some v0 → s.holdOff ≤ v - v0 → v - v0 < 1024 → ∃ t,
        exec (.intervalInputEdge input tap) s = .next t ∧ t.iu.lost = s.iu.lost + 1 ∧ t.iu.lastIn = s.iu.lastIn ∧
        t = { s with iu := t.iu }) ∧
      (s.iu.lastIn.getD input none = none → s.iu.meas = none → exec (.intervalInputEdge input tap) s = .next { s with
        iu := { s.iu with lastIn := setAt s.iu.lastIn input (some v) } }) ∧
      (∀ m, s.iu.lastIn.getD input none = none → s.iu.meas = some m → m.start = none → input = s.startInput →
        m.armAt ≤ v → exec (.intervalInputEdge input tap) s = .next { s with iu := { s.iu with
          lastIn := setAt s.iu.lastIn input (some v)
          meas := some { m with start := some v, uncal := m.uncal || (s.iu.table input).1.uncal } } }))) ∧
  (∀ (s : State) (m : Meas), s.iu.meas = some m →
    (∃ t, exec .measurementClose s = .next t ∧ t.iu = { s.iu with meas := none } ∧
      (∀ q : Port, queueBytes (s.port q).queue + 176 ≤ 262144 → (t.port q).queue = (s.port q).queue ++
        [.item { ctx := 0, epoch := 0, time := s.stamp, body := .interval (s.measureBytes m false) }]) ∧
      t = { s.recordsOf t with iu := t.iu }) ∧
    ∃ t, exec .measurementTimeout s = .next t ∧ t.iu = { s.iu with meas := none } ∧
      (∀ q : Port, queueBytes (s.port q).queue + 176 ≤ 262144 → (t.port q).queue = (s.port q).queue ++
        [.item { ctx := 0, epoch := 0, time := s.stamp, body := .interval (s.measureBytes m true) }]) ∧
      t = { s.recordsOf t with iu := t.iu }) ∧
  (∀ s : State, s.iu.meas = none → exec .measurementClose s = .next s ∧ exec .measurementTimeout s = .next s)

/-- PPS_EDGE, DISCIPLINE_LOCK, PPS_OUTLIER_LOSS, PPS_LOSS and DISCIPLINE_RANGE_EXCEEDED (R237 to R242, R255, R256): an edge of
the other polarity or within the hold-off does nothing for the discipline; one of bad width or spacing is counted; the
second of two edges one second apart sets the anchor and seeds the correction; the loop moves the correction by its two
gains; an outlier of a locked loop is set aside; 16 small errors lock; four outliers or a missing edge end the lock in
holdover with the correction before the last used edge; 64 edges at a clamp are told once. Once boot is done every taken
edge is an edge of input 8 as well. -/
def Obligations.PpsDiscipline : Prop :=
  (∀ (s : State) (falling : Bool) (w back tap : Nat), s.ppsActive = false ∨ falling ≠ s.ppsFalling →
    exec (.ppsEdge falling w back tap) s = .next s) ∧
  (∀ (s u : State) (w back tap : Nat), s.ppsActive = true → s.time.epochFixed = true → s.inReset = false → tap ≤ 255 →
    u = (if s.pins.bootDone then s.inputEdge 8 (s.stampBefore 8 back tap) else s) →
    ∀ v : Int, v = s.stampBefore 9 back tap →
    (s.edgeFate 8 (s.stampBefore 8 back tap) ≠ .taken → exec (.ppsEdge s.ppsFalling w back tap) s = .next u) ∧
    (s.edgeFate 8 (s.stampBefore 8 back tap) = .taken →
      (w < s.ppsMinWidth ∨ s.time.pps.spaced v = false →
        exec (.ppsEdge s.ppsFalling w back tap) s = .next { u with time := { s.time with
          pps := { s.time.pps with ignored := s.time.pps.ignored + 1 } } }) ∧
      (s.ppsMinWidth ≤ w → s.time.pps.spaced v = true → s.time.pps.acquired = false →
        (s.time.pps.pending = none →
          exec (.ppsEdge s.ppsFalling w back tap) s = .next { u with time := { s.time with
            pps := { s.time.pps with pending := some v, lastEdge := some v } } }) ∧
        (∀ v0, s.time.pps.pending = some v0 → nearSeconds 1 (v - v0) = true → ∃ t,
          exec (.ppsEdge s.ppsFalling w back tap) s = .next t ∧
          t.time.pps.acquired = true ∧ t.time.pps.anchor = some v ∧ t.time.pps.pending = none ∧
          t.time.corr = clampPpb (s.time.corr - (v - v0 - 256000000000 : Int) / 256) ∧ t.time.holdover = false ∧
          t.time = { s.time with pps := t.time.pps, corr := t.time.corr, holdover := false } ∧
          t = { u.recordsOf t with time := t.time })) ∧
      (∀ a e, s.ppsMinWidth ≤ w → s.time.pps.spaced v = true → s.time.pps.acquired = true →
        s.time.pps.anchor = some a → e = phaseError a v →
        (s.time.pps.locked = true → 256000 < e.natAbs →
          exec (.ppsEdge s.ppsFalling w back tap) s = .next { u with time := { s.time with
            pps := { s.time.pps.clampEdge s.time.corr with lastEdge := some v, outliers := s.time.pps.outliers + 1 } } }) ∧
        (e.natAbs ≤ 256000 → ∃ t, exec (.ppsEdge s.ppsFalling w back tap) s = .next t ∧
          t.time.corr = clampPpb (s.time.corr - (e - s.time.pps.lastErr : Int) / 2048 - (e : Rat) / 16384) ∧
          t.time.pps.lastErr = e ∧ t.time.pps.prevCorr = s.time.corr ∧ t.time.pps.outliers = 0 ∧
          t.time.pps.lockRun = (if e.natAbs ≤ 12800 then s.time.pps.lockRun + 1 else 0) ∧
          t.time.applied = s.time.applied ∧ t = { u with time := t.time })))) ∧
  (∀ s : State, s.ppsActive = true →
    (s.time.pps.acquired = true → s.time.pps.locked = false → 16 ≤ s.time.pps.lockRun → s.time.pps.clampRun < 64 → ∃ t,
      exec .disciplineLock s = .next t ∧ t.time = { s.time with
        pps := { s.time.pps with locked := true, outliers := 0 }, epochId := { s.time.epochId with kind := 1 } } ∧
      t = { s.recordsOf t with time := t.time }) ∧
    (s.time.pps.locked = true → 4 ≤ s.time.pps.outliers → ∃ t, exec .ppsOutlierLoss s = .next t ∧
      t.time.pps.locked = false ∧ t.time.pps.acquired = false ∧ t.time.holdover = true ∧
      t.time.corr = s.time.pps.prevCorr ∧
      t.time.epochId.kind = (if s.time.epochId.kind = 1 then 2 else s.time.epochId.kind) ∧
      t.time.wafer = s.time.wafer ∧ t = { s.recordsOf t with time := t.time }) ∧
    (s.time.pps.locked = false ∨ s.time.pps.outliers < 4 → exec .ppsOutlierLoss s = .next s) ∧
    (s.time.pps.locked = false → (s.time.pps.acquired = true ∨ s.time.pps.pending.isSome) → ∃ t,
      exec .ppsLoss s = .next t ∧ t.time.pps.acquired = false ∧ t.time.pps.pending = none ∧
      t.time.holdover = false ∧ t.time.corr = s.yAge ∧ t = { s.recordsOf t with time := t.time }) ∧
    (s.time.pps.acquired = false → s.time.pps.pending = none → exec .ppsLoss s = .next s) ∧
    (64 ≤ s.time.pps.clampRun → s.time.pps.told = false → ∃ t, exec .disciplineRangeExceeded s = .next t ∧
      t.time = { s.time with pps := { s.time.pps with told := true } } ∧
      t.toldError (s.errBody (moduleErr 0x19 0 none) 0 0) ∧ t = { s.recordsOf t with time := t.time }) ∧
    (s.time.pps.clampRun < 64 ∨ s.time.pps.told = true → exec .disciplineRangeExceeded s = .next s))

/-- SYNC_SEND, SYNC_RECEIVED, DELAY_REQ_RECEIVED and DELAY_RESP_RECEIVED (R244 to R249): a master sends Sync and Follow_Up with
hop count 0 and answers delay requests; a slave passes its parent's on with one hop more, takes the better of two Syncs as
its parent, answers it with a Delay_Req, and an exchange moves its correction by the servo's two gains; frames of no good
CRC, reserved kind or unknown message are counted as discarded; a stamp keeps its value as seconds, nanoseconds and
correctionField. -/
def Obligations.RingTimeFrames : Prop :=
  (∀ (s : State) (rp : RingPort) (edge tap : Nat) (t : Nat), s.ringTime rp = true →
    t = s.stampAt (ringStamper rp) edge tap →
    (∀ h : TimeHeader,
      (s.isMaster = true ∧ h = { master := BitVec.ofNat 8 s.moduleId, hop := 0, kind := s.time.epochId.kind
                                 serial := s.time.epochId.serial, era := s.era }) ∨
      (∃ x, s.isSlave = true ∧ s.time.slave.parent ≠ some rp ∧ s.time.slave.parentSync = some x ∧
        h = { master := x.msg.master, hop := x.msg.hop + 1, kind := x.msg.kind, serial := x.msg.serial, era := s.era }) →
      exec (.syncSend rp edge tap) s = .next (s.modRing rp (fun r => { r with
        sent := r.sent ++ [.time h (ptpMessage 0x0 s.moduleId rp r.syncSeq s.time.wafer.toNat),
                           .time h (ptpMessage 0x8 s.moduleId rp r.syncSeq t)]
        syncSeq := r.syncSeq + 1 }))) ∧
    (∀ (frame : List Byte) (k : TimeHeader) (m : PtpMsg), discarded frame = false → timeFrameOf frame = some (k, m) →
      m.msgType = 0x1 → s.isMaster = true ∨ s.isSlave = true ∧ s.time.slave.parent ≠ some rp →
      exec (.delayReqReceived rp frame edge tap) s = .next (s.modRing rp (fun r => { r with
        sent := r.sent ++ [.time s.timeHeader { ptpMessage 0x9 s.moduleId rp m.seqId t with
          reqClock := m.clockId, reqPort := m.portNo }] }))) ∧
    (s.isSlave = true → s.time.slave.parent = some rp → exec (.syncSend rp edge tap) s = .next s)) ∧
  (∀ (s : State) (rp : RingPort) (sync follow frame : List Byte) (e k q j : Nat), s.ringTime rp = true →
    (syncPair sync follow = none → exec (.syncReceived rp sync follow e k q j) s = .next (s.modRing rp (fun r => { r with
      discards := r.discards + (if discarded sync then 1 else 0) + (if discarded follow then 1 else 0) }))) ∧
    (discarded frame = true → exec (.delayReqReceived rp frame e k) s = .next (s.modRing rp (fun r => { r with
        discards := r.discards + 1 })) ∧
      exec (.delayRespReceived rp frame) s = .next (s.modRing rp (fun r => { r with discards := r.discards + 1 })))) ∧
  (∀ (s : State) (rp : RingPort) (sync follow : List Byte) (e k q j : Nat) (m : SyncMsg) (t2 t3 : Nat),
    s.ringTime rp = true → syncPair sync follow = some m → t2 = s.stampAt (ringStamper rp) e k →
    t3 = s.stampAt (ringStamper rp) q j →
    (s.isMaster = true → m.master.toNat ≠ s.moduleId → ∃ t, exec (.syncReceived rp sync follow e k q j) s = .next t ∧
      t = s.recordsOf t) ∧
    (s.isSlave = true →
      (63 ≤ m.hop → exec (.syncReceived rp sync follow e k q j) s = .next s) ∧
      (m.hop < 63 → s.time.slave.east = none → s.time.slave.west = none → s.time.slave.parent = none → ∃ t h,
        exec (.syncReceived rp sync follow e k q j) s = .next t ∧ t.time.slave.parent = some rp ∧
        t.time.slave.parentSync = some { msg := m, t2 := t2 } ∧ t.time.slave.asked = some (t3, (s.ring rp).reqSeq) ∧
        (t.ring rp).sent = (s.ring rp).sent ++ [.time h (ptpMessage 0x1 s.moduleId rp (s.ring rp).reqSeq 0)] ∧
        (t.ring rp).reqSeq = (s.ring rp).reqSeq + 1 ∧ t.time.corr = s.time.corr ∧
        t = { s with time := t.time, ringE := t.ringE, ringW := t.ringW }) ∧
      (∀ w, rp = .east → m.hop < 63 → s.time.slave.west = some w → w.msg.hop < m.hop →
        t2 ≤ w.t2 + 256000000000 → ∃ t, exec (.syncReceived .east sync follow e k q j) s = .next t ∧
        t.time.slave.parent = some .west ∧ t.time.slave.east = some { msg := m, t2 := t2 } ∧ t.ringE = s.ringE))) ∧
  (∀ (s : State) (rp : RingPort) (frame : List Byte) (h : TimeHeader) (m : PtpMsg) (x : SyncSeen) (t3 : Nat)
    (q : BitVec 16) (d o : Rat), s.ringTime rp = true → s.isSlave = true → discarded frame = false →
    timeFrameOf frame = some (h, m) → s.time.slave.parentSync = some x → s.time.slave.asked = some (t3, q) →
    s.time.slave.parent = some rp → m.msgType = 0x9 →
    (m.seqId = q → m.reqClock = clockIdentity s.moduleId → m.reqPort = portNumber rp → s.time.slave.locked = false →
      d = (((x.t2 : Rat) - x.msg.t1) + ((ptpTime m : Rat) - t3)) / 2 → o = ((x.t2 : Rat) - x.msg.t1) - d → ∃ t,
      exec (.delayRespReceived rp frame) s = .next t ∧ t.time.slave.delays = (d :: s.time.slave.delays).take 16 ∧
      t.time.slave.offsets = (o :: s.time.slave.offsets).take 16 ∧ t.time.slave.lastOff = o ∧
      t.time.slave.asked = none ∧
      (s.time.slave.acquired = true → s.time.slave.stepBy = none →
        t.time.corr = clampPpb (s.time.corr - 2 * (o - s.time.slave.lastOff) / 256 - o / 1024)) ∧
      (s.time.slave.acquired = false → t.time.corr = s.time.corr) ∧ t = { s with time := t.time }) ∧
    (m.seqId ≠ q ∨ m.reqClock ≠ clockIdentity s.moduleId ∨ m.reqPort ≠ portNumber rp →
      exec (.delayRespReceived rp frame) s = .next s)) ∧
  (∀ (s : State) (rp : RingPort) (sync follow frame : List Byte) (e k q j : Nat), s.ringTime rp = false →
    exec (.syncSend rp e k) s = .next s ∧ exec (.syncReceived rp sync follow e k q j) s = .next s ∧
    exec (.delayReqReceived rp frame e k) s = .next s ∧ exec (.delayRespReceived rp frame) s = .next s) ∧
  (∀ (ty id t : Nat) (rp : RingPort) (q : BitVec 16), ptpTime (ptpMessage ty id rp q t) = t)

/-- SLAVE_ACQUIRE, SLAVE_LOCK, SLAVE_HOLDOVER, WAFER_TIME_STEP and TICK_IN_EDGE (R226, R233, R250 to R252, R254): eight agreeing
exchanges acquire; a booting slave with a large offset steps at once and one without contexts waits for the step, while
one with contexts leaves a small offset to the servo and waits in holdover with a larger one; 16 small offsets lock with
the master's epoch kind; a lost lock is holdover with the correction kept; a step loads every stage's counter and moves the
stamps kept; an edge of TICK_IN within 64 ns of the last is ignored, and a tick-chain offset 50 ns off its baseline is told
at the fourth tick in a row. -/
def Obligations.SlaveServo : Prop :=
  (∀ (s : State) (o : Rat), s.isSlave = true → o = mean (s.time.slave.offsets.take 8) →
    (s.time.slave.acquired = false → 8 ≤ s.time.slave.delays.length → agree (s.time.slave.delays.take 8) = true →
      (-5120 < o → o < 5120 → exec .slaveAcquire s = .next { s with time := { s.time with
        slave := { s.time.slave with acquired := true, lockRun := 0, badRun := 0, stepBy := none } } }) ∧
      (5120 ≤ o → s.pins.booting = true → ∃ t, exec .slaveAcquire s = .next t ∧ t.time.slave.acquired = true ∧
        t.time.wafer = shiftTime (BitVec.ofNat 72 (ceilTo 5120 s.time.wafer.toNat)) (stepOf o) ∧
        (∀ st ∈ t.stages, st.clock.resync = true ∧ st.island = t.time.wafer) ∧ t.time.corr = s.time.corr ∧
        t = { s.recordsOf t with time := t.time, gaffer := t.gaffer, stages := t.stages, iu := t.iu }) ∧
      (5120 ≤ o → s.pins.booting = false → s.numCtx = 0 → exec .slaveAcquire s = .next { s with time := { s.time with
        slave := { s.time.slave with acquired := true, lockRun := 0, badRun := 0, stepBy := some (stepOf o) } } }) ∧
      (5120 ≤ o → o ≤ 256000 → s.pins.booting = false → s.numCtx ≠ 0 →
        exec .slaveAcquire s = .next { s with time := { s.time with
          slave := { s.time.slave with acquired := true, lockRun := 0, badRun := 0, stepBy := none } } }) ∧
      (256000 < o → s.pins.booting = false → s.numCtx ≠ 0 → ∃ t, exec .slaveAcquire s = .next t ∧
        t.time.slave.stepBy = some (stepOf o) ∧ t.time.holdover = true ∧ t.time.corr = s.time.corr ∧
        t = { s.recordsOf t with time := t.time })) ∧
    (s.time.slave.acquired = true ∨ s.time.slave.delays.length < 8 → exec .slaveAcquire s = .next s) ∧
    (∀ x, s.time.slave.parentSync = some x → s.time.slave.acquired = true → s.time.slave.locked = false →
      16 ≤ s.time.slave.lockRun → s.time.slave.stepBy = none → ∃ t, exec .slaveLock s = .next t ∧
      t.time.slave = { s.time.slave with locked := true, badRun := 0 } ∧ t.time.epochId.kind = x.msg.kind ∧
      t.time.holdover = false ∧ t.time.corr = s.time.corr ∧ t = { s.recordsOf t with time := t.time }) ∧
    (s.time.slave.lockRun < 16 → exec .slaveLock s = .next s) ∧
    (s.time.slave.locked = true → ∃ t, exec .slaveHoldover s = .next t ∧ t.time.slave.locked = false ∧
      t.time.slave.acquired = false ∧ t.time.slave.offsets = [] ∧ t.time.holdover = true ∧ t.time.corr = s.time.corr ∧
      t.time.epochId.kind = (if s.time.epochId.kind = 1 then 2 else s.time.epochId.kind) ∧
      t = { s.recordsOf t with time := t.time }) ∧
    (s.time.slave.locked = false → exec .slaveHoldover s = .next s)) ∧
  (∀ (s : State) (b : Int), s.time.slave.stepBy = some b → s.isSlave = true → s.pins.bootDone = true → s.inReset = false →
    (s.numCtx = 0 → ∃ t, exec .waferTimeStep s = .next t ∧ t.time.slave.stepBy = none ∧
      t.time.wafer = shiftTime (BitVec.ofNat 72 (ceilTo 5120 s.time.wafer.toNat)) b ∧
      (∀ st ∈ t.stages, st.clock.resync = true ∧ st.island = t.time.wafer) ∧ t.time.tickCount = s.time.tickCount ∧
      t.time.slave.east = s.time.slave.east.map (fun x => { x with t2 := shiftStamp x.t2 b }) ∧
      t.iu = { s.iu with lastIn := s.iu.lastIn.map (fun o => o.map (fun v => shiftStamp v b)) } ∧
      t = { s.recordsOf t with time := t.time, gaffer := t.gaffer, stages := t.stages, iu := t.iu }) ∧
    (s.numCtx ≠ 0 → -256000 ≤ b → b ≤ 256000 → exec .waferTimeStep s = .next { s with time := { s.time with
      slave := { s.time.slave with stepBy := none } } }) ∧
    (s.numCtx ≠ 0 → b < -256000 ∨ 256000 < b → ∃ t, exec .waferTimeStep s = .next t ∧ t.time.holdover = true ∧
      t.time.wafer = s.time.wafer ∧ t = { s.recordsOf t with time := t.time })) ∧
  (∀ s : State, s.time.slave.stepBy = none → exec .waferTimeStep s = .next s) ∧
  (∀ (s : State) (edge tap v : Nat) (l : WaferTime), s.isSlave = true → s.time.slave.locked = true →
    s.time.lastTick = some l → v = s.stampAt 10 edge tap →
    (∀ v0, s.time.tickIn.last = some v0 → v < v0 + 16384 → exec (.tickInEdge edge tap) s = .next s) ∧
    ((∀ v0, s.time.tickIn.last = some v0 → v0 + 16384 ≤ v) →
      (s.time.tickIn.base = none → exec (.tickInEdge edge tap) s = .next { s with time := { s.time with
        tickIn := { base := some ((v : Int) - l.toNat), badRun := 0, last := some v } } }) ∧
      (∀ b, s.time.tickIn.base = some b →
        (((v : Int) - l.toNat - b).natAbs ≤ 12800 → exec (.tickInEdge edge tap) s = .next { s with time := { s.time with
          tickIn := { base := some b, badRun := 0, last := some v } } }) ∧
        (12800 < ((v : Int) - l.toNat - b).natAbs → s.time.tickIn.badRun = 3 → ∃ t,
          exec (.tickInEdge edge tap) s = .next t ∧
          t.time = { s.time with tickIn := { base := some b, badRun := 4, last := some v } } ∧
          t.toldError (s.errBody (moduleErr 0x1A 0 none) 0 0) ∧ t = { s.recordsOf t with time := t.time }) ∧
        (12800 < ((v : Int) - l.toNat - b).natAbs → s.time.tickIn.badRun ≠ 3 →
          exec (.tickInEdge edge tap) s = .next { s with time := { s.time with
            tickIn := { base := some b, badRun := s.time.tickIn.badRun + 1, last := some v } } }))))

/-! ### Ring link, spines and the test port (chapters 0, 1 and 13) -/

/-- STATUS_FRAME_SEND, STATUS_FRAME_RECEIVED, RING_FRAME_CRC_FAIL and RING_MAP_EXCHANGE (R441 to R445, R447, R482): a live port
sends its own frame with hop count 0; of the frames received one that fails its CRC or is of a reserved kind is counted
as discarded; another module's frame goes on with one hop more below 63, the module's own is not
forwarded, and one with its ID and another serial ends ring time for the boot; a partner's request is answered with an
acknowledgement of its generation, and an acknowledgement or the exchange switches the transmit map.

RING_PORT_UP, RING_PARTNER_LOST, RING_PORT_FAILED, RING_LANE_SUSPECT and RING_LANE_TEST_COMPLETE (R441, R445, R446, R450,
R481): a port with 12 usable lanes comes up on them; one that fails takes the module out of the ring until the next boot
with an error event; a suspect lane of a wider port leaves the map for its test, comes back when at most one bit erred,
and otherwise is lasting and its retirement stored. -/
def Obligations.RingLink : Prop :=
  (∀ (s : State) (rp : RingPort), s.inReset = false → (s.ring rp).live = true →
    (exec (.statusFrameSend rp) s = .next (s.modRing rp (fun r => { r with
        sent := r.sent ++ [.status (s.statusFrame rp)] })) ∧
      (s.statusFrame rp).hop = 0 ∧ (s.statusFrame rp).origin = BitVec.ofNat 8 s.moduleId ∧
      (s.statusFrame rp).serial = s.serial) ∧
    (∀ (x : List Byte) (f : StatusFrame), statusFrameOf x = some f → f.hop ≠ 0 → f.origin ≠ BitVec.ofNat 8 s.moduleId →
      (f.hop < 63 → (s.ring (otherRing rp)).live = true → exec (.statusFrameReceived rp x) s = .next
        (s.modRing (otherRing rp) (fun r => { r with sent := r.sent ++ [.status { f with hop := f.hop + 1 }] }))) ∧
      (63 ≤ f.hop → exec (.statusFrameReceived rp x) s = .next s)) ∧
    (∀ (x : List Byte) (f : StatusFrame), statusFrameOf x = some f → f.hop ≠ 0 → f.origin = BitVec.ofNat 8 s.moduleId →
      (f.serial = s.serial → exec (.statusFrameReceived rp x) s = .next s) ∧
      (f.serial ≠ s.serial → s.dupId = false → ∃ t, exec (.statusFrameReceived rp x) s = .next t ∧ t.dupId = true ∧
        (∃ e, t.dailies.log.getLast? = some e ∧ e.kind = 0x09 ∧ e.payload = leBytes 8 f.serial.toNat) ∧
        (s.isSlave = true → t.time.slave = .idle ∧ t.time.corr = s.yAge) ∧
        (s.isSlave = false → t.time = s.time))) ∧
    (∀ (x : List Byte) (f : StatusFrame), statusFrameOf x = some f → f.hop = 0 → f.origin ≠ BitVec.ofNat 8 s.moduleId →
      (s.ring (otherRing rp)).live = false →
      (f.mapSwitch = 1 → (s.ring rp).exchange = none → f.laneMap &&& s.usableLanes rp = (s.ring rp).txMap →
        exec (.statusFrameReceived rp x) s = .next (s.modRing rp (fun r => { r with
          rxMap := f.laneMap
          sent := r.sent ++ [.status { s.statusFrame rp with mapSwitch := 2, mapGen := f.mapGen }] }))) ∧
      (∀ e, f.mapSwitch = 2 → (s.ring rp).exchange = some e → e.gen = f.mapGen →
        exec (.statusFrameReceived rp x) s = .next (s.modRing rp (fun r => { r with
          txMap := e.newMap, gen := e.gen, exchange := none })))) ∧
    (∀ x : List Byte,
      (frameOk x = false ∨ 3 ≤ frameKind x → exec (.statusFrameReceived rp x) s = .next
        (s.modRing rp (fun r => { r with discards := r.discards + 1 }))) ∧
      (frameOk x = false → exec (.ringFrameCrcFail rp x) s = .next
        (s.modRing rp (fun r => { r with discards := r.discards + 1 }))) ∧
      (frameOk x = true → exec (.ringFrameCrcFail rp x) s = .next s)) ∧
    (∀ e, (s.ring rp).exchange = some e → exec (.ringMapExchange rp) s = .next (s.modRing rp (fun r => { r with
      txMap := e.newMap, rxMap := e.newMap, gen := e.gen, exchange := none }))) ∧
    ((s.ring rp).exchange = none → exec (.ringMapExchange rp) s = .next s)) ∧
  (∀ (s : State) (rp : RingPort), s.inReset = false →
    (s.pins.bypassOpen = true → (s.ring rp).failed = false →
      ((s.ring rp).up = false → 12 ≤ laneCount (s.usableLanes rp) → exec (.ringPortUp rp) s = .next
        (s.modRing rp (fun r => { r with
          up := true, txMap := s.usableLanes rp, rxMap := s.usableLanes rp, exchange := none }))) ∧
      (∃ t, exec (.ringPortFailed rp) s = .next t ∧ (t.ring rp).failed = true ∧ (t.ring rp).up = false ∧
        (t.ring (otherRing rp)).up = false ∧ t.pins = { s.pins with bypassOpen := false } ∧
        t.toldError (s.errBody { moduleErr 0x16 0 none with stage := ringSite rp } 0 0) ∧
        t = { s.recordsOf t with ringE := t.ringE, ringW := t.ringW, pins := t.pins }) ∧
      ((s.ring rp).up = false → laneCount (s.usableLanes rp) < 12 →
        exec (.ringPortUp rp) s = exec (.ringPortFailed rp) s)) ∧
    (s.pins.bypassOpen = false ∨ (s.ring rp).failed = true → exec (.ringPortUp rp) s = .next s) ∧
    ((s.ring rp).failed = true ∨ s.pins.bypassOpen = false ∧ (s.ring (otherRing rp)).failed = false →
      exec (.ringPortFailed rp) s = .next s) ∧
    (s.pins.bypassOpen = false → (s.ring rp).failed = false → (s.ring (otherRing rp)).failed = true →
      ∃ t, exec (.ringPortFailed rp) s = .next t ∧ (t.ring rp).failed = true ∧ t.pins = s.pins ∧
        t.toldError (s.errBody { moduleErr 0x16 0 none with stage := ringSite rp } 0 0)) ∧
    ((s.ring rp).live = true → exec (.ringPartnerLost rp) s = .next (s.modRing rp (fun r => { r with
      up := false, exchange := none }))) ∧
    (∀ lane, (s.ring rp).live = true → (s.ring rp).txMap.getLsbD lane = true → lane ∉ (s.ring rp).suspect →
      12 < laneCount (s.ring rp).txMap → 12 ≤ laneCount ((s.ring rp).txMap &&& ~~~(laneBit lane)) →
      s.testOf (.ringLane rp lane) = none → ∃ t, exec (.ringLaneSuspect rp lane) s = .next t ∧
      t.ring rp = { s.ring rp with
        suspect := lane :: (s.ring rp).suspect
        exchange := some { newMap := (s.ring rp).txMap &&& ~~~(laneBit lane), gen := (s.ring rp).gen + 1 } } ∧
      t.pendingTest (.ringLane rp lane) 0x16 ∧
      t.toldError (s.errBody { moduleErr 0x16 0 (some (.ringLane rp lane)) with stage := ringSite rp } 0 0) ∧
      t = { s.errorsOf t with ringE := t.ringE, ringW := t.ringW }) ∧
    (∀ lane errors k, lane < 16 → lane ∈ (s.ring rp).suspect → (s.ring rp).txMap.getLsbD lane = false →
      s.testOf (.ringLane rp lane) = some k →
      (errors ≤ 1 → s.transientOf (.ringLane rp lane) + k.joined ≤ s.allow → (s.ring rp).live = true →
        (s.ring rp).lasting.getLsbD lane = false → 12 ≤ laneCount ((s.ring rp).txMap ||| laneBit lane) → ∃ t,
        exec (.ringLaneTestComplete rp lane errors) s = .next t ∧ t.ring rp = { s.ring rp with
          suspect := (s.ring rp).suspect.filter (fun l => l ≠ lane)
          exchange := some { newMap := (s.ring rp).txMap ||| laneBit lane, gen := (s.ring rp).gen + 1 } } ∧
        t.testOf (.ringLane rp lane) = none ∧
        t = { s with ringE := t.ringE, ringW := t.ringW, tests := t.tests, transients := t.transients }) ∧
      (1 < errors → ∃ t, exec (.ringLaneTestComplete rp lane errors) s = .next t ∧ t.ring rp = { s.ring rp with
          lasting := (s.ring rp).lasting ||| laneBit lane
          suspect := (s.ring rp).suspect.filter (fun l => l ≠ lane) } ∧
        t.testOf (.ringLane rp lane) = none ∧ (∃ f, t.flash.retire0 = some f ∨ t.flash.retire1 = some f) ∧
        t = { s.recordsOf t with ringE := t.ringE, ringW := t.ringW, tests := t.tests, flash := t.flash })))

/-- SPINE_FLIT_CRC_FAIL, SPINE_SEGMENT_FAILED, SPINE_FLIT_AT_SINK and RQ_TO_UNLIT_STAGE (R388, R429 to R432, R434, R437, R480,
R492): a bad CRC is one more resend and 16 of them fail the segment and retire its column; a malformed flit is counted, and
one off its path reaches no sink; a lit stage's tap writes or reads a line and answers on its own spine, a stale request
gets status 2 and one to an unlit stage status 1; the South block takes a stage's event for another stage off its spine and
relays it northward on the target's. -/
def Obligations.SpinesAndTaps : Prop :=
  (∀ (s : State) (col seg : Nat), col < 12 → seg < 9 → s.inReset = false → (s.spine col seg).failed = false →
    (∃ t, exec (.spineFlitCrcFail col seg) s = .next t ∧
      t.spine col seg = { s.spine col seg with resends := (s.spine col seg).resends + 1 } ∧
      (∀ c g, ¬ (c = col ∧ g = seg) → t.spine c g = s.spine c g) ∧ t = { s with spines := t.spines }) ∧
    ((s.spine col seg).resends < 16 → exec (.spineSegmentFailed col seg) s = .next s) ∧
    (16 ≤ (s.spine col seg).resends → s.stages.length = 96 → ∃ t, exec (.spineSegmentFailed col seg) s = .next t ∧
      (t.spine col seg).failed = true ∧
      (∀ r, r < 8 → ∃ u, t.stage (12 * r + col) = some u ∧ u.st = .retired) ∧
      (∀ m u, m % 12 ≠ col → t.stage m = some u → ∃ st, s.stage m = some st ∧ u.st = st.st) ∧
      t.toldError (s.errBody { crossingErr 0x0D 0xFFFF none with stage := northEnd col seg } 0 0) ∧
      t = { s.retirementOf t with spines := t.spines }) ∧
    (∀ (h : BitVec 128) (d : Line), (flitFields h).malformed = true → ∃ t,
      exec (.spineFlitAtSink col seg h d) s = .next t ∧
      t.spine col seg = { s.spine col seg with errors := (s.spine col seg).errors + 1, resends := 0 } ∧
      t = { s with spines := t.spines }) ∧
    (∀ (h : BitVec 128) (d : Line) (f : FlitHeader), f = flitFields h → f.malformed = false →
      (f.onPath col seg = false → exec (.spineFlitAtSink col seg h d) s = .next s) ∧
      (∀ g rest, f.onPath col 8 = true → seg = 8 → f.cls = 0 → g.dst < 96 →
        takeFlit col false f.dst (fun x => decide (flitBits x = h)) [] s.spineOut = some (g, rest) → ∃ t,
        exec (.spineFlitAtSink col seg h d) s = .next t ∧
        t.spineOut = rest ++ [{ col := colOf g.dst, north := true, header := flitBits g, data := none
                                crc := flitCrc (flitBits g) none }] ∧
        t = { s with spines := t.spines, spineOut := t.spineOut })) ∧
    (∀ (h : BitVec 128) (d : Line) (f : FlitHeader) (st : Stage), f = flitFields h → f.malformed = false →
      f.onPath col seg = true → f.cls = 2 → s.stage f.dst = some st → f.op < 2 →
      (st.tapUnlit = true → ∃ t, exec (.spineFlitAtSink col seg h d) s = .next t ∧
        t.spineOut = s.spineOut ++ [tapFlit f.dst (f.reply 1 false) none] ∧
        t = { s with spines := t.spines, spineOut := t.spineOut }) ∧
      (st.tapUnlit = false → s.staleFlit f = true → ∃ t, exec (.spineFlitAtSink col seg h d) s = .next t ∧
        t.spineOut = s.spineOut ++ [tapFlit f.dst (f.reply 2 false) none] ∧
        t = { s with spines := t.spines, spineOut := t.spineOut }) ∧
      (st.tapUnlit = false → s.staleFlit f = false → f.op = 0 → f.bank < 48 → ∃ t,
        exec (.spineFlitAtSink col seg h d) s = .next t ∧
        t.stage f.dst = some (st.storeLine (st.bankMap.getD f.bank f.bank) f.line d) ∧
        (∀ m, m ≠ f.dst → t.stage m = s.stage m) ∧
        t.spineOut = s.spineOut ++ [tapFlit f.dst (f.reply 0 false) none] ∧
        t = { s with spines := t.spines, spineOut := t.spineOut, stages := t.stages }) ∧
      (st.tapUnlit = false → s.staleFlit f = false → f.op = 1 → ∃ t, exec (.spineFlitAtSink col seg h d) s = .next t ∧
        t.spineOut = s.spineOut ++ [tapFlit f.dst (f.reply 0 true)
          (some (st.lineAt (st.bankMap.getD f.bank f.bank) f.line))] ∧
        t = { s with spines := t.spines, spineOut := t.spineOut }))) ∧
  (∀ (s : State) (n : Nat) (h : BitVec 128) (st : Stage), s.inReset = false → s.stage n = some st →
    (st.tapUnlit = true → (flitFields h).cls = 2 → (flitFields h).op < 2 → exec (.rqToUnlitStage n h) s = .next { s with
      spineOut := s.spineOut ++ [tapFlit n ({ flitFields h with dst := n }.reply 1 false) none] }) ∧
    (st.tapUnlit = false → exec (.rqToUnlitStage n h) s = .next s))

/-- Table 13.2: the fields of a spine flit header and its bits determine each other, the reserved bits being zero; an event's
argument fills the bits that line, bank and status have in the other classes. -/
def Obligations.FlitHeaderRoundTrip : Prop :=
  (∀ f : FlitHeader, f.cls < 4 → f.src < 256 → f.dst < 256 → f.op < 16 → f.line < 65536 → f.bank < 64 → f.status < 4 →
    f.arg < 2 ^ 72 → f.arg % 2 ^ 24 = f.line + f.bank * 2 ^ 16 + f.status * 2 ^ 22 → (f.cls ≠ 0 → f.arg < 2 ^ 24) →
    flitFields (flitBits f) = f) ∧
  (∀ h : BitVec 128, h.getLsbD 3 = false → (flitFields h).cls = 0 ∨ h.toNat < 2 ^ 80 → flitBits (flitFields h) = h)

/-- JTAG_EXTEST, JTAG_SAMPLE_PRELOAD, JTAG_IDCODE and JTAG_BYPASS (R22): each instruction sets the instruction register and its
register, having captured 0b0000_0001: EXTEST drives the output pins from the boundary register, SAMPLE/PRELOAD captures
the contacts, loads the cells and drives nothing, IDCODE captures the 32-bit identification, and BYPASS or a reserved opcode
captures 0; at reset IDCODE is selected. -/
def Obligations.JtagInstructions : Prop :=
  State.reset.jtag.ir = 0x02 ∧ contacts.length = 67 ∧
  ∀ (s : State) (sampled loaded : List Bool) (op : BitVec 8),
    (∃ t, exec .jtagExtest s = .next t ∧
      t = { s with jtag := { s.jtag with ir := 0x00, irCapture := 0x01, driving := true } } ∧
      (∀ c : Contact, c.isOutput = true → t.pinLevel c = some (s.jtag.boundary.getD (contacts.idxOf c) false)) ∧
      (∀ c : Contact, c.isOutput = false → t.pinLevel c = s.ownLevel c)) ∧
    (∃ t, exec (.jtagSamplePreload sampled loaded) s = .next t ∧
      t = { s with jtag := { s.jtag with ir := 0x01, irCapture := 0x01, driving := false, captured := t.jtag.captured
                                         boundary := t.jtag.boundary } } ∧
      t.jtag.captured.length = 67 ∧ t.jtag.boundary.length = 67 ∧
      (∀ i c, contacts[i]? = some c → t.jtag.captured[i]? = some ((s.ownLevel c).getD (sampled.getD i false)) ∧
        t.jtag.boundary[i]? = some (loaded.getD i false)) ∧ (∀ c : Contact, t.pinLevel c = s.ownLevel c)) ∧
    exec .jtagIdcode s = .next { s with jtag := { s.jtag with
      ir := 0x02, irCapture := 0x01, idcode := idcode, driving := false } } ∧
    idcode.getLsbD 0 = true ∧ idcode.extractLsb' 1 7 = 0x2D ∧ idcode.extractLsb' 8 4 = 7 ∧
    idcode.extractLsb' 12 16 = 0x5896 ∧
    (2 < op.toNat → exec (.jtagBypass op) s = .next { s with jtag := { s.jtag with
      ir := op, irCapture := 0x01, bypass := false, driving := false } }) ∧
    (op.toNat ≤ 2 → exec (.jtagBypass op) s = .next s)

/-! ### The whole block -/

/-- A step takes the command at the front of the queue and runs it on the state with the queue's rest; on an empty queue one
reference edge passes once the epoch is fixed, for every island's copy of wafer time too, and at an alignment boundary the
correction takes effect (the model's choice, log entry 7). The table gives no row bits, so no word spells a command. -/
def Obligations.StepRunsTheFrontCommand : Prop :=
  (∀ (s : State) (c : Instr) (rest : List Instr), s.pending = c :: rest → step s = exec c { s with pending := rest }) ∧
  (∀ s : State, s.pending = [] →
    (s.time.epochFixed = true → ∃ t, step s = .next t ∧ t.time.wafer = s.time.wafer + 1024 ∧
      (∀ st ∈ t.stages, st.island = s.time.wafer + 1024) ∧
      t.time.applied = (if (s.time.wafer + 1024).toNat % 5120 = 0 then divider s.time.corr else s.time.applied) ∧
      t.time = { s.time with wafer := t.time.wafer, applied := t.time.applied } ∧
      t = { s with time := t.time, stages := t.stages }) ∧
    (s.time.epochFixed = false → step s = .next s)) ∧
  (∀ (s : State) (nbits w : Nat), decodeTableWord nbits w = none ∧ s.withFetchWord nbits w = s)

/-- The state at reset meets the invariant, and holds no context, no stage that runs, and an empty queue. -/
def Obligations.ResetMeetsTheInvariant : Prop :=
  State.reset.Inv ∧ State.reset.stilled ∧ State.reset.pending = [] ∧ State.reset.pins.pwrGood = false ∧
  State.reset.slate = Slate.reset ∧ State.reset.portA = HostPort.reset ∧ State.reset.portB = HostPort.reset

/-- Every step keeps the invariant: every memory stays in canonical form, the block keeps its 96 stages, 8 partitions, 28
rails, 16 slots and 40 edge-block ends, the trims stay settings of R138, the correction stays within R133, the hour count within R234 and the
issue limit within R276. A step never changes the module's serial or its signing key, and takes one command off the
queue at most. -/
def Obligations.EveryStepKeepsTheInvariant : Prop :=
  ∀ s t : State, s.Inv → step s = .next t →
    t.Inv ∧ t.serial = s.serial ∧ t.signKey = s.signKey ∧ t.pending = s.pending.tail
end

