-- ==== Sys2Proof/Laws/Bytes.lean ====
section
/-! SUPPORT. Byte strings: lengths of little-endian fields, their numbers read back (R9), and the CRC-32 of a sealed
string (R10) and of a ring frame (R442). -/

namespace Sys2Proof.Machine

open Sys2Proof

@[simp] theorem leBytes_length (n v : Nat) : (leBytes n v).length = n := by
  induction n generalizing v with
  | zero => rfl
  | succ n ih => simp [leBytes, ih]

@[simp] theorem zeros_length (n : Nat) : (zeros n).length = n := by simp [zeros]

/-- A little-endian field reads back as its number modulo its width. -/
theorem leNat_leBytes (n v : Nat) : leNat (leBytes n v) = v % 256 ^ n := by
  induction n generalizing v with
  | zero => simp [leBytes, leNat, Nat.mod_one]
  | succ n ih =>
    have e : 256 ^ (n + 1) = 256 * 256 ^ n := by rw [Nat.pow_succ, Nat.mul_comm]
    rw [leBytes, leNat, ih, e, Nat.mod_mul]
    rfl

/-- The field that follows a prefix of known length. -/
theorem fieldAt_append (pre mid post : List Byte) :
    fieldAt (pre ++ (mid ++ post)) pre.length mid.length = leNat mid := by
  simp [fieldAt]

theorem sealed_length (bs : List Byte) : (sealed bs).length = bs.length + 4 := by simp [sealed]

/-- A sealed string passes its CRC check. -/
theorem sealOk_sealed (n : Nat) (bs : List Byte) (h : bs.length + 4 = n) : sealOk n (sealed bs) = true := by
  subst h
  have f : fieldAt (bs ++ leBytes 4 (crc32 bs).toNat) bs.length 4 = leNat (leBytes 4 (crc32 bs).toNat) := by
    simp [fieldAt, List.take_of_length_le]
  have m : (crc32 bs).toNat < 4294967296 := (crc32 bs).isLt
  simp [sealOk, sealed, f, leNat_leBytes, m]

/-- A ring frame built from a 16-byte header and a payload that fits passes its CRC (R442). -/
theorem frameOk_ringFrame (h p : List Byte) (lh : h.length = 16) (lp : p.length ≤ 492) : frameOk (ringFrame h p) = true := by
  have l : (h ++ p ++ zeros (492 - p.length)).length = 508 := by simp [lh]; omega
  have o := sealOk_sealed 512 (h ++ p ++ zeros (492 - p.length)) (by rw [l])
  simpa [frameOk, ringFrame, sealOk, sealed] using o

theorem ptpBytes_length (m : PtpMsg) : (ptpBytes m).length ≤ 492 := by
  unfold ptpBytes beBytes
  split <;> simp

/-- Every frame that a ring port sends passes its CRC (R442). -/
theorem frameOk_bytes (o : RingOut) : frameOk o.bytes = true := by
  cases o with
  | time h m => exact frameOk_ringFrame _ _ (by simp) (ptpBytes_length m)
  | status f => exact frameOk_ringFrame _ _ (by simp) (by simp)

end Sys2Proof.Machine
end

