-- ==== Sys2Proof/Laws/Issue.lean ====
section
/-! SUPPORT. What the issue of a shot can do, said once for the sequencer's shots, the queued shots and the vector shots, with
what a shot's step leaves of the sequencer and a launch of its stage. -/

namespace Sys2Proof.Machine

open Sys2Proof

variable {s : State} {n p : Nat} {st : Stage} {c : Ctx} {i : Instr}

/-! ### The head of issue -/

/-- A stage that can issue is a lit stage of a partition with a context. -/
theorem issuer_ctx (h : s.issuer n = some (st, p, c)) : s.stage n = some st ∧ s.ctxOf n = some (p, c) := by
  unfold State.issuer at h
  split at h
  · split at h
    · cases h; exact ⟨‹_›, ‹_›⟩
    · cases h
  · cases h

/-- A shot at the head of issue has every field in the range that chapter 9 gives it. -/
theorem head_fields (h : st.head n i = .shot) : shotFieldsOk i = true := by
  unfold Stage.head at h
  split at h
  · cases h
  · split at h
    · split at h
      · assumption
      · cases h
    · cases h

/-- At the head of issue a sequencer shot acts. -/
theorem sequence_head (h : s.atHead n i st p c) (act : Stage → Nat → Ctx → State) : s.sequence n i act = act st p c := by
  unfold State.sequence
  rw [h.1]
  simp only [h.2]

/-- At the head of issue a queued shot fails the context, waits, finds a journal full, or takes its effect and enters its
queue. -/
theorem issueTo_head (h : s.atHead n i st p c) (plan : Seq → Nat → Option Plan) (effect : Seq → Ctx → ShotEffect) :
    (plan st.seq (c.stagingOf n) = none → s.issueTo n i plan effect = s.failStageCtx n 0x15) ∧
    ∀ q, plan st.seq (c.stagingOf n) = some q →
      (st.waits q = true → s.issueTo n i plan effect = s) ∧
      (st.waits q = false →
        (effect st.seq c st (c.aheadWork st) = none →
          s.issueTo n i plan effect = s.journalFull n q.dest st.seq.shot st.seq.ahead) ∧
        ∀ u, effect st.seq c st (c.aheadWork st) = some u →
          s.issueTo n i plan effect = s.putStage n (u.launch q st.seq (u.journal.length - st.journal.length))) := by
  unfold State.issueTo
  rw [h.1]
  simp only [h.2]
  refine ⟨fun h1 => by simp only [h1], fun q h1 => ?_⟩
  simp only [h1]
  refine ⟨fun h2 => by simp only [h2, if_true], fun h2 => ⟨fun h3 => ?_, fun u h3 => ?_⟩⟩ <;>
    simp only [h2, h3, Bool.false_eq_true, if_false]

/-! ### Vector shots -/

theorem vecPut_journal (st : Stage) (f : VecFields) (d : Nat) (a k : Bool) (rs : List ElemRes) :
    (st.vecPut f d a k rs).journal = st.journal := by
  unfold Stage.vecPut Stage.putTile Stage.putHalf Stage.count
  dsimp only
  repeat' split
  all_goals rfl

/-- A vector shot that is ready puts the results of its operation in its destination tile. -/
theorem vector_ready {f : VecFields} {d a b : Nat} (h : s.vecReady n i f st c d a b) (checked counts : Bool) (op : TileOp) :
    s.vector n i f checked counts op = s.vecDone n f st c d checked counts
      (op (accCode f.ty) (st.vecIn f d) (st.vecIn f a) (st.vecIn f b)) := by
  obtain ⟨⟨p, h0⟩, hd, ha, hb, hw⟩ := h
  have h1 := ((issueTo_head h0 (fun q _ => vecPlan f checked q) (fun q _ => vecEffect f counts op q)).2
    { tilePlan f.engine checked with vector := some f.ty.toNat } (by simp only [vecPlan, hd, ha, hb])).2 hw
  have h2 := h1.2 (st.vecPut f d (c.aheadWork st) counts
    (op (accCode f.ty) (st.vecIn f d) (st.vecIn f a) (st.vecIn f b))) (by simp only [vecEffect, hd, ha, hb]; rfl)
  rw [vecPut_journal, Nat.sub_self] at h2
  exact h2

/-! ### A step of the sequencer -/

@[simp] theorem Seq.advance_ar (q : Seq) : q.advance.ar = q.ar := by unfold Seq.advance; repeat' split
                                                                     all_goals rfl
@[simp] theorem Seq.advance_tokens (q : Seq) : q.advance.tokens = q.tokens := by unfold Seq.advance; repeat' split
                                                                                 all_goals rfl
@[simp] theorem Seq.step_ar (q : Seq) : q.step.ar = q.ar := Seq.advance_ar q
@[simp] theorem Seq.step_tokens (q : Seq) : q.step.tokens = q.tokens := Seq.advance_tokens q
@[simp] theorem Seq.step_worked (q : Seq) : q.step.worked = true := rfl
@[simp] theorem Seq.step_issued (q : Seq) : q.step.issued = q.issued + 1 := by
  simp only [Seq.step, Seq.advance]

/-! ### A launch -/

section
variable (u : Stage) (q : Plan) (w : Seq) (k : Nat)
@[simp] theorem launch_seq : (u.launch q w k).seq = u.seq.step := rfl
@[simp] theorem launch_scratch : (u.launch q w k).scratch = u.scratch := rfl
@[simp] theorem launch_acc : (u.launch q w k).acc = u.acc := rfl
@[simp] theorem launch_resid : (u.launch q w k).resid = u.resid := rfl
@[simp] theorem launch_journal : (u.launch q w k).journal = u.journal := rfl
@[simp] theorem launch_staged : (u.launch q w k).staged = u.staged := rfl
@[simp] theorem launch_cnt : (u.launch q w k).cnt = u.cnt := rfl
@[simp] theorem launch_link (d : Side) : (u.launch q w k).link d = u.link d := by cases d <;> rfl
@[simp] theorem launch_land (d : Side) : (u.launch q w k).land d = u.land d := by cases d <;> rfl
end

end Sys2Proof.Machine
end

