-- ==== Sys2Proof/Laws/Memory.lean ====
section
/-! SUPPORT. Laws of sparse memory: every operation keeps the canonical form, a read after a write gives the value
written, and a write leaves every other cell alone. -/

namespace Sys2Proof.Machine

open Sys2Proof

/-- A cell list that starts no lower than a bound also starts no lower than a smaller one. -/
theorem cellsAbove_weaken {w : Nat} {a b : Nat} (hab : a ≤ b) :
    ∀ {c : Cells w}, cellsAbove b c = true → cellsAbove a c = true
  | [], _ => rfl
  | (k, v) :: t, h => by
    simp only [cellsAbove, Bool.and_eq_true, decide_eq_true_eq] at h ⊢
    exact ⟨⟨by omega, h.1.2⟩, h.2⟩

/-- A list above a bound that begins with an entry. -/
theorem cellsAbove_cons {w lo a : Nat} {x : BitVec w} {t : Cells w} :
    cellsAbove lo ((a, x) :: t) = true ↔ lo ≤ a ∧ x ≠ 0 ∧ cellsAbove (a + 1) t = true := by
  simp only [cellsAbove, Bool.and_eq_true, decide_eq_true_eq, and_assoc]

/-- Writing a cell at or above a bound keeps a list above that bound in canonical form. -/
theorem cellsAbove_cellSet {w k : Nat} {v : BitVec w} :
    ∀ {lo : Nat} {c : Cells w}, lo ≤ k → cellsAbove lo c = true → cellsAbove lo (cellSet c k v) = true
  | lo, [], hk, _ => by
    rw [cellSet]
    split
    · rfl
    · exact cellsAbove_cons.2 ⟨hk, ‹_›, rfl⟩
  | lo, (a, x) :: t, hk, h => by
    obtain ⟨ha, hx, ht⟩ := cellsAbove_cons.1 h
    rw [cellSet]
    split
    · split
      · exact h
      · exact cellsAbove_cons.2 ⟨hk, ‹_›, cellsAbove_cons.2 ⟨by omega, hx, ht⟩⟩
    · split
      · split
        · exact cellsAbove_weaken (by omega) ht
        · exact cellsAbove_cons.2 ⟨hk, ‹_›, cellsAbove_weaken (by omega) ht⟩
      · exact cellsAbove_cons.2 ⟨ha, hx, cellsAbove_cellSet (by omega) ht⟩

/-- Writing a cell keeps the canonical form. -/
theorem cellSet_wf {w k : Nat} {v : BitVec w} {c : Cells w} (h : Memory.wf c = true) : Memory.wf (cellSet c k v) = true :=
  cellsAbove_cellSet (Nat.zero_le k) h

/-- Writing a run of cells keeps the canonical form. -/
theorem cellSetList_wf {w : Nat} : ∀ {vs : List (BitVec w)} {k : Nat} {c : Cells w},
    Memory.wf c = true → Memory.wf (cellSetList c k vs) = true
  | [], _, _, h => h
  | _ :: vs, _, _, h => cellSetList_wf (vs := vs) (cellSet_wf h)

/-- Dropping entries keeps a list above its bound. -/
theorem cellsAbove_filter {w : Nat} (p : Nat × BitVec w → Bool) :
    ∀ {lo : Nat} {c : Cells w}, cellsAbove lo c = true → cellsAbove lo (c.filter p) = true
  | _, [], _ => rfl
  | lo, (a, x) :: t, h => by
    obtain ⟨ha, hx, ht⟩ := cellsAbove_cons.1 h
    rw [List.filter_cons]
    split
    · exact cellsAbove_cons.2 ⟨ha, hx, cellsAbove_filter p ht⟩
    · exact cellsAbove_weaken (by omega) (cellsAbove_filter p ht)

/-- Dropping entries keeps the canonical form. -/
theorem filter_wf {w : Nat} {p : Nat × BitVec w → Bool} {c : Cells w} (h : Memory.wf c = true) :
    Memory.wf (c.filter p) = true := cellsAbove_filter p h

/-- A cell below a list's bound reads zero. -/
theorem cellGet_below {w k : Nat} : ∀ {lo : Nat} {c : Cells w}, cellsAbove lo c = true → k < lo → cellGet c k = 0
  | _, [], _, _ => rfl
  | lo, (a, x) :: t, h, hk => by
    simp only [cellsAbove, Bool.and_eq_true, decide_eq_true_eq] at h
    have : a ≠ k := by omega
    simp [cellGet, this, cellGet_below h.2 (by omega : k < a + 1)]

/-- A read of a cell after a write to it, or to another cell, of a list in canonical form. -/
theorem cellGet_cellSet {w k j : Nat} {v : BitVec w} : ∀ {lo : Nat} {c : Cells w}, cellsAbove lo c = true →
    cellGet (cellSet c k v) j = if j = k then v else cellGet c j
  | _, [], _ => by
    rw [cellSet]
    split
    · rename_i hv
      split
      · exact hv.symm
      · rfl
    · simp only [cellGet, eq_comm]
  | lo, (a, x) :: t, h => by
    obtain ⟨ha, hx, ht⟩ := cellsAbove_cons.1 h
    rw [cellSet]
    split
    · split
      · rename_i h1 hv
        split
        · subst hv; subst j; exact cellGet_below (lo := a) (cellsAbove_cons.2 ⟨le_refl a, hx, ht⟩) ‹_›
        · rfl
      · simp only [cellGet, eq_comm (a := k)]
    · split
      · subst k
        split
        · rename_i hv
          split
          · subst hv; subst j; exact cellGet_below ht (by omega)
          · rename_i hj; simp only [cellGet, if_neg (Ne.symm hj)]
        · simp only [cellGet, eq_comm (a := a)]
          split <;> rfl
      · simp only [cellGet, cellGet_cellSet ht]
        split
        · split
          · omega
          · rfl
        · rfl

/-- A read after a write to the same cell gives the value written. -/
theorem cellGet_cellSet_same {w k : Nat} {v : BitVec w} {c : Cells w} (h : Memory.wf c = true) :
    cellGet (cellSet c k v) k = v := by simp [cellGet_cellSet h]

/-- A write leaves every other cell alone. -/
theorem cellGet_cellSet_other {w k j : Nat} {v : BitVec w} {c : Cells w} (h : Memory.wf c = true) (hj : j ≠ k) :
    cellGet (cellSet c k v) j = cellGet c j := by simp [cellGet_cellSet h, hj]

/-- A run of cells written from a key: inside it a read gives the value written, outside it the old value. -/
theorem cellGet_cellSetList {w : Nat} : ∀ {vs : List (BitVec w)} {k j : Nat} {c : Cells w}, Memory.wf c = true →
    cellGet (cellSetList c k vs) j = if k ≤ j ∧ j < k + vs.length then vs.getD (j - k) 0 else cellGet c j
  | [], k, j, c, _ => by simp [cellSetList]
  | v :: vs, k, j, c, h => by
    rw [cellSetList, cellGet_cellSetList (cellSet_wf h), cellGet_cellSet h]
    by_cases h1 : j = k
    · simp [h1]
    · by_cases h2 : k + 1 ≤ j ∧ j < k + 1 + vs.length
      · have h3 : j - k = (j - (k + 1)) + 1 := by omega
        rw [if_pos h2, if_pos (by simp; omega), h3, List.getD_cons_succ]
      · rw [if_neg h2, if_neg h1, if_neg (by simp; omega)]

end Sys2Proof.Machine
end

