-- ==== Sys2Proof/Laws/Keeps.lean ====
section
/-! SUPPORT. What the shared operations keep: the queue, the serial, the signing key and the invariant. One lemma for each
operation, in the form "a state kept so far is kept by the operation", so that a meaning's lemma is their composition. -/

namespace Sys2Proof.Machine

set_option Elab.async false

open Sys2Proof

theorem State.Keeps.refl (s : State) : s.Keeps s := ⟨rfl, rfl, rfl, id⟩

theorem State.Keeps.trans {s t u : State} (h : s.Keeps t) (k : t.Keeps u) : s.Keeps u :=
  ⟨k.queue.trans h.queue, k.serial.trans h.serial, k.key.trans h.key, k.inv ∘ h.inv⟩

/-- A change of parts that no clause of the invariant speaks of. -/
theorem State.Keeps.same {s t u : State} (h : s.Keeps t) (h1 : u.pending = t.pending := by first | with_reducible rfl | rfl)
    (h2 : u.serial = t.serial := by first | with_reducible rfl | rfl) (h3 : u.signKey = t.signKey := by first | with_reducible rfl | rfl) (h4 : u.stages = t.stages := by first | with_reducible rfl | rfl)
    (h5 : u.parts.length = t.parts.length := by first | with_reducible rfl | rfl | simp) (h6 : u.rails.length = t.rails.length := by first | with_reducible rfl | rfl | simp)
    (h7 : u.slots.length = t.slots.length := by first | with_reducible rfl | rfl | simp) (h8 : u.trims = t.trims := by first | with_reducible rfl | rfl)
    (h9 : u.time.corr = t.time.corr := by first | with_reducible rfl | rfl) (h10 : u.time.pps.prevCorr = t.time.pps.prevCorr := by first | with_reducible rfl | rfl)
    (h11 : u.time.hourCount = t.time.hourCount := by first | with_reducible rfl | rfl) (h12 : u.gaffer.limit = t.gaffer.limit := by first | with_reducible rfl | rfl)
    (h13 : u.edges.length = t.edges.length := by first | with_reducible rfl | rfl | simp) : s.Keeps u :=
  h.trans ⟨h1, h2, h3, fun i => ⟨by rw [h4]; exact i.memory, by rw [h4]; exact i.stages, by rw [h5]; exact i.parts,
    by rw [h6]; exact i.rails, by rw [h7]; exact i.slots, by rw [h13]; exact i.edges, by rw [h8]; exact i.trims, by rw [h9]; exact i.corr,
    by rw [h10]; exact i.prev, by rw [h11]; exact i.hour, by rw [h12]; exact i.limit⟩⟩

/-- A change of the time base, beside parts that no clause of the invariant speaks of. -/
theorem State.Keeps.timed {s t u : State} (h : s.Keeps t) (hc : t.Inv → inRange u.time.corr := by exact fun i => i.corr)
    (hp : t.Inv → inRange u.time.pps.prevCorr := by exact fun i => i.prev)
    (hh : t.Inv → u.time.hourCount < 24 := by exact fun i => i.hour)
    (h1 : u.pending = t.pending := by first | with_reducible rfl | rfl)
    (h2 : u.serial = t.serial := by first | with_reducible rfl | rfl) (h3 : u.signKey = t.signKey := by first | with_reducible rfl | rfl) (h4 : u.stages = t.stages := by first | with_reducible rfl | rfl)
    (h5 : u.parts.length = t.parts.length := by first | with_reducible rfl | rfl | simp) (h6 : u.rails.length = t.rails.length := by first | with_reducible rfl | rfl | simp)
    (h7 : u.slots.length = t.slots.length := by first | with_reducible rfl | rfl | simp) (h8 : u.trims = t.trims := by first | with_reducible rfl | rfl)
    (h12 : u.gaffer.limit = t.gaffer.limit := by first | with_reducible rfl | rfl)
    (h13 : u.edges.length = t.edges.length := by first | with_reducible rfl | rfl | simp) : s.Keeps u :=
  h.trans ⟨h1, h2, h3, fun i => ⟨by rw [h4]; exact i.memory, by rw [h4]; exact i.stages, by rw [h5]; exact i.parts,
    by rw [h6]; exact i.rails, by rw [h7]; exact i.slots, by rw [h13]; exact i.edges, by rw [h8]; exact i.trims, hc i, hp i, hh i,
    by rw [h12]; exact i.limit⟩⟩

/-- A change of the stages that keeps their number and their memories' canonical form, beside parts that no clause of the
invariant speaks of. -/
theorem State.Keeps.stages {s t u : State} (h : s.Keeps t)
    (hm : (∀ st ∈ t.stages, st.memWf = true) → ∀ st ∈ u.stages, st.memWf = true)
    (hl : u.stages.length = t.stages.length) (h1 : u.pending = t.pending := by first | with_reducible rfl | rfl)
    (h2 : u.serial = t.serial := by first | with_reducible rfl | rfl) (h3 : u.signKey = t.signKey := by first | with_reducible rfl | rfl)
    (h5 : u.parts.length = t.parts.length := by first | with_reducible rfl | rfl | simp) (h6 : u.rails.length = t.rails.length := by first | with_reducible rfl | rfl | simp)
    (h7 : u.slots.length = t.slots.length := by first | with_reducible rfl | rfl | simp) (h8 : u.trims = t.trims := by first | with_reducible rfl | rfl)
    (h9 : u.time.corr = t.time.corr := by first | with_reducible rfl | rfl) (h10 : u.time.pps.prevCorr = t.time.pps.prevCorr := by first | with_reducible rfl | rfl)
    (h11 : u.time.hourCount = t.time.hourCount := by first | with_reducible rfl | rfl) (h12 : u.gaffer.limit = t.gaffer.limit := by first | with_reducible rfl | rfl)
    (h13 : u.edges.length = t.edges.length := by first | with_reducible rfl | rfl | simp) : s.Keeps u :=
  h.trans ⟨h1, h2, h3, fun i => ⟨hm i.memory, by rw [hl]; exact i.stages, by rw [h5]; exact i.parts,
    by rw [h6]; exact i.rails, by rw [h7]; exact i.slots, by rw [h13]; exact i.edges, by rw [h8]; exact i.trims, by rw [h9]; exact i.corr,
    by rw [h10]; exact i.prev, by rw [h11]; exact i.hour, by rw [h12]; exact i.limit⟩⟩

/-- The stages mapped by a function that keeps their memories' canonical form. -/
theorem State.Keeps.mapped {s t u : State} (h : s.Keeps t) {f : Stage → Stage} (he : u.stages = t.stages.map f)
    (hf : ∀ st, st.memWf = true → (f st).memWf = true) (h1 : u.pending = t.pending := by first | with_reducible rfl | rfl)
    (h2 : u.serial = t.serial := by first | with_reducible rfl | rfl) (h3 : u.signKey = t.signKey := by first | with_reducible rfl | rfl)
    (h5 : u.parts.length = t.parts.length := by first | with_reducible rfl | rfl | simp) (h6 : u.rails.length = t.rails.length := by first | with_reducible rfl | rfl | simp)
    (h7 : u.slots.length = t.slots.length := by first | with_reducible rfl | rfl | simp) (h8 : u.trims = t.trims := by first | with_reducible rfl | rfl)
    (h9 : u.time.corr = t.time.corr := by first | with_reducible rfl | rfl) (h10 : u.time.pps.prevCorr = t.time.pps.prevCorr := by first | with_reducible rfl | rfl)
    (h11 : u.time.hourCount = t.time.hourCount := by first | with_reducible rfl | rfl) (h12 : u.gaffer.limit = t.gaffer.limit := by first | with_reducible rfl | rfl)
    (h13 : u.edges.length = t.edges.length := by first | with_reducible rfl | rfl | simp) : s.Keeps u :=
  h.stages (fun hm st hs => by
    rw [he] at hs
    obtain ⟨x, hx, rfl⟩ := List.mem_map.1 hs
    exact hf x (hm x hx)) (by rw [he, List.length_map]) h1 h2 h3 h5 h6 h7 h8 h9 h10 h11 h12 h13

/-- A fold of operations each of which keeps. -/
theorem State.Keeps.fold {α : Type} {s : State} {f : State → α → State} (hf : ∀ t a, s.Keeps t → s.Keeps (f t a)) :
    ∀ (l : List α) {t : State}, s.Keeps t → s.Keeps (l.foldl f t)
  | [], _, h => h
  | a :: l, _, h => State.Keeps.fold hf l (hf _ a h)

/-- A choice between two kept states. -/
theorem State.Keeps.ite {s t u : State} {c : Prop} [Decidable c] (h : s.Keeps t) (k : s.Keeps u) :
    s.Keeps (if c then t else u) := by split <;> assumption

end Sys2Proof.Machine
end

