-- ==== Sys2Proof/Laws/KeepsOps.lean ====
section
/-! SUPPORT. The operations of Ops.lean keep the queue, the serial, the key and the invariant; those on one stage keep its
memories' canonical form. -/

namespace Sys2Proof.Machine

set_option Elab.async false

open Sys2Proof

variable {s t : State}

@[simp] theorem length_modAt {α : Type} (l : List α) (n : Nat) (f : α → α) : (modAt l n f).length = l.length := by
  simp [modAt]

@[simp] theorem length_setAt {α : Type} (l : List α) (n : Nat) (v : α) : (setAt l n v).length = l.length := by
  simp [setAt]

/-- What holds of every element holds after one is changed by a function that keeps it. -/
theorem forall_modAt {α : Type} {p : α → Prop} {f : α → α} (hf : ∀ x, p x → p (f x)) :
    ∀ {l : List α} {n : Nat}, (∀ x ∈ l, p x) → ∀ x ∈ modAt l n f, p x
  | [], _, h => by simp [modAt]
  | a :: l, 0, h => by simp [modAt] at h ⊢; exact ⟨hf a h.1, h.2⟩
  | a :: l, n + 1, h => by
    intro x hx
    rcases List.mem_cons.1 (show x ∈ a :: modAt l n f from hx) with h1 | h1
    · exact h1 ▸ h a (List.mem_cons_self ..)
    · exact forall_modAt hf (fun y hy => h y (List.mem_cons_of_mem _ hy)) x h1

/-! ### Stages -/

/-- Changing a stage by a function that keeps memories canonical. -/
theorem Keeps.modStage (h : s.Keeps t) {n : Nat} {f : Stage → Stage} (hf : ∀ st, st.memWf = true → (f st).memWf = true := by intro _ hs; exact hs) :
    s.Keeps (t.modStage n f) :=
  h.stages (fun hm => forall_modAt (p := fun x => Stage.memWf x = true) hf hm) (length_modAt ..)

/-- Putting a stage whose memories are canonical whenever those of every stage are. -/
theorem Keeps.putStage (h : s.Keeps t) {n : Nat} {st : Stage}
    (hf : (∀ x ∈ t.stages, x.memWf = true) → st.memWf = true) : s.Keeps (t.putStage n st) :=
  h.stages (fun hm => forall_modAt (p := fun x => Stage.memWf x = true) (fun _ _ => hf hm) hm) (length_modAt ..)

/-- Changing the stages of a list. -/
theorem Keeps.modStages (h : s.Keeps t) {ns : List Nat} {f : Stage → Stage}
    (hf : ∀ st, st.memWf = true → (f st).memWf = true := by intro _ hs; exact hs) : s.Keeps (t.modStages ns f) :=
  State.Keeps.fold (fun _ _ k => Keeps.modStage k hf) ns h

/-- Changing the stages of a partition. -/
theorem Keeps.modPart (h : s.Keeps t) {p : Nat} {f : Stage → Stage}
    (hf : ∀ st, st.memWf = true → (f st).memWf = true := by intro _ hs; exact hs) : s.Keeps (t.modPart p f) :=
  h.mapped (f := fun st => if st.part = some p then f st else st) rfl
    (fun st hs => by split; exact hf st hs; exact hs)

/-- A stage of a state whose stages are canonical is canonical. -/
theorem stage_memWf {n : Nat} {st : Stage} (h : t.stage n = some st) (hm : ∀ x ∈ t.stages, x.memWf = true) :
    st.memWf = true := hm st (List.mem_of_getElem? h)

/-- Putting back a stage that was read, changed outside its memories. -/
theorem Keeps.restage (h : s.Keeps t) {n : Nat} {st x : Stage} (hst : t.stage n = some st)
    (he : x.memWf = st.memWf := by first | rfl | with_reducible rfl) : s.Keeps (t.putStage n x) :=
  Keeps.putStage h (fun hm => he.trans (stage_memWf hst hm))

/-- A stage that loses power has empty memories. -/
theorem memWf_losePower (st : Stage) : st.losePower.memWf = true := rfl

/-- A change of state and hold leaves the memories. -/
theorem memWf_dark {st : Stage} {x : StageSt} {b : Bool} (h : st.memWf = true) :
    Stage.memWf { st with st := x, held := b } = true := h

theorem memWf_unassign {st : Stage} (h : st.memWf = true) : st.unassign.memWf = true := h

theorem memWf_modLink {st : Stage} (h : st.memWf = true) (d : Side) (f : Link → Link) : (st.modLink d f).memWf = true := by
  cases d <;> exact h

theorem memWf_modLinks {st : Stage} (h : st.memWf = true) (f : Link → Link) : (st.modLinks f).memWf = true :=
  memWf_modLink (memWf_modLink (memWf_modLink (memWf_modLink h .north f) .east f) .south f) .west f

theorem memWf_putLand {st : Stage} (h : st.memWf = true) (d : Side) (bs : List (BitVec 2048)) :
    (st.putLand d bs).memWf = true := by cases d <;> exact h

theorem memWf_pushTrace {st : Stage} (h : st.memWf = true) (m : Bool) (e : TraceEntry) : (st.pushTrace m e).memWf = true := by
  unfold Stage.pushTrace; split <;> exact h

/-! ### Access -/

theorem Keeps.putCtx (h : s.Keeps t) {p : Nat} {c : Option Ctx} : s.Keeps (t.putCtx p c) :=
  h.same (h5 := length_setAt ..)

theorem Keeps.modCtx (h : s.Keeps t) {p : Nat} {f : Ctx → Ctx} : s.Keeps (t.modCtx p f) :=
  h.same (h5 := length_modAt ..)

theorem Keeps.modPort (h : s.Keeps t) {p : Port} {f : HostPort → HostPort} : s.Keeps (t.modPort p f) := by
  cases p <;> exact h.same

theorem Keeps.modRing (h : s.Keeps t) {p : RingPort} {f : RingState → RingState} : s.Keeps (t.modRing p f) := by
  cases p <;> exact h.same

theorem Keeps.modRail (h : s.Keeps t) {x : Nat} {f : Rail → Rail} : s.Keeps (t.modRail x f) :=
  h.same (h6 := length_modAt ..)

theorem Keeps.modEnd (h : s.Keeps t) {e : End} {f : Link → Link} : s.Keeps (t.modEnd e f) := by
  unfold State.modEnd
  split
  · split
    · exact h
    · exact h.same (h13 := length_modAt ..)
  · exact Keeps.modStage h (fun _ hs => memWf_modLink hs _ _)

theorem Keeps.modAcross (h : s.Keeps t) {n : Nat} {d : Side} {f : Link → Link} : s.Keeps (t.modAcross n d f) :=
  Keeps.modEnd h

theorem Keeps.modAllAcross (h : s.Keeps t) {n : Nat} {f : Link → Link} : s.Keeps (t.modAllAcross n f) :=
  State.Keeps.fold (fun _ _ k => Keeps.modAcross k) _ h

theorem Keeps.unalign (h : s.Keeps t) {n : Nat} : s.Keeps (t.unalign n) :=
  Keeps.modAllAcross (Keeps.modStage h (fun _ hs => memWf_modLinks hs _))

theorem Keeps.checkFloor (h : s.Keeps t) : s.Keeps t.checkFloor := h.same

theorem Keeps.draw (h : s.Keeps t) : s.Keeps t.draw := h.same

/-! ### Records and dailies -/

theorem Keeps.emit (h : s.Keeps t) {c e : BitVec 8} {b : RecBody} : s.Keeps (t.emit c e b) := h.same

theorem Keeps.emitTo (h : s.Keeps t) {p : Port} {b : RecBody} : s.Keeps (t.emitTo p b) := Keeps.modPort h

theorem Keeps.logEntry (h : s.Keeps t) {k : Nat} {c e : BitVec 8} {b : List Byte} : s.Keeps (t.logEntry k c e b) := h.same

theorem Keeps.log (h : s.Keeps t) {k : Nat} {b : List Byte} : s.Keeps (t.log k b) := Keeps.logEntry h

theorem Keeps.copyDailies (h : s.Keeps t) {ok : Bool} : s.Keeps (t.copyDailies ok) := by
  unfold State.copyDailies; split
  · exact h
  · exact h.same

theorem Keeps.putXing (h : s.Keeps t) {x : Xing} : s.Keeps (t.putXing x) := h.same

theorem Keeps.raiseXings (h : s.Keeps t) {k : Nat} {ns : List Nat} : s.Keeps (t.raiseXings k ns) :=
  State.Keeps.fold (fun _ _ k => Keeps.putXing k) _ h

theorem Keeps.xingOk (h : s.Keeps t) {x : BitVec 16} : s.Keeps (t.xingOk x) := by
  unfold State.xingOk; split
  · exact h.same
  · exact h

theorem Keeps.traceAt (h : s.Keeps t) {n : Nat} {m : Bool} {k : Nat} {w : Word} {b : Nat} :
    s.Keeps (t.traceAt n m k w b) := by
  unfold State.traceAt; split
  · exact h
  · exact Keeps.modStage h (fun _ hs => memWf_pushTrace hs _ _)

theorem Keeps.flushTrace {n : Nat} : ∀ {fuel : Nat} {t : State}, s.Keeps t → s.Keeps (t.flushTrace n fuel)
  | 0, _, h => h
  | fuel + 1, t, h => by
    unfold State.flushTrace
    repeat' split
    all_goals first
      | exact h
      | exact Keeps.flushTrace (Keeps.modStage (Keeps.emit h) (fun _ hs => hs))

/-! ### Errors and their tests -/

theorem Keeps.errorEvent (h : s.Keeps t) {e : ErrReport} {a : Nat} {o : BitVec 16} : s.Keeps (t.errorEvent e a o) := by
  unfold State.errorEvent
  split; exact Keeps.logEntry (Keeps.emit h)

theorem Keeps.portEvent (h : s.Keeps t) {k : Nat} {p : Port} {o : Nat} : s.Keeps (t.portEvent k p o) :=
  Keeps.logEntry (Keeps.emit h)

theorem Keeps.joinTest (h : s.Keeps t) {u : UnitId} {k : Nat} {w : TestWait} : s.Keeps (t.joinTest u k w) := by
  unfold State.joinTest; split <;> exact h.same

theorem Keeps.dropTest (h : s.Keeps t) {u : UnitId} : s.Keeps (t.dropTest u) := h.same

theorem Keeps.setTransient (h : s.Keeps t) {u : UnitId} {n : Nat} : s.Keeps (t.setTransient u n) := h.same

/-! ### The ending of contexts -/

theorem Keeps.failCtx (h : s.Keeps t) {p a b c : Nat} : s.Keeps (t.failCtx p a b c) := by
  have k : s.Keeps (t.modPart p (fun st => { st with stopped := true })) := Keeps.modPart h (fun _ hs => hs)
  unfold State.failCtx; split
  · exact h
  · split
    · exact h
    · split
      · exact k
      · exact Keeps.modCtx k

theorem Keeps.failStageCtx (h : s.Keeps t) {n a : Nat} : s.Keeps (t.failStageCtx n a) := by
  unfold State.failStageCtx; split
  · exact h
  · exact Keeps.failCtx h

theorem Keeps.wrapRecord (h : s.Keeps t) {p : Nat} {c : Ctx} {e : Ended} {ok : Bool} :
    s.Keeps (t.wrapRecord p c e ok) := by
  unfold State.wrapRecord
  apply Keeps.emit
  exact h.same

theorem Keeps.endRecord (h : s.Keeps t) {p : Nat} {c : Ctx} {e : Ended} : s.Keeps (t.endRecord p c e) := by
  unfold State.endRecord; split <;> exact Keeps.emit h

theorem Keeps.endRecords (h : s.Keeps t) {p : Nat} {c : Ctx} {e : Ended} {ok : Bool} :
    s.Keeps (t.endRecords p c e ok) := Keeps.wrapRecord (Keeps.endRecord h)

theorem Keeps.keepLate (h : s.Keeps t) {p : Nat} : s.Keeps (t.keepLate p) := by
  unfold State.keepLate
  split
  · exact h
  · exact State.Keeps.fold (fun _ _ k => Keeps.modPort k) _ h

theorem Keeps.endAllNow (h : s.Keeps t) {a : Nat} : s.Keeps (t.endAllNow a) :=
  State.Keeps.fold (fun u p k => by
    dsimp only
    split
    · exact k
    · refine Keeps.putCtx (Keeps.modStages (Keeps.keepLate ?_) (fun _ hs => memWf_unassign hs))
      split
      · exact k
      · exact Keeps.endRecord k) _ h

/-! ### Escalation -/

theorem Keeps.recovery (h : s.Keeps t) {l : Level} {o : Nat} {m : BitVec 8} : s.Keeps (t.recovery l o m) :=
  Keeps.log (Keeps.emit h)

theorem Keeps.enterLevel3 (h : s.Keeps t) {p a n : Nat} : s.Keeps (t.enterLevel3 p a n) := by
  unfold State.enterLevel3
  split
  · exact h
  · split
    · split
      · exact h
      · refine Keeps.modPart ?_ (fun _ hs => hs)
        apply Keeps.modCtx
        exact Keeps.recovery h
    · refine Keeps.modPart ?_ (fun _ hs => hs)
      apply Keeps.modCtx
      exact h

/-! ### Retirement -/

theorem Keeps.saveLedger (h : s.Keeps t) : s.Keeps t.saveLedger := by
  unfold State.saveLedger
  dsimp only
  split <;> exact h.same

theorem Keeps.saveRetired (h : s.Keeps t) : s.Keeps t.saveRetired := h.same

theorem Keeps.retirement (h : s.Keeps t) {b : RetBody} : s.Keeps (t.retirement b) := by
  unfold State.retirement
  exact Keeps.emit (Keeps.saveRetired h)

theorem Keeps.retireStage (h : s.Keeps t) {n a b c : Nat} : s.Keeps (t.retireStage n a b c) := by
  unfold State.retireStage; split
  · exact h
  · split
    · exact h
    · apply Keeps.checkFloor
      apply Keeps.retirement
      apply Keeps.modAllAcross
      refine Keeps.modStage (Keeps.failStageCtx h) ?_
      intro st _
      exact memWf_dark (memWf_losePower st)

theorem Keeps.holdStage (h : s.Keeps t) {n a : Nat} : s.Keeps (t.holdStage n a) := by
  unfold State.holdStage; split
  · exact h
  · split
    · exact h
    · apply Keeps.checkFloor
      apply Keeps.retirement
      apply Keeps.modAllAcross
      refine Keeps.modStage h ?_
      intro st _
      exact memWf_dark (memWf_losePower st)

end Sys2Proof.Machine
end

