-- ==== Sys2Proof/Laws/KeepsModule.lean ====
section
/-! SUPPORT. The operations of TimeOps.lean, Escalate.lean and Retire.lean keep the queue, the serial, the key and the
invariant. -/

namespace Sys2Proof.Machine

set_option Elab.async false

open Sys2Proof

variable {s t : State}

/-! ### Time -/

/-- A clamped correction is within the range of R133. -/
theorem inRange_clampPpb (y : Rat) : inRange (clampPpb y) := by
  unfold clampPpb inRange
  split
  · constructor <;> norm_num
  · split
    · constructor <;> norm_num
    · constructor <;> linarith

theorem inRange_yAge (s : State) : inRange s.yAge := inRange_clampPpb _

/-- A change of the time base that keeps its two corrections within their range and the hour count below 24. -/
theorem Keeps.time (h : s.Keeps t) {x : TimeBase} (hc : inRange t.time.corr → inRange x.corr)
    (hp : inRange t.time.corr → inRange t.time.pps.prevCorr → inRange x.pps.prevCorr)
    (hh : t.time.hourCount < 24 → x.hourCount < 24) : s.Keeps { t with time := x } :=
  h.trans ⟨rfl, rfl, rfl, fun i => ⟨i.memory, i.stages, i.parts, i.rails, i.slots, i.edges, i.trims, hc i.corr, hp i.corr i.prev,
    hh i.hour, i.limit⟩⟩

/-- A change of the time base, of the stages outside their memories, and of nothing else: wafer time moves on. -/
theorem Keeps.advance (h : s.Keeps t) {w : WaferTime} : s.Keeps (t.advance w) := by
  unfold State.advance
  split
  · exact h.mapped (f := fun st => { st with
      island := w, clock := { st.clock with pairW := w, pairLag := st.clock.lag, pairOld := st.clock.pairLag } })
      (by with_reducible rfl) (fun _ hs => hs)
  · exact h.mapped (f := fun st => { st with island := w }) (by with_reducible rfl) (fun _ hs => hs)

theorem Keeps.discipline (h : s.Keeps t) {c : Nat} : s.Keeps (t.discipline c) := Keeps.emit h

theorem Keeps.kindHoldover (h : s.Keeps t) : s.Keeps t.kindHoldover := by
  unfold State.kindHoldover; split
  · exact h.same
  · exact h

theorem Keeps.measure (h : s.Keeps t) {i k : Nat} {u : Bool} : s.Keeps (t.measure i k u) := by
  unfold State.measure; split
  · exact h
  · exact h.same

theorem Keeps.measureTick (h : s.Keeps t) : s.Keeps t.measureTick := Keeps.measure h

theorem Keeps.closeMeasure (h : s.Keeps t) {b : Bool} : s.Keeps (t.closeMeasure b) := by
  unfold State.closeMeasure; split
  · exact h
  · exact Keeps.emit h.same

theorem Keeps.calRecord (h : s.Keeps t) {k : Nat} {x : List (Nat × List Nat)} : s.Keeps (t.calRecord k x) := Keeps.emit h

/-! ### Cuts, levels and stops -/

theorem Keeps.acceptCut (h : s.Keeps t) {p : Nat} {c : CutSource} : s.Keeps (t.acceptCut p c) := Keeps.modCtx h

theorem Keeps.cutAll (h : s.Keeps t) {c : CutSource} : s.Keeps (t.cutAll c) := h.same (h5 := List.length_map ..)

theorem Keeps.supersede (h : s.Keeps t) : s.Keeps t.supersede :=
  State.Keeps.fold (fun u p k => by
    split
    · exact k
    · split
      · exact k
      · exact Keeps.modCtx (Keeps.recovery k)) _ h

theorem Keeps.stopContexts (h : s.Keeps t) {a : Nat} : s.Keeps (t.stopContexts a) :=
  h.mapped (f := fun st => if st.part.isSome then { st with stopped := true } else st) rfl
    (fun st hs => by split <;> exact hs) (h5 := List.length_map ..)

theorem Keeps.enterLevel4 (h : s.Keeps t) {a n : Nat} : s.Keeps (t.enterLevel4 a n) := by
  unfold State.enterLevel4; split
  · exact h
  · have h1 := Keeps.stopContexts (a := 0x23) (Keeps.supersede h)
    exact h1.same

theorem Keeps.noteConcurrency (h : s.Keeps t) : s.Keeps t.noteConcurrency := h.same (h5 := List.length_map ..)

theorem Keeps.recordContexts (h : s.Keeps t) {ok : Bool} : s.Keeps (t.recordContexts ok) :=
  State.Keeps.fold (fun u p k => by
    dsimp only
    split
    · exact k
    · split
      · exact k
      · exact Keeps.modCtx (Keeps.endRecords k)) _ (Keeps.noteConcurrency h)

theorem Keeps.dropAll (h : s.Keeps t) : s.Keeps t.dropAll :=
  h.mapped (f := fun st => if st.part.isSome then { st.unassign with stopped := true } else st) rfl
    (fun st hs => by split <;> exact hs) (h5 := List.length_map ..)

theorem Keeps.freeAll (h : s.Keeps t) : s.Keeps t.freeAll :=
  Keeps.dropAll (State.Keeps.fold (fun _ _ k => Keeps.keepLate k) partNumbers h)

theorem Keeps.powerCycleReq (h : s.Keeps t) {a n : Nat} {w : Word} {m : BitVec 8} : s.Keeps (t.powerCycleReq a n w m) := by
  have h0 : s.Keeps (if t.ledgerRead then t.saveLedger else t) := State.Keeps.ite (Keeps.saveLedger h) h
  have h1 := Keeps.recovery (l := { level := 5, trigger := a, start := w, stage := n }) (o := 0) (m := m) h0
  unfold State.powerCycleReq
  exact h1.same

theorem Keeps.giveWay (h : s.Keeps t) {m : BitVec 8} : s.Keeps (t.giveWay m) := by
  unfold State.giveWay; split
  · exact h
  · exact Keeps.recovery h

theorem Keeps.moduleFail (h : s.Keeps t) {k : Nat} {b : List Byte} {ok : Bool} : s.Keeps (t.moduleFail k b ok) := by
  have h1 : s.Keeps { t with pins := { t.pins with
      issueStopped := true, failed := true, booting := false, bypassOpen := false } } := h.same
  have h2 := Keeps.endAllNow (a := 0x24) (Keeps.giveWay (m := t.allMask)
    (Keeps.supersede (Keeps.log (k := k) (b := b) h1)))
  unfold State.moduleFail
  apply Keeps.draw
  apply Keeps.powerCycleReq
  apply Keeps.copyDailies
  exact h2.mapped (f := fun st => { st with stopped := true }) (by with_reducible rfl) (fun _ hs => hs)

/-- Every stage but the retired ones loses its power at once (R296). -/
theorem Keeps.allOff (h : s.Keeps t) : s.Keeps { t with
    level4 := none, tests := []
    stages := t.stages.map (fun st =>
      if st.st = .retired then st
      else { st.losePower with st := .unlit, part := none, releasing := false, stopped := true })
    edges := t.edges.map Link.unpower } := by
  refine h.mapped
    (f := fun st => if st.st = .retired then st
      else { st.losePower with st := .unlit, part := none, releasing := false, stopped := true })
      (by with_reducible rfl) ?_ (h13 := List.length_map ..)
  intro st hs
  split
  · exact hs
  · exact memWf_losePower st

theorem Keeps.stopModule (h : s.Keeps t) {b : Bool} {p : List Byte} : s.Keeps (t.stopModule b p) := by
  have h1 : s.Keeps { t with pins := { t.pins with issueStopped := true, booting := false, stop := some b } } := h.same
  have h2 := Keeps.supersede (Keeps.log (k := 0x07) (b := p) (Keeps.draw (Keeps.errorEvent
    (e := moduleErr (Config.freeByte t.freeCtr).toNat 0 none) (a := 0) (o := 0) h1)))
  have h3 := Keeps.endAllNow (a := if b then 0x21 else 0x20) (Keeps.giveWay (m := State.allMask
    (State.supersede (State.log (State.draw (State.errorEvent { t with pins := { t.pins with
      issueStopped := true, booting := false, stop := some b } } (moduleErr (Config.freeByte t.freeCtr).toNat 0 none) 0 0))
      0x07 p))) h2)
  unfold State.stopModule
  exact Keeps.allOff h3

/-- The stages that a shutdown leaves. -/
theorem memWf_dim {st : Stage} (h : st.memWf = true) {a : StageSt} {b c e : Bool} {i u : Nat} {w : Work} :
    Stage.memWf { st with
      st := a, part := none, releasing := b, stopped := c, idle := i, unassigned := u, skipping := e, reload := none
      slackLow := none, fmaxDue := none, work := w } = true := h

theorem Keeps.shutdown (h : s.Keeps t) : s.Keeps t.shutdown := by
  refine h.trans ⟨rfl, rfl, rfl, fun i => ⟨?_, ?_, ?_, i.rails, ?_, ?_, i.trims, i.corr, ?_, i.hour, i.limit⟩⟩
  · intro st hs
    obtain ⟨x, hx, rfl⟩ := List.mem_map.1 hs
    split
    · exact memWf_modLinks (i.memory x hx) Link.reset
    · exact memWf_dim (memWf_modLinks (memWf_losePower x) Link.reset)
  · exact (List.length_map ..).trans i.stages
  · exact (List.length_map ..).trans i.parts
  · exact (List.length_map ..).trans i.slots
  · exact (List.length_map ..).trans i.edges
  · constructor <;> norm_num [State.shutdown, Pps.idle]

theorem Keeps.beginBoot (h : s.Keeps t) : s.Keeps t.beginBoot := by
  unfold State.beginBoot; split
  · exact h
  · exact h.mapped (f := fun st => { st with island := 0 }) (by with_reducible rfl) (fun _ hs => hs)

theorem Keeps.takeDump (h : s.Keeps t) {p : Nat} {r : DumpReads} {l : Nat} : s.Keeps (t.takeDump p r l) := by
  unfold State.takeDump
  split
  · exact h
  · split
    · exact h
    · split
      · exact h
      · split
        · exact h
        · dsimp only
          apply State.Keeps.ite <;> exact Keeps.logEntry h.same

theorem Keeps.dumpLevels (h : s.Keeps t) {l : Nat} : s.Keeps (t.dumpLevels l) :=
  State.Keeps.fold (fun u p k => by
    split
    · exact k
    · split
      · exact k
      · exact Keeps.takeDump k) _ h

theorem Keeps.runLevel5 (h : s.Keeps t) {a n : Nat} {w : Word} {b c : Bool} : s.Keeps (t.runLevel5 a n w b c) := by
  have h1 : s.Keeps { t with pins := { t.pins with issueStopped := true } } := h.same
  have h2 := Keeps.giveWay (m := t.allMask) (Keeps.supersede (Keeps.dumpLevels (l := 5) h1))
  unfold State.runLevel5
  apply Keeps.powerCycleReq
  apply Keeps.copyDailies
  apply Keeps.freeAll
  apply Keeps.recordContexts
  apply Keeps.stopContexts
  exact h2.same

/-! ### Substitution and retirement -/

theorem memWf_foldl_cellSet {w : Nat} {f : Nat × BitVec w → Nat} :
    ∀ {l : List (Nat × BitVec w)} {m : Cells w}, Memory.wf m = true →
      Memory.wf (l.foldl (fun m c => cellSet m (f c) c.2) m) = true
  | [], _, h => h
  | _ :: l, _, h => memWf_foldl_cellSet (l := l) (cellSet_wf h)

/-- The clauses of a stage's canonical form. -/
theorem memWf_iff {st : Stage} : st.memWf = true ↔ Memory.wf st.scratch = true ∧ Memory.wf st.acc = true ∧
    Memory.wf st.resid = true ∧ Memory.wf st.script = true := by
  simp only [Stage.memWf, Bool.and_eq_true, and_assoc]

theorem memWf_putScratch {st : Stage} (h : st.memWf = true) (k : Nat) (bs : List (BitVec 8)) :
    ({ st with scratch := cellSetList st.scratch k bs } : Stage).memWf = true := by
  obtain ⟨h1, h2, h3, h4⟩ := memWf_iff.1 h
  exact memWf_iff.2 ⟨cellSetList_wf h1, h2, h3, h4⟩

theorem memWf_copyBank {st : Stage} (h : st.memWf = true) (a b : Nat) : (st.copyBank a b).memWf = true := by
  obtain ⟨h1, h2⟩ := memWf_iff.1 h
  exact memWf_iff.2 ⟨memWf_foldl_cellSet (filter_wf h1), h2⟩

theorem memWf_takeSpare {st : Stage} (h : st.memWf = true) {a b c : Nat} {r : Bool} {x : Stage × Option Nat}
    (hx : st.takeSpare a b r c = some x) : x.1.memWf = true := by
  unfold Stage.takeSpare at hx
  split at hx
  · cases hx; exact h
  · split at hx
    · cases hx
    · cases hx; exact h

theorem memWf_takeBank {st : Stage} (h : st.memWf = true) {a : Nat} {x : Stage × Nat} (hx : st.takeBank a = some x) :
    x.1.memWf = true := by
  unfold Stage.takeBank at hx
  split at hx
  · cases hx
  · cases hx; exact memWf_copyBank h ..

theorem memWf_substitute {st : Stage} (h : st.memWf = true) {u : UnitId} {r : Substituted}
    (hr : st.substitute u = some r) : r.stage.memWf = true := by
  have hb : ∀ {p : Nat} {w : Bool} {r : Substituted},
      (st.takeBank p).map (fun (t, i) => { stage := t, index := some i, wide := w : Substituted }) = some r →
      r.stage.memWf = true := by
    intro p w r e
    obtain ⟨x, hx, rfl⟩ := Option.map_eq_some_iff.1 e
    exact memWf_takeBank h hx
  unfold Stage.substitute at hr
  split at hr
  · split at hr
    · cases hr
    · cases hr; exact h
  · exact hb hr
  · split at hr
    · cases hr; exact memWf_takeSpare h ‹_›
    · exact hb hr
  · split at hr
    · cases hr
      rename_i e
      split at e
      · exact memWf_takeSpare h e
      · cases e
    · exact hb hr
  · cases hr

theorem memWf_freeUnit {st : Stage} (h : st.memWf = true) (u : UnitId) (w : Bool) : (st.freeUnit u w).memWf = true := by
  unfold Stage.freeUnit
  split
  · exact h
  · exact h
  · split <;> exact h
  · split <;> exact h
  · exact h

theorem Keeps.retireMoved (h : s.Keeps t) {n : Nat} {u : UnitId} {a b : Nat} {i : Option Nat} {w : Bool} :
    s.Keeps (t.retireMoved n u a b i w) := by
  unfold State.retireMoved; split
  · exact h
  · exact Keeps.draw (Keeps.retirement h)

theorem Keeps.retireReplaceable (h : s.Keeps t) {n : Nat} {u : UnitId} {a b : Nat} :
    s.Keeps (t.retireReplaceable n u a b) := by
  unfold State.retireReplaceable
  split
  · exact h
  · rename_i st hst
    refine State.Keeps.ite ?_ ?_
    · refine Keeps.retirement (Keeps.modStage h ?_)
      intro x hx
      split <;> exact hx
    · split
      · rename_i r hr
        exact Keeps.retireMoved (Keeps.putStage h (fun hm => memWf_substitute (stage_memWf hst hm) hr))
      · exact Keeps.retireStage h

theorem Keeps.retireTested (h : s.Keeps t) {n : Nat} {u : UnitId} {a b : Nat} {x : Option Test} :
    s.Keeps (t.retireTested n u a b x) := by
  unfold State.retireTested
  split
  · split
    · exact Keeps.retireMoved h
    · exact Keeps.retireReplaceable h
  · exact Keeps.retireReplaceable h

theorem Keeps.modSplice (h : s.Keeps t) {e : End} {f : Link → Link} : s.Keeps (t.modSplice e f) :=
  Keeps.modEnd (Keeps.modEnd h)

theorem Keeps.failSplice (h : s.Keeps t) {n : Nat} {d : Side} {a b : Nat} : s.Keeps (t.failSplice n d a b) := by
  unfold State.failSplice
  exact Keeps.retireStage (Keeps.modSplice h)

theorem Keeps.putLaneMap (h : s.Keeps t) {w : End} {m : List (Nat × Nat)} : s.Keeps (t.putLaneMap w m) :=
  Keeps.modEnd (Keeps.modEnd h)

theorem Keeps.laneRetired (h : s.Keeps t) {u : UnitId} {n k : Nat} {m : List (Nat × Nat)} {x : Nat × Nat} :
    s.Keeps (t.laneRetired u n k m x) := Keeps.retirement h

theorem Keeps.spareLane (h : s.Keeps t) {b : BadLane} : s.Keeps (t.spareLane b) := by
  unfold State.spareLane
  dsimp only
  split
  · exact Keeps.failSplice h
  · exact Keeps.laneRetired (Keeps.putLaneMap h)

/-- A change of usable fmax and clock leaves the memories. -/
theorem memWf_rated {st : Stage} {u : Nat} {k : Clock} (h : st.memWf = true) :
    Stage.memWf { st with usable := u, clock := k } = true := h

theorem Keeps.lowerFmax (h : s.Keeps t) {n f : Nat} : s.Keeps (t.lowerFmax n f) := by
  have h1 : s.Keeps (t.modStage n (fun st =>
      let u := if f < st.usable then f else st.usable
      { st with usable := u, clock := st.clock.limitTarget u })) :=
    Keeps.modStage h (fun st hs => memWf_rated hs)
  unfold State.lowerFmax
  dsimp only
  split
  · exact h1
  · split
    · exact Keeps.failStageCtx h1
    · exact h1

theorem Keeps.brokenSense (h : s.Keeps t) {x k : Nat} : s.Keeps (t.brokenSense x k) := by
  unfold State.brokenSense
  apply Keeps.errorEvent
  refine State.Keeps.fold (fun u n ku => ?_) _ (Keeps.modRail h)
  split
  · exact ku
  · exact Keeps.enterLevel3 ku

theorem Keeps.holdBroken (h : s.Keeps t) {p : Option Nat} : s.Keeps (t.holdBroken p) := by
  refine State.Keeps.fold (fun u x ku => ?_) _ h
  dsimp only
  split
  · exact ku
  · refine State.Keeps.fold (fun v n kv => ?_) _ ku
    split
    · exact kv
    · split
      · exact Keeps.holdStage kv
      · exact kv

theorem Keeps.railLasting (h : s.Keeps t) {x k : Nat} : s.Keeps (t.railLasting x k) := by
  unfold State.railLasting; split
  · exact Keeps.brokenSense h
  · exact Keeps.modRail h

theorem Keeps.maskDetector (h : s.Keeps t) {n d a b : Nat} : s.Keeps (t.maskDetector n d a b) := by
  have h1 : s.Keeps (t.modStage n (fun st => { st with masked := st.masked ||| BitVec.ofNat 16 (2 ^ d) })) :=
    Keeps.modStage h (fun _ hs => hs)
  unfold State.maskDetector
  dsimp only
  split
  · exact Keeps.retirement h1
  · split
    · exact Keeps.retireStage (Keeps.retirement h1)
    · exact Keeps.retirement h1

theorem Keeps.clockLasting (h : s.Keeps t) {n a : Nat} {k : List Nat} {f : Nat} : s.Keeps (t.clockLasting n a k f) := by
  unfold State.clockLasting; split
  · exact Keeps.retireStage h
  · split
    · exact Keeps.retireStage h
    · exact Keeps.lowerFmax h

theorem Keeps.lasting (h : s.Keeps t) {u : UnitId} {a : Nat} {k : List Nat} {x : Option Test} :
    s.Keeps (t.lasting u a k x) := by
  cases u with
  | engine n p => exact Keeps.retireTested h
  | bank n p => exact Keeps.retireTested h
  | bankCol n p b c => exact Keeps.retireTested h
  | bankRow n p b c => exact Keeps.retireTested h
  | scriptRow n r => exact Keeps.retireStage h
  | clockPath n => exact Keeps.clockLasting h
  | spliceDir n d r => exact Keeps.failSplice h
  | channel n d => exact Keeps.modStage h (fun _ hs => memWf_modLink hs _ _)
  | crossing xid =>
    unfold State.lasting
    dsimp only
    split
    · exact Keeps.retireStage h
    · exact h
  | rail x => exact Keeps.railLasting h
  | sense n => exact Keeps.retireStage h
  | ringLane rp lane => exact Keeps.retirement (Keeps.modRing h)
  | detector n d => exact Keeps.maskDetector h

theorem Keeps.classify (h : s.Keeps t) {u : UnitId} {f : Bool} : s.Keeps (t.classify u f) := by
  unfold State.classify
  split
  · exact h
  · dsimp only
    split
    · exact Keeps.lasting (Keeps.dropTest h)
    · split
      · exact Keeps.lasting (Keeps.dropTest h)
      · have h2 := Keeps.setTransient (u := u) (n := t.transientOf u + (‹Test› : Test).joined) (Keeps.dropTest (u := u) h)
        have h3 : ∀ k w, s.Keeps (((t.dropTest u).setTransient u (t.transientOf u + (‹Test› : Test).joined)).modStage k
            (fun st => st.freeUnit u w)) := fun k w => Keeps.modStage h2 (fun _ hs => memWf_freeUnit hs _ _)
        split
        · split
          · refine Keeps.modStage ?_ (fun _ hs => hs)
            split
            · exact h2
            · split
              · exact h3 ..
              · exact h2
          · split
            · exact h2
            · split
              · exact h3 ..
              · exact h2
        · split
          · exact h2
          · split
            · exact h3 ..
            · exact h2

theorem Keeps.countCrossing (h : s.Keeps t) {x : BitVec 16} {k : Nat} : s.Keeps (t.countCrossing x k) :=
  Keeps.classify (Keeps.joinTest h)

end Sys2Proof.Machine
end

