-- ==== Sys2Proof/Laws/KeepsFrames.lean ====
section
/-! SUPPORT. The operations of Clocking.lean, Frames.lean, Tick.lean and Stages.lean keep the queue, the serial, the key and
the invariant. -/

namespace Sys2Proof.Machine

set_option Elab.async false

open Sys2Proof

variable {s t : State}

/-! ### Clocks and rails -/

theorem memWf_fold {α : Type} {f : Stage → α → Stage} (hf : ∀ st a, st.memWf = true → (f st a).memWf = true) :
    ∀ (l : List α) {st : Stage}, st.memWf = true → (l.foldl f st).memWf = true
  | [], _, h => h
  | a :: l, _, h => memWf_fold hf l (hf _ a h)

theorem Keeps.checkSide (h : s.Keeps t) {n : Nat} {d : Side} : s.Keeps (t.checkSide n d) := by
  unfold State.checkSide
  exact State.Keeps.ite h (Keeps.modSplice h)

theorem Keeps.checkAligned (h : s.Keeps t) {n : Nat} : s.Keeps (t.checkAligned n) :=
  State.Keeps.fold (fun _ _ k => Keeps.checkSide k) _ h

theorem Keeps.tellStep (h : s.Keeps t) {n : Nat} : s.Keeps (t.tellStep n) := by
  unfold State.tellStep
  split
  · exact h
  · exact Keeps.modAllAcross h

theorem Keeps.switched (h : s.Keeps t) {n : Nat} : s.Keeps (t.switched n) := Keeps.tellStep (Keeps.unalign h)

/-- A change of clock leaves the memories. -/
theorem memWf_clock {st : Stage} {k : Clock} (h : st.memWf = true) : Stage.memWf { st with clock := k } = true := h

theorem Keeps.setVolt (h : s.Keeps t) {x v : Nat} : s.Keeps (t.setVolt x v) :=
  Keeps.modStages (Keeps.modRail h) (fun _ hs => memWf_clock hs)

theorem Keeps.raiseFor (h : s.Keeps t) {n k : Nat} : s.Keeps (t.raiseFor n k) := by
  unfold State.raiseFor
  exact State.Keeps.ite (State.Keeps.ite (Keeps.modRail h) (Keeps.setVolt (Keeps.modRail h))) h

theorem Keeps.restRails (h : s.Keeps t) : s.Keeps t.restRails :=
  State.Keeps.fold (fun _ _ k => State.Keeps.ite k
    (State.Keeps.ite (Keeps.modRail k) (Keeps.setVolt (Keeps.modRail k)))) _ h

theorem memWf_pushMargin {st : Stage} (h : st.memWf = true) : st.pushMargin.memWf = true := h

/-! ### Frames -/

theorem Keeps.traceTick (h : s.Keeps t) {n : Nat} {m : Bool} {c : Ctx} {k p : Nat} : s.Keeps (t.traceTick n m c k p) :=
  Keeps.modStage h (fun _ hs => memWf_pushTrace hs _ _)

theorem Keeps.litMarker (h : s.Keeps t) {n : Nat} : s.Keeps (t.litMarker n) := by
  unfold State.litMarker; split
  · exact h
  · exact Keeps.traceTick h

theorem Keeps.makeLit (h : s.Keeps t) {n : Nat} : s.Keeps (t.makeLit n) := by
  unfold State.makeLit
  exact Keeps.litMarker (Keeps.modStage h)

theorem memWf_commitEpoch {st : Stage} (h : st.memWf = true) : st.commitEpoch.memWf = true := h

/-- A change of closing leaves the memories. -/
theorem memWf_closing {st : Stage} {c : Option LightsTarget} (h : st.memWf = true) :
    Stage.memWf { st with closing := c } = true := h

theorem memWf_commitIdle {st : Stage} (h : st.memWf = true) : st.commitIdle.memWf = true := by
  unfold Stage.commitIdle
  refine memWf_closing ?_
  split
  · exact h
  · split
    · exact h
    · exact h

theorem Keeps.releaseOn (h : s.Keeps t) {p : Nat} {c : Ctx} {q : Port} {xs : List (Nat × Staged × OutEntry)} :
    s.Keeps (t.releaseOn p c q xs) := by
  unfold State.releaseOn
  dsimp only
  split
  · exact h
  · exact Keeps.modCtx (Keeps.modPort h)

theorem Keeps.tallyStage (h : s.Keeps t) {p n : Nat} {c : Ctx} : s.Keeps (t.tallyStage p n c) := by
  unfold State.tallyStage; split
  · exact h
  · exact Keeps.modCtx (State.Keeps.ite (Keeps.traceTick h) h)

theorem Keeps.commitFrame (h : s.Keeps t) {p : Nat} {c : Ctx} : s.Keeps (t.commitFrame p c) :=
  Keeps.modCtx (Keeps.modStages (State.Keeps.fold (fun _ _ k => Keeps.tallyStage k) _
    (Keeps.releaseOn (Keeps.releaseOn h))) (fun _ hs => memWf_commitIdle (memWf_commitEpoch hs)))

theorem Keeps.noteMargin (h : s.Keeps t) {c : Ctx} : s.Keeps (t.noteMargin c) :=
  Keeps.modStages h (fun x hx => by
    split
    · exact memWf_pushMargin hx
    · exact hx)

theorem memWf_discard {st : Stage} {f : Nat} (h : st.memWf = true) :
    Stage.memWf { st with clock := st.clock.discard f } = true := h

theorem Keeps.dropStep (h : s.Keeps t) {c : Ctx} : s.Keeps (t.dropStep c) :=
  Keeps.modStages h (fun _ hs => memWf_discard hs)

theorem memWf_clearWork {st : Stage} (h : st.memWf = true) : st.clearWork.memWf = true := by
  obtain ⟨h1, _, _, h2⟩ := memWf_iff.1 h
  exact memWf_iff.2 ⟨h1, rfl, rfl, h2⟩

theorem memWf_beginTake {st : Stage} (h : st.memWf = true) (r : StageRec) (k : Nat) (f : BitVec 48) (b : BitVec 4) :
    (st.beginTake r k f b).1.memWf = true := by
  unfold Stage.beginTake
  dsimp only
  split
  · split <;> exact h
  · split
    · exact h
    · have h1 := memWf_clearWork (st := st) h
      exact h1

theorem Keeps.beginStage (h : s.Keeps t) {c : Ctx} {n : Nat} {a b : Bool} : s.Keeps (t.beginStage c n a b) := by
  unfold State.beginStage
  split
  · rename_i st r h1 h2
    have h3 := fun k => Keeps.putStage (n := n) (st := (st.beginTake r k c.frame c.take).1) h
      (fun hm => memWf_beginTake (stage_memWf h1 hm) _ _ _ _)
    dsimp only
    exact State.Keeps.ite (Keeps.failStageCtx (h3 _)) (h3 _)
  · exact h

theorem Keeps.freeWaits (h : s.Keeps t) {p : Nat} : s.Keeps (t.freeWaits p) := h.same

theorem Keeps.beginFrame (h : s.Keeps t) {p : Nat} : s.Keeps (t.beginFrame p) := by
  unfold State.beginFrame
  split
  · exact h
  · exact State.Keeps.fold (fun _ _ k => Keeps.beginStage k) _
      (Keeps.freeWaits (Keeps.modStages (Keeps.putCtx h) (fun _ hs => memWf_clock hs)))

theorem Keeps.beginRetake (h : s.Keeps t) {p : Nat} : s.Keeps (t.beginRetake p) := by
  unfold State.beginRetake
  split
  · exact h
  · exact State.Keeps.fold (fun _ _ k => Keeps.beginStage k) _ (Keeps.freeWaits (Keeps.dropStep (Keeps.putCtx h)))

theorem Keeps.waitTick (h : s.Keeps t) {p : Nat} {c : Ctx} : s.Keeps (t.waitTick p c) := by
  unfold State.waitTick
  exact State.Keeps.ite (Keeps.modStages (Keeps.modCtx h)) (Keeps.modCtx h)

theorem Keeps.endCtxTick (h : s.Keeps t) {p : Nat} {c : Ctx} {d : Bool × Nat × Nat × Nat} :
    s.Keeps (t.endCtxTick p c d) :=
  Keeps.freeWaits (Keeps.modStages (Keeps.modCtx (Keeps.dropStep h)))

theorem Keeps.cutCtxTick (h : s.Keeps t) {p : Nat} {c : Ctx} : s.Keeps (t.cutCtxTick p c) :=
  Keeps.freeWaits (State.Keeps.fold (fun _ _ k => by
    split
    · exact k
    · exact State.Keeps.ite (Keeps.makeLit k) k) _ (Keeps.modStages (Keeps.modCtx (Keeps.dropStep h))))

/-! ### The tick -/

theorem Keeps.commitTick (h : s.Keeps t) {p : Nat} {c : Ctx} {a : TickAction} : s.Keeps (t.commitTick p c a) := by
  have h1 := Keeps.commitFrame (p := p) (c := c) (Keeps.noteMargin (c := c) h)
  unfold State.commitTick
  refine State.Keeps.ite (State.Keeps.ite (Keeps.cutCtxTick h) (Keeps.endCtxTick h)) ?_
  exact State.Keeps.ite (Keeps.endCtxTick h1) (State.Keeps.ite (Keeps.endCtxTick (Keeps.modCtx h1))
    (State.Keeps.ite (Keeps.beginFrame h1) h1))

theorem Keeps.holdTick (h : s.Keeps t) {p : Nat} {c : Ctx} : s.Keeps (t.holdTick p c) :=
  State.Keeps.ite (Keeps.modCtx h) h

theorem Keeps.runAction (h : s.Keeps t) {p : Nat} {c : Ctx} {a : TickAction} : s.Keeps (t.runAction p c a) := by
  cases a
  · exact Keeps.commitTick h
  · exact Keeps.commitTick h
  · exact Keeps.commitTick h
  · exact Keeps.beginRetake h
  · exact Keeps.waitTick h
  · exact State.Keeps.ite (Keeps.holdTick h) (Keeps.beginFrame h)
  · exact Keeps.holdTick h

theorem Keeps.tickCtx (h : s.Keeps t) {p : Nat} : s.Keeps (t.tickCtx p) := by
  unfold State.tickCtx
  split
  · exact h
  · refine State.Keeps.ite h ?_
    split
    · exact Keeps.endCtxTick h
    · exact State.Keeps.ite (Keeps.cutCtxTick h) (Keeps.runAction (Keeps.modCtx h))

theorem Keeps.closeDebt (h : s.Keeps t) {n : Nat} : s.Keeps (t.closeDebt n) := by
  unfold State.closeDebt
  split
  · exact h
  · rename_i st hst
    have h0 : ∀ k : Clock, s.Keeps (t.putStage n { st.passSlack with clock := k }) := fun _ => Keeps.restage h hst
    have h1 : ∀ (k : Clock) (b : Bool), s.Keeps (if b = true then (t.putStage n { st.passSlack with clock := k }).draw
        else t.putStage n { st.passSlack with clock := k }) := fun k _ => State.Keeps.ite (Keeps.draw (h0 k)) (h0 k)
    refine State.Keeps.ite h ?_
    dsimp only
    split
    · exact h1 _ _
    · exact State.Keeps.ite (Keeps.traceTick (h1 _ _)) (h1 _ _)

theorem Keeps.derateTick (h : s.Keeps t) {n : Nat} : s.Keeps (t.derateTick n) := by
  unfold State.derateTick
  split
  · exact h
  · exact Keeps.lowerFmax (Keeps.modStage h)

theorem Keeps.relight (h : s.Keeps t) {n : Nat} : s.Keeps (t.relight n) := by
  unfold State.relight
  split
  · exact h
  · exact State.Keeps.ite (Keeps.makeLit h) h

theorem Keeps.stageTick (h : s.Keeps t) {n : Nat} : s.Keeps (t.stageTick n) := by
  unfold State.stageTick
  split
  · exact h
  · rename_i st hst
    refine State.Keeps.ite h ?_
    split
    · exact State.Keeps.ite (Keeps.makeLit (Keeps.modStage h)) h
    · exact State.Keeps.ite (Keeps.makeLit (Keeps.modStage h)) h
    · exact Keeps.restage h hst
    · exact Keeps.restage h hst
    · exact h

theorem Keeps.clockTick (h : s.Keeps t) {n : Nat} : s.Keeps (t.clockTick n) := by
  unfold State.clockTick
  split
  · exact h
  · refine State.Keeps.ite h ?_
    dsimp only
    refine Keeps.modStage ?_ (fun _ hs => memWf_clock hs)
    have h1 : ∀ k : Clock, s.Keeps (t.modStage n (fun x => { x with clock := k })) := fun k =>
      Keeps.modStage h (fun _ hs => memWf_clock hs)
    exact State.Keeps.ite (Keeps.draw (Keeps.raiseFor (Keeps.switched (h1 _)))) (h1 _)

theorem Keeps.sendTrace (h : s.Keeps t) {n : Nat} : s.Keeps (t.sendTrace n) := by
  unfold State.sendTrace
  split
  · exact h
  · exact State.Keeps.ite (Keeps.flushTrace h) h

theorem Keeps.reportOverruns (h : s.Keeps t) : s.Keeps t.reportOverruns := by
  have h1 := State.Keeps.fold (f := fun t (x : Xing) => t.errorEvent (crossingErr 0x0E x.xid none) 0 x.count)
    (fun _ _ k => Keeps.errorEvent k) (t.xings.filter Xing.flag) h
  exact h1.same

theorem Keeps.endTick (h : s.Keeps t) : s.Keeps t.endTick := h.same

theorem Keeps.startTick (h : s.Keeps t) : s.Keeps t.startTick := by
  unfold State.startTick
  exact h.mapped (f := fun st => st.modLinks (fun l => { l with trimWait := false })) (by with_reducible rfl)
    (fun _ hs => memWf_modLinks hs _)

theorem Keeps.tickBody (h : s.Keeps t) : s.Keeps t.tickBody := by
  unfold State.tickBody
  apply Keeps.endTick
  apply Keeps.restRails
  apply Keeps.holdBroken
  apply Keeps.reportOverruns
  refine State.Keeps.fold (f := State.sendTrace) (fun _ _ k => Keeps.sendTrace k) _ ?_
  refine State.Keeps.fold (f := State.checkAligned) (fun _ _ k => Keeps.checkAligned k) _ ?_
  refine State.Keeps.fold (f := State.clockTick) (fun _ _ k => Keeps.clockTick k) _ ?_
  refine State.Keeps.fold (f := State.stageTick) (fun _ _ k => Keeps.stageTick k) _ ?_
  refine State.Keeps.fold (f := State.tickCtx) (fun _ _ k => Keeps.tickCtx k) _ ?_
  refine State.Keeps.fold (f := State.derateTick) (fun _ _ k => Keeps.derateTick k) _ ?_
  refine State.Keeps.fold (f := State.closeDebt) (fun _ _ k => Keeps.closeDebt k) _ ?_
  refine State.Keeps.fold (f := State.relight) (fun _ _ k => Keeps.relight k) _ ?_
  exact Keeps.noteConcurrency (Keeps.measureTick (Keeps.startTick h))

/-! ### Stages and crossings -/

theorem memWf_zeroAll (st : Stage) : st.zeroAll.memWf = true := rfl

theorem memWf_goDark {st : Stage} (h : st.memWf = true) : st.goDark.memWf = true := by
  have h1 := memWf_modLinks h (fun l => { l with usable := false, aligned := false })
  exact h1

theorem Keeps.lightsOnSide (h : s.Keeps t) {n : Nat} {d : Side} : s.Keeps (t.lightsOnSide n d) :=
  Keeps.modAcross (Keeps.modStage h (fun _ hs => memWf_modLink hs _ _))

theorem Keeps.keepLast (h : s.Keeps t) {x : BitVec 16} : s.Keeps (t.keepLast x) := by
  refine Keeps.modStage h (fun st hs => ?_)
  split
  · exact hs
  · exact hs
  · exact hs
  · exact hs
  · exact memWf_modLink hs _ _
  · exact hs

theorem Keeps.freePart (h : s.Keeps t) {p : Nat} : s.Keeps (t.freePart p) :=
  Keeps.putCtx (Keeps.modPart (Keeps.keepLate h) (fun _ hs => memWf_unassign hs))

theorem Keeps.timeoutXing (h : s.Keeps t) {x : BitVec 16} : s.Keeps (t.timeoutXing x) := by
  unfold State.timeoutXing
  refine State.Keeps.ite (Keeps.countCrossing (Keeps.errorEvent (Keeps.putXing h))) ?_
  exact State.Keeps.ite (Keeps.retireStage (Keeps.errorEvent (Keeps.putXing h))) (Keeps.errorEvent (Keeps.putXing h))

theorem Keeps.undelivered (h : s.Keeps t) {x : BitVec 16} : s.Keeps (t.undelivered x) := by
  unfold State.undelivered
  dsimp only
  refine State.Keeps.ite (Keeps.modStage h (fun _ hs => memWf_closing (memWf_modLink hs _ _))) ?_
  refine State.Keeps.ite (Keeps.modStage h (fun _ hs => ?_)) h
  split <;> exact hs

theorem Keeps.lightsTimeouts (h : s.Keeps t) {n : Nat} {ds : List Side} : s.Keeps (t.lightsTimeouts n ds) :=
  State.Keeps.fold (fun _ _ k => Keeps.timeoutXing k) _ h

theorem Keeps.lightsOk (h : s.Keeps t) {n : Nat} {ds : List Side} : s.Keeps (t.lightsOk n ds) :=
  State.Keeps.fold (fun _ _ k => Keeps.xingOk k) _ h

theorem Keeps.darkMarker (h : s.Keeps t) {n : Nat} : s.Keeps (t.darkMarker n) := by
  unfold State.darkMarker; split
  · exact h
  · exact Keeps.modStage h (fun _ hs => memWf_pushTrace hs _ _)

end Sys2Proof.Machine
end

