-- ==== Sys2Proof/Laws/KeepsErrors.lean ====
section
/-! SUPPORT. The operations of Errors.lean, Clocks.lean, Droop.lean and Recovery.lean keep the queue, the serial, the key and
the invariant. -/

namespace Sys2Proof.Machine

set_option Elab.async false

open Sys2Proof

variable {s t : State}

/-! ### Errors -/

theorem Keeps.startRollback (h : s.Keeps t) {p : Nat} {b : Bool} {k n : Nat} : s.Keeps (t.startRollback p b k n) := by
  unfold State.startRollback
  split
  · exact h
  · dsimp only
    split
    · exact Keeps.raiseXings (Keeps.putCtx h)
    · exact State.Keeps.ite h (Keeps.raiseXings (Keeps.putCtx h))

theorem Keeps.noteError (h : s.Keeps t) {u : Option UnitId} {k : Nat} {w : TestWait} : s.Keeps (t.noteError u k w) := by
  unfold State.noteError
  split
  · exact h
  · have h1 := Keeps.joinTest h (u := ‹UnitId›) (k := k) (w := w)
    dsimp only
    split
    · exact State.Keeps.ite (Keeps.lasting (Keeps.dropTest h1)) h1
    · exact h1

theorem Keeps.detectIn (h : s.Keeps t) {e : ErrReport} {b : Bool} : s.Keeps (t.detectIn e b) := by
  unfold State.detectIn
  split
  · exact Keeps.noteError (Keeps.errorEvent h)
  · exact Keeps.noteError (Keeps.errorEvent (Keeps.startRollback h))

theorem Keeps.detect (h : s.Keeps t) {e : ErrReport} : s.Keeps (t.detect e) := by
  unfold State.detect
  split <;> exact Keeps.detectIn h

theorem Keeps.escalateError (h : s.Keeps t) {e : ErrReport} : s.Keeps (t.escalateError e) := by
  have h1 := Keeps.noteError (u := e.unit) (k := e.kind) (w := .tick)
    (Keeps.errorEvent (e := e) (a := if (t.ctxOf e.stage).isSome then 0x04 else 0x00) (o := 0) h)
  unfold State.escalateError
  dsimp only
  split
  · exact h1
  · exact Keeps.enterLevel3 h1

theorem Keeps.scriptError (h : s.Keeps t) {n w : Nat} : s.Keeps (t.scriptError n w) := by
  unfold State.scriptError
  split
  · exact h
  · exact Keeps.modStage (Keeps.detect h)

theorem Keeps.bankError (h : s.Keeps t) {n p l : Nat} {a r : Bool} : s.Keeps (t.bankError n p l a r) := by
  unfold State.bankError
  split
  · exact h
  · dsimp only
    split
    · exact Keeps.detect h
    · refine State.Keeps.ite (Keeps.escalateError h) (State.Keeps.ite ?_ ?_)
      · exact State.Keeps.ite (Keeps.detectIn h) (State.Keeps.ite (Keeps.detectIn h) (Keeps.escalateError h))
      · exact State.Keeps.ite (Keeps.detectIn h) (Keeps.escalateError h)

theorem Keeps.takeError (h : s.Keeps t) {e : ErrReport} : s.Keeps (t.takeError e) := by
  have h1 := fun a => Keeps.errorEvent (e := e) (a := a) (o := 0) h
  unfold State.takeError
  refine State.Keeps.ite (Keeps.detect h) (State.Keeps.ite (Keeps.escalateError h) ?_)
  refine State.Keeps.ite (State.Keeps.ite (Keeps.timeoutXing (Keeps.undelivered h)) h) ?_
  refine State.Keeps.ite (State.Keeps.ite (Keeps.putXing h) h) ?_
  refine State.Keeps.ite (State.Keeps.ite (Keeps.countCrossing (Keeps.errorEvent (Keeps.checkAligned (Keeps.keepLast h)))) h) ?_
  refine State.Keeps.ite (Keeps.retireStage (h1 _)) ?_
  exact State.Keeps.ite (Keeps.failStageCtx (h1 _)) (State.Keeps.ite (h1 _) (Keeps.noteError (h1 _)))

theorem restoreEntries_wf (l : List JEntry) : ∀ {m : Cells 8}, Memory.wf m = true → Memory.wf (restoreEntries m l) = true := by
  induction l with
  | nil => intro m h; exact h
  | cons e es ih => intro m h; rw [restoreEntries]; exact ih (cellSetList_wf h)

theorem memWf_restore {st : Stage} (h : st.memWf = true) (b : Bool) : (st.restore b).memWf = true := by
  obtain ⟨h1, h2, h3, h4⟩ := memWf_iff.1 h
  exact memWf_iff.2 ⟨restoreEntries_wf _ h1, h2, h3, h4⟩

theorem memWf_abortBoth {st : Stage} (h : st.memWf = true) (f : Nat) : (st.abortBoth f).memWf = true := by
  obtain ⟨h1, _, _, h4⟩ := memWf_iff.1 (memWf_restore h true)
  exact memWf_iff.2 ⟨h1, rfl, rfl, h4⟩

/-- The restart of a stage's inner splices. -/
theorem memWf_restartSides {st : Stage} (h : st.memWf = true) (ds : List Side) :
    (ds.foldl (fun t d => t.modLink d Link.restart) st).memWf = true :=
  memWf_fold (fun _ _ hx => memWf_modLink hx _ _) ds h

theorem memWf_abortAhead {st : Stage} (h : st.memWf = true) (a : Bool) : (st.abortAhead a).memWf = true := by
  obtain ⟨h1, h2, h3, h4⟩ := memWf_iff.1 (memWf_restore h a)
  unfold Stage.abortAhead
  dsimp only
  split
  · exact memWf_iff.2 ⟨h1, rfl, rfl, h4⟩
  · exact memWf_iff.2 ⟨h1, h2, h3, h4⟩

theorem Keeps.spliceTested (h : s.Keeps t) {n : Nat} {d : Side} {b : Bool} {ls : List Nat} :
    s.Keeps (t.spliceTested n d b ls) := by
  unfold State.spliceTested
  dsimp only
  split
  · exact Keeps.modSplice (Keeps.classify h)
  · exact h.same

theorem Keeps.clockTested (h : s.Keeps t) {n : Nat} {r : TestResult} {k : List Nat} : s.Keeps (t.clockTested n r k) := by
  have h1 := State.Keeps.fold (f := fun t d => if d < 16 then t.maskDetector n d 0x00 (k.headD 0) else t)
    (fun _ _ x => State.Keeps.ite (Keeps.maskDetector x) x) r.detectors h
  unfold State.clockTested
  exact Keeps.classify h1

/-! ### Clocks -/

theorem Keeps.readyFor (h : s.Keeps t) {n : Nat} : s.Keeps (t.readyFor n) := by
  unfold State.readyFor
  split
  · exact h
  · exact Keeps.modCtx h

theorem Keeps.checkReady (h : s.Keeps t) {n : Nat} : s.Keeps (t.checkReady n) := by
  unfold State.checkReady
  split
  · exact h
  · split
    · exact h
    · exact State.Keeps.ite (Keeps.readyFor h) h

theorem Keeps.stepDown (h : s.Keeps t) {n : Nat} {st : Stage}
    (hs : (∀ x ∈ t.stages, x.memWf = true) → st.memWf = true) :
    s.Keeps (t.stepDown n st) := by
  unfold State.stepDown
  refine Keeps.draw (Keeps.traceAt (Keeps.switched (Keeps.putStage h fun hm => ?_)))
  exact hs hm

theorem Keeps.passEdges (h : s.Keeps t) {n e : Nat} {st : Stage}
    (hs : (∀ x ∈ t.stages, x.memWf = true) → st.memWf = true) : s.Keeps (t.passEdges n st e) := by
  have h1 : ∀ k : Clock, s.Keeps (t.putStage n { st with clock := k }) := fun _ =>
    Keeps.putStage h (fun hm => memWf_clock (hs hm))
  unfold State.passEdges
  exact State.Keeps.ite (State.Keeps.ite (Keeps.putStage h hs) (Keeps.unalign (h1 _))) (h1 _)

theorem Keeps.startTest (h : s.Keeps t) {u : UnitId} {k : Nat} : s.Keeps (t.startTest u k) := by
  unfold State.startTest
  split
  · exact h
  · exact (Keeps.joinTest (u := u) (k := k) (w := .tick) h).same

/-! ### Recovery -/

theorem Keeps.expireCut (h : s.Keeps t) {p : Nat} {c : Ctx} {k : Cut} : s.Keeps (t.expireCut p c k) := by
  unfold State.expireCut
  dsimp only
  refine State.Keeps.ite (Keeps.draw (Keeps.modCtx ?_)) ?_
  · split
    · exact h
    · exact Keeps.recovery h
  · exact Keeps.draw (Keeps.enterLevel3 (State.Keeps.ite (Keeps.modCtx h) h))

theorem Keeps.enterLevel5 (h : s.Keeps t) {l : Level} : s.Keeps (t.enterLevel5 l) := by
  unfold State.enterLevel5
  exact (Keeps.recovery h).same

theorem memWf_logicReset {st : Stage} (h : st.memWf = true) (a b : Nat) : (st.logicReset a b).memWf = true := by
  obtain ⟨h1, _, _, h4⟩ := memWf_iff.1 h
  unfold Stage.logicReset
  split
  · exact h
  · exact memWf_iff.2 ⟨h1, rfl, rfl, h4⟩

theorem memWf_dropUnsent {st : Stage} (h : st.memWf = true) : st.dropUnsent.memWf = true := memWf_modLinks h _

theorem memWf_engineReset {st : Stage} (h : st.memWf = true) : st.engineReset.memWf = true := by
  obtain ⟨h1, _, _, h4⟩ := memWf_iff.1 (memWf_dropUnsent h)
  exact memWf_iff.2 ⟨h1, rfl, rfl, h4⟩

theorem memWf_emptyLand {st : Stage} (h : st.memWf = true) : st.emptyLand.memWf = true := h

theorem memWf_cutStop {st : Stage} (h : st.memWf = true) : st.cutStop.memWf = true := by
  have h1 := memWf_dropUnsent (memWf_emptyLand h)
  exact h1

theorem Keeps.restartSplices (h : s.Keeps t) {n : Nat} : s.Keeps (t.restartSplices n) := by
  unfold State.restartSplices
  exact Keeps.tellStep (Keeps.modAllAcross (Keeps.modStage h (fun _ hs => memWf_modLinks hs _)))

theorem Keeps.releaseNow (h : s.Keeps t) {n : Nat} : s.Keeps (t.releaseNow n) := by
  unfold State.releaseNow
  dsimp only
  refine Keeps.modStage (Keeps.flushTrace ?_) (fun x hs => ?_)
  · split
    · exact h
    · exact State.Keeps.ite (Keeps.makeLit h) h
  split
  · exact memWf_unassign (memWf_zeroAll x)
  · exact memWf_unassign hs

theorem Keeps.hangTest (h : s.Keeps t) {c : Ctx} : s.Keeps (t.hangTest c) := by
  unfold State.hangTest
  split
  · exact h
  · split
    · exact h
    · exact State.Keeps.ite (Keeps.startTest h) h

theorem Keeps.resetFails (h : s.Keeps t) {k : Nat} {u : UnitId} : s.Keeps (t.resetFails k u) :=
  Keeps.lasting (Keeps.dropTest h)

end Sys2Proof.Machine
end

