-- ==== Sys2Proof/Laws/KeepsHost.lean ====
section
/-! SUPPORT. The operations of Control.lean, Ports.lean and Load.lean keep the queue, the serial, the key and the
invariant. -/

namespace Sys2Proof.Machine

set_option Elab.async false

open Sys2Proof

variable {s t : State}

/-! ### The control plane -/

/-- A command keeps what its effect keeps of every state it can start from. -/
theorem Keeps.command (h : s.Keeps t) {p : Port} {k : Nat} {ok : Bool} {f : State → State}
    (hf : ∀ u, s.Keeps u → s.Keeps (f u)) : s.Keeps (t.command p k ok f) := by
  have h1 : s.Keeps { t with slate := t.slate.setHand p true } := h.same
  unfold State.command
  exact State.Keeps.ite h (State.Keeps.ite (hf _ h1) (Keeps.log h1))

theorem inRange_zero : inRange 0 := ⟨by norm_num, by norm_num⟩

theorem Keeps.rediscipline (h : s.Keeps t) : s.Keeps t.rediscipline := by
  unfold State.rediscipline
  refine Keeps.discipline (State.Keeps.ite ?_ (State.Keeps.ite ?_ ?_))
  · refine (Keeps.kindHoldover h).timed (fun i => ?_) (fun _ => inRange_zero)
    dsimp only
    split
    · exact i.corr
    · exact inRange_yAge _
  · refine (Keeps.kindHoldover h).timed (fun i => ?_) (fun i => i.prev) (fun i => i.hour)
    dsimp only
    split
    · exact i.corr
    · exact inRange_yAge _
  · exact h.timed (fun _ => inRange_yAge t)

/-! ### Ports -/

theorem Keeps.malformed (h : s.Keeps t) {p : Port} {o : Nat} : s.Keeps (t.malformed p o) := Keeps.portEvent h

theorem Keeps.status (h : s.Keeps t) {p : Port} {a c k g : Nat} : s.Keeps (t.status p a c k g) := Keeps.modPort h

theorem Keeps.takeSlot (h : s.Keeps t) {x : Submission} {a : Nat} : s.Keeps (t.takeSlot x a) := by
  unfold State.takeSlot
  split
  · exact Keeps.status h
  · exact Keeps.status (h.same (h7 := List.length_set ..))

theorem Keeps.refuseSubmit (h : s.Keeps t) {p : Port} {r : SubmitResult} : s.Keeps (t.refuseSubmit p r) := by
  cases r
  · exact Keeps.malformed h
  · exact Keeps.status h
  · exact h

theorem Keeps.takeFetch (h : s.Keeps t) {p : Port} {f : Option Fetch} : s.Keeps (t.takeFetch p f).1 := by
  unfold State.takeFetch
  split
  · dsimp only
    exact Keeps.modPort h
  · exact h

theorem Keeps.cutAnswer (h : s.Keeps t) {p : Port} {i e : BitVec 8} {k c : Nat} : s.Keeps (t.cutAnswer p i e k c) :=
  Keeps.emit h

theorem Keeps.noteDelivery (h : s.Keeps t) : s.Keeps t.noteDelivery :=
  State.Keeps.ite h.same h

theorem Keeps.bindPort (h : s.Keeps t) {p : Port} {r : Ring} : s.Keeps (t.bindPort p r) := Keeps.modPort h

/-! ### Loading -/

theorem Keeps.refuseSlot (h : s.Keeps t) {k : Nat} {r : Refused} {x : List Byte} : s.Keeps (t.refuseSlot k r x) := by
  unfold State.refuseSlot
  split
  · exact h.same
  · exact (Keeps.emit h).same (h7 := List.length_set ..)

theorem Keeps.acceptReel (h : s.Keeps t) {k p o : Nat} {x : Submission} {r : Reel} :
    s.Keeps (t.acceptReel k p o x r) := by
  unfold State.acceptReel
  exact (Keeps.emit (Keeps.modStages (Keeps.putCtx h))).same (h7 := List.length_set ..)

theorem memWf_loadScript {st : Stage} (h : st.memWf = true) (b : List Byte) (w : Nat) :
    (st.loadScript b w).memWf = true := by
  obtain ⟨h1, h2, h3, _⟩ := memWf_iff.1 h
  exact memWf_iff.2 ⟨h1, h2, h3, cellSetList_wf rfl⟩

theorem memWf_loadLines {st : Stage} (h : st.memWf = true) (k n : Nat) (b : List Byte) :
    (st.loadLines k n b).memWf = true := by
  obtain ⟨h1, h2, h3, h4⟩ := memWf_iff.1 h
  exact memWf_iff.2 ⟨cellSetList_wf h1, h2, h3, h4⟩

theorem memWf_loadFrom {st : Stage} (h : st.memWf = true) (r : Reel) (a b : Nat) (x : List Byte)
    (y : List (List Byte)) : (st.loadFrom r a b x y).memWf = true := by
  unfold Stage.loadFrom
  split
  · exact h
  · refine memWf_fold (fun u g hx => ?_) _ (memWf_loadScript h _ _)
    obtain ⟨g, i⟩ := g
    dsimp only
    split
    · exact memWf_loadLines hx _ _ _
    · exact hx

end Sys2Proof.Machine
end

