-- ==== Sys2Proof/Laws/KeepsShots.lean ====
section
/-! SUPPORT. The operations of Operands.lean, Matrix.lean, Vector.lean, Shots.lean and Splice.lean keep the queue, the serial,
the key and the invariant; a shot's effect keeps its stage's memories canonical. -/

namespace Sys2Proof.Machine

set_option Elab.async false

open Sys2Proof

variable {s t : State}

/-! ### Lines through the journal -/

theorem memWf_writeLine {st x : Stage} (h : st.memWf = true) {a : Bool} {p n : Nat} {l : Line}
    (hx : st.writeLine a p n l = some x) : x.memWf = true := by
  unfold Stage.writeLine at hx
  dsimp only at hx
  split at hx
  · cases hx; exact memWf_putScratch h _ _
  · split at hx
    · cases hx
    · cases hx; exact memWf_putScratch (st := { st with journal := _ }) h _ _

theorem memWf_writeLines {a : Bool} {p : Nat} (ls : List Line) : ∀ {st x : Stage} {n : Nat}, st.memWf = true →
    st.writeLines a p n ls = some x → x.memWf = true := by
  induction ls with
  | nil => intro st x n h hx; cases hx; exact h
  | cons l ls ih =>
    intro st x n h hx
    rw [Stage.writeLines] at hx
    obtain ⟨y, hy, hz⟩ := Option.bind_eq_some_iff.1 hx
    exact ih (memWf_writeLine h hy) hz

theorem memWf_writeRange {st x : Stage} (h : st.memWf = true) {a : Bool} {r : LineRange} {ls : List Line}
    (hx : st.writeRange a r ls = some x) : x.memWf = true := memWf_writeLines ls h hx

/-! ### Tiles -/

theorem memWf_putResid {st : Stage} (h : st.memWf = true) (k : Nat) (xs : List (BitVec 3)) :
    ({ st with resid := cellSetList st.resid k xs } : Stage).memWf = true := by
  obtain ⟨h1, h2, h3, h4⟩ := memWf_iff.1 h
  exact memWf_iff.2 ⟨h1, h2, cellSetList_wf h3, h4⟩

theorem memWf_putHalf {st : Stage} (h : st.memWf = true) (e k : Nat) (xs : List (BitVec 32)) :
    (st.putHalf e k xs).memWf = true := by
  obtain ⟨h1, h2, h3, h4⟩ := memWf_iff.1 h
  exact memWf_iff.2 ⟨h1, cellSetList_wf h2, cellSetList_wf h3, h4⟩

theorem memWf_putTile {st : Stage} (h : st.memWf = true) (e k : Nat) (w : Bool) (xs : List Nat) :
    (st.putTile e k w xs).memWf = true := by
  unfold Stage.putTile
  dsimp only
  split
  · exact memWf_putHalf (memWf_putHalf h _ _ _) _ _ _
  · exact memWf_putHalf h _ _ _

theorem memWf_count {st : Stage} (h : st.memWf = true) (a : Bool) (rs : List ElemRes) : (st.count a rs).memWf = true := by
  cases a <;> exact h

theorem memWf_launch {st : Stage} (h : st.memWf = true) (p : Plan) (q : Seq) (k : Nat) : (st.launch p q k).memWf = true := h

theorem memWf_zeroTiles {st : Stage} (h : st.memWf = true) (e k c : Nat) : (st.zeroTiles e k c).memWf = true :=
  memWf_fold (fun _ _ hx => memWf_putHalf hx _ _ _) _ h

/-! ### The effects of shots -/

/-- A shot's effect leaves a canonical stage canonical. -/
def EffectWf (e : Seq → Ctx → ShotEffect) : Prop :=
  ∀ q c st a x, st.memWf = true → e q c st a = some x → x.memWf = true

theorem mmaEffect_wf {f : MmaFields} {n : Nat} : EffectWf (fun q c => mmaEffect f q (c.stagingOf n)) := by
  intro q c st a x h hx
  dsimp only [mmaEffect] at hx
  split at hx
  · cases hx
    refine memWf_count ?_ _ _
    split
    · exact memWf_putResid (memWf_putTile h _ _ _ _) _ _
    · exact memWf_putTile h _ _ _ _
  · cases hx

theorem loadEffect_wf {f : AccFields} {n : Nat} : EffectWf (fun q c => loadEffect f q (c.stagingOf n)) := by
  intro q c st a x h hx
  dsimp only [loadEffect] at hx
  split at hx
  · cases hx; exact memWf_putTile h _ _ _ _
  · cases hx

theorem addEffect_wf {f : AccFields} {n : Nat} : EffectWf (fun q c => addEffect f q (c.stagingOf n)) := by
  intro q c st a x h hx
  dsimp only [addEffect] at hx
  split at hx
  · cases hx
    refine memWf_count ?_ _ _
    split
    · exact memWf_putResid (memWf_putTile h _ _ _ _) _ _
    · exact memWf_putTile h _ _ _ _
  · cases hx

theorem storeEffect_wf {f : AccFields} {n : Nat} {o : BitVec 4} {r k : Bool} :
    EffectWf (fun q c => storeEffect f n o r k q c) := by
  intro q c st a x h hx
  dsimp only [storeEffect] at hx
  split at hx
  · obtain ⟨y, hy, rfl⟩ := Option.map_eq_some_iff.1 hx
    exact memWf_count (memWf_writeRange h hy) _ _
  · cases hx

theorem zeroEffect_wf {e k c : Nat} : EffectWf (fun _ _ st _ => some (st.zeroTiles e k c)) := by
  intro _ _ st a x h hx
  cases hx; exact memWf_zeroTiles h _ _ _

theorem moveEffect_wf {f g : Seq → Ctx → Option LineRange} : EffectWf (fun q c => moveEffect (f q c) (g q c)) := by
  intro q c st a x h hx
  dsimp only [moveEffect] at hx
  split at hx
  · exact memWf_writeRange h hx
  · cases hx

theorem fillEffect_wf {f : Seq → Ctx → Option LineRange} {l : LineRange → List Line} :
    EffectWf (fun q c st a => (f q c).bind (fun r => st.writeRange a r (l r))) := by
  intro q c st a x h hx
  obtain ⟨y, _, hz⟩ := Option.bind_eq_some_iff.1 hx
  exact memWf_writeRange h hz

theorem cvtEffect_wf {f : CvtFields} {n : Nat} : EffectWf (fun q c => cvtEffect f n q c) := by
  intro q c st a x h hx
  dsimp only [cvtEffect] at hx
  split at hx
  · obtain ⟨y, hy, rfl⟩ := Option.map_eq_some_iff.1 hx
    exact memWf_count (memWf_writeRange h hy) _ _
  · cases hx

theorem vecEffect_wf {f : VecFields} {k : Bool} {op : TileOp} : EffectWf (fun q _ => vecEffect f k op q) := by
  intro q _ st a x h hx
  dsimp only [vecEffect] at hx
  split at hx
  · cases hx
    split
    · exact memWf_count (memWf_putTile h _ _ _ _) _ _
    · exact memWf_putTile h _ _ _ _
  · cases hx

theorem memWf_stageOutput {st : Stage} (h : st.memWf = true) (g e : Nat) (o : OutEntry) (p : Nat) (ls : List Line) :
    (st.stageOutput g e o p ls).memWf = true := memWf_putScratch (st := { st with staged := _ }) h _ _

/-! ### Issue -/

theorem Keeps.journalFull (h : s.Keeps t) {n : Nat} {d : Dest} {i : BitVec 32} {a : Bool} :
    s.Keeps (t.journalFull n d i a) := Keeps.failStageCtx (Keeps.errorEvent h)

theorem issuer_stage {n : Nat} {x : Stage × Nat × Ctx} (h : t.issuer n = some x) : t.stage n = some x.1 := by
  unfold State.issuer at h
  split at h
  · rename_i st p c h1 h2
    split at h
    · cases h; exact h1
    · cases h
  · cases h

theorem Keeps.issueTo (h : s.Keeps t) {n : Nat} {b : Instr} {plan : Seq → Nat → Option Plan}
    {effect : Seq → Ctx → ShotEffect} (he : EffectWf effect) : s.Keeps (t.issueTo n b plan effect) := by
  unfold State.issueTo
  split
  · exact h
  · rename_i st p c hi
    split
    · exact h
    · exact Keeps.scriptError h
    · split
      · exact Keeps.failStageCtx h
      · refine State.Keeps.ite h ?_
        split
        · exact Keeps.journalFull h
        · rename_i x hx
          exact Keeps.putStage h (fun hm => memWf_launch (he _ _ _ _ _ (stage_memWf (issuer_stage hi) hm) hx) _ _ _)

theorem Keeps.vector (h : s.Keeps t) {n : Nat} {b : Instr} {f : VecFields} {k c : Bool} {op : TileOp} :
    s.Keeps (t.vector n b f k c op) := Keeps.issueTo h vecEffect_wf

theorem Keeps.sequence (h : s.Keeps t) {n : Nat} {b : Instr} {act : Stage → Nat → Ctx → State}
    (ha : ∀ st p c, t.issuer n = some (st, p, c) → s.Keeps (act st p c)) : s.Keeps (t.sequence n b act) := by
  unfold State.sequence
  split
  · exact h
  · rename_i st p c hi
    split
    · exact h
    · exact Keeps.scriptError h
    · exact ha st p c hi

theorem Keeps.sequenced (h : s.Keeps t) {n : Nat} {f : Seq → Seq} : s.Keeps (t.sequenced n f) := by
  unfold State.sequenced
  exact Keeps.modStage h

/-! ### Receiving -/

theorem memWf_drainBeat {st x : Stage} (h : st.memWf = true) {d : Side} {f : Flight} {r : LineRange} {b : BitVec 2048}
    {l : List (BitVec 2048)} (hx : st.drainBeat d f r b l = some x) : x.memWf = true := by
  obtain ⟨y, hy, rfl⟩ := Option.map_eq_some_iff.1 hx
  exact memWf_putLand (memWf_writeRange h hy) d l

theorem Keeps.drainSide {n : Nat} {d : Side} (k : Nat) : ∀ {t : State}, s.Keeps t → s.Keeps (t.drainSide n d k) := by
  induction k with
  | zero => intro t h; exact h
  | succ k ih =>
    intro t h
    rw [State.drainSide]
    split
    · exact h
    · rename_i st hst
      split
      · split
        · exact Keeps.journalFull h
        · rename_i x hx
          exact ih (Keeps.putStage h (fun hm => memWf_drainBeat (stage_memWf hst hm) hx))
      · exact h

theorem Keeps.drainRecv (h : s.Keeps t) {n : Nat} {d : Side} : s.Keeps (t.drainRecv n d) := by
  unfold State.drainRecv
  split
  · exact h
  · exact Keeps.drainSide _ h

theorem memWf_retireShot {st : Stage} (h : st.memWf = true) (f : Flight) : (st.retireShot f).memWf = true := h

theorem Keeps.takeSignal (h : s.Keeps t) {n : Nat} {k : BitVec 5} {i f : BitVec 16} {x : BitVec 4} :
    s.Keeps (t.takeSignal n k i f x) := by
  unfold State.takeSignal
  split
  · rename_i st _ _ hst _
    refine State.Keeps.ite h ?_
    split
    · exact h
    · exact Keeps.restage h hst
    · dsimp only
      exact State.Keeps.ite (Keeps.failStageCtx h) (Keeps.restage h hst)
  · exact h

theorem memWf_copyOut {st : Stage} (h : st.memWf = true) (n : Nat) (c : Ctx) (f : Flight) :
    (st.copyOut n c f).memWf = true := by
  unfold Stage.copyOut
  split
  · split
    · exact h
    · exact memWf_stageOutput h _ _ _ _ _
  · exact h

/-! ### Splices -/

theorem memWf_work {st : Stage} {w : Work} (h : st.memWf = true) : Stage.memWf { st with work := w } = true := h

theorem memWf_flights {st : Stage} {l : List Flight} (h : st.memWf = true) : Stage.memWf { st with flights := l } = true := h

theorem Keeps.countBeat (h : s.Keeps t) {e : End} : s.Keeps (t.countBeat e) :=
  State.Keeps.ite h (Keeps.modStage h (fun _ hs => memWf_work hs))

theorem Keeps.writeBeat (h : s.Keeps t) {r : End} {f : BitVec 2048} {g : BitVec 64} : s.Keeps (t.writeBeat r f g) := by
  have h1 : ∀ a b, s.Keeps ((t.modEnd r a).modEnd r.across b) := fun _ _ => Keeps.modEnd (Keeps.modEnd h)
  unfold State.writeBeat
  split
  · exact State.Keeps.ite h (State.Keeps.ite (Keeps.countBeat (h1 _ _)) (h1 _ _))
  · exact h

theorem Keeps.takeControl (h : s.Keeps t) {r : End} {l : Link} {c : Control} : s.Keeps (t.takeControl r l c) := by
  have h1 : ∀ f, s.Keeps (t.modEnd r f) := fun _ => Keeps.modEnd h
  unfold State.takeControl
  exact State.Keeps.ite (h1 _) (Keeps.modStage (h1 _) (fun _ hs => memWf_flights hs))

theorem Keeps.takePayload (h : s.Keeps t) {r : End} {d : BitVec 2048} : s.Keeps (t.takePayload r d) := by
  have h1 : s.Keeps ((t.modEnd r (fun l => { l with rxSeq := l.rxSeq + 1, nak := false })).countBeat r) :=
    Keeps.countBeat (Keeps.modEnd h)
  unfold State.takePayload
  dsimp only
  refine State.Keeps.ite h1 ?_
  have h2 : s.Keeps (((t.modEnd r (fun l => { l with rxSeq := l.rxSeq + 1, nak := false })).countBeat r).modStage r.stage
      (fun st => st.putLand r.side (st.land r.side ++ [d]))) := Keeps.modStage h1 (fun _ hs => memWf_putLand hs _ _)
  split
  · exact h2
  · exact State.Keeps.ite (Keeps.drainRecv h2) h2

theorem Keeps.readBeat (h : s.Keeps t) {r : End} : s.Keeps (t.readBeat r) := by
  have h1 : ∀ f, s.Keeps (t.modEnd r f) := fun _ => Keeps.modEnd h
  unfold State.readBeat
  split
  · exact h
  · split
    · exact h
    · dsimp only
      refine State.Keeps.ite (Keeps.takePayload (h1 _)) (State.Keeps.ite ?_ (Keeps.modEnd (h1 _)))
      exact State.Keeps.ite (Keeps.modEnd (h1 _)) (Keeps.takeControl (h1 _))

theorem Keeps.beat (h : s.Keeps t) {r : End} {f : BitVec 2048} {g : BitVec 64} : s.Keeps (t.beat r f g) := by
  have h1 : s.Keeps (if t.edgesAt r.across then t.writeBeat r f g else t) := State.Keeps.ite (Keeps.writeBeat h) h
  unfold State.beat
  exact State.Keeps.ite (State.Keeps.ite (Keeps.readBeat h1) h1) h

theorem Keeps.drainTo1 {r : End} : ∀ {fuel : Nat} {t : State}, s.Keeps t → s.Keeps (t.drainTo1 r fuel)
  | 0, _, h => h
  | fuel + 1, t, h => by
    unfold State.drainTo1
    split
    · exact h
    · exact State.Keeps.ite (Keeps.drainTo1 (fuel := fuel) (Keeps.readBeat h)) h

theorem Keeps.realignSide (h : s.Keeps t) {r : End} : s.Keeps (t.realignSide r) := by
  have h1 : s.Keeps (t.drainTo1 r 16) := Keeps.drainTo1 h
  unfold State.realignSide
  dsimp only
  split
  · exact h1
  · exact State.Keeps.ite (Keeps.writeBeat h1) h1

theorem Keeps.exchangeMap (h : s.Keeps t) {w : End} {g : BitVec 8} {m : List (Nat × Nat)} :
    s.Keeps (t.exchangeMap w g m) := Keeps.modEnd (Keeps.modEnd h)

end Sys2Proof.Machine
end

