-- ==== Sys2Proof/Laws/KeepsTime.lean ====
section
/-! SUPPORT. The operations of Boot.lean, Power.lean, Timebase.lean, RingTime.lean, Ring.lean and Spine.lean keep the queue,
the serial, the key and the invariant. -/

namespace Sys2Proof.Machine

set_option Elab.async false

open Sys2Proof

variable {s t : State}

/-! ### Boot -/

theorem Keeps.readIdentity (h : s.Keeps t) {b : List FlashArea} : s.Keeps (t.readIdentity b) := by
  unfold State.readIdentity
  split
  · exact h.same
  · exact h.same

theorem zip_memWf {α : Type} {f : Stage × α → Stage} (hf : ∀ x, x.1.memWf = true → (f x).memWf = true) {l : List Stage}
    (h : ∀ st ∈ l, st.memWf = true) (m : List α) : ∀ st ∈ (l.zip m).map f, st.memWf = true := by
  intro st hs
  obtain ⟨⟨a, b⟩, hx, rfl⟩ := List.mem_map.1 hs
  exact hf _ (h a (List.of_mem_zip hx).1)

theorem memWf_takeLedger {st : Stage} (h : st.memWf = true) (e : LedgerEntry) : (st.takeLedger e).memWf = true := h

theorem Keeps.readLedger (h : s.Keeps t) {b : List FlashArea} : s.Keeps (t.readLedger b) := by
  unfold State.readLedger
  dsimp only
  refine h.stages (fun hm => ?_) (by simp)
  exact zip_memWf (f := fun x : Stage × (LedgerEntry × Bool) => x.1.takeLedger x.2.1)
    (fun _ hx => memWf_takeLedger hx _) hm _

/-- A days-in-service copy that passes its check has an hour count below 24 (R234). -/
theorem daysOf_hour {bs : List Byte} {d : Days} (h : daysOf bs = some d) : d.hour < 24 := by
  unfold daysOf at h
  split at h
  · rename_i hc
    cases h
    exact hc.2.1
  · cases h

/-- The copy in use is one of the two. -/
theorem newerCopy_some {α : Type} {seq : α → Nat} {a b : Option α} {x : α} {i : Bool}
    (h : newerCopy seq a b = some (x, i)) : a = some x ∨ b = some x := by
  unfold newerCopy at h
  split at h
  · split at h <;> cases h
    · exact .inr rfl
    · exact .inl rfl
  · cases h; exact .inl rfl
  · simp only [Option.map_eq_some_iff, Prod.mk.injEq] at h
    obtain ⟨y, hy, rfl, -⟩ := h
    exact .inr hy

theorem daysInUse_hour {f : Flash} {d : Days} {i : Bool} (h : daysInUse f = some (d, i)) : d.hour < 24 := by
  rcases newerCopy_some h with h | h <;> exact daysOf_hour h

theorem Keeps.readDays (h : s.Keeps t) {b : List FlashArea} : s.Keeps (t.readDays b) := by
  unfold State.readDays
  dsimp only
  split
  · rename_i hd
    exact h.timed (hh := fun _ => daysInUse_hour (d := _) hd)
  · exact h.timed (hh := fun _ => Nat.zero_lt_succ _)

theorem Keeps.readChain (h : s.Keeps t) {b : List FlashArea} : s.Keeps (t.readChain b) := by
  unfold State.readChain
  dsimp only
  split
  · exact h.same
  · exact h.same

theorem memWf_applyRet {st : Stage} (h : st.memWf = true) (r : RetStage) : (st.applyRet r).memWf = true := h

theorem zipIdx_memWf {f : Stage × Nat → Stage} (hf : ∀ x, x.1.memWf = true → (f x).memWf = true) {l : List Stage}
    (h : ∀ st ∈ l, st.memWf = true) : ∀ st ∈ l.zipIdx.map f, st.memWf = true := by
  intro st hs
  obtain ⟨x, hx, rfl⟩ := List.mem_map.1 hs
  exact hf _ (h _ (List.fst_mem_of_mem_zipIdx hx))

theorem Keeps.rebar (h : s.Keeps t) : s.Keeps t.rebar := by
  unfold State.rebar
  dsimp only
  refine State.Keeps.fold (fun u n k => ?_) _ ?_
  · split
    · exact k
    · exact State.Keeps.ite (Keeps.modAllAcross k) k
  · exact h.mapped (f := fun st => st.modLinks (fun l => { l with barred := false })) (by with_reducible rfl)
      (fun _ hs => memWf_modLinks hs _) (h13 := List.length_map ..)

theorem Keeps.applyRecord (h : s.Keeps t) {o : Option RetRecord} : s.Keeps (t.applyRecord o) := by
  unfold State.applyRecord
  split
  · exact h.stages (fun hm => zipIdx_memWf (fun _ hs => memWf_applyRet hs _) hm) (by simp) (h13 := List.length_map ..)
  · refine h.stages (fun hm => zipIdx_memWf (fun x hs => ?_) hm) (by simp) (h13 := by simp)
    obtain ⟨st, n⟩ := x
    dsimp only
    split
    · exact hs
    · exact memWf_applyRet hs _

theorem Keeps.readRetired (h : s.Keeps t) {b : List FlashArea} : s.Keeps (t.readRetired b) := by
  have h1 : ∀ o, s.Keeps (t.applyRecord o).rebar := fun _ => Keeps.rebar (Keeps.applyRecord h)
  unfold State.readRetired
  dsimp only
  refine State.Keeps.ite ?_ ?_
  · exact h.mapped (f := fun st =>
        (st.applyRet rebuiltRet).modLinks (fun l => { l with failed := false, elastic := false, barred := false }))
      (by with_reducible rfl) (fun _ hs => memWf_modLinks (memWf_applyRet hs _) _) (h13 := List.length_map ..)
  · exact State.Keeps.ite (h1 _).same (State.Keeps.ite (h1 _).same (h1 _))

theorem Keeps.readTables (h : s.Keeps t) {b : List FlashArea} : s.Keeps (t.readTables b) := h.same

theorem Keeps.recheckHeld (h : s.Keeps t) {b : List Nat} {x : Nat} : s.Keeps (t.recheckHeld b x) := by
  unfold State.recheckHeld
  refine State.Keeps.ite (State.Keeps.ite ?_ ?_) h
  · exact State.Keeps.fold (fun _ _ k => Keeps.holdStage (Keeps.modStage k)) _ (Keeps.modRail h)
  · exact Keeps.modStages (Keeps.modRail h)

/-! ### Rails -/

theorem Keeps.stageOffset (h : s.Keeps t) {x n : Nat} : s.Keeps (t.stageOffset x n) :=
  Keeps.joinTest (Keeps.errorEvent h)

theorem Keeps.checkSense (h : s.Keeps t) {m : List Nat} {x : Nat} {r : Option (Nat × Nat)} :
    s.Keeps (t.checkSense m x r) := by
  unfold State.checkSense
  split
  · exact Keeps.modRail h
  · dsimp only
    refine State.Keeps.ite (State.Keeps.ite (Keeps.modRail h) ?_) ?_
    · exact State.Keeps.ite (Keeps.brokenSense (Keeps.modRail h)) (Keeps.modRail h)
    · split
      · exact Keeps.modRail h
      · exact State.Keeps.ite (Keeps.stageOffset (Keeps.modRail h)) (Keeps.modRail h)

theorem Keeps.settleRecheck (h : s.Keeps t) {x : Nat} {p : Bool} {a : List Nat} {k : Test} :
    s.Keeps (t.settleRecheck x p a k) := by
  unfold State.settleRecheck
  split
  · exact Keeps.classify h
  · exact Keeps.classify h
  · exact State.Keeps.ite h (Keeps.brokenSense h)
  · exact h

/-- The limit that an update chooses is 1 to 16. -/
theorem chooseLimit_range {b : Nat → Rat} {hs : List Rat} {p : Nat} {c : Rat} :
    1 ≤ (chooseLimit b hs p c).getD 1 ∧ (chooseLimit b hs p c).getD 1 ≤ 16 := by
  cases hc : chooseLimit b hs p c with
  | none => decide
  | some l =>
    have hm := List.mem_of_find?_eq_some hc
    simp only [List.mem_map, List.mem_reverse, List.mem_range] at hm
    obtain ⟨k, hk, rfl⟩ := hm
    simp only [Option.getD_some]; omega

theorem Keeps.evaluate (h : s.Keeps t) {x : Nat} : s.Keeps (t.evaluate x) :=
  Keeps.modRail (State.Keeps.ite h (Keeps.setVolt h))

/-! ### PPS -/

theorem Keeps.inputEdge (h : s.Keeps t) {i k : Nat} : s.Keeps (t.inputEdge i k) := by
  unfold State.inputEdge
  split
  · exact h
  · exact h.same
  · exact Keeps.measure h.same

theorem inRange_hourCorr (h : inRange t.time.corr) : inRange t.hourCorr := by
  unfold State.hourCorr
  split
  · exact inRange_clampPpb _
  · split
    · exact h
    · exact inRange_yAge t

theorem Keeps.ppsAcquire (h : s.Keeps t) {x : Int} : s.Keeps (t.ppsAcquire x).1 := by
  unfold State.ppsAcquire
  dsimp only
  split
  · exact h.timed
  · split
    · exact h.timed (fun _ => inRange_clampPpb _) (fun i => i.corr)
    · exact h.timed

theorem Keeps.ppsRun (h : s.Keeps t) {a x : Int} : s.Keeps (t.ppsRun a x) := by
  unfold State.ppsRun
  exact State.Keeps.ite h.timed (State.Keeps.ite h.timed (h.timed (fun _ => inRange_clampPpb _) (fun i => i.corr)))

theorem Keeps.ppsTake (h : s.Keeps t) {b : Bool} {x : Int} : s.Keeps (t.ppsTake b x) := by
  unfold State.ppsTake
  dsimp only
  refine State.Keeps.ite h.timed (State.Keeps.ite (Keeps.ppsRun h) ?_)
  exact State.Keeps.ite (Keeps.discipline (Keeps.ppsAcquire h)) (Keeps.ppsAcquire h)

theorem kindHoldover_prev (t : State) : t.kindHoldover.time.pps.prevCorr = t.time.pps.prevCorr := by
  unfold State.kindHoldover; split <;> rfl

theorem Keeps.losePps (h : s.Keeps t) : s.Keeps t.losePps := by
  unfold State.losePps
  refine State.Keeps.ite (Keeps.discipline ?_) (Keeps.discipline ?_)
  · exact (Keeps.kindHoldover h).timed (fun i => kindHoldover_prev t ▸ i.prev) (fun i => kindHoldover_prev t ▸ i.prev)
  · exact h.timed (fun _ => inRange_yAge _)

/-! ### Ring time -/

theorem Keeps.ringSend (h : s.Keeps t) {p : RingPort} {o : RingOut} : s.Keeps (t.ringSend p o) := Keeps.modRing h

theorem Keeps.followSync (h : s.Keeps t) {p : RingPort} {m : SyncMsg} {v : Slave} : s.Keeps (t.followSync p m v) :=
  h.timed

theorem Keeps.countDiscards (h : s.Keeps t) {p : RingPort} {k : Nat} : s.Keeps (t.countDiscards p k) := Keeps.modRing h

theorem Keeps.sendPtp (h : s.Keeps t) {p : RingPort} {a : Nat} {b : BitVec 16} {c : Nat} : s.Keeps (t.sendPtp p a b c) := Keeps.ringSend h

theorem Keeps.answerDelay (h : s.Keeps t) {p : RingPort} {m : PtpMsg} {k : Nat} : s.Keeps (t.answerDelay p m k) :=
  Keeps.ringSend h

theorem Keeps.askParent (h : s.Keeps t) {p : RingPort} {k : Nat} : s.Keeps (t.askParent p k) := by
  have h1 : s.Keeps ((t.sendPtp p 0x1 (t.ring p).reqSeq 0).modRing p (fun r => { r with reqSeq := (t.ring p).reqSeq + 1 })) :=
    Keeps.modRing (Keeps.sendPtp h)
  unfold State.askParent
  exact h1.timed

theorem Keeps.takeSync (h : s.Keeps t) {p : RingPort} {m : SyncMsg} {x y : Nat} : s.Keeps (t.takeSync p m x y) := by
  unfold State.takeSync
  dsimp only
  exact State.Keeps.ite
    (Keeps.askParent (State.Keeps.ite (Keeps.discipline (Keeps.followSync h)) (Keeps.followSync h)))
    (State.Keeps.ite (Keeps.discipline (Keeps.followSync h)) (Keeps.followSync h))

theorem inRange_ite {c : Prop} [Decidable c] {a b : Rat} (ha : inRange a) (hb : inRange b) :
    inRange (if c then a else b) := by split <;> assumption

theorem inRange_servoStep {y o l : Rat} : inRange (servoStep y o l) := inRange_clampPpb _

theorem Keeps.useExchange (h : s.Keeps t) {d o : Rat} : s.Keeps (t.useExchange d o) := by
  unfold State.useExchange
  exact h.timed (fun i => inRange_ite inRange_servoStep i.corr) (fun i => i.prev) (fun i => i.hour)

theorem Keeps.slave (h : s.Keeps t) {v : Slave} : s.Keeps { t with time := { t.time with slave := v } } :=
  h.timed (fun i => i.corr) (fun i => i.prev) (fun i => i.hour)

theorem Keeps.exchange (h : s.Keeps t) {x : SyncSeen} {a b : Nat} : s.Keeps (t.exchange x a b) := by
  unfold State.exchange
  dsimp only
  split
  · exact Keeps.slave h
  · exact Keeps.useExchange (Keeps.slave h)

theorem Keeps.stepTime (h : s.Keeps t) {b : Int} {r : Nat} : s.Keeps (t.stepTime b r) := by
  unfold State.stepTime
  dsimp only
  refine Keeps.emit ?_
  have hf : ∀ (st : Stage) (w : WaferTime) (k : Clock), st.memWf = true →
      Stage.memWf { st with island := w, clock := k } = true := fun _ _ _ hs => hs
  refine h.stages (fun hm st hs => ?_) (List.length_map ..)
  obtain ⟨x, hx, rfl⟩ := List.mem_map.1 hs
  exact hf x _ _ (hm x hx)

theorem Keeps.slaveHold (h : s.Keeps t) : s.Keeps t.slaveHold := by
  unfold State.slaveHold
  exact (Keeps.kindHoldover h).timed

theorem Keeps.waitStep (h : s.Keeps t) {b : Int} : s.Keeps (t.waitStep b) := by
  unfold State.waitStep
  exact State.Keeps.ite h.timed (State.Keeps.ite h (Keeps.discipline (Keeps.slaveHold h)))

theorem Keeps.chainEdge (h : s.Keeps t) {w : WaferTime} {k : Nat} : s.Keeps (t.chainEdge w k) := by
  unfold State.chainEdge
  dsimp only
  split
  · exact h.timed
  · exact State.Keeps.ite (Keeps.errorEvent (Keeps.discipline h.timed)) h.timed

/-! ### The ring -/

theorem Keeps.ringEvent (h : s.Keeps t) {p : RingPort} {u : Option UnitId} : s.Keeps (t.ringEvent p u) :=
  Keeps.errorEvent h

theorem Keeps.failRing (h : s.Keeps t) {p : RingPort} : s.Keeps (t.failRing p) := by
  unfold State.failRing
  exact Keeps.ringEvent ((Keeps.modRing (Keeps.modRing h)).same)

theorem Keeps.requestMap (h : s.Keeps t) {p : RingPort} {m : BitVec 16} : s.Keeps (t.requestMap p m) := by
  unfold State.requestMap
  exact State.Keeps.ite (Keeps.failRing h) (Keeps.modRing h)

theorem Keeps.leaveTime (h : s.Keeps t) : s.Keeps t.leaveTime :=
  (Keeps.kindHoldover h).timed (fun _ => inRange_yAge t)

theorem Keeps.duplicateSeen (h : s.Keeps t) {f : StatusFrame} : s.Keeps (t.duplicateSeen f) := by
  have h1 : s.Keeps (if t.isSlave = true then t.leaveTime else t) := State.Keeps.ite (Keeps.leaveTime h) h
  unfold State.duplicateSeen
  exact State.Keeps.ite h (Keeps.log h1.same)

theorem Keeps.answerMap (h : s.Keeps t) {p : RingPort} {f : StatusFrame} : s.Keeps (t.answerMap p f) := by
  unfold State.answerMap
  exact Keeps.ringSend (Keeps.modRing h)

theorem Keeps.mapSwitch (h : s.Keeps t) {p : RingPort} {f : StatusFrame} : s.Keeps (t.mapSwitch p f) := by
  unfold State.mapSwitch
  exact State.Keeps.ite h (State.Keeps.ite (State.Keeps.ite (Keeps.answerMap h) (Keeps.requestMap (Keeps.answerMap h)))
    (State.Keeps.ite (Keeps.modRing h) h))

theorem Keeps.takeStatus (h : s.Keeps t) {p : RingPort} {f : StatusFrame} : s.Keeps (t.takeStatus p f) := by
  unfold State.takeStatus
  dsimp only
  have h1 := fun b : Prop => fun [Decidable b] => Keeps.mapSwitch (p := p) (f := f)
    (State.Keeps.ite (c := b) (Keeps.duplicateSeen (f := f) h) h)
  exact State.Keeps.ite (h1 _) (Keeps.ringSend (h1 _))

/-! ### Spines -/

theorem Keeps.putSpine (h : s.Keeps t) {x : SpineSeg} : s.Keeps (t.putSpine x) := h.same

theorem Keeps.putFlit (h : s.Keeps t) {k : Nat} {b : Bool} {f : BitVec 128} {d : Option Line} :
    s.Keeps (t.putFlit k b f d) := h.same

theorem Keeps.sendFlit (h : s.Keeps t) {k : Nat} {b : Bool} {f : FlitHeader} : s.Keeps (t.sendFlit k b f) :=
  Keeps.putFlit h

theorem Keeps.respond (h : s.Keeps t) {n : Nat} {f : FlitHeader} {d : Option Line} : s.Keeps (t.respond n f d) :=
  Keeps.putFlit h

theorem Keeps.takeAtBlock (h : s.Keeps t) {a b : Nat} {f : FlitHeader} {w : BitVec 128} :
    s.Keeps (t.takeAtBlock a b f w) := by
  unfold State.takeAtBlock
  split
  · exact h
  · exact State.Keeps.ite (Keeps.sendFlit h.same) h.same

theorem memWf_storeLine {st : Stage} (h : st.memWf = true) (p n : Nat) (d : Line) :
    (st.storeLine p n d).memWf = true := memWf_putScratch h _ _

theorem Keeps.takeRequest (h : s.Keeps t) {n : Nat} {st : Stage} (hst : t.stage n = some st) {f : FlitHeader}
    {d : Line} : s.Keeps (t.takeRequest n st f d) := by
  unfold State.takeRequest
  refine State.Keeps.ite (Keeps.respond h) (State.Keeps.ite (Keeps.respond ?_) (Keeps.respond h))
  exact State.Keeps.ite (Keeps.putStage h fun hm => memWf_storeLine (stage_memWf hst hm) _ _ _) h

end Sys2Proof.Machine
end

