-- ==== Sys2Proof/Laws/State.lean ====
section
/-! SUPPORT. State's named updates: for each, what every field is after it, true by `rfl`; and the reads of a stage, a
context, a port or a ring port after an update. Made by a script from the field list of State. -/

namespace Sys2Proof.Machine

set_option Elab.async false

open Sys2Proof

variable (s : State)

/-! ### modStage -/

@[simp] theorem State.modStage_pins (n : Nat) (f : Stage → Stage) : (s.modStage n f).pins = s.pins := rfl
@[simp] theorem State.modStage_serial (n : Nat) (f : Stage → Stage) : (s.modStage n f).serial = s.serial := rfl
@[simp] theorem State.modStage_signKey (n : Nat) (f : Stage → Stage) : (s.modStage n f).signKey = s.signKey := rfl
@[simp] theorem State.modStage_straps (n : Nat) (f : Stage → Stage) : (s.modStage n f).straps = s.straps := rfl
@[simp] theorem State.modStage_slate (n : Nat) (f : Stage → Stage) : (s.modStage n f).slate = s.slate := rfl
@[simp] theorem State.modStage_time (n : Nat) (f : Stage → Stage) : (s.modStage n f).time = s.time := rfl
@[simp] theorem State.modStage_trims (n : Nat) (f : Stage → Stage) : (s.modStage n f).trims = s.trims := rfl
@[simp] theorem State.modStage_iu (n : Nat) (f : Stage → Stage) : (s.modStage n f).iu = s.iu := rfl
@[simp] theorem State.modStage_gaffer (n : Nat) (f : Stage → Stage) : (s.modStage n f).gaffer = s.gaffer := rfl
@[simp] theorem State.modStage_rails (n : Nat) (f : Stage → Stage) : (s.modStage n f).rails = s.rails := rfl
@[simp] theorem State.modStage_stages (n : Nat) (f : Stage → Stage) : (s.modStage n f).stages = modAt s.stages n f := rfl
@[simp] theorem State.modStage_edges (n : Nat) (f : Stage → Stage) : (s.modStage n f).edges = s.edges := rfl
@[simp] theorem State.modStage_parts (n : Nat) (f : Stage → Stage) : (s.modStage n f).parts = s.parts := rfl
@[simp] theorem State.modStage_portA (n : Nat) (f : Stage → Stage) : (s.modStage n f).portA = s.portA := rfl
@[simp] theorem State.modStage_portB (n : Nat) (f : Stage → Stage) : (s.modStage n f).portB = s.portB := rfl
@[simp] theorem State.modStage_slots (n : Nat) (f : Stage → Stage) : (s.modStage n f).slots = s.slots := rfl
@[simp] theorem State.modStage_slotPri (n : Nat) (f : Stage → Stage) : (s.modStage n f).slotPri = s.slotPri := rfl
@[simp] theorem State.modStage_slotOrder (n : Nat) (f : Stage → Stage) : (s.modStage n f).slotOrder = s.slotOrder := rfl
@[simp] theorem State.modStage_check (n : Nat) (f : Stage → Stage) : (s.modStage n f).check = s.check := rfl
@[simp] theorem State.modStage_lastCtx (n : Nat) (f : Stage → Stage) : (s.modStage n f).lastCtx = s.lastCtx := rfl
@[simp] theorem State.modStage_chain (n : Nat) (f : Stage → Stage) : (s.modStage n f).chain = s.chain := rfl
@[simp] theorem State.modStage_transients (n : Nat) (f : Stage → Stage) : (s.modStage n f).transients = s.transients := rfl
@[simp] theorem State.modStage_tests (n : Nat) (f : Stage → Stage) : (s.modStage n f).tests = s.tests := rfl
@[simp] theorem State.modStage_xings (n : Nat) (f : Stage → Stage) : (s.modStage n f).xings = s.xings := rfl
@[simp] theorem State.modStage_dailies (n : Nat) (f : Stage → Stage) : (s.modStage n f).dailies = s.dailies := rfl
@[simp] theorem State.modStage_flash (n : Nat) (f : Stage → Stage) : (s.modStage n f).flash = s.flash := rfl
@[simp] theorem State.modStage_idFaults (n : Nat) (f : Stage → Stage) : (s.modStage n f).idFaults = s.idFaults := rfl
@[simp] theorem State.modStage_issue (n : Nat) (f : Stage → Stage) : (s.modStage n f).issue = s.issue := rfl
@[simp] theorem State.modStage_cert (n : Nat) (f : Stage → Stage) : (s.modStage n f).cert = s.cert := rfl
@[simp] theorem State.modStage_ringE (n : Nat) (f : Stage → Stage) : (s.modStage n f).ringE = s.ringE := rfl
@[simp] theorem State.modStage_ringW (n : Nat) (f : Stage → Stage) : (s.modStage n f).ringW = s.ringW := rfl
@[simp] theorem State.modStage_dupId (n : Nat) (f : Stage → Stage) : (s.modStage n f).dupId = s.dupId := rfl
@[simp] theorem State.modStage_spines (n : Nat) (f : Stage → Stage) : (s.modStage n f).spines = s.spines := rfl
@[simp] theorem State.modStage_spineOut (n : Nat) (f : Stage → Stage) : (s.modStage n f).spineOut = s.spineOut := rfl
@[simp] theorem State.modStage_level4 (n : Nat) (f : Stage → Stage) : (s.modStage n f).level4 = s.level4 := rfl
@[simp] theorem State.modStage_level5 (n : Nat) (f : Stage → Stage) : (s.modStage n f).level5 = s.level5 := rfl
@[simp] theorem State.modStage_jtag (n : Nat) (f : Stage → Stage) : (s.modStage n f).jtag = s.jtag := rfl
@[simp] theorem State.modStage_freeCtr (n : Nat) (f : Stage → Stage) : (s.modStage n f).freeCtr = s.freeCtr := rfl
@[simp] theorem State.modStage_pending (n : Nat) (f : Stage → Stage) : (s.modStage n f).pending = s.pending := rfl

/-! ### putStage -/

@[simp] theorem State.putStage_pins (n : Nat) (st : Stage) : (s.putStage n st).pins = s.pins := rfl
@[simp] theorem State.putStage_serial (n : Nat) (st : Stage) : (s.putStage n st).serial = s.serial := rfl
@[simp] theorem State.putStage_signKey (n : Nat) (st : Stage) : (s.putStage n st).signKey = s.signKey := rfl
@[simp] theorem State.putStage_straps (n : Nat) (st : Stage) : (s.putStage n st).straps = s.straps := rfl
@[simp] theorem State.putStage_slate (n : Nat) (st : Stage) : (s.putStage n st).slate = s.slate := rfl
@[simp] theorem State.putStage_time (n : Nat) (st : Stage) : (s.putStage n st).time = s.time := rfl
@[simp] theorem State.putStage_trims (n : Nat) (st : Stage) : (s.putStage n st).trims = s.trims := rfl
@[simp] theorem State.putStage_iu (n : Nat) (st : Stage) : (s.putStage n st).iu = s.iu := rfl
@[simp] theorem State.putStage_gaffer (n : Nat) (st : Stage) : (s.putStage n st).gaffer = s.gaffer := rfl
@[simp] theorem State.putStage_rails (n : Nat) (st : Stage) : (s.putStage n st).rails = s.rails := rfl
@[simp] theorem State.putStage_stages (n : Nat) (st : Stage) : (s.putStage n st).stages = modAt s.stages n (fun _ => st) := rfl
@[simp] theorem State.putStage_edges (n : Nat) (st : Stage) : (s.putStage n st).edges = s.edges := rfl
@[simp] theorem State.putStage_parts (n : Nat) (st : Stage) : (s.putStage n st).parts = s.parts := rfl
@[simp] theorem State.putStage_portA (n : Nat) (st : Stage) : (s.putStage n st).portA = s.portA := rfl
@[simp] theorem State.putStage_portB (n : Nat) (st : Stage) : (s.putStage n st).portB = s.portB := rfl
@[simp] theorem State.putStage_slots (n : Nat) (st : Stage) : (s.putStage n st).slots = s.slots := rfl
@[simp] theorem State.putStage_slotPri (n : Nat) (st : Stage) : (s.putStage n st).slotPri = s.slotPri := rfl
@[simp] theorem State.putStage_slotOrder (n : Nat) (st : Stage) : (s.putStage n st).slotOrder = s.slotOrder := rfl
@[simp] theorem State.putStage_check (n : Nat) (st : Stage) : (s.putStage n st).check = s.check := rfl
@[simp] theorem State.putStage_lastCtx (n : Nat) (st : Stage) : (s.putStage n st).lastCtx = s.lastCtx := rfl
@[simp] theorem State.putStage_chain (n : Nat) (st : Stage) : (s.putStage n st).chain = s.chain := rfl
@[simp] theorem State.putStage_transients (n : Nat) (st : Stage) : (s.putStage n st).transients = s.transients := rfl
@[simp] theorem State.putStage_tests (n : Nat) (st : Stage) : (s.putStage n st).tests = s.tests := rfl
@[simp] theorem State.putStage_xings (n : Nat) (st : Stage) : (s.putStage n st).xings = s.xings := rfl
@[simp] theorem State.putStage_dailies (n : Nat) (st : Stage) : (s.putStage n st).dailies = s.dailies := rfl
@[simp] theorem State.putStage_flash (n : Nat) (st : Stage) : (s.putStage n st).flash = s.flash := rfl
@[simp] theorem State.putStage_idFaults (n : Nat) (st : Stage) : (s.putStage n st).idFaults = s.idFaults := rfl
@[simp] theorem State.putStage_issue (n : Nat) (st : Stage) : (s.putStage n st).issue = s.issue := rfl
@[simp] theorem State.putStage_cert (n : Nat) (st : Stage) : (s.putStage n st).cert = s.cert := rfl
@[simp] theorem State.putStage_ringE (n : Nat) (st : Stage) : (s.putStage n st).ringE = s.ringE := rfl
@[simp] theorem State.putStage_ringW (n : Nat) (st : Stage) : (s.putStage n st).ringW = s.ringW := rfl
@[simp] theorem State.putStage_dupId (n : Nat) (st : Stage) : (s.putStage n st).dupId = s.dupId := rfl
@[simp] theorem State.putStage_spines (n : Nat) (st : Stage) : (s.putStage n st).spines = s.spines := rfl
@[simp] theorem State.putStage_spineOut (n : Nat) (st : Stage) : (s.putStage n st).spineOut = s.spineOut := rfl
@[simp] theorem State.putStage_level4 (n : Nat) (st : Stage) : (s.putStage n st).level4 = s.level4 := rfl
@[simp] theorem State.putStage_level5 (n : Nat) (st : Stage) : (s.putStage n st).level5 = s.level5 := rfl
@[simp] theorem State.putStage_jtag (n : Nat) (st : Stage) : (s.putStage n st).jtag = s.jtag := rfl
@[simp] theorem State.putStage_freeCtr (n : Nat) (st : Stage) : (s.putStage n st).freeCtr = s.freeCtr := rfl
@[simp] theorem State.putStage_pending (n : Nat) (st : Stage) : (s.putStage n st).pending = s.pending := rfl

/-! ### modPart -/

@[simp] theorem State.modPart_pins (p : Nat) (f : Stage → Stage) : (s.modPart p f).pins = s.pins := rfl
@[simp] theorem State.modPart_serial (p : Nat) (f : Stage → Stage) : (s.modPart p f).serial = s.serial := rfl
@[simp] theorem State.modPart_signKey (p : Nat) (f : Stage → Stage) : (s.modPart p f).signKey = s.signKey := rfl
@[simp] theorem State.modPart_straps (p : Nat) (f : Stage → Stage) : (s.modPart p f).straps = s.straps := rfl
@[simp] theorem State.modPart_slate (p : Nat) (f : Stage → Stage) : (s.modPart p f).slate = s.slate := rfl
@[simp] theorem State.modPart_time (p : Nat) (f : Stage → Stage) : (s.modPart p f).time = s.time := rfl
@[simp] theorem State.modPart_trims (p : Nat) (f : Stage → Stage) : (s.modPart p f).trims = s.trims := rfl
@[simp] theorem State.modPart_iu (p : Nat) (f : Stage → Stage) : (s.modPart p f).iu = s.iu := rfl
@[simp] theorem State.modPart_gaffer (p : Nat) (f : Stage → Stage) : (s.modPart p f).gaffer = s.gaffer := rfl
@[simp] theorem State.modPart_rails (p : Nat) (f : Stage → Stage) : (s.modPart p f).rails = s.rails := rfl
@[simp] theorem State.modPart_stages (p : Nat) (f : Stage → Stage) : (s.modPart p f).stages = s.stages.map (fun st => if st.part = some p then f st else st) := rfl
@[simp] theorem State.modPart_edges (p : Nat) (f : Stage → Stage) : (s.modPart p f).edges = s.edges := rfl
@[simp] theorem State.modPart_parts (p : Nat) (f : Stage → Stage) : (s.modPart p f).parts = s.parts := rfl
@[simp] theorem State.modPart_portA (p : Nat) (f : Stage → Stage) : (s.modPart p f).portA = s.portA := rfl
@[simp] theorem State.modPart_portB (p : Nat) (f : Stage → Stage) : (s.modPart p f).portB = s.portB := rfl
@[simp] theorem State.modPart_slots (p : Nat) (f : Stage → Stage) : (s.modPart p f).slots = s.slots := rfl
@[simp] theorem State.modPart_slotPri (p : Nat) (f : Stage → Stage) : (s.modPart p f).slotPri = s.slotPri := rfl
@[simp] theorem State.modPart_slotOrder (p : Nat) (f : Stage → Stage) : (s.modPart p f).slotOrder = s.slotOrder := rfl
@[simp] theorem State.modPart_check (p : Nat) (f : Stage → Stage) : (s.modPart p f).check = s.check := rfl
@[simp] theorem State.modPart_lastCtx (p : Nat) (f : Stage → Stage) : (s.modPart p f).lastCtx = s.lastCtx := rfl
@[simp] theorem State.modPart_chain (p : Nat) (f : Stage → Stage) : (s.modPart p f).chain = s.chain := rfl
@[simp] theorem State.modPart_transients (p : Nat) (f : Stage → Stage) : (s.modPart p f).transients = s.transients := rfl
@[simp] theorem State.modPart_tests (p : Nat) (f : Stage → Stage) : (s.modPart p f).tests = s.tests := rfl
@[simp] theorem State.modPart_xings (p : Nat) (f : Stage → Stage) : (s.modPart p f).xings = s.xings := rfl
@[simp] theorem State.modPart_dailies (p : Nat) (f : Stage → Stage) : (s.modPart p f).dailies = s.dailies := rfl
@[simp] theorem State.modPart_flash (p : Nat) (f : Stage → Stage) : (s.modPart p f).flash = s.flash := rfl
@[simp] theorem State.modPart_idFaults (p : Nat) (f : Stage → Stage) : (s.modPart p f).idFaults = s.idFaults := rfl
@[simp] theorem State.modPart_issue (p : Nat) (f : Stage → Stage) : (s.modPart p f).issue = s.issue := rfl
@[simp] theorem State.modPart_cert (p : Nat) (f : Stage → Stage) : (s.modPart p f).cert = s.cert := rfl
@[simp] theorem State.modPart_ringE (p : Nat) (f : Stage → Stage) : (s.modPart p f).ringE = s.ringE := rfl
@[simp] theorem State.modPart_ringW (p : Nat) (f : Stage → Stage) : (s.modPart p f).ringW = s.ringW := rfl
@[simp] theorem State.modPart_dupId (p : Nat) (f : Stage → Stage) : (s.modPart p f).dupId = s.dupId := rfl
@[simp] theorem State.modPart_spines (p : Nat) (f : Stage → Stage) : (s.modPart p f).spines = s.spines := rfl
@[simp] theorem State.modPart_spineOut (p : Nat) (f : Stage → Stage) : (s.modPart p f).spineOut = s.spineOut := rfl
@[simp] theorem State.modPart_level4 (p : Nat) (f : Stage → Stage) : (s.modPart p f).level4 = s.level4 := rfl
@[simp] theorem State.modPart_level5 (p : Nat) (f : Stage → Stage) : (s.modPart p f).level5 = s.level5 := rfl
@[simp] theorem State.modPart_jtag (p : Nat) (f : Stage → Stage) : (s.modPart p f).jtag = s.jtag := rfl
@[simp] theorem State.modPart_freeCtr (p : Nat) (f : Stage → Stage) : (s.modPart p f).freeCtr = s.freeCtr := rfl
@[simp] theorem State.modPart_pending (p : Nat) (f : Stage → Stage) : (s.modPart p f).pending = s.pending := rfl

/-! ### putCtx -/

@[simp] theorem State.putCtx_pins (p : Nat) (c : Option Ctx) : (s.putCtx p c).pins = s.pins := rfl
@[simp] theorem State.putCtx_serial (p : Nat) (c : Option Ctx) : (s.putCtx p c).serial = s.serial := rfl
@[simp] theorem State.putCtx_signKey (p : Nat) (c : Option Ctx) : (s.putCtx p c).signKey = s.signKey := rfl
@[simp] theorem State.putCtx_straps (p : Nat) (c : Option Ctx) : (s.putCtx p c).straps = s.straps := rfl
@[simp] theorem State.putCtx_slate (p : Nat) (c : Option Ctx) : (s.putCtx p c).slate = s.slate := rfl
@[simp] theorem State.putCtx_time (p : Nat) (c : Option Ctx) : (s.putCtx p c).time = s.time := rfl
@[simp] theorem State.putCtx_trims (p : Nat) (c : Option Ctx) : (s.putCtx p c).trims = s.trims := rfl
@[simp] theorem State.putCtx_iu (p : Nat) (c : Option Ctx) : (s.putCtx p c).iu = s.iu := rfl
@[simp] theorem State.putCtx_gaffer (p : Nat) (c : Option Ctx) : (s.putCtx p c).gaffer = s.gaffer := rfl
@[simp] theorem State.putCtx_rails (p : Nat) (c : Option Ctx) : (s.putCtx p c).rails = s.rails := rfl
@[simp] theorem State.putCtx_stages (p : Nat) (c : Option Ctx) : (s.putCtx p c).stages = s.stages := rfl
@[simp] theorem State.putCtx_edges (p : Nat) (c : Option Ctx) : (s.putCtx p c).edges = s.edges := rfl
@[simp] theorem State.putCtx_parts (p : Nat) (c : Option Ctx) : (s.putCtx p c).parts = setAt s.parts p c := rfl
@[simp] theorem State.putCtx_portA (p : Nat) (c : Option Ctx) : (s.putCtx p c).portA = s.portA := rfl
@[simp] theorem State.putCtx_portB (p : Nat) (c : Option Ctx) : (s.putCtx p c).portB = s.portB := rfl
@[simp] theorem State.putCtx_slots (p : Nat) (c : Option Ctx) : (s.putCtx p c).slots = s.slots := rfl
@[simp] theorem State.putCtx_slotPri (p : Nat) (c : Option Ctx) : (s.putCtx p c).slotPri = s.slotPri := rfl
@[simp] theorem State.putCtx_slotOrder (p : Nat) (c : Option Ctx) : (s.putCtx p c).slotOrder = s.slotOrder := rfl
@[simp] theorem State.putCtx_check (p : Nat) (c : Option Ctx) : (s.putCtx p c).check = s.check := rfl
@[simp] theorem State.putCtx_lastCtx (p : Nat) (c : Option Ctx) : (s.putCtx p c).lastCtx = s.lastCtx := rfl
@[simp] theorem State.putCtx_chain (p : Nat) (c : Option Ctx) : (s.putCtx p c).chain = s.chain := rfl
@[simp] theorem State.putCtx_transients (p : Nat) (c : Option Ctx) : (s.putCtx p c).transients = s.transients := rfl
@[simp] theorem State.putCtx_tests (p : Nat) (c : Option Ctx) : (s.putCtx p c).tests = s.tests := rfl
@[simp] theorem State.putCtx_xings (p : Nat) (c : Option Ctx) : (s.putCtx p c).xings = s.xings := rfl
@[simp] theorem State.putCtx_dailies (p : Nat) (c : Option Ctx) : (s.putCtx p c).dailies = s.dailies := rfl
@[simp] theorem State.putCtx_flash (p : Nat) (c : Option Ctx) : (s.putCtx p c).flash = s.flash := rfl
@[simp] theorem State.putCtx_idFaults (p : Nat) (c : Option Ctx) : (s.putCtx p c).idFaults = s.idFaults := rfl
@[simp] theorem State.putCtx_issue (p : Nat) (c : Option Ctx) : (s.putCtx p c).issue = s.issue := rfl
@[simp] theorem State.putCtx_cert (p : Nat) (c : Option Ctx) : (s.putCtx p c).cert = s.cert := rfl
@[simp] theorem State.putCtx_ringE (p : Nat) (c : Option Ctx) : (s.putCtx p c).ringE = s.ringE := rfl
@[simp] theorem State.putCtx_ringW (p : Nat) (c : Option Ctx) : (s.putCtx p c).ringW = s.ringW := rfl
@[simp] theorem State.putCtx_dupId (p : Nat) (c : Option Ctx) : (s.putCtx p c).dupId = s.dupId := rfl
@[simp] theorem State.putCtx_spines (p : Nat) (c : Option Ctx) : (s.putCtx p c).spines = s.spines := rfl
@[simp] theorem State.putCtx_spineOut (p : Nat) (c : Option Ctx) : (s.putCtx p c).spineOut = s.spineOut := rfl
@[simp] theorem State.putCtx_level4 (p : Nat) (c : Option Ctx) : (s.putCtx p c).level4 = s.level4 := rfl
@[simp] theorem State.putCtx_level5 (p : Nat) (c : Option Ctx) : (s.putCtx p c).level5 = s.level5 := rfl
@[simp] theorem State.putCtx_jtag (p : Nat) (c : Option Ctx) : (s.putCtx p c).jtag = s.jtag := rfl
@[simp] theorem State.putCtx_freeCtr (p : Nat) (c : Option Ctx) : (s.putCtx p c).freeCtr = s.freeCtr := rfl
@[simp] theorem State.putCtx_pending (p : Nat) (c : Option Ctx) : (s.putCtx p c).pending = s.pending := rfl

/-! ### modCtx -/

@[simp] theorem State.modCtx_pins (p : Nat) (f : Ctx → Ctx) : (s.modCtx p f).pins = s.pins := rfl
@[simp] theorem State.modCtx_serial (p : Nat) (f : Ctx → Ctx) : (s.modCtx p f).serial = s.serial := rfl
@[simp] theorem State.modCtx_signKey (p : Nat) (f : Ctx → Ctx) : (s.modCtx p f).signKey = s.signKey := rfl
@[simp] theorem State.modCtx_straps (p : Nat) (f : Ctx → Ctx) : (s.modCtx p f).straps = s.straps := rfl
@[simp] theorem State.modCtx_slate (p : Nat) (f : Ctx → Ctx) : (s.modCtx p f).slate = s.slate := rfl
@[simp] theorem State.modCtx_time (p : Nat) (f : Ctx → Ctx) : (s.modCtx p f).time = s.time := rfl
@[simp] theorem State.modCtx_trims (p : Nat) (f : Ctx → Ctx) : (s.modCtx p f).trims = s.trims := rfl
@[simp] theorem State.modCtx_iu (p : Nat) (f : Ctx → Ctx) : (s.modCtx p f).iu = s.iu := rfl
@[simp] theorem State.modCtx_gaffer (p : Nat) (f : Ctx → Ctx) : (s.modCtx p f).gaffer = s.gaffer := rfl
@[simp] theorem State.modCtx_rails (p : Nat) (f : Ctx → Ctx) : (s.modCtx p f).rails = s.rails := rfl
@[simp] theorem State.modCtx_stages (p : Nat) (f : Ctx → Ctx) : (s.modCtx p f).stages = s.stages := rfl
@[simp] theorem State.modCtx_edges (p : Nat) (f : Ctx → Ctx) : (s.modCtx p f).edges = s.edges := rfl
@[simp] theorem State.modCtx_parts (p : Nat) (f : Ctx → Ctx) : (s.modCtx p f).parts = modAt s.parts p (fun o => o.map f) := rfl
@[simp] theorem State.modCtx_portA (p : Nat) (f : Ctx → Ctx) : (s.modCtx p f).portA = s.portA := rfl
@[simp] theorem State.modCtx_portB (p : Nat) (f : Ctx → Ctx) : (s.modCtx p f).portB = s.portB := rfl
@[simp] theorem State.modCtx_slots (p : Nat) (f : Ctx → Ctx) : (s.modCtx p f).slots = s.slots := rfl
@[simp] theorem State.modCtx_slotPri (p : Nat) (f : Ctx → Ctx) : (s.modCtx p f).slotPri = s.slotPri := rfl
@[simp] theorem State.modCtx_slotOrder (p : Nat) (f : Ctx → Ctx) : (s.modCtx p f).slotOrder = s.slotOrder := rfl
@[simp] theorem State.modCtx_check (p : Nat) (f : Ctx → Ctx) : (s.modCtx p f).check = s.check := rfl
@[simp] theorem State.modCtx_lastCtx (p : Nat) (f : Ctx → Ctx) : (s.modCtx p f).lastCtx = s.lastCtx := rfl
@[simp] theorem State.modCtx_chain (p : Nat) (f : Ctx → Ctx) : (s.modCtx p f).chain = s.chain := rfl
@[simp] theorem State.modCtx_transients (p : Nat) (f : Ctx → Ctx) : (s.modCtx p f).transients = s.transients := rfl
@[simp] theorem State.modCtx_tests (p : Nat) (f : Ctx → Ctx) : (s.modCtx p f).tests = s.tests := rfl
@[simp] theorem State.modCtx_xings (p : Nat) (f : Ctx → Ctx) : (s.modCtx p f).xings = s.xings := rfl
@[simp] theorem State.modCtx_dailies (p : Nat) (f : Ctx → Ctx) : (s.modCtx p f).dailies = s.dailies := rfl
@[simp] theorem State.modCtx_flash (p : Nat) (f : Ctx → Ctx) : (s.modCtx p f).flash = s.flash := rfl
@[simp] theorem State.modCtx_idFaults (p : Nat) (f : Ctx → Ctx) : (s.modCtx p f).idFaults = s.idFaults := rfl
@[simp] theorem State.modCtx_issue (p : Nat) (f : Ctx → Ctx) : (s.modCtx p f).issue = s.issue := rfl
@[simp] theorem State.modCtx_cert (p : Nat) (f : Ctx → Ctx) : (s.modCtx p f).cert = s.cert := rfl
@[simp] theorem State.modCtx_ringE (p : Nat) (f : Ctx → Ctx) : (s.modCtx p f).ringE = s.ringE := rfl
@[simp] theorem State.modCtx_ringW (p : Nat) (f : Ctx → Ctx) : (s.modCtx p f).ringW = s.ringW := rfl
@[simp] theorem State.modCtx_dupId (p : Nat) (f : Ctx → Ctx) : (s.modCtx p f).dupId = s.dupId := rfl
@[simp] theorem State.modCtx_spines (p : Nat) (f : Ctx → Ctx) : (s.modCtx p f).spines = s.spines := rfl
@[simp] theorem State.modCtx_spineOut (p : Nat) (f : Ctx → Ctx) : (s.modCtx p f).spineOut = s.spineOut := rfl
@[simp] theorem State.modCtx_level4 (p : Nat) (f : Ctx → Ctx) : (s.modCtx p f).level4 = s.level4 := rfl
@[simp] theorem State.modCtx_level5 (p : Nat) (f : Ctx → Ctx) : (s.modCtx p f).level5 = s.level5 := rfl
@[simp] theorem State.modCtx_jtag (p : Nat) (f : Ctx → Ctx) : (s.modCtx p f).jtag = s.jtag := rfl
@[simp] theorem State.modCtx_freeCtr (p : Nat) (f : Ctx → Ctx) : (s.modCtx p f).freeCtr = s.freeCtr := rfl
@[simp] theorem State.modCtx_pending (p : Nat) (f : Ctx → Ctx) : (s.modCtx p f).pending = s.pending := rfl

/-! ### modRail -/

@[simp] theorem State.modRail_pins (x : Nat) (f : Rail → Rail) : (s.modRail x f).pins = s.pins := rfl
@[simp] theorem State.modRail_serial (x : Nat) (f : Rail → Rail) : (s.modRail x f).serial = s.serial := rfl
@[simp] theorem State.modRail_signKey (x : Nat) (f : Rail → Rail) : (s.modRail x f).signKey = s.signKey := rfl
@[simp] theorem State.modRail_straps (x : Nat) (f : Rail → Rail) : (s.modRail x f).straps = s.straps := rfl
@[simp] theorem State.modRail_slate (x : Nat) (f : Rail → Rail) : (s.modRail x f).slate = s.slate := rfl
@[simp] theorem State.modRail_time (x : Nat) (f : Rail → Rail) : (s.modRail x f).time = s.time := rfl
@[simp] theorem State.modRail_trims (x : Nat) (f : Rail → Rail) : (s.modRail x f).trims = s.trims := rfl
@[simp] theorem State.modRail_iu (x : Nat) (f : Rail → Rail) : (s.modRail x f).iu = s.iu := rfl
@[simp] theorem State.modRail_gaffer (x : Nat) (f : Rail → Rail) : (s.modRail x f).gaffer = s.gaffer := rfl
@[simp] theorem State.modRail_rails (x : Nat) (f : Rail → Rail) : (s.modRail x f).rails = modAt s.rails x f := rfl
@[simp] theorem State.modRail_stages (x : Nat) (f : Rail → Rail) : (s.modRail x f).stages = s.stages := rfl
@[simp] theorem State.modRail_edges (x : Nat) (f : Rail → Rail) : (s.modRail x f).edges = s.edges := rfl
@[simp] theorem State.modRail_parts (x : Nat) (f : Rail → Rail) : (s.modRail x f).parts = s.parts := rfl
@[simp] theorem State.modRail_portA (x : Nat) (f : Rail → Rail) : (s.modRail x f).portA = s.portA := rfl
@[simp] theorem State.modRail_portB (x : Nat) (f : Rail → Rail) : (s.modRail x f).portB = s.portB := rfl
@[simp] theorem State.modRail_slots (x : Nat) (f : Rail → Rail) : (s.modRail x f).slots = s.slots := rfl
@[simp] theorem State.modRail_slotPri (x : Nat) (f : Rail → Rail) : (s.modRail x f).slotPri = s.slotPri := rfl
@[simp] theorem State.modRail_slotOrder (x : Nat) (f : Rail → Rail) : (s.modRail x f).slotOrder = s.slotOrder := rfl
@[simp] theorem State.modRail_check (x : Nat) (f : Rail → Rail) : (s.modRail x f).check = s.check := rfl
@[simp] theorem State.modRail_lastCtx (x : Nat) (f : Rail → Rail) : (s.modRail x f).lastCtx = s.lastCtx := rfl
@[simp] theorem State.modRail_chain (x : Nat) (f : Rail → Rail) : (s.modRail x f).chain = s.chain := rfl
@[simp] theorem State.modRail_transients (x : Nat) (f : Rail → Rail) : (s.modRail x f).transients = s.transients := rfl
@[simp] theorem State.modRail_tests (x : Nat) (f : Rail → Rail) : (s.modRail x f).tests = s.tests := rfl
@[simp] theorem State.modRail_xings (x : Nat) (f : Rail → Rail) : (s.modRail x f).xings = s.xings := rfl
@[simp] theorem State.modRail_dailies (x : Nat) (f : Rail → Rail) : (s.modRail x f).dailies = s.dailies := rfl
@[simp] theorem State.modRail_flash (x : Nat) (f : Rail → Rail) : (s.modRail x f).flash = s.flash := rfl
@[simp] theorem State.modRail_idFaults (x : Nat) (f : Rail → Rail) : (s.modRail x f).idFaults = s.idFaults := rfl
@[simp] theorem State.modRail_issue (x : Nat) (f : Rail → Rail) : (s.modRail x f).issue = s.issue := rfl
@[simp] theorem State.modRail_cert (x : Nat) (f : Rail → Rail) : (s.modRail x f).cert = s.cert := rfl
@[simp] theorem State.modRail_ringE (x : Nat) (f : Rail → Rail) : (s.modRail x f).ringE = s.ringE := rfl
@[simp] theorem State.modRail_ringW (x : Nat) (f : Rail → Rail) : (s.modRail x f).ringW = s.ringW := rfl
@[simp] theorem State.modRail_dupId (x : Nat) (f : Rail → Rail) : (s.modRail x f).dupId = s.dupId := rfl
@[simp] theorem State.modRail_spines (x : Nat) (f : Rail → Rail) : (s.modRail x f).spines = s.spines := rfl
@[simp] theorem State.modRail_spineOut (x : Nat) (f : Rail → Rail) : (s.modRail x f).spineOut = s.spineOut := rfl
@[simp] theorem State.modRail_level4 (x : Nat) (f : Rail → Rail) : (s.modRail x f).level4 = s.level4 := rfl
@[simp] theorem State.modRail_level5 (x : Nat) (f : Rail → Rail) : (s.modRail x f).level5 = s.level5 := rfl
@[simp] theorem State.modRail_jtag (x : Nat) (f : Rail → Rail) : (s.modRail x f).jtag = s.jtag := rfl
@[simp] theorem State.modRail_freeCtr (x : Nat) (f : Rail → Rail) : (s.modRail x f).freeCtr = s.freeCtr := rfl
@[simp] theorem State.modRail_pending (x : Nat) (f : Rail → Rail) : (s.modRail x f).pending = s.pending := rfl

/-! ### putXing -/

@[simp] theorem State.putXing_pins (x : Xing) : (s.putXing x).pins = s.pins := rfl
@[simp] theorem State.putXing_serial (x : Xing) : (s.putXing x).serial = s.serial := rfl
@[simp] theorem State.putXing_signKey (x : Xing) : (s.putXing x).signKey = s.signKey := rfl
@[simp] theorem State.putXing_straps (x : Xing) : (s.putXing x).straps = s.straps := rfl
@[simp] theorem State.putXing_slate (x : Xing) : (s.putXing x).slate = s.slate := rfl
@[simp] theorem State.putXing_time (x : Xing) : (s.putXing x).time = s.time := rfl
@[simp] theorem State.putXing_trims (x : Xing) : (s.putXing x).trims = s.trims := rfl
@[simp] theorem State.putXing_iu (x : Xing) : (s.putXing x).iu = s.iu := rfl
@[simp] theorem State.putXing_gaffer (x : Xing) : (s.putXing x).gaffer = s.gaffer := rfl
@[simp] theorem State.putXing_rails (x : Xing) : (s.putXing x).rails = s.rails := rfl
@[simp] theorem State.putXing_stages (x : Xing) : (s.putXing x).stages = s.stages := rfl
@[simp] theorem State.putXing_edges (x : Xing) : (s.putXing x).edges = s.edges := rfl
@[simp] theorem State.putXing_parts (x : Xing) : (s.putXing x).parts = s.parts := rfl
@[simp] theorem State.putXing_portA (x : Xing) : (s.putXing x).portA = s.portA := rfl
@[simp] theorem State.putXing_portB (x : Xing) : (s.putXing x).portB = s.portB := rfl
@[simp] theorem State.putXing_slots (x : Xing) : (s.putXing x).slots = s.slots := rfl
@[simp] theorem State.putXing_slotPri (x : Xing) : (s.putXing x).slotPri = s.slotPri := rfl
@[simp] theorem State.putXing_slotOrder (x : Xing) : (s.putXing x).slotOrder = s.slotOrder := rfl
@[simp] theorem State.putXing_check (x : Xing) : (s.putXing x).check = s.check := rfl
@[simp] theorem State.putXing_lastCtx (x : Xing) : (s.putXing x).lastCtx = s.lastCtx := rfl
@[simp] theorem State.putXing_chain (x : Xing) : (s.putXing x).chain = s.chain := rfl
@[simp] theorem State.putXing_transients (x : Xing) : (s.putXing x).transients = s.transients := rfl
@[simp] theorem State.putXing_tests (x : Xing) : (s.putXing x).tests = s.tests := rfl
@[simp] theorem State.putXing_xings (x : Xing) : (s.putXing x).xings = x :: s.xings.filter (fun y => y.xid ≠ x.xid) := rfl
@[simp] theorem State.putXing_dailies (x : Xing) : (s.putXing x).dailies = s.dailies := rfl
@[simp] theorem State.putXing_flash (x : Xing) : (s.putXing x).flash = s.flash := rfl
@[simp] theorem State.putXing_idFaults (x : Xing) : (s.putXing x).idFaults = s.idFaults := rfl
@[simp] theorem State.putXing_issue (x : Xing) : (s.putXing x).issue = s.issue := rfl
@[simp] theorem State.putXing_cert (x : Xing) : (s.putXing x).cert = s.cert := rfl
@[simp] theorem State.putXing_ringE (x : Xing) : (s.putXing x).ringE = s.ringE := rfl
@[simp] theorem State.putXing_ringW (x : Xing) : (s.putXing x).ringW = s.ringW := rfl
@[simp] theorem State.putXing_dupId (x : Xing) : (s.putXing x).dupId = s.dupId := rfl
@[simp] theorem State.putXing_spines (x : Xing) : (s.putXing x).spines = s.spines := rfl
@[simp] theorem State.putXing_spineOut (x : Xing) : (s.putXing x).spineOut = s.spineOut := rfl
@[simp] theorem State.putXing_level4 (x : Xing) : (s.putXing x).level4 = s.level4 := rfl
@[simp] theorem State.putXing_level5 (x : Xing) : (s.putXing x).level5 = s.level5 := rfl
@[simp] theorem State.putXing_jtag (x : Xing) : (s.putXing x).jtag = s.jtag := rfl
@[simp] theorem State.putXing_freeCtr (x : Xing) : (s.putXing x).freeCtr = s.freeCtr := rfl
@[simp] theorem State.putXing_pending (x : Xing) : (s.putXing x).pending = s.pending := rfl

/-! ### dropTest -/

@[simp] theorem State.dropTest_pins (u : UnitId) : (s.dropTest u).pins = s.pins := rfl
@[simp] theorem State.dropTest_serial (u : UnitId) : (s.dropTest u).serial = s.serial := rfl
@[simp] theorem State.dropTest_signKey (u : UnitId) : (s.dropTest u).signKey = s.signKey := rfl
@[simp] theorem State.dropTest_straps (u : UnitId) : (s.dropTest u).straps = s.straps := rfl
@[simp] theorem State.dropTest_slate (u : UnitId) : (s.dropTest u).slate = s.slate := rfl
@[simp] theorem State.dropTest_time (u : UnitId) : (s.dropTest u).time = s.time := rfl
@[simp] theorem State.dropTest_trims (u : UnitId) : (s.dropTest u).trims = s.trims := rfl
@[simp] theorem State.dropTest_iu (u : UnitId) : (s.dropTest u).iu = s.iu := rfl
@[simp] theorem State.dropTest_gaffer (u : UnitId) : (s.dropTest u).gaffer = s.gaffer := rfl
@[simp] theorem State.dropTest_rails (u : UnitId) : (s.dropTest u).rails = s.rails := rfl
@[simp] theorem State.dropTest_stages (u : UnitId) : (s.dropTest u).stages = s.stages := rfl
@[simp] theorem State.dropTest_edges (u : UnitId) : (s.dropTest u).edges = s.edges := rfl
@[simp] theorem State.dropTest_parts (u : UnitId) : (s.dropTest u).parts = s.parts := rfl
@[simp] theorem State.dropTest_portA (u : UnitId) : (s.dropTest u).portA = s.portA := rfl
@[simp] theorem State.dropTest_portB (u : UnitId) : (s.dropTest u).portB = s.portB := rfl
@[simp] theorem State.dropTest_slots (u : UnitId) : (s.dropTest u).slots = s.slots := rfl
@[simp] theorem State.dropTest_slotPri (u : UnitId) : (s.dropTest u).slotPri = s.slotPri := rfl
@[simp] theorem State.dropTest_slotOrder (u : UnitId) : (s.dropTest u).slotOrder = s.slotOrder := rfl
@[simp] theorem State.dropTest_check (u : UnitId) : (s.dropTest u).check = s.check := rfl
@[simp] theorem State.dropTest_lastCtx (u : UnitId) : (s.dropTest u).lastCtx = s.lastCtx := rfl
@[simp] theorem State.dropTest_chain (u : UnitId) : (s.dropTest u).chain = s.chain := rfl
@[simp] theorem State.dropTest_transients (u : UnitId) : (s.dropTest u).transients = s.transients := rfl
@[simp] theorem State.dropTest_tests (u : UnitId) : (s.dropTest u).tests = s.tests.filter (fun t => t.unit ≠ u) := rfl
@[simp] theorem State.dropTest_xings (u : UnitId) : (s.dropTest u).xings = s.xings := rfl
@[simp] theorem State.dropTest_dailies (u : UnitId) : (s.dropTest u).dailies = s.dailies := rfl
@[simp] theorem State.dropTest_flash (u : UnitId) : (s.dropTest u).flash = s.flash := rfl
@[simp] theorem State.dropTest_idFaults (u : UnitId) : (s.dropTest u).idFaults = s.idFaults := rfl
@[simp] theorem State.dropTest_issue (u : UnitId) : (s.dropTest u).issue = s.issue := rfl
@[simp] theorem State.dropTest_cert (u : UnitId) : (s.dropTest u).cert = s.cert := rfl
@[simp] theorem State.dropTest_ringE (u : UnitId) : (s.dropTest u).ringE = s.ringE := rfl
@[simp] theorem State.dropTest_ringW (u : UnitId) : (s.dropTest u).ringW = s.ringW := rfl
@[simp] theorem State.dropTest_dupId (u : UnitId) : (s.dropTest u).dupId = s.dupId := rfl
@[simp] theorem State.dropTest_spines (u : UnitId) : (s.dropTest u).spines = s.spines := rfl
@[simp] theorem State.dropTest_spineOut (u : UnitId) : (s.dropTest u).spineOut = s.spineOut := rfl
@[simp] theorem State.dropTest_level4 (u : UnitId) : (s.dropTest u).level4 = s.level4 := rfl
@[simp] theorem State.dropTest_level5 (u : UnitId) : (s.dropTest u).level5 = s.level5 := rfl
@[simp] theorem State.dropTest_jtag (u : UnitId) : (s.dropTest u).jtag = s.jtag := rfl
@[simp] theorem State.dropTest_freeCtr (u : UnitId) : (s.dropTest u).freeCtr = s.freeCtr := rfl
@[simp] theorem State.dropTest_pending (u : UnitId) : (s.dropTest u).pending = s.pending := rfl

/-! ### setTransient -/

@[simp] theorem State.setTransient_pins (u : UnitId) (n : Nat) : (s.setTransient u n).pins = s.pins := rfl
@[simp] theorem State.setTransient_serial (u : UnitId) (n : Nat) : (s.setTransient u n).serial = s.serial := rfl
@[simp] theorem State.setTransient_signKey (u : UnitId) (n : Nat) : (s.setTransient u n).signKey = s.signKey := rfl
@[simp] theorem State.setTransient_straps (u : UnitId) (n : Nat) : (s.setTransient u n).straps = s.straps := rfl
@[simp] theorem State.setTransient_slate (u : UnitId) (n : Nat) : (s.setTransient u n).slate = s.slate := rfl
@[simp] theorem State.setTransient_time (u : UnitId) (n : Nat) : (s.setTransient u n).time = s.time := rfl
@[simp] theorem State.setTransient_trims (u : UnitId) (n : Nat) : (s.setTransient u n).trims = s.trims := rfl
@[simp] theorem State.setTransient_iu (u : UnitId) (n : Nat) : (s.setTransient u n).iu = s.iu := rfl
@[simp] theorem State.setTransient_gaffer (u : UnitId) (n : Nat) : (s.setTransient u n).gaffer = s.gaffer := rfl
@[simp] theorem State.setTransient_rails (u : UnitId) (n : Nat) : (s.setTransient u n).rails = s.rails := rfl
@[simp] theorem State.setTransient_stages (u : UnitId) (n : Nat) : (s.setTransient u n).stages = s.stages := rfl
@[simp] theorem State.setTransient_edges (u : UnitId) (n : Nat) : (s.setTransient u n).edges = s.edges := rfl
@[simp] theorem State.setTransient_parts (u : UnitId) (n : Nat) : (s.setTransient u n).parts = s.parts := rfl
@[simp] theorem State.setTransient_portA (u : UnitId) (n : Nat) : (s.setTransient u n).portA = s.portA := rfl
@[simp] theorem State.setTransient_portB (u : UnitId) (n : Nat) : (s.setTransient u n).portB = s.portB := rfl
@[simp] theorem State.setTransient_slots (u : UnitId) (n : Nat) : (s.setTransient u n).slots = s.slots := rfl
@[simp] theorem State.setTransient_slotPri (u : UnitId) (n : Nat) : (s.setTransient u n).slotPri = s.slotPri := rfl
@[simp] theorem State.setTransient_slotOrder (u : UnitId) (n : Nat) : (s.setTransient u n).slotOrder = s.slotOrder := rfl
@[simp] theorem State.setTransient_check (u : UnitId) (n : Nat) : (s.setTransient u n).check = s.check := rfl
@[simp] theorem State.setTransient_lastCtx (u : UnitId) (n : Nat) : (s.setTransient u n).lastCtx = s.lastCtx := rfl
@[simp] theorem State.setTransient_chain (u : UnitId) (n : Nat) : (s.setTransient u n).chain = s.chain := rfl
@[simp] theorem State.setTransient_transients (u : UnitId) (n : Nat) : (s.setTransient u n).transients = (u, n) :: s.transients.filter (fun t => t.1 ≠ u) := rfl
@[simp] theorem State.setTransient_tests (u : UnitId) (n : Nat) : (s.setTransient u n).tests = s.tests := rfl
@[simp] theorem State.setTransient_xings (u : UnitId) (n : Nat) : (s.setTransient u n).xings = s.xings := rfl
@[simp] theorem State.setTransient_dailies (u : UnitId) (n : Nat) : (s.setTransient u n).dailies = s.dailies := rfl
@[simp] theorem State.setTransient_flash (u : UnitId) (n : Nat) : (s.setTransient u n).flash = s.flash := rfl
@[simp] theorem State.setTransient_idFaults (u : UnitId) (n : Nat) : (s.setTransient u n).idFaults = s.idFaults := rfl
@[simp] theorem State.setTransient_issue (u : UnitId) (n : Nat) : (s.setTransient u n).issue = s.issue := rfl
@[simp] theorem State.setTransient_cert (u : UnitId) (n : Nat) : (s.setTransient u n).cert = s.cert := rfl
@[simp] theorem State.setTransient_ringE (u : UnitId) (n : Nat) : (s.setTransient u n).ringE = s.ringE := rfl
@[simp] theorem State.setTransient_ringW (u : UnitId) (n : Nat) : (s.setTransient u n).ringW = s.ringW := rfl
@[simp] theorem State.setTransient_dupId (u : UnitId) (n : Nat) : (s.setTransient u n).dupId = s.dupId := rfl
@[simp] theorem State.setTransient_spines (u : UnitId) (n : Nat) : (s.setTransient u n).spines = s.spines := rfl
@[simp] theorem State.setTransient_spineOut (u : UnitId) (n : Nat) : (s.setTransient u n).spineOut = s.spineOut := rfl
@[simp] theorem State.setTransient_level4 (u : UnitId) (n : Nat) : (s.setTransient u n).level4 = s.level4 := rfl
@[simp] theorem State.setTransient_level5 (u : UnitId) (n : Nat) : (s.setTransient u n).level5 = s.level5 := rfl
@[simp] theorem State.setTransient_jtag (u : UnitId) (n : Nat) : (s.setTransient u n).jtag = s.jtag := rfl
@[simp] theorem State.setTransient_freeCtr (u : UnitId) (n : Nat) : (s.setTransient u n).freeCtr = s.freeCtr := rfl
@[simp] theorem State.setTransient_pending (u : UnitId) (n : Nat) : (s.setTransient u n).pending = s.pending := rfl

/-! ### draw -/

@[simp] theorem State.draw_pins : s.draw.pins = s.pins := rfl
@[simp] theorem State.draw_serial : s.draw.serial = s.serial := rfl
@[simp] theorem State.draw_signKey : s.draw.signKey = s.signKey := rfl
@[simp] theorem State.draw_straps : s.draw.straps = s.straps := rfl
@[simp] theorem State.draw_slate : s.draw.slate = s.slate := rfl
@[simp] theorem State.draw_time : s.draw.time = s.time := rfl
@[simp] theorem State.draw_trims : s.draw.trims = s.trims := rfl
@[simp] theorem State.draw_iu : s.draw.iu = s.iu := rfl
@[simp] theorem State.draw_gaffer : s.draw.gaffer = s.gaffer := rfl
@[simp] theorem State.draw_rails : s.draw.rails = s.rails := rfl
@[simp] theorem State.draw_stages : s.draw.stages = s.stages := rfl
@[simp] theorem State.draw_edges : s.draw.edges = s.edges := rfl
@[simp] theorem State.draw_parts : s.draw.parts = s.parts := rfl
@[simp] theorem State.draw_portA : s.draw.portA = s.portA := rfl
@[simp] theorem State.draw_portB : s.draw.portB = s.portB := rfl
@[simp] theorem State.draw_slots : s.draw.slots = s.slots := rfl
@[simp] theorem State.draw_slotPri : s.draw.slotPri = s.slotPri := rfl
@[simp] theorem State.draw_slotOrder : s.draw.slotOrder = s.slotOrder := rfl
@[simp] theorem State.draw_check : s.draw.check = s.check := rfl
@[simp] theorem State.draw_lastCtx : s.draw.lastCtx = s.lastCtx := rfl
@[simp] theorem State.draw_chain : s.draw.chain = s.chain := rfl
@[simp] theorem State.draw_transients : s.draw.transients = s.transients := rfl
@[simp] theorem State.draw_tests : s.draw.tests = s.tests := rfl
@[simp] theorem State.draw_xings : s.draw.xings = s.xings := rfl
@[simp] theorem State.draw_dailies : s.draw.dailies = s.dailies := rfl
@[simp] theorem State.draw_flash : s.draw.flash = s.flash := rfl
@[simp] theorem State.draw_idFaults : s.draw.idFaults = s.idFaults := rfl
@[simp] theorem State.draw_issue : s.draw.issue = s.issue := rfl
@[simp] theorem State.draw_cert : s.draw.cert = s.cert := rfl
@[simp] theorem State.draw_ringE : s.draw.ringE = s.ringE := rfl
@[simp] theorem State.draw_ringW : s.draw.ringW = s.ringW := rfl
@[simp] theorem State.draw_dupId : s.draw.dupId = s.dupId := rfl
@[simp] theorem State.draw_spines : s.draw.spines = s.spines := rfl
@[simp] theorem State.draw_spineOut : s.draw.spineOut = s.spineOut := rfl
@[simp] theorem State.draw_level4 : s.draw.level4 = s.level4 := rfl
@[simp] theorem State.draw_level5 : s.draw.level5 = s.level5 := rfl
@[simp] theorem State.draw_jtag : s.draw.jtag = s.jtag := rfl
@[simp] theorem State.draw_freeCtr : s.draw.freeCtr = s.freeCtr + 1 := rfl
@[simp] theorem State.draw_pending : s.draw.pending = s.pending := rfl

/-! ### emit -/

@[simp] theorem State.emit_pins (c e : BitVec 8) (b : RecBody) : (s.emit c e b).pins = s.pins := rfl
@[simp] theorem State.emit_serial (c e : BitVec 8) (b : RecBody) : (s.emit c e b).serial = s.serial := rfl
@[simp] theorem State.emit_signKey (c e : BitVec 8) (b : RecBody) : (s.emit c e b).signKey = s.signKey := rfl
@[simp] theorem State.emit_straps (c e : BitVec 8) (b : RecBody) : (s.emit c e b).straps = s.straps := rfl
@[simp] theorem State.emit_slate (c e : BitVec 8) (b : RecBody) : (s.emit c e b).slate = s.slate := rfl
@[simp] theorem State.emit_time (c e : BitVec 8) (b : RecBody) : (s.emit c e b).time = s.time := rfl
@[simp] theorem State.emit_trims (c e : BitVec 8) (b : RecBody) : (s.emit c e b).trims = s.trims := rfl
@[simp] theorem State.emit_iu (c e : BitVec 8) (b : RecBody) : (s.emit c e b).iu = s.iu := rfl
@[simp] theorem State.emit_gaffer (c e : BitVec 8) (b : RecBody) : (s.emit c e b).gaffer = s.gaffer := rfl
@[simp] theorem State.emit_rails (c e : BitVec 8) (b : RecBody) : (s.emit c e b).rails = s.rails := rfl
@[simp] theorem State.emit_stages (c e : BitVec 8) (b : RecBody) : (s.emit c e b).stages = s.stages := rfl
@[simp] theorem State.emit_edges (c e : BitVec 8) (b : RecBody) : (s.emit c e b).edges = s.edges := rfl
@[simp] theorem State.emit_parts (c e : BitVec 8) (b : RecBody) : (s.emit c e b).parts = s.parts := rfl
@[simp] theorem State.emit_portA (c e : BitVec 8) (b : RecBody) : (s.emit c e b).portA = s.portA.enqueue ⟨c, e, s.stamp, b⟩ := rfl
@[simp] theorem State.emit_portB (c e : BitVec 8) (b : RecBody) : (s.emit c e b).portB = s.portB.enqueue ⟨c, e, s.stamp, b⟩ := rfl
@[simp] theorem State.emit_slots (c e : BitVec 8) (b : RecBody) : (s.emit c e b).slots = s.slots := rfl
@[simp] theorem State.emit_slotPri (c e : BitVec 8) (b : RecBody) : (s.emit c e b).slotPri = s.slotPri := rfl
@[simp] theorem State.emit_slotOrder (c e : BitVec 8) (b : RecBody) : (s.emit c e b).slotOrder = s.slotOrder := rfl
@[simp] theorem State.emit_check (c e : BitVec 8) (b : RecBody) : (s.emit c e b).check = s.check := rfl
@[simp] theorem State.emit_lastCtx (c e : BitVec 8) (b : RecBody) : (s.emit c e b).lastCtx = s.lastCtx := rfl
@[simp] theorem State.emit_chain (c e : BitVec 8) (b : RecBody) : (s.emit c e b).chain = s.chain := rfl
@[simp] theorem State.emit_transients (c e : BitVec 8) (b : RecBody) : (s.emit c e b).transients = s.transients := rfl
@[simp] theorem State.emit_tests (c e : BitVec 8) (b : RecBody) : (s.emit c e b).tests = s.tests := rfl
@[simp] theorem State.emit_xings (c e : BitVec 8) (b : RecBody) : (s.emit c e b).xings = s.xings := rfl
@[simp] theorem State.emit_dailies (c e : BitVec 8) (b : RecBody) : (s.emit c e b).dailies = s.dailies := rfl
@[simp] theorem State.emit_flash (c e : BitVec 8) (b : RecBody) : (s.emit c e b).flash = s.flash := rfl
@[simp] theorem State.emit_idFaults (c e : BitVec 8) (b : RecBody) : (s.emit c e b).idFaults = s.idFaults := rfl
@[simp] theorem State.emit_issue (c e : BitVec 8) (b : RecBody) : (s.emit c e b).issue = s.issue := rfl
@[simp] theorem State.emit_cert (c e : BitVec 8) (b : RecBody) : (s.emit c e b).cert = s.cert := rfl
@[simp] theorem State.emit_ringE (c e : BitVec 8) (b : RecBody) : (s.emit c e b).ringE = s.ringE := rfl
@[simp] theorem State.emit_ringW (c e : BitVec 8) (b : RecBody) : (s.emit c e b).ringW = s.ringW := rfl
@[simp] theorem State.emit_dupId (c e : BitVec 8) (b : RecBody) : (s.emit c e b).dupId = s.dupId := rfl
@[simp] theorem State.emit_spines (c e : BitVec 8) (b : RecBody) : (s.emit c e b).spines = s.spines := rfl
@[simp] theorem State.emit_spineOut (c e : BitVec 8) (b : RecBody) : (s.emit c e b).spineOut = s.spineOut := rfl
@[simp] theorem State.emit_level4 (c e : BitVec 8) (b : RecBody) : (s.emit c e b).level4 = s.level4 := rfl
@[simp] theorem State.emit_level5 (c e : BitVec 8) (b : RecBody) : (s.emit c e b).level5 = s.level5 := rfl
@[simp] theorem State.emit_jtag (c e : BitVec 8) (b : RecBody) : (s.emit c e b).jtag = s.jtag := rfl
@[simp] theorem State.emit_freeCtr (c e : BitVec 8) (b : RecBody) : (s.emit c e b).freeCtr = s.freeCtr := rfl
@[simp] theorem State.emit_pending (c e : BitVec 8) (b : RecBody) : (s.emit c e b).pending = s.pending := rfl

/-! ### logEntry -/

@[simp] theorem State.logEntry_pins (k : Nat) (c e : BitVec 8) (b : List Byte) : (s.logEntry k c e b).pins = s.pins := rfl
@[simp] theorem State.logEntry_serial (k : Nat) (c e : BitVec 8) (b : List Byte) : (s.logEntry k c e b).serial = s.serial := rfl
@[simp] theorem State.logEntry_signKey (k : Nat) (c e : BitVec 8) (b : List Byte) : (s.logEntry k c e b).signKey = s.signKey := rfl
@[simp] theorem State.logEntry_straps (k : Nat) (c e : BitVec 8) (b : List Byte) : (s.logEntry k c e b).straps = s.straps := rfl
@[simp] theorem State.logEntry_slate (k : Nat) (c e : BitVec 8) (b : List Byte) : (s.logEntry k c e b).slate = s.slate := rfl
@[simp] theorem State.logEntry_time (k : Nat) (c e : BitVec 8) (b : List Byte) : (s.logEntry k c e b).time = s.time := rfl
@[simp] theorem State.logEntry_trims (k : Nat) (c e : BitVec 8) (b : List Byte) : (s.logEntry k c e b).trims = s.trims := rfl
@[simp] theorem State.logEntry_iu (k : Nat) (c e : BitVec 8) (b : List Byte) : (s.logEntry k c e b).iu = s.iu := rfl
@[simp] theorem State.logEntry_gaffer (k : Nat) (c e : BitVec 8) (b : List Byte) : (s.logEntry k c e b).gaffer = s.gaffer := rfl
@[simp] theorem State.logEntry_rails (k : Nat) (c e : BitVec 8) (b : List Byte) : (s.logEntry k c e b).rails = s.rails := rfl
@[simp] theorem State.logEntry_stages (k : Nat) (c e : BitVec 8) (b : List Byte) : (s.logEntry k c e b).stages = s.stages := rfl
@[simp] theorem State.logEntry_edges (k : Nat) (c e : BitVec 8) (b : List Byte) : (s.logEntry k c e b).edges = s.edges := rfl
@[simp] theorem State.logEntry_parts (k : Nat) (c e : BitVec 8) (b : List Byte) : (s.logEntry k c e b).parts = s.parts := rfl
@[simp] theorem State.logEntry_portA (k : Nat) (c e : BitVec 8) (b : List Byte) : (s.logEntry k c e b).portA = s.portA := rfl
@[simp] theorem State.logEntry_portB (k : Nat) (c e : BitVec 8) (b : List Byte) : (s.logEntry k c e b).portB = s.portB := rfl
@[simp] theorem State.logEntry_slots (k : Nat) (c e : BitVec 8) (b : List Byte) : (s.logEntry k c e b).slots = s.slots := rfl
@[simp] theorem State.logEntry_slotPri (k : Nat) (c e : BitVec 8) (b : List Byte) : (s.logEntry k c e b).slotPri = s.slotPri := rfl
@[simp] theorem State.logEntry_slotOrder (k : Nat) (c e : BitVec 8) (b : List Byte) : (s.logEntry k c e b).slotOrder = s.slotOrder := rfl
@[simp] theorem State.logEntry_check (k : Nat) (c e : BitVec 8) (b : List Byte) : (s.logEntry k c e b).check = s.check := rfl
@[simp] theorem State.logEntry_lastCtx (k : Nat) (c e : BitVec 8) (b : List Byte) : (s.logEntry k c e b).lastCtx = s.lastCtx := rfl
@[simp] theorem State.logEntry_chain (k : Nat) (c e : BitVec 8) (b : List Byte) : (s.logEntry k c e b).chain = s.chain := rfl
@[simp] theorem State.logEntry_transients (k : Nat) (c e : BitVec 8) (b : List Byte) : (s.logEntry k c e b).transients = s.transients := rfl
@[simp] theorem State.logEntry_tests (k : Nat) (c e : BitVec 8) (b : List Byte) : (s.logEntry k c e b).tests = s.tests := rfl
@[simp] theorem State.logEntry_xings (k : Nat) (c e : BitVec 8) (b : List Byte) : (s.logEntry k c e b).xings = s.xings := rfl
@[simp] theorem State.logEntry_flash (k : Nat) (c e : BitVec 8) (b : List Byte) : (s.logEntry k c e b).flash = s.flash := rfl
@[simp] theorem State.logEntry_idFaults (k : Nat) (c e : BitVec 8) (b : List Byte) : (s.logEntry k c e b).idFaults = s.idFaults := rfl
@[simp] theorem State.logEntry_issue (k : Nat) (c e : BitVec 8) (b : List Byte) : (s.logEntry k c e b).issue = s.issue := rfl
@[simp] theorem State.logEntry_cert (k : Nat) (c e : BitVec 8) (b : List Byte) : (s.logEntry k c e b).cert = s.cert := rfl
@[simp] theorem State.logEntry_ringE (k : Nat) (c e : BitVec 8) (b : List Byte) : (s.logEntry k c e b).ringE = s.ringE := rfl
@[simp] theorem State.logEntry_ringW (k : Nat) (c e : BitVec 8) (b : List Byte) : (s.logEntry k c e b).ringW = s.ringW := rfl
@[simp] theorem State.logEntry_dupId (k : Nat) (c e : BitVec 8) (b : List Byte) : (s.logEntry k c e b).dupId = s.dupId := rfl
@[simp] theorem State.logEntry_spines (k : Nat) (c e : BitVec 8) (b : List Byte) : (s.logEntry k c e b).spines = s.spines := rfl
@[simp] theorem State.logEntry_spineOut (k : Nat) (c e : BitVec 8) (b : List Byte) : (s.logEntry k c e b).spineOut = s.spineOut := rfl
@[simp] theorem State.logEntry_level4 (k : Nat) (c e : BitVec 8) (b : List Byte) : (s.logEntry k c e b).level4 = s.level4 := rfl
@[simp] theorem State.logEntry_level5 (k : Nat) (c e : BitVec 8) (b : List Byte) : (s.logEntry k c e b).level5 = s.level5 := rfl
@[simp] theorem State.logEntry_jtag (k : Nat) (c e : BitVec 8) (b : List Byte) : (s.logEntry k c e b).jtag = s.jtag := rfl
@[simp] theorem State.logEntry_freeCtr (k : Nat) (c e : BitVec 8) (b : List Byte) : (s.logEntry k c e b).freeCtr = s.freeCtr := rfl
@[simp] theorem State.logEntry_pending (k : Nat) (c e : BitVec 8) (b : List Byte) : (s.logEntry k c e b).pending = s.pending := rfl

/-! ### modPort -/

@[simp] theorem State.modPort_pins (p : Port) (f : HostPort → HostPort) : (s.modPort p f).pins = s.pins := by cases p <;> rfl
@[simp] theorem State.modPort_serial (p : Port) (f : HostPort → HostPort) : (s.modPort p f).serial = s.serial := by cases p <;> rfl
@[simp] theorem State.modPort_signKey (p : Port) (f : HostPort → HostPort) : (s.modPort p f).signKey = s.signKey := by cases p <;> rfl
@[simp] theorem State.modPort_straps (p : Port) (f : HostPort → HostPort) : (s.modPort p f).straps = s.straps := by cases p <;> rfl
@[simp] theorem State.modPort_slate (p : Port) (f : HostPort → HostPort) : (s.modPort p f).slate = s.slate := by cases p <;> rfl
@[simp] theorem State.modPort_time (p : Port) (f : HostPort → HostPort) : (s.modPort p f).time = s.time := by cases p <;> rfl
@[simp] theorem State.modPort_trims (p : Port) (f : HostPort → HostPort) : (s.modPort p f).trims = s.trims := by cases p <;> rfl
@[simp] theorem State.modPort_iu (p : Port) (f : HostPort → HostPort) : (s.modPort p f).iu = s.iu := by cases p <;> rfl
@[simp] theorem State.modPort_gaffer (p : Port) (f : HostPort → HostPort) : (s.modPort p f).gaffer = s.gaffer := by cases p <;> rfl
@[simp] theorem State.modPort_rails (p : Port) (f : HostPort → HostPort) : (s.modPort p f).rails = s.rails := by cases p <;> rfl
@[simp] theorem State.modPort_stages (p : Port) (f : HostPort → HostPort) : (s.modPort p f).stages = s.stages := by cases p <;> rfl
@[simp] theorem State.modPort_edges (p : Port) (f : HostPort → HostPort) : (s.modPort p f).edges = s.edges := by cases p <;> rfl
@[simp] theorem State.modPort_parts (p : Port) (f : HostPort → HostPort) : (s.modPort p f).parts = s.parts := by cases p <;> rfl
@[simp] theorem State.modPort_slots (p : Port) (f : HostPort → HostPort) : (s.modPort p f).slots = s.slots := by cases p <;> rfl
@[simp] theorem State.modPort_slotPri (p : Port) (f : HostPort → HostPort) : (s.modPort p f).slotPri = s.slotPri := by cases p <;> rfl
@[simp] theorem State.modPort_slotOrder (p : Port) (f : HostPort → HostPort) : (s.modPort p f).slotOrder = s.slotOrder := by cases p <;> rfl
@[simp] theorem State.modPort_check (p : Port) (f : HostPort → HostPort) : (s.modPort p f).check = s.check := by cases p <;> rfl
@[simp] theorem State.modPort_lastCtx (p : Port) (f : HostPort → HostPort) : (s.modPort p f).lastCtx = s.lastCtx := by cases p <;> rfl
@[simp] theorem State.modPort_chain (p : Port) (f : HostPort → HostPort) : (s.modPort p f).chain = s.chain := by cases p <;> rfl
@[simp] theorem State.modPort_transients (p : Port) (f : HostPort → HostPort) : (s.modPort p f).transients = s.transients := by cases p <;> rfl
@[simp] theorem State.modPort_tests (p : Port) (f : HostPort → HostPort) : (s.modPort p f).tests = s.tests := by cases p <;> rfl
@[simp] theorem State.modPort_xings (p : Port) (f : HostPort → HostPort) : (s.modPort p f).xings = s.xings := by cases p <;> rfl
@[simp] theorem State.modPort_dailies (p : Port) (f : HostPort → HostPort) : (s.modPort p f).dailies = s.dailies := by cases p <;> rfl
@[simp] theorem State.modPort_flash (p : Port) (f : HostPort → HostPort) : (s.modPort p f).flash = s.flash := by cases p <;> rfl
@[simp] theorem State.modPort_idFaults (p : Port) (f : HostPort → HostPort) : (s.modPort p f).idFaults = s.idFaults := by cases p <;> rfl
@[simp] theorem State.modPort_issue (p : Port) (f : HostPort → HostPort) : (s.modPort p f).issue = s.issue := by cases p <;> rfl
@[simp] theorem State.modPort_cert (p : Port) (f : HostPort → HostPort) : (s.modPort p f).cert = s.cert := by cases p <;> rfl
@[simp] theorem State.modPort_ringE (p : Port) (f : HostPort → HostPort) : (s.modPort p f).ringE = s.ringE := by cases p <;> rfl
@[simp] theorem State.modPort_ringW (p : Port) (f : HostPort → HostPort) : (s.modPort p f).ringW = s.ringW := by cases p <;> rfl
@[simp] theorem State.modPort_dupId (p : Port) (f : HostPort → HostPort) : (s.modPort p f).dupId = s.dupId := by cases p <;> rfl
@[simp] theorem State.modPort_spines (p : Port) (f : HostPort → HostPort) : (s.modPort p f).spines = s.spines := by cases p <;> rfl
@[simp] theorem State.modPort_spineOut (p : Port) (f : HostPort → HostPort) : (s.modPort p f).spineOut = s.spineOut := by cases p <;> rfl
@[simp] theorem State.modPort_level4 (p : Port) (f : HostPort → HostPort) : (s.modPort p f).level4 = s.level4 := by cases p <;> rfl
@[simp] theorem State.modPort_level5 (p : Port) (f : HostPort → HostPort) : (s.modPort p f).level5 = s.level5 := by cases p <;> rfl
@[simp] theorem State.modPort_jtag (p : Port) (f : HostPort → HostPort) : (s.modPort p f).jtag = s.jtag := by cases p <;> rfl
@[simp] theorem State.modPort_freeCtr (p : Port) (f : HostPort → HostPort) : (s.modPort p f).freeCtr = s.freeCtr := by cases p <;> rfl
@[simp] theorem State.modPort_pending (p : Port) (f : HostPort → HostPort) : (s.modPort p f).pending = s.pending := by cases p <;> rfl

/-! ### modRing -/

@[simp] theorem State.modRing_pins (p : RingPort) (f : RingState → RingState) : (s.modRing p f).pins = s.pins := by cases p <;> rfl
@[simp] theorem State.modRing_serial (p : RingPort) (f : RingState → RingState) : (s.modRing p f).serial = s.serial := by cases p <;> rfl
@[simp] theorem State.modRing_signKey (p : RingPort) (f : RingState → RingState) : (s.modRing p f).signKey = s.signKey := by cases p <;> rfl
@[simp] theorem State.modRing_straps (p : RingPort) (f : RingState → RingState) : (s.modRing p f).straps = s.straps := by cases p <;> rfl
@[simp] theorem State.modRing_slate (p : RingPort) (f : RingState → RingState) : (s.modRing p f).slate = s.slate := by cases p <;> rfl
@[simp] theorem State.modRing_time (p : RingPort) (f : RingState → RingState) : (s.modRing p f).time = s.time := by cases p <;> rfl
@[simp] theorem State.modRing_trims (p : RingPort) (f : RingState → RingState) : (s.modRing p f).trims = s.trims := by cases p <;> rfl
@[simp] theorem State.modRing_iu (p : RingPort) (f : RingState → RingState) : (s.modRing p f).iu = s.iu := by cases p <;> rfl
@[simp] theorem State.modRing_gaffer (p : RingPort) (f : RingState → RingState) : (s.modRing p f).gaffer = s.gaffer := by cases p <;> rfl
@[simp] theorem State.modRing_rails (p : RingPort) (f : RingState → RingState) : (s.modRing p f).rails = s.rails := by cases p <;> rfl
@[simp] theorem State.modRing_stages (p : RingPort) (f : RingState → RingState) : (s.modRing p f).stages = s.stages := by cases p <;> rfl
@[simp] theorem State.modRing_edges (p : RingPort) (f : RingState → RingState) : (s.modRing p f).edges = s.edges := by cases p <;> rfl
@[simp] theorem State.modRing_parts (p : RingPort) (f : RingState → RingState) : (s.modRing p f).parts = s.parts := by cases p <;> rfl
@[simp] theorem State.modRing_portA (p : RingPort) (f : RingState → RingState) : (s.modRing p f).portA = s.portA := by cases p <;> rfl
@[simp] theorem State.modRing_portB (p : RingPort) (f : RingState → RingState) : (s.modRing p f).portB = s.portB := by cases p <;> rfl
@[simp] theorem State.modRing_slots (p : RingPort) (f : RingState → RingState) : (s.modRing p f).slots = s.slots := by cases p <;> rfl
@[simp] theorem State.modRing_slotPri (p : RingPort) (f : RingState → RingState) : (s.modRing p f).slotPri = s.slotPri := by cases p <;> rfl
@[simp] theorem State.modRing_slotOrder (p : RingPort) (f : RingState → RingState) : (s.modRing p f).slotOrder = s.slotOrder := by cases p <;> rfl
@[simp] theorem State.modRing_check (p : RingPort) (f : RingState → RingState) : (s.modRing p f).check = s.check := by cases p <;> rfl
@[simp] theorem State.modRing_lastCtx (p : RingPort) (f : RingState → RingState) : (s.modRing p f).lastCtx = s.lastCtx := by cases p <;> rfl
@[simp] theorem State.modRing_chain (p : RingPort) (f : RingState → RingState) : (s.modRing p f).chain = s.chain := by cases p <;> rfl
@[simp] theorem State.modRing_transients (p : RingPort) (f : RingState → RingState) : (s.modRing p f).transients = s.transients := by cases p <;> rfl
@[simp] theorem State.modRing_tests (p : RingPort) (f : RingState → RingState) : (s.modRing p f).tests = s.tests := by cases p <;> rfl
@[simp] theorem State.modRing_xings (p : RingPort) (f : RingState → RingState) : (s.modRing p f).xings = s.xings := by cases p <;> rfl
@[simp] theorem State.modRing_dailies (p : RingPort) (f : RingState → RingState) : (s.modRing p f).dailies = s.dailies := by cases p <;> rfl
@[simp] theorem State.modRing_flash (p : RingPort) (f : RingState → RingState) : (s.modRing p f).flash = s.flash := by cases p <;> rfl
@[simp] theorem State.modRing_idFaults (p : RingPort) (f : RingState → RingState) : (s.modRing p f).idFaults = s.idFaults := by cases p <;> rfl
@[simp] theorem State.modRing_issue (p : RingPort) (f : RingState → RingState) : (s.modRing p f).issue = s.issue := by cases p <;> rfl
@[simp] theorem State.modRing_cert (p : RingPort) (f : RingState → RingState) : (s.modRing p f).cert = s.cert := by cases p <;> rfl
@[simp] theorem State.modRing_dupId (p : RingPort) (f : RingState → RingState) : (s.modRing p f).dupId = s.dupId := by cases p <;> rfl
@[simp] theorem State.modRing_spines (p : RingPort) (f : RingState → RingState) : (s.modRing p f).spines = s.spines := by cases p <;> rfl
@[simp] theorem State.modRing_spineOut (p : RingPort) (f : RingState → RingState) : (s.modRing p f).spineOut = s.spineOut := by cases p <;> rfl
@[simp] theorem State.modRing_level4 (p : RingPort) (f : RingState → RingState) : (s.modRing p f).level4 = s.level4 := by cases p <;> rfl
@[simp] theorem State.modRing_level5 (p : RingPort) (f : RingState → RingState) : (s.modRing p f).level5 = s.level5 := by cases p <;> rfl
@[simp] theorem State.modRing_jtag (p : RingPort) (f : RingState → RingState) : (s.modRing p f).jtag = s.jtag := by cases p <;> rfl
@[simp] theorem State.modRing_freeCtr (p : RingPort) (f : RingState → RingState) : (s.modRing p f).freeCtr = s.freeCtr := by cases p <;> rfl
@[simp] theorem State.modRing_pending (p : RingPort) (f : RingState → RingState) : (s.modRing p f).pending = s.pending := by cases p <;> rfl

/-! ### Reads after updates -/

theorem modAt_same {α : Type} {xs : List α} {n : Nat} {x : α} (f : α → α) (h : xs[n]? = some x) :
    (modAt xs n f)[n]? = some (f x) := by simp [modAt, h]

theorem modAt_other {α : Type} {xs : List α} {n m : Nat} (f : α → α) (h : m ≠ n) : (modAt xs n f)[m]? = xs[m]? := by
  simp [modAt, h.symm]

theorem State.stage_modStage {s : State} {n : Nat} {st : Stage} (f : Stage → Stage) (h : s.stage n = some st) :
    (s.modStage n f).stage n = some (f st) := modAt_same f h

theorem State.stage_modStage_other {n m : Nat} (f : Stage → Stage) (h : m ≠ n) :
    (s.modStage n f).stage m = s.stage m := modAt_other f h

theorem State.stage_putStage {s : State} {n : Nat} {st : Stage} (x : Stage) (h : s.stage n = some st) :
    (s.putStage n x).stage n = some x := modAt_same _ h

theorem State.stage_putStage_other {n m : Nat} (x : Stage) (h : m ≠ n) : (s.putStage n x).stage m = s.stage m :=
  modAt_other _ h

theorem State.ctx_modCtx {s : State} {p : Nat} {c : Ctx} (f : Ctx → Ctx) (h : s.ctx p = some c) :
    (s.modCtx p f).ctx p = some (f c) := by
  have h1 : s.parts[p]? = some (some c) := by
    unfold State.ctx at h
    cases hp : s.parts[p]? with
    | none => rw [hp] at h; cases h
    | some o => rw [hp] at h; exact congrArg some h
  unfold State.ctx
  rw [State.modCtx_parts, modAt_same _ h1]
  rfl

theorem State.ctx_modCtx_other {p q : Nat} (f : Ctx → Ctx) (h : q ≠ p) : (s.modCtx p f).ctx q = s.ctx q := by
  unfold State.ctx
  rw [State.modCtx_parts, modAt_other _ h]

@[simp] theorem State.port_modPort (p : Port) (f : HostPort → HostPort) : (s.modPort p f).port p = f (s.port p) := by
  cases p <;> rfl

theorem State.port_modPort_other {p q : Port} (f : HostPort → HostPort) (h : q ≠ p) :
    (s.modPort p f).port q = s.port q := by cases p <;> cases q <;> first | rfl | exact absurd rfl h

@[simp] theorem State.ring_modRing (p : RingPort) (f : RingState → RingState) : (s.modRing p f).ring p = f (s.ring p) := by
  cases p <;> rfl

/-! ### What forming records changes -/

/-- Forming a record changes the record queues alone. -/
theorem State.emit_frame (c e : BitVec 8) (b : RecBody) : s.emit c e b = s.recordsOf (s.emit c e b) := rfl

theorem State.emitTo_frame (p : Port) (b : RecBody) : s.emitTo p b = s.recordsOf (s.emitTo p b) := by cases p <;> rfl

theorem State.logEntry_frame (k : Nat) (c e : BitVec 8) (b : List Byte) :
    s.logEntry k c e b = s.recordsOf (s.logEntry k c e b) := rfl

theorem State.errorEvent_frame (e : ErrReport) (a : Nat) (o : BitVec 16) :
    s.errorEvent e a o = s.recordsOf (s.errorEvent e a o) := by unfold State.errorEvent; rfl

theorem State.discipline_frame (c : Nat) : s.discipline c = s.recordsOf (s.discipline c) := rfl

/-- Starting or joining a test changes the tests alone. -/
theorem State.joinTest_frame (u : UnitId) (k : Nat) (w : TestWait) :
    s.joinTest u k w = { s with tests := (s.joinTest u k w).tests } := by
  unfold State.joinTest; split <;> rfl

end Sys2Proof.Machine
end

