-- ==== Sys2Proof/WellFormed.lean ====
section
/-! DEFINITION. Well-formed commands: every operand names something the block has. A command that names nothing has
no effect in the model; the block never sees one. -/

namespace Sys2Proof

/-- A stage number (R15). -/
def stageOk (n : Nat) : Bool := decide (n < numStages)
/-- A partition number (R38). -/
def partOk (p : Nat) : Bool := decide (p < 8)
/-- A stage rail 0 to 23, or an array segment 24 to 27 (R268, R275). -/
def railOk (x : Nat) : Bool := decide (x < 28)
/-- A physical bank: 48 in use and 2 spare (R27). -/
def physBankOk (b : Nat) : Bool := decide (b < 50)
/-- A spine segment: 12 columns of 9 segments (R425). -/
def segmentNamed (col seg : Nat) : Bool := decide (col < 12) && decide (seg < 9)
/-- A mesh trim setting: 0 to 126 ps in steps of 2 ps (R138). -/
def settingOk (v : Nat) : Bool := decide (v ≤ 126) && decide (v % 2 = 0)
/-- The logical lanes of a splice direction: 2,112 data and check lanes, the strobe and the notice (R221). -/
abbrev laneTotal : Nat := 2114
/-- A fetched descriptor holds at most 64 bytes (R399, R402). -/
def fetchOk (f : Fetch) : Bool := decide (f.bytes.length ≤ 64)
/-- A stamper or channel of the interval unit (R263). -/
def channelOk (x : Nat × List Nat) : Bool := decide (x.1 < 397) && decide (x.2.length = 256)

/-- A tap code of a stamper: a bin from 0 to 255 (R260). -/
def tapOk (tap : Nat) : Bool := decide (tap < 256)
/-- A slack code: 0 to 63 (R150). -/
def codeOk (c : Nat) : Bool := decide (c < 64)
/-- A crossing's site: a stage or an edge block (Table 6.6). -/
def siteOk (xid : BitVec 16) : Bool := decide (xid.toNat / 256 < 0x64)
/-- A side of a stage at the edge of the array, where a boundary splice leads to an edge block (R15, R213). -/
def boundary (n : Nat) : Side → Bool
  | .north => decide (n / 12 = 0)
  | .east => decide (n % 12 = 11)
  | .south => decide (n / 12 = 7)
  | .west => decide (n % 12 = 0)
/-- An end of a splice: a stage's, or the edge block's of a boundary splice (R213). -/
def endOk (n : Nat) (side : Side) (edge : Bool) : Bool := stageOk n && (!edge || boundary n side)
/-- A failing lane that exists (R221, R539). -/
def badLaneOk (b : BadLane) : Bool := stageOk b.stage && decide (b.lane < laneTotal)
/-- A read of one of the six AVSBus interfaces (Table 2.12). -/
def avsReadOk (r : AvsRead) : Bool := decide (r.iface < 6)
/-- A host link trains at 1 to 16 lanes (R483). -/
def linkErrorOk : LinkError → Bool
  | .narrow lanes => decide (1 ≤ lanes) && decide (lanes ≤ 16)
  | _ => true

/-- A flash area that exists: copies are numbered 0 and 1 (Table 16.6). -/
def areaOk : FlashArea → Bool
  | .identity => true
  | .ledger c => decide (c < 2)
  | .days c => decide (c < 2)
  | .chain c => decide (c < 2)
  | .retire c => decide (c < 2)
  | .table t => decide (t < 397)

/-- A unit that exists (Table 12.16). -/
def unitOk : UnitId → Bool
  | .engine n p => stageOk n && decide (p < 50)
  | .bank n p => stageOk n && physBankOk p
  | .bankCol n p sub _ => stageOk n && physBankOk p && decide (sub < 16)
  | .bankRow n p sub row => stageOk n && physBankOk p && decide (sub < 16) && decide (row < 1024)
  | .scriptRow n _ => stageOk n
  | .clockPath n => stageOk n
  | .spliceDir n _ _ => stageOk n
  | .channel n _ => stageOk n
  | .crossing xid => siteOk xid
  | .rail x => railOk x
  | .sense n => stageOk n
  | .ringLane _ lane => decide (lane < 16)
  | .detector n d => stageOk n && decide (d < 16)

/-- A command whose operands all name something the block has. -/
def Instr.wf : Instr → Bool
  | .powerGoodRise => true
  | .powerGoodFall => true
  | .resetAssert _ => true
  | .resetRelease _ => true
  | .referencePllLock => true
  | .referenceLockTimeout => true
  | .referenceFault _ _ => true
  | .supervisorMismatch _ _ => true
  | .strapRead mv => decide (mv.length = 23) && mv.all (fun x => decide (x.length = 3))
  | .meshTrimBoot ps => decide (ps.length = 64) && ps.all settingOk
  | .meshTrimUpdate dir => decide (dir.length = 64) && dir.all (fun d => decide (-1 ≤ d) && decide (d ≤ 1))
  | .carrierFlashBootRead bad => bad.all areaOk
  | .dailiesBootCopy _ => true
  | .bootStageBist failing badLanes badRails => failing.all unitOk && badLanes.all badLaneOk && badRails.all railOk
  | .bootEnd => true
  | .dailiesAreaErase => true
  | .slateRequest _ _ => true
  | .slateRelease _ => true
  | .slateHeartbeat _ => true
  | .slateRevocation => true
  | .slateReeligible _ => true
  | .capCodeAccept _ _ => true
  | .capCrossingError _ => true
  | .cmdIdle _ => true
  | .cmdCutAll _ => true
  | .cmdPark _ => true
  | .cmdUnpark _ => true
  | .cmdChipComputeReset _ => true
  | .cmdDumpPowerCycle _ _ _ => true
  | .cmdRediscipline _ => true
  | .cmdCalibrateNow _ => true
  | .cmdStrobeFall _ => true
  | .cmdCrossingError _ => true
  | .coolantStop _ => true
  | .coolantGlitch _ _ => true
  | .temperatureReading n sensor _ => stageOk n && decide (sensor < 4)
  | .thermWarnDeassert => true
  | .tick => true
  | .commitCutoff => true
  | .idleCountExpiry n => stageOk n
  | .unassignedCountExpiry n => stageOk n
  | .stageRelease n => stageOk n
  | .releaseComplete n _ => stageOk n
  | .lightsOutHandshake n _ _ => stageOk n
  | .lightsOutRequestReceived n _ => stageOk n
  | .lightsOnHandshake n _ => stageOk n
  | .lightsOnRequestReceived n _ => stageOk n
  | .crossingTimeout xid => siteOk xid
  | .doubleSampleFailure xid => siteOk xid
  | .stagePowerUp n => stageOk n
  | .stageReady n => stageOk n
  | .powerSwitchRampFailure n => stageOk n
  | .powerSwitchRetry n => stageOk n
  | .submit _ _ => true
  | .submissionDescriptorFetched a b => a.all fetchOk && b.all fetchOk
  | .cutWord _ _ => true
  | .bind _ _ => true
  | .bindDescriptorFetched _ f => fetchOk f
  | .consumed _ _ => true
  | .unbind _ _ => true
  | .mailboxWriteMalformed _ _ => true
  | .bar0WriteBeforeBootEnd _ _ => true
  | .hostPortReset _ _ => true
  | .hostLinkError _ kind => linkErrorOk kind
  | .hostPortReturn _ => true
  | .loadCheckStart => true
  | .loadCheckReadComplete _ => true
  | .acceptanceStep => true
  | .reelLoad part body _ => partOk part && decide (body.length % 64 = 0)
  | .reelLoadComplete part _ => partOk part
  | .loadTimeout part => partOk part
  | .recordAtPortHead _ => true
  | .recordQueueDrop _ _ => true
  | .producerWordWrite _ => true
  | .msixRecordVector _ => true
  | .outputWritesComplete _ part => partOk part
  | .gafferUpdate => true
  | .capUnattainable => true
  | .issueLimitReceived n => stageOk n
  | .senseSweep => true
  | .senseSweepComplete readings monitors => readings.all avsReadOk && decide (monitors.length = 96)
  | .gainClampOrSenseMissing x => railOk x
  | .railRecheck x => railOk x
  | .railRecheckComplete x _ => railOk x
  | .slackToVolts => true
  | .avsbusWriteFailed x => decide (x < 24)
  | .droopTrip n det _ _ _ => stageOk n && decide (det < 16)
  | .droopClear n det _ _ => stageOk n && decide (det < 16)
  | .haltEnd n _ => stageOk n
  | .persistentDroop n => stageOk n
  | .droopOverrunLimit n => stageOk n
  | .noticeAssert n => stageOk n
  | .spliceRealign n _ => stageOk n
  | .spliceBeatReceived n side edge _ _ => endOk n side edge
  | .spliceNakReplay n side edge => endOk n side edge
  | .spliceLaneTestThreshold n side edge => endOk n side edge
  | .spliceMapSwitch n side edge lanes => endOk n side edge && lanes.all (fun x => decide (x.1 < laneTotal))
  | .spliceFailed n side edge => endOk n side edge
  | .spliceTrimAverage n _ _ _ => stageOk n
  | .thinMargin n codes => stageOk n && codes.all codeOk
  | .coreRetuneLock n core => stageOk n && decide (core < 2)
  | .coreLockLost n core => stageOk n && decide (core < 2)
  | .fmaxDerate n => stageOk n
  | .ledgerWrite _ => true
  | .stepAccepted part => partOk part
  | .stepBroadcastReceived n => stageOk n
  | .shotRetire n _ _ => stageOk n
  | .nop n => stageOk n
  | .runahead n => stageOk n
  | .runaheadStart n => stageOk n
  | .eof n _ slack => stageOk n && slack.all codeOk
  | .repeat_ n _ _ _ => stageOk n
  | .seta n _ _ _ => stageOk n
  | .inca n _ _ => stageOk n
  | .step n _ => stageOk n
  | .trace n _ => stageOk n
  | .mma n _ => stageOk n
  | .accld n _ => stageOk n
  | .accst n _ _ _ _ => stageOk n
  | .accadd n _ => stageOk n
  | .accz n _ _ _ => stageOk n
  | .movb n _ _ _ _ _ _ => stageOk n
  | .fillb n _ _ _ _ => stageOk n
  | .cvtb n _ => stageOk n
  | .vadd n _ => stageOk n
  | .vsub n _ => stageOk n
  | .vmul n _ => stageOk n
  | .vfma n _ => stageOk n
  | .vdiv n _ => stageOk n
  | .vsqrt n _ => stageOk n
  | .vmax n _ => stageOk n
  | .vmin n _ => stageOk n
  | .vabs n _ => stageOk n
  | .vneg n _ => stageOk n
  | .vrelu n _ => stageOk n
  | .vmov n _ => stageOk n
  | .vrsum n _ => stageOk n
  | .vcsum n _ => stageOk n
  | .vscal n _ => stageOk n
  | .vaddi n _ => stageOk n
  | .vfill n _ => stageOk n
  | .send n _ => stageOk n
  | .recv n _ => stageOk n
  | .sigt n _ _ _ _ => stageOk n
  | .waitt n _ _ => stageOk n
  | .commit n _ _ _ _ => stageOk n
  | .tokenSignalArrival n _ _ _ _ => stageOk n
  | .scriptStoreUncorrectable n word bits => stageOk n && decide (word < 262144) && (decide (bits = 1) || decide (bits = 2))
  | .bankUncorrectable n phys line _ _ => stageOk n && physBankOk phys && decide (line < 65536)
  | .prefetchSquashError n phys line => stageOk n && physBankOk phys && decide (line < 65536)
  | .columnDetector n phys sub _ rows => stageOk n && physBankOk phys && decide (sub < 16) && rows.all (fun r => decide (r < 1024))
  | .cellTracker n phys sub row _ => stageOk n && physBankOk phys && decide (sub < 16) && decide (row < 1024)
  | .errorEventReceived e => decide (e.stage < 0x64) || decide (e.stage = 0xFF)
  | .rollbackAbort n => stageOk n
  | .rollbackComplete n => stageOk n
  | .retakeLimit part => partOk part
  | .selfTestComplete unit _ => unitOk unit
  | .substitution unit => unitOk unit
  | .substitutionCopyComplete unit => unitOk unit
  | .scriptBlockReload n _ _ => stageOk n
  | .hang part => partOk part
  | .ringStall _ => true
  | .cutAccept part _ => partOk part
  | .cutTick part => partOk part
  | .cutNotice n => stageOk n
  | .cutStopped n => stageOk n
  | .cutComplete part _ => partOk part
  | .stageDump n _ => stageOk n
  | .escalationBoundExpiry level part => decide (1 ≤ level) && decide (level ≤ 4) && partOk part
  | .engineReset part => partOk part
  | .partitionReset part _ => partOk part
  | .chipComputeReset failing _ => failing.all unitOk
  | .powerCycleRequest _ _ => true
  | .hourCount => true
  | .bootCalibrationComplete hits => hits.all channelOk
  | .calibrationCollectionComplete hits => hits.all channelOk
  | .calibrationAbandon => true
  | .gateArm => true
  | .intervalInputEdge input tap => decide (input < 9) && tapOk tap
  | .measurementClose => true
  | .measurementTimeout => true
  | .ppsEdge _ _ _ tap => tapOk tap
  | .disciplineLock => true
  | .ppsOutlierLoss => true
  | .ppsLoss => true
  | .disciplineRangeExceeded => true
  | .syncSend _ _ tap => tapOk tap
  | .syncReceived _ _ _ _ tap _ reqTap => tapOk tap && tapOk reqTap
  | .delayReqReceived _ _ _ tap => tapOk tap
  | .delayRespReceived _ _ => true
  | .slaveAcquire => true
  | .slaveLock => true
  | .slaveHoldover => true
  | .waferTimeStep => true
  | .tickInEdge _ tap => tapOk tap
  | .statusFrameSend _ => true
  | .statusFrameReceived _ _ => true
  | .ringFrameCrcFail _ _ => true
  | .ringPortUp _ => true
  | .ringLaneSuspect _ lane => decide (lane < 16)
  | .ringLaneTestComplete _ lane _ => decide (lane < 16)
  | .ringMapExchange _ => true
  | .ringPortFailed _ => true
  | .spineFlitCrcFail col seg => segmentNamed col seg
  | .spineSegmentFailed col seg => segmentNamed col seg
  | .spineFlitAtSink col seg _ _ => segmentNamed col seg
  | .rqToUnlitStage n _ => stageOk n
  | .jtagExtest => true
  | .jtagSamplePreload _ _ => true
  | .jtagIdcode => true
  | .jtagBypass opcode => decide (0x02 < opcode.toNat)
  | .d3hotEntry _ => true
  | .ringPartnerLost _ => true

end Sys2Proof
end

