-- ==== Sys2Proof/Tests/Slice0.lean ====
section
/-! SUPPORT. Tests of the model: the well-formedness checks, worked values of the manual, and for each statement concrete
states that meet its hypotheses, clause by clause, with what the command leaves there. -/

namespace Sys2Proof.Tests

set_option Elab.async false

open Sys2Proof Sys2Proof.Machine

/-! ### Small states -/

/-- A command answers a next state of which a check holds. -/
def leaves (o : Host.Outcome State Fault Refusal) (f : State → Bool) : Bool :=
  match o with
  | .next t => f t
  | _ => false

/-- A command answers exactly a state. -/
def gives (o : Host.Outcome State Fault Refusal) (t : State) : Bool := leaves o (fun u => decide (u = t))

/-- A module in boot phase `k`, with no fuse or flash contents of its own. -/
def bootAt (k : Nat) : State :=
  { State.reset with
    serial := 7, signKey := 3
    flash := { Flash.reset with identity := [] }
    stages := List.replicate 96 { Stage.reset 0 with fused := 15, usable := 15 }
    pins := { Pins.reset with pwrGood := true, resetN := true, booting := true, bootPhase := k }
    time := { TimeBase.reset with onPll := true, refOut := true, epochFixed := true } }

/-- The module after boot, with the slate at port A. -/
def up : State :=
  { bootAt 5 with
    pins := { (bootAt 5).pins with booting := false, bootDone := true, issueStopped := false, bypassOpen := true }
    slate := { Slate.reset with reqA := true, holder := some .a } }

/-- A call sheet of one row and two stages, one kind each, last frame 3, with one splice entry and one output. -/
def reel : Reel :=
  let k : KindEntry := { first := 0, cycles := 100, feet := List.replicate 48 (16, 16) }
  let r : StageRec := { row := 0, col := 0, kind0 := 0, words := 512, scriptOff := 0, staging := 0, kinds := [k] }
  { h := 1, w := 2, floor := 4, oper := 8, peak := 100, last := 3, stages := [{ r with staging := 1 }, { r with col := 1 }]
    sched := [{ row := 0, col := 0, side := .east, kind := 0, slot := 0, beats := 1 }], segs := []
    outs := [{ row := 0, col := 0, port := 0, tag := false, offset := 0, lines := 1, count := 4, base := 0, stride := 4096 }]
    hash := List.replicate 32 0, scripts := 512, memory := 0 }

/-- A context of that call sheet in partition 0, its frame 0 in progress. -/
def ctx0 : Ctx :=
  { id := 1, epoch := 0, tag := 9, port := .a, slot := 0, origin := 0, reel := reel, loadAt := 0, loadOk := some 0
    loaded := true, begun := true, inFrame := true, frame := 0, take := 0, action := none, slips := 0, retakes := 0
    rollback := none, rolledRun := 0, oper := 8, stepReq := none, noProg := 0, counted := false, cut := none, level := none
    named := none
    ended := none, endDue := none, recorded := false, released := [], totals := .zero, outs := [], startStamp := 0
    startTick := 0, startEpoch := 0, startEra := 0, startEnergy := 0, maxCtx := 1, sumCtx := 0, standIns := 0 }

/-- An open splice end. -/
def open_ : Link := { Link.start with marked := false, usable := true, partner := 8 }

/-- A script word: an opcode and its fields, each with its lowest bit (Table 9.2). -/
def wd (op : Nat) (fs : List (Nat × Nat)) : BitVec 64 :=
  BitVec.ofNat 64 (op * 2 ^ 58 + (fs.map (fun f => f.2 * 2 ^ f.1)).sum)

/-- A lit stage of partition 0 with both cores locked, at step 8 with its spare at 7. -/
def lit : Stage :=
  { Stage.reset 0 with
    fused := 15, usable := 15, st := .lit, part := some 0, ready := true, scriptLen := 512
    clock := { Clock.off with
      core0 := { step := 8, locked := true }, core1 := { step := 7, locked := true }, tau := 8, resync := false }
    linkN := open_, linkE := open_, linkS := open_, linkW := open_ }

/-- The module with that context in partition 0 on stages 0 and 1, as changed. -/
def work (st : Stage) (c : Ctx) : State :=
  { up with stages := st :: lit :: up.stages.drop 2, parts := some c :: List.replicate 7 none, lastCtx := 1 }

/-- It with nothing changed. -/
def w0 : State := work lit ctx0

/-- A stage with one word in its script store. -/
def script1 (st : Stage) (w : BitVec 64) : Stage := { st with script := [(0, w)] }

/-! ### Power, reset and boot -/

theorem test_power_good_rise :
    (State.reset.pins.pwrGood = false ∧ State.reset.pins.resetN = false ∧
      leaves (exec .powerGoodRise State.reset) (fun t => t.pins.pwrGood && !t.pins.booting)) ∧
    (let s : State := { State.reset with pins := { Pins.reset with resetN := true } };
      s.pins.pwrGood = false ∧ s.pins.resetN = true ∧ s.pins.stop = none ∧ s.pins.failed = false ∧
        s.pins.pwrCycleReq = false ∧ leaves (exec .powerGoodRise s) (fun t => t.pins.booting && t.pins.bootPhase = 1)) ∧
    (let s : State := { State.reset with pins := { Pins.reset with resetN := true, stop := some true } };
      s.pins.pwrGood = false ∧ s.pins.stop.isSome ∧ leaves (exec .powerGoodRise s) (fun t => !t.pins.booting)) ∧
    (let s : State := { State.reset with pins := { Pins.reset with resetN := true, failed := true } };
      s.pins.pwrGood = false ∧ s.pins.failed = true ∧ leaves (exec .powerGoodRise s) (fun t => !t.pins.booting)) := by
  decide +kernel

/-- A coolant stop with RESET_N asserted: 1 ms of coolant clears it, less does not. -/
def stopped : State := { State.reset with pins := { Pins.reset with pwrGood := true, stop := some false } }

theorem test_reset_release :
    (let s : State := { State.reset with pins := { Pins.reset with pwrGood := true } };
      s.pins.resetN = false ∧ s.pins.failed = false ∧ s.pins.pwrCycleReq = false ∧ s.pins.pwrGood = true ∧
        s.pins.stop = none ∧ leaves (exec (.resetRelease 0) s) (fun t => t.pins.booting && t.pins.bootPhase = 1)) ∧
    (State.reset.pins.resetN = false ∧ State.reset.pins.pwrGood = false ∧
      leaves (exec (.resetRelease 5) State.reset) (fun t => t.pins.resetN && t.pins.coolA && !t.pins.booting)) ∧
    (stopped.pins.stop.isSome ∧ leaves (exec (.resetRelease 999999) stopped) (fun t =>
      t.pins.stop.isSome && !t.pins.booting)) ∧
    (stopped.pins.pwrGood = true ∧ stopped.sensorsBelow (stopped.trip - 15) = true ∧
      leaves (exec (.resetRelease 1000000) stopped) (fun t => t.pins.stop.isNone && t.pins.booting)) := by
  decide +kernel

theorem test_shutdown :
    (w0.pins.pwrGood = true ∧ w0.pins.pwrCycleReq = false ∧ leaves (exec .powerGoodFall w0) (fun t =>
      !t.pins.pwrGood && t.parts.all Option.isNone && t.stages.all (fun st => st.st = .unlit) &&
        decide (t.dailies = w0.dailies))) ∧
    (let s : State := { w0 with pins := { w0.pins with pwrCycleReq := true, failed := true } };
      s.pins.pwrGood = true ∧ s.pins.pwrCycleReq = true ∧ leaves (exec .powerGoodFall s) (fun t =>
        !t.pins.failed && !t.dailies.valid)) ∧
    gives (exec (.resetAssert 999) w0) w0 ∧
    leaves (exec (.resetAssert 1000) w0) (fun t => !t.pins.resetN && t.parts.all Option.isNone) := by decide +kernel

theorem test_reference_and_supervisor :
    (let s : State := { bootAt 1 with time := { (bootAt 1).time with onPll := false, refOut := false } };
      s.pins.pwrGood = true ∧ s.time.onPll = false ∧ s.pins.failed = false ∧ s.pins.booting = true ∧
        s.pins.bootPhase = 1 ∧ leaves (exec .referencePllLock s) (fun t => t.time.epochFixed && t.pins.bootPhase = 2) ∧
        leaves (exec .referenceLockTimeout s) (fun t => t.pins.failed && t.pins.pwrCycleReq &&
          (t.dailies.log.getLast?.map LogEntry.kind) = some 0x05)) ∧
    (let s : State := { up with time := { up.time with onPll := false } };
      s.pins.pwrGood = true ∧ s.time.onPll = false ∧ s.pins.failed = false ∧ s.pins.booting = false ∧
        leaves (exec .referencePllLock s) (fun t => t.time.onPll)) ∧
    (w0.time.onPll = true ∧ w0.inReset = false ∧ w0.pins.failed = false ∧
      leaves (exec (.referenceFault 500 true) w0) (fun t => t.pins.failed && t.level5.isSome && t.pins.pwrCycleReq) ∧
      leaves (exec (.supervisorMismatch 3 true) w0) (fun t => t.pins.failed && t.level5.isSome)) ∧
    (let s : State := { w0 with pins := { w0.pins with failed := true } };
      s.time.onPll = true ∧ s.inReset = false ∧ s.pins.failed = true ∧
        leaves (exec (.referenceFault 70000 true) s) (fun t => !t.time.onPll && !t.time.refOut && t.time.refFault &&
          (t.dailies.log.getLast?.map LogEntry.payload) = some [0xFF, 0xFF])) ∧
    (let s : State := { State.reset with time := { TimeBase.reset with onPll := true, refOut := true } };
      s.time.onPll = true ∧ s.inReset = true ∧
        leaves (exec (.referenceFault 500 true) s) (fun t => !t.time.onPll && !t.time.refOut && !t.time.refFault)) := by
  decide +kernel

theorem test_boot_reads :
    (let mv := List.replicate 23 [0, 0, 0];
      (bootAt 2).pins.booting = true ∧ (bootAt 2).pins.bootPhase = 2 ∧ mv.length = 23 ∧
        gives (exec (.strapRead mv) (bootAt 2)) { bootAt 2 with
          straps := strapsOf (mv.map strapCode), pins := { (bootAt 2).pins with bootPhase := 3 } }) ∧
    (let ps := 126 :: List.replicate 63 0;
      ps.length = 64 ∧ (∀ v ∈ ps, v ≤ 126 ∧ v % 2 = 0) ∧
        gives (exec (.meshTrimBoot ps) (bootAt 2)) { bootAt 2 with trims := ps }) ∧
    (up.pins.bootDone = true ∧ up.inReset = false ∧
      leaves (exec (.meshTrimUpdate (List.replicate 64 1)) { up with trims := List.replicate 64 126 })
        (fun t => t.trims.all (fun v => v ≤ 126)) ∧
      leaves (exec (.meshTrimUpdate (List.replicate 64 1)) up) (fun t => t.trims.all (fun v => v ≤ 2))) := by
  decide +kernel

theorem test_boot_flash_and_copies :
    (let s : State := { bootAt 3 with flash := { (bootAt 3).flash with
        days0 := ({ seq := 1, day := 5, hour := 23, boot := 8 } : Days).bytes } };
      s.pins.booting = true ∧ s.pins.bootPhase = 3 ∧ daysOf s.flash.days1 = none ∧
        leaves (exec (.carrierFlashBootRead []) s) (fun t => t.pins.bootPhase = 4 && t.time.bootCount = 9 &&
          t.time.dayCount = 5 && t.time.hourCount = 23)) ∧
    (let d : Days := { seq := 1, day := 5, hour := 23, boot := 8 };
      let s : State := { bootAt 3 with flash := { (bootAt 3).flash with
        days0 := d.bytes, days1 := ({ d with seq := 2, boot := 11 } : Days).bytes } };
      daysOf s.flash.days0 = some d ∧ daysOf s.flash.days1 = some { d with seq := 2, boot := 11 } ∧
        leaves (exec (.carrierFlashBootRead []) s) (fun t => t.time.bootCount = 12 &&
          decide (daysOf t.flash.days0 = some { d with seq := 3, boot := 12 }) && t.flash.days1 = s.flash.days1)) ∧
    (leaves (exec (.carrierFlashBootRead []) (bootAt 3)) (fun t => t.time.bootCount = 1 && t.time.hourCount = 0)) ∧
    (let s : State := { bootAt 4 with dailies := { Dailies.absent with valid := true, unsaved := true, boot := 4 } };
      s.pins.booting = true ∧ s.pins.bootPhase = 4 ∧ s.dailies.valid = true ∧ s.dailies.unsaved = true ∧
        leaves (exec (.dailiesBootCopy true) s) (fun t => !t.dailies.unsaved && (t.newestSet.map DailiesSet.boot) = some 4) ∧
        gives (exec (.dailiesBootCopy false) s) s) ∧
    ((bootAt 4).idFaults.getLsbD 4 = false ∧ (∀ st ∈ (bootAt 4).stages, st.held = false) ∧
      leaves (exec (.bootStageBist [] [] []) (bootAt 4)) (fun t => t.pins.bootPhase = 5 && t.pins.bypassOpen)) ∧
    ((bootAt 5).pins.bootPhase = 5 ∧ (bootAt 5).slaveAlone = false ∧
      leaves (exec .bootEnd (bootAt 5)) (fun t => t.pins.bootDone && !t.pins.booting && t.dailies.valid)) ∧
    (let a : DailiesSet := { boot := 1, seq := 1, data := [] };
      let s : State := { up with
        dailies := { up.dailies with delivered := true }
        flash := { up.flash with dailies0 := some a, dailies1 := some { a with seq := 2 } } };
      s.pins.bootDone = true ∧ s.inReset = false ∧
        gives (exec .dailiesAreaErase s) { s with flash := { s.flash with dailies0 := none } }) := by decide +kernel

/-! ### Slate, cap, commands, coolant and temperature -/

theorem test_slate :
    (let s : State := { up with slate := Slate.reset };
      s.inReset = false ∧ s.slate.holder = none ∧ s.slate.inelA = false ∧ s.slate.inelB = false ∧ s.slate.reqA = false ∧
        s.slate.reqB = false ∧ leaves (exec (.slateRequest true false) s) (fun t => t.slate.holder = some .a) ∧
        leaves (exec (.slateRequest true true) s) (fun t => t.slate.holder = some .a && t.slate.tie = .b)) ∧
    (up.slate.holder = some .a ∧ leaves (exec (.slateRequest false true) up) (fun t =>
      t.slate.holder = some .a && t.slate.reqB)) ∧
    (let s : State := { up with slate := { up.slate with reqB := true } };
      s.slate.inelB = false ∧ leaves (exec (.slateRelease .a) s) (fun t => t.slate.holder = some .b)) ∧
    (up.slate.reqB = false ∧ leaves (exec (.slateRelease .a) up) (fun t => t.slate.holder = none)) ∧
    leaves (exec (.slateHeartbeat .a) { up with time := { up.time with wafer := 77 } }) (fun t => t.slate.hbAt = 77) ∧
    leaves (exec .slateRevocation up) (fun t => t.slate.holder = none && t.slate.inelA &&
      (t.dailies.log.getLast?.map LogEntry.payload) = some [0]) ∧
    (let s : State := { up with slate := { Slate.reset with inelA := true } };
      s.slate.inel .a = true ∧ s.slate.req .a = false ∧ leaves (exec (.slateReeligible .a) s) (fun t => !t.slate.inelA)) := by
  decide +kernel

theorem test_cap :
    (up.slate.holder = some .a ∧ up.inReset = false ∧
      gives (exec (.capCodeAccept .a 15) up) { up with slate := { up.slate with cap := some 15 } } ∧
      leaves (exec (.capCrossingError .a) up) (fun t => t.slate.cap = none &&
        (t.dailies.log.getLast?.map LogEntry.kind) = some 0x01)) ∧
    (up.slate.holder ≠ some .b ∧ gives (exec (.capCodeAccept .b 15) up) up) := by decide +kernel

theorem test_commands :
    (w0.inReset = false ∧ w0.slate.holder = some .a ∧ w0.slate.stb .a = false ∧ w0.code = 3 ∧ w0.level4 = none ∧
      w0.level5 = none ∧ gives (exec (.cmdIdle .a) w0) { w0 with slate := w0.slate.setHand .a true } ∧
      leaves (exec (.cmdCutAll .a) w0) (fun t => ((t.ctx 0).bind Ctx.cut).isSome) ∧
      leaves (exec (.cmdPark .a) w0) (fun t => t.pins.parked) ∧
      leaves (exec (.cmdChipComputeReset .a) w0) (fun t => t.level4.isSome) ∧
      leaves (exec (.cmdDumpPowerCycle .a true true) w0) (fun t => t.pins.pwrCycleReq && t.parts.all Option.isNone)) ∧
    (let s : State := { w0 with pins := { w0.pins with parked := true } };
      s.code = 4 ∧ s.pins.pwrCycleReq = false ∧ leaves (exec (.cmdUnpark .a) s) (fun t => !t.pins.parked) ∧
        leaves (exec (.cmdPark .a) s) (fun t => (t.dailies.log.getLast?.map LogEntry.payload) = some [0, 2, 4])) ∧
    leaves (exec (.cmdUnpark .a) w0) (fun t => (t.dailies.log.getLast?.map LogEntry.payload) = some [0, 3, 3]) ∧
    (w0.slate.holder ≠ some .b ∧ gives (exec (.cmdPark .b) w0) w0) := by decide +kernel

/-- The module with its PPS input strapped on, disciplined and locked, its anchor at zero. -/
def ppsOn : State :=
  { up with
    straps := { up.straps with levels := up.straps.levels.set 14 1 }
    time := { up.time with pps := { Pps.idle with anchor := some 0, acquired := true, locked := true } } }

theorem test_rediscipline_and_calibrate :
    (ppsOn.slate.holder = some .a ∧ ppsOn.slate.stb .a = false ∧ ppsOn.code = 2 ∧ ppsOn.ppsActive = true ∧
      ppsOn.time.pps.locked = true ∧
      leaves (exec (.cmdRediscipline .a) ppsOn) (fun t => !t.time.pps.acquired && t.time.holdover)) ∧
    (up.ppsActive = false ∧ up.isSlave = false ∧ up.code = 2 ∧
      leaves (exec (.cmdRediscipline .a) { up with time := { up.time with corr := 5 } }) (fun t => t.time.corr ≠ 5)) ∧
    (let s : State := { up with
        straps := { up.straps with levels := up.straps.levels.set 10 1 }
        time := { up.time with corr := 5, slave := { Slave.idle with acquired := true, locked := true } } };
      s.isSlave = true ∧ s.code = 2 ∧ leaves (exec (.cmdRediscipline .a) s) (fun t =>
        !t.time.slave.acquired && !t.time.slave.locked && t.time.corr = 5)) ∧
    (up.strap 18 ≠ 2 ∧ leaves (exec (.cmdCalibrateNow .a) up) (fun t => t.iu.collecting = some 2)) ∧
    (let s : State := { up with slate := { up.slate with stbA := true, ackA := true } };
      s.slate.stb .a = true ∧ leaves (exec (.cmdStrobeFall .a) s) (fun t => !t.slate.ackA)) ∧
    leaves (exec (.cmdCrossingError .a) up) (fun t => t.slate.ackA &&
      (t.dailies.log.getLast?.map LogEntry.kind) = some 0x01) := by decide +kernel

theorem test_coolant_and_thermal :
    (w0.inReset = false ∧ w0.pins.pwrGood = true ∧ w0.pins.stop = none ∧
      leaves (exec (.coolantStop .b) w0) (fun t => t.pins.stop = some false && !t.pins.coolB &&
        t.stages.all (fun st => st.st = .unlit)) ∧
      leaves (exec (.coolantGlitch .a 49) w0) (fun t =>
        (t.dailies.log.getLast?.map LogEntry.payload) = some [0, 49, 0] && t.pins.stop.isNone) ∧
      leaves (exec (.coolantGlitch .a 50) w0) (fun t => t.pins.stop = some false && t.pins.coolA)) ∧
    (State.reset.pins.resetN = false ∧ State.reset.pins.stop = none ∧
      leaves (exec (.coolantStop .a) State.reset) (fun t => t.pins.stop = some false && !t.pins.coolA)) ∧
    (stopped.pins.stop.isSome ∧ leaves (exec (.coolantStop .b) stopped) (fun t => !t.pins.coolB && t.pins.coolA)) ∧
    (w0.trip = 105 ∧ w0.stage 0 = some lit ∧ lit.st ≠ .retired ∧
      leaves (exec (.temperatureReading 0 3 89) w0) (fun t => !t.pins.thermWarn) ∧
      leaves (exec (.temperatureReading 0 3 90) w0) (fun t => t.pins.thermWarn) ∧
      leaves (exec (.temperatureReading 0 3 105) w0) (fun t => t.pins.stop.isNone)) ∧
    (let st : Stage := { lit with tempHot := [false, false, false, true] };
      (work st ctx0).stage 0 = some st ∧ st.tempHot.getD 3 false = true ∧
        leaves (exec (.temperatureReading 0 3 105) (work st ctx0)) (fun t => t.pins.stop = some true)) ∧
    (w0.sensorsBelow (w0.trip - 18) = true ∧
      leaves (exec .thermWarnDeassert { w0 with pins := { w0.pins with thermWarn := true } })
        (fun t => !t.pins.thermWarn)) := by decide +kernel

/-! ### Ticks, stages, crossings and power-up -/

theorem test_tick :
    ((bootAt 1).inReset = false ∧ gives (exec .tick { bootAt 1 with time := TimeBase.reset })
      { bootAt 1 with time := TimeBase.reset }) ∧
    ((bootAt 5).time.epochFixed = true ∧ (bootAt 5).pins.bootDone = false ∧
      leaves (exec .tick { bootAt 5 with time := { (bootAt 5).time with wafer := 1 } })
        (fun t => t.time.wafer = 4096000 && t.time.tickCount = 0)) ∧
    (w0.inReset = false ∧ w0.time.epochFixed = true ∧ w0.pins.bootDone = true ∧ w0.startTick.time.tickCount = 1 ∧
      ((w0.tickCtx 0).ctx 0).map Ctx.slips = some 1) := by decide +kernel

/-- A lit stage that has finished its frame. -/
def doneStage : Stage := { lit with seq := { lit.seq with eof := true, done := true } }

/-- The module with stages 0 and 1 both as given. -/
def both (st : Stage) (c : Ctx) : State := { work st c with stages := st :: st :: up.stages.drop 2 }

theorem test_tick_actions :
    (w0.pins.bootDone = true ∧ w0.inReset = false ∧ w0.ctx 0 = some ctx0 ∧ ctx0.ended = none ∧ ctx0.endDue = none ∧
      ctx0.cut = none ∧ w0.tickActionOf ctx0 = .wait ∧ leaves (exec .commitCutoff w0) (fun t =>
        ((t.ctx 0).bind Ctx.action) = some .wait)) ∧
    (let k : Cut := { mask := 1, fixed := false, noticed := false, told := [], stopped := [], resumed := false };
      let c : Ctx := { ctx0 with cut := some k };
      (work lit c).ctx 0 = some c ∧ c.cut = some k ∧
        leaves (exec .commitCutoff (work lit c)) (fun t => (((t.ctx 0).bind Ctx.cut).map Cut.fixed) = some true)) ∧
    (let c : Ctx := { ctx0 with endDue := some (false, 0x15, 0, 0) };
      (work lit c).ctx 0 = some c ∧ c.endDue.isSome ∧ gives (exec .commitCutoff (work lit c)) (work lit c)) ∧
    (let st : Stage := { doneStage with seq := { doneStage.seq with final := true } };
      ctx0.inFrame = true ∧ ctx0.rollback = none ∧ (both st ctx0).commitOk ctx0 = true ∧
        (both st ctx0).allFinal ctx0 = true ∧ (both st ctx0).tickActionOf ctx0 = .end_) ∧
    (let s : State := both doneStage ctx0;
      s.commitOk ctx0 = true ∧ s.allFinal ctx0 = false ∧ s.pins.parked = false ∧ ctx0.loaded = true ∧
        s.tickActionOf ctx0 = .commitBegin ∧
        { s with pins := { s.pins with parked := true } }.tickActionOf ctx0 = .commitHold) ∧
    (let rb : Rollback := { both := true, wait := [], aborted := [0, 1], kind := 1, stage := 0 };
      let c : Ctx := { ctx0 with rollback := some rb, rolledRun := 3 };
      rb.wait = [] ∧ c.rolledRun < 4 ∧ (work lit c).tickActionOf c = .retake ∧
        (work lit c).tickActionOf { c with rolledRun := 4 } = .wait) ∧
    (let c : Ctx := { ctx0 with inFrame := false, loaded := false };
      c.inFrame = false ∧ (work lit c).tickActionOf c = .hold) := by decide +kernel

theorem test_commit :
    (w0.ctx 0 = some ctx0 ∧ ctx0.reel.h ≠ 0 ∧ ctx0.reel.w ≠ 0 ∧ rowOf ctx0.origin + ctx0.reel.h ≤ 8 ∧
      colOf ctx0.origin + ctx0.reel.w ≤ 12 ∧ w0.stages.length = 96 ∧
      ((w0.commitFrame 0 ctx0).ctx 0).map Ctx.frame = some 1) ∧
    (let c : Ctx := { ctx0 with frame := BitVec.allOnes 48 };
      (work lit c).ctx 0 = some c ∧ (((work lit c).commitFrame 0 c).ctx 0).map Ctx.frame = some c.frame) := by
  decide +kernel

theorem test_idle_and_unassigned :
    (let st : Stage := { lit with skipping := true };
      let c : Ctx := { ctx0 with inFrame := false };
      (work st c).stage 0 = some st ∧ (work st c).ctxOf 0 = some (0, c) ∧ st.idle = 0 ∧ c.ended = none ∧
        leaves (exec (.idleCountExpiry 0) (work st c)) (fun t => (t.stage 0).map Stage.skipping = some false) ∧
        (let du : Stage := { st with st := .dark };
          (work du c).stage 0 = some du ∧ du.st = .dark ∧ leaves (exec (.idleCountExpiry 0) (work du c)) (fun t =>
            (t.stage 0).map (fun u => (u.st, u.traceBuf.map TraceEntry.kind)) = some (.lit, [2])))) ∧
    (let st : Stage := { lit with st := .dark, part := none, unassigned := 64 };
      let s : State := { up with stages := st :: up.stages.drop 1 };
      s.stage 0 = some st ∧ st.unassigned = 64 ∧ (∀ t ∈ s.tests, unitStage t.unit ≠ some 0) ∧
        leaves (exec (.unassignedCountExpiry 0) s) (fun t => (t.stage 0).bind Stage.closing = some .unlit)) := by
  decide +kernel

/-- A context that ended by its last frame, its stages releasing. -/
def ending : Ctx :=
  { ctx0 with ended := some { cut := false, cause := 0, row := 0xFF, col := 0xFF, stamp := 0, tick := 1, energy := 0
                              epochId := 0, era := 0 } }

theorem test_release :
    (let st : Stage := { lit with releasing := true, scratch := [(1, 1)] };
      (work st ending).stage 0 = some st ∧ st.releasing = true ∧
        leaves (exec (.stageRelease 0) (work st ending)) (fun t => (t.stage 0).map Stage.scratch = some [])) ∧
    (let st : Stage := { lit with releasing := true };
      let s : State := work st ending;
      s.stage 0 = some st ∧ s.ctxOf 0 = some (0, ending) ∧ st.zeroed = true ∧ 1 ∈ ending.stages ∧
        s.gone 0 ending 1 = false ∧ leaves (exec (.releaseComplete 0 true) s) (fun t =>
          (t.ctx 0).map Ctx.released = some [0])) ∧
    (let st : Stage := { lit with releasing := true };
      let c : Ctx := { ending with released := [1] };
      let s : State := { work st c with
        straps := { up.straps with levels := up.straps.levels.set 22 1 }
        stages := st :: { lit with part := none } :: up.stages.drop 2 };
      s.ctxOf 0 = some (0, c) ∧ c.recorded = false ∧ (∀ m ∈ c.stages, m ≠ 0 → s.gone 0 c m = true) ∧
        leaves (exec (.releaseComplete 0 true) s) (fun t => t.ctx 0 = none && t.chain.next = 1)) := by decide +kernel

theorem test_lights :
    (let st : Stage := { lit with closing := some .dark };
      (work st ctx0).stage 0 = some st ∧ st.closing = some .dark ∧
        leaves (exec (.lightsOutHandshake 0 .dark []) (work st ctx0)) (fun t =>
          (t.stage 0).map Stage.st = some .dark && (t.stage 1).map (fun v => v.linkW.marked) = some true &&
          (edgeIndex 0 .west).bind (fun i => (t.edges[i]?).map Link.marked) = some true) ∧
        st.linkE.barred = false ∧ leaves (exec (.lightsOutHandshake 0 .dark [.east]) (work st ctx0)) (fun t =>
          (t.stage 0).map (fun u => (u.st, u.closing)) = some (.lit, none))) ∧
    (let st : Stage := { lit with st := .dark, part := none, closing := some .unlit };
      let s : State := { up with stages := st :: up.stages.drop 1 };
      s.stage 0 = some st ∧ leaves (exec (.lightsOutHandshake 0 .unlit []) s) (fun t =>
        (t.stage 0).map Stage.st = some .unlit)) ∧
    (w0.stage 0 = some lit ∧ lit.st ≠ .retired ∧
      leaves (exec (.lightsOutRequestReceived 0 .east) w0) (fun t => (t.stage 0).map (fun v => v.linkE.marked) = some true) ∧
      leaves (exec (.lightsOnRequestReceived 0 .east) w0) (fun t => (t.stage 0).map (fun v => v.linkE.marked) = some false)) ∧
    (let st : Stage := { lit with linkE := { open_ with barred := true } };
      (work st ctx0).stage 0 = some st ∧ st.linkE.barred = true ∧
        gives (exec (.lightsOnRequestReceived 0 .east) (work st ctx0)) (work st ctx0)) ∧
    (let st : Stage := { lit with st := .retired };
      (work st ctx0).stage 0 = some st ∧ gives (exec (.lightsOutRequestReceived 0 .east) (work st ctx0)) (work st ctx0) ∧
        gives (exec (.lightsOnRequestReceived 0 .east) (work st ctx0)) (work st ctx0)) ∧
    (let st : Stage := { lit with linkE := { Link.start with txSeq := 3 } };
      (work st ctx0).stage 0 = some st ∧ st.linkE.usable = false ∧
        leaves (exec (.lightsOnHandshake 0 []) (work st ctx0)) (fun t =>
          (t.stage 0).map (fun v => (v.linkE.usable, v.linkE.txSeq)) = some (true, 0))) := by decide +kernel

/-- An unlit stage placed in partition 0, at an attempt of its power-up or at none. -/
def placed (p : Option PowerUp) : Stage := { lit with st := .unlit, ready := false, power := p, clock := .off }

theorem test_power_up :
    ((work (placed none) ctx0).stage 0 = some (placed none) ∧ (placed none).held = false ∧ (placed none).part.isSome ∧
      leaves (exec (.stagePowerUp 0) (work (placed none) ctx0)) (fun t =>
        (t.stage 0).bind Stage.power = some { attempt := 1, ramping := true })) ∧
    (let st : Stage := placed (some { attempt := 2, ramping := true });
      (work st ctx0).stage 0 = some st ∧ (work st ctx0).ctxOf 0 = some (0, ctx0) ∧ st.ready = false ∧ st.st ≠ .retired ∧
        leaves (exec (.stageReady 0) (work st ctx0)) (fun t =>
          (t.stage 0).map (fun u => (u.ready, u.clock.core0.step)) = some (true, 8)) ∧
        leaves (exec (.powerSwitchRampFailure 0) (work st ctx0)) (fun t => (t.stage 0).map Stage.st = some .retired)) ∧
    (let st : Stage := placed (some { attempt := 1, ramping := true });
      (work st ctx0).stage 0 = some st ∧ leaves (exec (.powerSwitchRampFailure 0) (work st ctx0)) (fun t =>
        (t.stage 0).bind Stage.power = some { attempt := 1, ramping := false })) ∧
    (let st : Stage := placed (some { attempt := 1, ramping := false });
      (work st ctx0).stage 0 = some st ∧ leaves (exec (.powerSwitchRetry 0) (work st ctx0)) (fun t =>
        (t.stage 0).bind Stage.power = some { attempt := 2, ramping := true })) := by decide +kernel

theorem test_crossings :
    (let x : BitVec 16 := 0x0042;
      let s : State := { work { lit with closing := some .dark } ctx0 with xings := [{
        xid := x, req := true, wait := false, pending := false, age := 0, failed := false, flag := false, count := 0 }] };
      s.inReset = false ∧ xidFour x = true ∧ (s.xing x).age = 0 ∧ s.testOf (.crossing x) = none ∧
        s.transientOf (.crossing x) + 1 ≤ s.allow ∧ s.stage (xidSite x) = some { lit with closing := some .dark } ∧
        leaves (exec (.crossingTimeout x) s) (fun t => (t.xing x).age = 1 && !(t.xing x).req && (t.xing x).wait &&
          (t.stage 0).bind Stage.closing = none && t.transientOf (.crossing x) = 1)) ∧
    (let x : BitVec 16 := 0x0020;
      xidFour x = true ∧ xidKind x = 2 ∧ lit.st = .lit ∧
        leaves (exec (.crossingTimeout x) w0) (fun t => (t.stage 0).map Stage.stopped = some true) ∧
        (let s : State := { w0 with xings := [{
          xid := x, req := true, wait := false, pending := false, age := 1, failed := false, flag := false, count := 0 }] };
        0 < (s.xing x).age ∧ xidSite x < 96 ∧ leaves (exec (.crossingTimeout x) s) (fun t =>
          (t.xing x).failed && (t.stage 0).map Stage.st = some .retired)) ∧
        (let s : State := { w0 with transients := [(.crossing x, 2)] };
          s.transientOf (.crossing x) + 1 = s.allow ∧ leaves (exec (.crossingTimeout x) s) (fun t =>
            t.transientOf (.crossing x) = 3))) ∧
    (xidDouble 0x0080 = true ∧ w0.testOf (.crossing 0x0080) = none ∧
      leaves (exec (.doubleSampleFailure 0x0080) (work { lit with temps := [70, 1, 1, 1], tempsOld := [60, 1, 1, 1] } ctx0))
        (fun t => t.transientOf (.crossing 0x0080) = 1 && (t.stage 0).map Stage.temps = some [60, 1, 1, 1])) ∧
    (xidFour 0x6000 = false ∧ gives (exec (.crossingTimeout 0x6000) w0) w0) ∧
    (xidDouble 0x0020 = false ∧ gives (exec (.doubleSampleFailure 0x0020) w0) w0) := by decide +kernel
/-! ### Host ports and records -/

theorem test_mailbox :
    (let s : State := { up with portA := { HostPort.reset with
        up := true, ring := some { base := 0, exponent := 16, producer := 8 }, produced := 8, consumed := 2 } };
      s.pins.bootDone = true ∧ s.inReset = false ∧ (s.port .a).ring.isSome ∧ (s.port .a).consumed < 8 ∧
        leaves (exec (.consumed .a 8) s) (fun t => t.portA.consumed = 8) ∧
        gives (exec (.consumed .a 2) s) s ∧
        leaves (exec (.consumed .a 9) s) (fun t => t.portA.consumed = 2 && t.portA.queue.length = 1) ∧
        leaves (exec (.unbind .a 0) s) (fun t => t.portA.ring.isNone) ∧
        leaves (exec (.unbind .a 1) s) (fun t => t.portA.ring.isSome)) ∧
    (leaves (exec (.submit .b 64) up) (fun t => t.portB.submitAt = [64]) ∧
      leaves (exec (.submit .b 65) up) (fun t => t.portB.submitAt = [] && t.portB.queue.length = 1) ∧
      leaves (exec (.bind .b 64) up) (fun t => t.portB.bindAt = [64]) ∧
      leaves (exec (.mailboxWriteMalformed .a 0x28) up) (fun t => t.dailies.log.length = 1)) ∧
    ((bootAt 5).pins.bootDone = false ∧ gives (exec (.submit .b 64) (bootAt 5)) (bootAt 5) ∧
      gives (exec (.bar0WriteBeforeBootEnd .a 0) (bootAt 5)) (bootAt 5)) := by decide +kernel

/-- A submission descriptor (Table 12.3) of an 8,192-byte reel at an address, with its status word at 8 and a tag. -/
def submission (addr tag : Nat) : Fetch :=
  { err := false, bytes := leBytes 8 addr ++ leBytes 8 8192 ++ leBytes 8 8 ++ leBytes 8 tag ++ zeros 32
    statusOk := true, tagOk := true }

/-- What it asks for. -/
def asked (p : Port) : Submission := { port := p, addr := 4096, len := 8192, tag := 5 }

/-- The module with a descriptor fetch in progress on both ports and slots from 0 to `k - 1` taken. -/
def fetching (k : Nat) : State :=
  { up with
    portA := { HostPort.reset with up := true, submitAt := [64] }
    portB := { HostPort.reset with up := true, submitAt := [128] }
    slots := List.replicate k (some (asked .a)) ++ List.replicate (16 - k) none, slotOrder := List.range k }

theorem test_submission :
    ((fetching 15).portA.submitAt = [64] ∧ (fetching 15).portA.canSend = true ∧ (fetching 15).slots[15]? = some none ∧
      (∀ j ∈ List.range 15, (fetching 15).slots[j]? ≠ some none) ∧
      leaves (exec (.submissionDescriptorFetched (some (submission 4096 5)) none) (fetching 15)) (fun t =>
        t.slots[15]? = some (some (asked .a)) && t.portA.submitAt = [])) ∧
    ((∀ i ∈ List.range 16, (fetching 16).slots[i]? ≠ some none) ∧
      leaves (exec (.submissionDescriptorFetched (some (submission 4096 5)) none) (fetching 16)) (fun t =>
        t.slots = (fetching 16).slots && t.portA.submitAt = [])) ∧
    (let s : State := { fetching 0 with portA := { (fetching 0).portA with d3hot := true } };
      s.portA.canSend = false ∧ leaves (exec (.submissionDescriptorFetched (some (submission 4096 5)) none) s) (fun t =>
        t.slots = s.slots && t.portA.submitAt = [] && t.dailies.log.length = 1)) ∧
    (leaves (exec (.submissionDescriptorFetched none (some (submission 4097 5))) (fetching 0)) (fun t =>
      t.slots = (fetching 0).slots && t.portB.submitAt = [])) ∧
    (judgeSubmit .a (submission 4096 5) = .request (asked .a) 8 ∧ judgeSubmit .b (submission 4096 5) = .request (asked .b) 8 ∧
      (fetching 15).freeSlots = [15] ∧
      leaves (exec (.submissionDescriptorFetched (some (submission 4096 5)) (some (submission 4096 5))) (fetching 15))
        (fun t => t.slots[15]? = some (some (asked .a)) && t.slotPri = .b)) := by decide +kernel

theorem test_cut_word :
    (w0.pins.bootDone = true ∧ w0.inReset = false ∧ w0.cutTarget 1 9 = some 0 ∧ w0.ctx 0 = some ctx0 ∧
      ctx0.cuttable = true ∧ leaves (exec (.cutWord .a 0x0000000900000001) w0) (fun t =>
        ((t.ctx 0).bind Ctx.cut).isSome)) ∧
    (w0.cutTarget 2 9 = none ∧ leaves (exec (.cutWord .a 0x0000000900000002) w0) (fun t => t.portA.queue.length = 1 &&
      t.parts = w0.parts)) ∧
    (let c : Ctx := { ctx0 with endDue := some (false, 0x15, 0, 0) };
      (work lit c).cutTarget 1 9 = some 0 ∧ c.cuttable = false ∧
        leaves (exec (.cutWord .a 0x0000000900000001) (work lit c)) (fun t => t.portA.queue.length = 1)) ∧
    leaves (exec (.cutWord .a 0x0000000900000101) w0) (fun t => t.dailies.log.length = 1) := by decide +kernel

/-- Port A up and bound to a ring of 2^30 bytes. -/
def bound : HostPort :=
  { HostPort.reset with up := true, ring := some { base := 4096, exponent := 30, producer := 8 } }

/-- A bind descriptor of a 2^16-byte ring. -/
def bindFetch : Fetch :=
  { err := false, bytes := leBytes 8 4096 ++ [16] ++ zeros 7 ++ leBytes 8 8 ++ zeros 40, statusOk := true, tagOk := true }

theorem test_bind_and_ports :
    (let s : State := { up with portA := { HostPort.reset with up := true, bindAt := [64] } };
      (s.port .a).bindAt = [64] ∧ judgeBind bindFetch = some { base := 4096, exponent := 16, producer := 8 } ∧
        (s.port .a).up = true ∧ (s.port .a).d3hot = false ∧ s.newestSet = none ∧
        leaves (exec (.bindDescriptorFetched .a bindFetch) s) (fun t => t.portA.produced = 127 &&
          (t.portA.sent.head? = some (.producer 8 0))) ∧
        judgeBind { bindFetch with err := true } = none ∧
        leaves (exec (.bindDescriptorFetched .a { bindFetch with err := true }) s) (fun t => t.portA.ring.isNone)) ∧
    leaves (exec (.hostPortReset .a .flr) { up with portA := bound }) (fun t => t.portA.ring.isNone && t.portA.up) ∧
    leaves (exec (.hostPortReset .a .hot) { up with portA := bound }) (fun t => !t.portA.up) ∧
    leaves (exec (.hostLinkError .a .aer) { up with portA := bound }) (fun t => t.portA.up && t.dailies.log.length = 1) ∧
    (up.hostLanes = 16 ∧ gives (exec (.hostLinkError .a (.narrow 16)) { up with portA := bound }) { up with portA := bound } ∧
      leaves (exec (.hostLinkError .a (.narrow 8)) { up with portA := bound }) (fun t => t.portA.up) ∧
      leaves (exec (.hostLinkError .a (.narrow 3)) { up with portA := bound }) (fun t => !t.portA.up)) ∧
    leaves (exec (.hostLinkError .a .linkDown) { up with portA := bound }) (fun t => !t.portA.up) ∧
    leaves (exec (.hostPortReturn .a) { up with portA := { bound with d3hot := true, held := [.msix 0], msixPend := [8] } })
      (fun t => t.portA.sent = [.msix 0, .msix 8] && !t.portA.d3hot) ∧
    leaves (exec (.d3hotEntry .a) { up with portA := bound }) (fun t => t.portA.d3hot) := by decide +kernel

/-- A formed record of the largest refusal detail. -/
def rec0 : Record := { ctx := 0, epoch := 0, time := 0, body := .refused 0 0x17 0 0 0 (zeros 32) }

theorem test_records :
    (let s : State := { up with portA := { bound with queue := [.item rec0] } };
      (s.port .a).queue = [.item rec0] ∧ (s.port .a).canSend = true ∧ (s.port .a).lost = 0 ∧
        rec0.body.units + ((s.port .a).produced - (s.port .a).consumed) ≤ 2 ^ 26 ∧
        (s.port .a).produced % 2 ^ 26 = 0 ∧ (rec0.bytes (s.port .a).seq).length ≤ 2 ^ 30 ∧
        leaves (exec (.recordAtPortHead .a) s) (fun t => t.portA.seq = 1 && t.portA.prodDue && t.portA.queue = [])) ∧
    (let s : State := { up with portA := { HostPort.reset with queue := [.item rec0] } };
      (s.port .a).ring = none ∧ leaves (exec (.recordAtPortHead .a) s) (fun t => t.portA.lost = 1 && t.portA.seq = 1)) ∧
    (let s : State := { up with portA := { bound with queue := [.drop 3] } };
      (s.port .a).queue = [.drop 3] ∧ leaves (exec (.recordAtPortHead .a) s) (fun t => t.portA.lost = 3 && t.portA.seq = 3)) ∧
    (queueBytes up.portA.queue + 16 * 16384 ≤ 262144 ∧ gives (exec (.recordQueueDrop .a 16384) up) up ∧
      leaves (exec (.recordQueueDrop .a 16385) up) (fun t => t.portA.queue = [.drop 1])) := by decide +kernel

theorem test_vectors_outputs_and_stalls :
    (let s : State := { up with portA := { bound with prodDue := true, produced := 5 } };
      (s.port .a).prodDue = true ∧ (s.port .a).canSend = true ∧
        leaves (exec (.producerWordWrite .a) s) (fun t => t.portA.sent = [.producer 8 5] && t.portA.vec0Due)) ∧
    leaves (exec (.msixRecordVector .a) { up with portA := { bound with vec0Due := true } })
      (fun t => t.portA.sent = [.msix 0]) ∧
    (let c : Ctx := { ctx0 with outs := [(0, .a, 1), (0, .b, 1)] };
      let s : State := { work lit c with portA := bound };
      s.ctx 0 = some c ∧ (∀ x ∈ (s.port .a).late, x.1 ≠ 0) ∧ (s.port .a).holds 0 c.id 1 = false ∧ (s.port .a).canSend = true ∧
        leaves (exec (.outputWritesComplete .a 0) s) (fun t => (t.ctx 0).map Ctx.outs = some [(0, .b, 1)] &&
          t.portA.sent = [.msix 8])) ∧
    (let s : State := { up with portA := { bound with late := [(0, 1, 5), (0, 1, 6)] } };
      (s.port .a).holds 0 1 5 = false ∧ (s.port .a).canSend = true ∧
        leaves (exec (.outputWritesComplete .a 0) s) (fun t => t.portA.late = [(0, 1, 6)] && t.portA.sent = [.msix 8])) ∧
    (let s : State := { up with portA := { bound with stallTicks := 524288 } };
      s.window * 65536 = 524288 ∧ (s.port .a).stallTold = false ∧
        leaves (exec (.ringStall .a) s) (fun t => t.portA.stallTold && t.dailies.log.length = 1)) ∧
    gives (exec (.ringStall .a) { up with portA := { bound with stallTicks := 524287 } })
      { up with portA := { bound with stallTicks := 524287 } } := by decide +kernel

/-! ### The load check, acceptance and loading -/

/-- One submission waits in slot 0, its check begun or not. -/
def checking (k : Option Check) : State :=
  { up with slots := some (asked .a) :: List.replicate 15 none, slotOrder := [0], check := k }

theorem test_load_check :
    ((checking none).check = none ∧ (checking none).slotOrder = [0] ∧ (checking none).pins.parked = false ∧
      leaves (exec .loadCheckStart (checking none)) (fun t => t.check = some { slot := 0, cap := 1500, reel := none })) ∧
    (let s : State := { checking none with pins := { up.pins with parked := true } };
      s.pins.parked = true ∧ s.slots[0]? = some (some (asked .a)) ∧
        leaves (exec .loadCheckStart s) (fun t => t.slots[0]? = some none && t.portA.queue.length = 1)) ∧
    (let s : State := checking (some { slot := 0, cap := 1500, reel := none });
      (s.port .a).canSend = false ∧ leaves (exec (.loadCheckReadComplete none) s) (fun t => t.check.isNone && t.slotOrder = [])) := by decide +kernel

theorem test_acceptance :
    (let s : State := checking (some { slot := 0, cap := 9000, reel := some reel });
      s.level4 = none ∧ s.pins.parked = false ∧ s.slots[0]? = some (some (asked .a)) ∧ s.parts.length = 8 ∧
        s.stages.length = 96 ∧ s.judgeState 9000 reel = .inr (0, 0) ∧
        leaves (exec .acceptanceStep s) (fun t => (t.ctx 0).map Ctx.id = some 1 &&
          (t.stage 1).bind Stage.part = some 0 && (t.stage 2).bind Stage.part = none && t.check.isNone)) ∧
    (let s : State := checking (some { slot := 0, cap := 1500, reel := some reel });
      s.judgeState 1500 reel = .inl { reason := 0x14, detail := plainDetail 14 } ∧
        leaves (exec .acceptanceStep s) (fun t => t.ctx 0 = none && t.portA.queue.length = 1)) ∧
    (let s : State := { checking (some { slot := 0, cap := 9000, reel := some reel }) with
        level4 := some { level := 4, trigger := 0x84, start := 0, stage := 0xFF } };
      s.level4.isSome ∧ gives (exec .acceptanceStep s) s) := by decide +kernel

/-- An accepted context whose loading goes on. -/
def loading0 : Ctx := { ctx0 with loaded := false, loadOk := none, begun := false, inFrame := false }

theorem test_loading :
    ((work lit loading0).ctx 0 = some loading0 ∧ loading0.loading = true ∧
      (∀ n ∈ loading0.stages, ((work lit loading0).stage n).map Stage.st = some .lit) ∧
      (work lit loading0).portA.canSend = false ∧
      leaves (exec (.reelLoad 0 [] []) (work lit loading0)) (fun t => ((t.ctx 0).bind Ctx.loadOk) = some 0x1A) ∧
      (let s : State := { work lit loading0 with portA := bound };
        s.portA.canSend = true ∧
          leaves (exec (.reelLoad 0 [] []) s) (fun t => ((t.ctx 0).bind Ctx.loadOk) = some 0x18))) ∧
    (let c : Ctx := { loading0 with loadOk := some 0 };
      c.loading = true ∧ leaves (exec (.reelLoadComplete 0 false) (work lit c)) (fun t => (t.ctx 0).map Ctx.loaded = some true) ∧
        leaves (exec (.reelLoadComplete 0 true) (work lit c)) (fun t =>
          (t.ctx 0).bind Ctx.endDue = some (false, 0x1A, 0xFF, 0xFF))) ∧
    (let c : Ctx := { loading0 with loadOk := some 0x18 };
      c.loadOk = some (0x17 + 1) ∧ leaves (exec (.reelLoadComplete 0 false) (work lit c)) (fun t =>
        (t.ctx 0).bind Ctx.endDue = some (false, 0x18, 0xFF, 0xFF)) ∧
        leaves (exec (.loadTimeout 0) (work lit c)) (fun t =>
          (t.ctx 0).bind Ctx.endDue = some (false, 0x1B, 0xFF, 0xFF))) := by decide +kernel

/-! ### A reel image and the load check -/

/-- The least reel: one stage whose script is one final EOF, silicon code 4, tick code 1. -/
def reelBody : List Byte :=
  [1, 1, 4, 8, 1, 0, 0, 0] ++ leBytes 4 100 ++ zeros 4 ++ leBytes 8 3 ++ zeros 8
    ++ [0, 0, 1, 0] ++ leBytes 4 1 ++ zeros 16 ++ zeros 4 ++ leBytes 4 100 ++ zeros 8 ++ zeros 192 ++ zeros 3832
    ++ leBytes 8 0x0800000000800000 ++ zeros 4088

def reelHash : List Byte :=
  leBytes 32 0xa7f75b89d63786cce3345495ffd8cadb5fac7617fa9487e83bf41dead26c8caf

def reelHead : List Byte :=
  [0x58, 0x4C, 0x57, 0x52, 0x45, 0x45, 0x4C, 0, 1, 0, 0, 0, 4, 0, 0, 0] ++ leBytes 8 12288 ++ leBytes 8 4096
    ++ leBytes 8 264 ++ leBytes 8 8192 ++ leBytes 8 8 ++ leBytes 8 12288 ++ zeros 8 ++ leBytes 8 12288 ++ zeros 8
    ++ leBytes 8 12288 ++ zeros 8 ++ reelHash ++ zeros 32 ++ zeros 3928

def reelBytes : List Byte := reelHead ++ reelBody

/-- The chaining values of the hash of its body, every sixteen blocks. -/
def reelChain : Nat → Digest
  | 1 =>
    0x625901e85c5da99bb5b4c0fff2a354ad50e4483eab08212f7643fd7c4105938b
  | 2 =>
    0xcda05652ec9ffac171e1535fe3888a50c421227012166cad3d4d328dc45d6839
  | 3 =>
    0xdab85b066efd78ad25b17f79f0104ab3baa57e61a676f6aeb2756a78d3393339
  | 4 =>
    0x83259d20fff3a987a527cc5f31d2e9f36f4b733204e88a510296c2d3c8b063eb
  | 5 =>
    0xfa55a67079dfd01ddf0bea9fa205ba481384744f5b18892e0c108a0850c127dc
  | 6 =>
    0x7164b5d4a32cc8907f7b51e956faed4274cd18ed341da8d7e4631921d1c8d2c4
  | 7 =>
    0x37131adf946ffc3ff696f9cd0ce91fd4ce1a19d4d90d40f393545f4648615da1
  | 8 =>
    0xdcc31ef85ec3cdd4707c2fa73d2b9baadd115fa4534c860b78471772f1963b74
  | _ => digestInit

theorem digestBlocks_cut (m n : Nat) (bs : List Byte) (c : Digest) :
    digestBlocks (m + n) bs c = digestBlocks n (bs.drop (64 * m)) (digestBlocks m bs c) := by
  induction m generalizing bs c with
  | zero => simp [digestBlocks]
  | succ m ih =>
    have e : 64 + 64 * m = 64 * (m + 1) := by omega
    rw [Nat.succ_add, digestBlocks, digestBlocks, ih, List.drop_drop, e]

theorem test_reel_part_0 : digestBlocks 16 ((shaPad reelBody).drop 0) (reelChain 0) = reelChain 1 := by
  decide +kernel

theorem test_reel_part_1 : digestBlocks 16 ((shaPad reelBody).drop 1024) (reelChain 1) = reelChain 2 := by
  decide +kernel

theorem test_reel_part_2 : digestBlocks 16 ((shaPad reelBody).drop 2048) (reelChain 2) = reelChain 3 := by
  decide +kernel

theorem test_reel_part_3 : digestBlocks 16 ((shaPad reelBody).drop 3072) (reelChain 3) = reelChain 4 := by
  decide +kernel

theorem test_reel_part_4 : digestBlocks 16 ((shaPad reelBody).drop 4096) (reelChain 4) = reelChain 5 := by
  decide +kernel

theorem test_reel_part_5 : digestBlocks 16 ((shaPad reelBody).drop 5120) (reelChain 5) = reelChain 6 := by
  decide +kernel

theorem test_reel_part_6 : digestBlocks 16 ((shaPad reelBody).drop 6144) (reelChain 6) = reelChain 7 := by
  decide +kernel

theorem test_reel_part_7 : digestBlocks 16 ((shaPad reelBody).drop 7168) (reelChain 7) = reelChain 8 := by
  decide +kernel

theorem reel_chained : digestBlocks 128 (shaPad reelBody) digestInit = reelChain 8 := by
  have h (k : Nat) (hk : digestBlocks (16 * k) (shaPad reelBody) digestInit = reelChain k)
      (hs : digestBlocks 16 ((shaPad reelBody).drop (1024 * k)) (reelChain k) = reelChain (k + 1)) :
      digestBlocks (16 * (k + 1)) (shaPad reelBody) digestInit = reelChain (k + 1) := by
    rw [Nat.mul_succ, digestBlocks_cut, hk, ← hs, ← Nat.mul_assoc]
  exact h 7 (h 6 (h 5 (h 4 (h 3 (h 2 (h 1 (h 0 rfl test_reel_part_0) test_reel_part_1) test_reel_part_2) test_reel_part_3)
    test_reel_part_4) test_reel_part_5) test_reel_part_6) test_reel_part_7

/-- The chaining value after the last block: the hash in words. -/
def shaFinal : Digest :=
  0xaf8c6cd2ea1df43be88794fa1776ac5fdbcad8ff955434e3cc8637d6895bf7a7

/-- The hash of its body is the one its header states. -/
theorem test_reel_hash : bodyHash reelBytes = headerHash reelBytes := by
  have h1 : reelBytes.drop 4096 = reelBody := List.drop_left' (by decide +kernel)
  have h2 : (shaPad reelBody).length / 64 = 128 + 1 := by decide +kernel
  have h3 : digestBlocks 1 ((shaPad reelBody).drop (64 * 128)) (reelChain 8) = shaFinal := by decide +kernel
  rw [bodyHash, h1]
  unfold sha256
  simp only [h2, digestBlocks_cut, reel_chained, h3]
  decide +kernel

theorem hash_passes (bytes : List Byte) (h : bodyHash bytes = headerHash bytes) : test4 bytes = [] := by
  simp [test4, failIf, h]

theorem judged (bytes : List Byte) (len tick : Nat) (h0 : ¬ bytes.length < 4096) (hl : bytes.length = len)
    (h2 : firstTest (headerTests bytes len siliconCode) = none) (h5 : firstTest (bodyTests bytes tick) = none) :
    judgeReel bytes len tick = .inr (readImage bytes).reel := by
  unfold judgeReel
  rw [if_neg h0, h2]
  simp [hl, h5]

theorem first_next (a : ReelTest) (as : List ReelTest) (h : a.fails () = []) : firstTest (a :: as) = firstTest as := by
  simp [firstTest, h, firstFail]

theorem judged_body (bytes : List Byte) (tick : Nat) (h4 : test4 bytes = [])
    (h : firstTest ((bodyTests bytes tick).drop 1) = none) : firstTest (bodyTests bytes tick) = none := by
  have e : bodyTests bytes tick = ⟨4, 0x17, fun _ => test4 bytes⟩ :: (bodyTests bytes tick).drop 1 := rfl
  rw [e, first_next _ _ h4]
  exact h

/-- It passes tests 2 to 11 at the default tick of 16 µs, its SHA-256 among them. -/
theorem test_reel_judged : up.strap 0 = 1 ∧ judgeReel reelBytes 12288 1 = .inr (readImage reelBytes).reel := by
  have h4 : test4 reelBytes = [] := hash_passes _ test_reel_hash
  have h5 : firstTest ((bodyTests reelBytes 1).drop 1) = none := by decide +kernel
  have h2 : firstTest (headerTests reelBytes 12288 siliconCode) = none := by decide +kernel
  have hl : reelBytes.length = 12288 := by decide +kernel
  have h0 : ¬ reelBytes.length < 4096 := by rw [hl]; decide
  exact ⟨by decide +kernel, judged reelBytes 12288 1 h0 hl h2 (judged_body reelBytes 1 h4 h5)⟩

/-! ### The gaffer, sense and rails -/

/-- The module with a gaffer that sees no rail: only the fixed allowance. -/
def bare : State := { up with rails := [] }

theorem test_gaffer :
    (bare.pins.bootDone = true ∧ bare.inReset = false ∧ bare.gaffer.cap = bare.capNow ∧
      (chooseLimit (powerBound bare.rails bare.railReports) [railsPower bare.rails bare.railReports] 16 bare.capNow).isSome ∧
      leaves (exec .gafferUpdate bare) (fun t => t.gaffer.limit = 16 && t.gaffer.infeasRun = 0 &&
        t.gaffer.hist = [150])) ∧
    (let s : State := { bare with gaffer := { bare.gaffer with hist := List.replicate 124 2000, limit := 9 } };
      chooseLimit (powerBound s.rails s.railReports) (150 :: s.gaffer.hist) 9 s.capNow = none ∧
        leaves (exec .gafferUpdate s) (fun t => t.gaffer.limit = 1 && t.gaffer.limitOld = 9 && t.gaffer.infeasRun = 1)) ∧
    (let s : State := { up with gaffer := { up.gaffer with infeasRun := 1250 } };
      1250 ≤ s.gaffer.infeasRun ∧ s.gaffer.infeasTold = false ∧
        leaves (exec .capUnattainable s) (fun t => t.gaffer.infeasTold && t.dailies.log.length = 1)) ∧
    gives (exec .capUnattainable up) up ∧
    (∀ n ∈ railStages 0, (up.stage n).map Stage.st = some .unlit) ∧
    (let s : State := { w0 with gaffer := { w0.gaffer with limit := 3 } };
      s.stage 0 = some lit ∧ leaves (exec (.issueLimitReceived 0) s) (fun t => (t.stage 0).map Stage.limit = some 3) ∧
        gives (exec (.issueLimitReceived 2) s) s) := by
  decide +kernel

theorem test_sense :
    (up.gaffer.sweepDue = false ∧ gives (exec .senseSweep up) up) ∧
    (let s : State := { up with gaffer := { up.gaffer with lastUpdate := some 256000000 } };
      s.gaffer.lastSweep ≠ some 256000000 ∧
        leaves (exec .senseSweep s) (fun t => t.gaffer.sweeping && t.gaffer.lastSweep = some 256000000)) ∧
    (let s : State := { up with gaffer := { up.gaffer with sweeping := true } };
      let rs : List AvsRead := (List.range 27).map (fun x =>
        { iface := (s.avsAddr (x + 1)).1, sel := (s.avsAddr (x + 1)).2, tries := [none, some (800, 1000)] });
      s.rails[0]? = some Rail.reset ∧ (1 : Rat) / 2 ≤ Rail.reset.gain ∧ Rail.reset.gain ≤ 2 ∧ s.avsRead rs 0 = none ∧
        (s.avsRead rs 1).isSome ∧ leaves (exec (.senseSweepComplete rs (List.replicate 96 800)) s) (fun t =>
          (t.rail 0).missRun = 1 && (t.rail 1).missRun = 0 && !t.gaffer.sweeping)) ∧
    (let s : State := up.modRail 27 (fun r => { r with clampRun := 64 });
      s.rails.length = 28 ∧ 64 ≤ (s.rail 27).clampRun ∧ (s.rail 27).gainHeld = false ∧ (s.rail 27).gainDead = false ∧
        leaves (exec (.gainClampOrSenseMissing 27) s) (fun t => (t.rail 27).gainHeld && (t.testOf (.rail 27)).isSome)) ∧
    (let s : State := up.modRail 0 (fun r => { r with missRun := 8 });
      8 ≤ (s.rail 0).missRun ∧ leaves (exec (.gainClampOrSenseMissing 0) s) (fun t => (t.rail 0).gainHeld)) := by
  decide +kernel

/-- A pending test of a unit with one error joined. -/
def testing (u : UnitId) : Test :=
  { unit := u, kinds := [0x12], joined := 1, running := true, wait := .free, copied := false, lanes := [], moved := false, repl := none
    wide := false, floor := 4 }

theorem test_recheck :
    (let s : State := { up with tests := [testing (.rail 24)] };
      s.testOf (.rail 24) = some (testing (.rail 24)) ∧
        leaves (exec (.railRecheck 24) s) (fun t => (t.rail 24).recheck)) ∧
    (let s : State := up.modRail 24 (fun r => { r with recheck := true });
      (s.rail 24).recheck = true ∧ (∀ k ∈ s.tests, recheckTest 24 k = false) ∧
        leaves (exec (.railRecheckComplete 24 { ok := true, avs := [750, 750], monitors := [], currents := [0, 0] }) s)
          (fun t => !(t.rail 24).recheck)) ∧
    (let s : State := { up.modRail 24 (fun r => { r with recheck := true }) with tests := [testing (.rail 24)] };
      let d : RecheckData := { ok := true, avs := [750, 760], monitors := [], currents := [0, 120000] };
      s.tests = [testing (.rail 24)] ∧ segmentPasses d = true ∧ s.transientOf (.rail 24) + 1 ≤ s.allow ∧
        leaves (exec (.railRecheckComplete 24 d) s) (fun t => t.tests = [] && t.transientOf (.rail 24) = 1)) := by
  decide +kernel

/-- A stage that passed a slack code at the last tick. -/
def passed (c : Nat) : Stage := { lit with slackTick := some c }

theorem test_slack :
    (let s : State := { w0 with time := { w0.time with tickCount := 1 } };
      s.time.tickCount.toNat % 64 ≠ 0 ∧ gives (exec .slackToVolts s) s) ∧
    (let x := railOf 0;
      (let s : State := work (passed 13) ctx0;
        s.time.tickCount.toNat % 64 = 0 ∧ x < 24 ∧ s.offLoop x = false ∧ s.railSlack x = some 13 ∧
          s.railSlack 23 = none ∧ s.offLoop 23 = false ∧
          leaves (exec .slackToVolts s) (fun t => (t.rail x).volt = 795 && (t.rail 23).volt = 800)) ∧
      (let s : State := (work (passed 13) ctx0).modRail x (fun r => { r with volt := 504 });
        leaves (exec .slackToVolts s) (fun t => (t.rail x).volt = 500)) ∧
      (let s : State := (work (passed 8) ctx0).modRail x (fun r => { r with volt := 795 });
        leaves (exec .slackToVolts s) (fun t => (t.rail x).volt = 800)) ∧
      (let s : State := (work (passed 9) ctx0).modRail x (fun r => { r with volt := 700 });
        leaves (exec .slackToVolts s) (fun t => (t.rail x).volt = 700)) ∧
      (let s : State := (work (passed 13) ctx0).modRail x (fun r => { r with excluded := true });
        s.offLoop x = true ∧ leaves (exec .slackToVolts s) (fun t => (t.rail x).volt = 800))) ∧
    (let s : State := up.modRail 3 (fun r => { r with volt := 795 });
      s.rails[3]? = some { Rail.reset with volt := 795 } ∧
      leaves (exec (.avsbusWriteFailed 3) s) (fun t => (t.rail 3).volt = 800 && (t.testOf (.rail 3)).isSome)) := by
  decide +kernel

/-! ### Droop, clocks and operating steps -/

theorem test_droop :
    (let k : Clock := lit.clock.readDet 0 200 100;
      lit.masked.getLsbD 0 = false ∧ lit.clock.halted = false ∧ w0.runLimit = 4 ∧ w0.delta = 1 ∧
        k.tripsAt 0 w0.droopPct = true ∧
        leaves (exec (.droopTrip 0 0 200 100 4) w0) (fun t =>
          (t.stage 0).map (fun u => (u.clock.run, u.clock.q, u.clock.halted)) = some (4, 4, false)) ∧
        (lit.clock.readDet 0 100 100).tripsAt 0 w0.droopPct = false ∧ lit.droop = false ∧
        leaves (exec (.droopTrip 0 0 100 100 4) w0) (fun t =>
          (t.stage 0).map (fun u => (u.clock.tripped, u.clock.detRef.getD 0 none)) = some (0, some 100))) ∧
    (let st : Stage := { lit with clock := { lit.clock with run := 4 } };
      (st.clock.readDet 15 200 100).tripsAt 15 w0.droopPct = true ∧ st.clock.run = w0.runLimit ∧
        leaves (exec (.droopTrip 0 15 200 100 1) (work st ctx0)) (fun t =>
          (t.stage 0).map (fun u => (u.clock.halted, u.clock.halts, u.clock.run)) = some (true, 1, 4))) ∧
    (let st : Stage := { lit with masked := 0x8000 };
      (st.clock.readDet 15 200 100).tripsAt 15 w0.droopPct = true ∧ st.droop = false ∧ st.masked.getLsbD 15 = true ∧
        leaves (exec (.droopTrip 0 15 200 100 1) (work st ctx0)) (fun t =>
          (t.stage 0).map (fun u => (u.clock.tripped, u.clock.run)) = some (0x8000, 0))) ∧
    (let st : Stage := { lit with clock := { lit.clock with
        tripped := 1, run := 3, detRef := some 100 :: List.replicate 15 none } };
      (st.clock.tripped &&& ~~~BitVec.ofNat 16 (2 ^ 0)) &&& ~~~st.masked = 0 ∧ st.clock.realign = false ∧
        (st.clock.readDet 0 50 70).detRef = st.clock.detRef ∧
        { st.clock with detDelay := st.clock.detDelay.set 0 100 }.clearsAt 0 w0.droopPct = true ∧
        leaves (exec (.droopClear 0 0 100 1) (work st ctx0)) (fun t =>
          (t.stage 0).map (fun u => (u.clock.tripped, u.clock.run, u.clock.freeze)) = some (0, 0, 15)) ∧
        leaves (exec (.droopClear 0 0 100 0) (work st ctx0)) (fun t =>
          (t.stage 0).map (fun u => (u.clock.tripped, u.clock.run, u.clock.freeze)) = some (0, 3, 16))) ∧
    (let st : Stage := { lit with masked := 1, clock := { lit.clock with
        tripped := 1, detRef := some 100 :: List.replicate 15 none } };
      { st.clock with detDelay := st.clock.detDelay.set 0 200 }.clearsAt 0 w0.droopPct = false ∧ st.droop = false ∧
        leaves (exec (.droopClear 0 0 200 1) (work st ctx0)) (fun t =>
          (t.stage 0).map (fun u => u.clock.tripped) = some 1)) := by decide +kernel

/-- A stage whose clock is halted. -/
def halted : Stage := { lit with clock := { lit.clock with halted := true, halts := 1 } }

theorem test_halts :
    (halted.clocked = true ∧ halted.clock.halted = true ∧ halted.droop = false ∧ w0.delta ≤ 1 ∧
      halted.clock.realign = false ∧ leaves (exec (.haltEnd 0 1) (work halted ctx0)) (fun t =>
        (t.stage 0).map (fun u => (u.clock.halted, u.clock.q, u.clock.overruns)) = some (false, 1, 1))) ∧
    ((work halted ctx0).ctxOf 0 = some (0, ctx0) ∧ ctx0.level = none ∧
      (work halted ctx0).testOf (.clockPath 0) = none ∧
      leaves (exec (.persistentDroop 0) (work halted ctx0)) (fun t =>
        ((t.ctx 0).bind Ctx.level).map Level.level = some 3 && (t.testOf (.clockPath 0)).isSome)) ∧
    (let st : Stage := { lit with clock := { lit.clock with overruns := 256 } };
      256 ≤ st.clock.overruns ∧ leaves (exec (.droopOverrunLimit 0) (work st ctx0)) (fun t =>
        (t.stage 0).map (fun u => (u.clock.overruns, u.clock.limitHit)) = some (0, true))) ∧
    leaves (exec (.noticeAssert 0) w0) (fun t => (t.stage 0).map (fun u => u.clock.notice) = some true) := by decide +kernel

theorem test_cores :
    (let st : Stage := { lit with clock := { lit.clock with core1 := { step := 7, locked := false } } };
      let s : State := work st ctx0;
      s.stage 0 = some st ∧ st.clocked = true ∧ st.clock.core0.locked = true ∧ st.clock.core1.locked = false ∧
        st.clock.downTo = none ∧ leaves (exec (.coreRetuneLock 0 1) s) (fun t =>
          (t.stage 0).map (fun u => u.clock.core1.locked) = some true)) ∧
    (let st : Stage := { lit with clock := { lit.clock with core1 := { step := 7, locked := false }, downTo := some 7 } };
      st.clock.drive.locked = true ∧ leaves (exec (.coreRetuneLock 0 1) (work st ctx0)) (fun t =>
        (t.stage 0).map (fun u => (u.clock.drive.step, u.clock.downTo, u.clock.downs)) = some (7, none, 1))) ∧
    (let st : Stage := { lit with clock := { lit.clock with
        core0 := { step := 8, locked := false }, core1 := { step := 7, locked := false } } };
      let s : State := work st ctx0;
      st.clock.drive.locked = false ∧ s.floorOf 0 ≤ 7 ∧ leaves (exec (.coreRetuneLock 0 1) s) (fun t =>
        (t.stage 0).map (fun u => (u.clock.drive.step, u.clock.drive1)) = some (7, true))) ∧
    (lit.clock.core1.locked = true ∧ w0.testOf (.clockPath 0) = none ∧
      leaves (exec (.coreLockLost 0 1) w0) (fun t => (t.stage 0).map (fun u => u.clock.core1.locked) = some false &&
        (t.testOf (.clockPath 0)).isSome)) ∧
    (lit.clock.drive1 = false ∧ lit.clock.core1.step ≤ lit.clock.core0.step ∧ w0.floorOf 0 ≤ lit.clock.core1.step ∧
      leaves (exec (.coreLockLost 0 0) w0) (fun t => (t.stage 0).map (fun u => u.clock.drive1) = some true &&
        (t.testOf (.clockPath 0)).isSome)) := by decide +kernel

theorem test_steps :
    (let r : StepReq := { code := 10, waiting := [0, 1], accepted := false };
      let c : Ctx := { ctx0 with stepReq := some r };
      let s : State := work lit c;
      s.ctxOf 0 = some (0, c) ∧ r.waiting.contains 0 = true ∧ lit.clock.newTau = none ∧ lit.clock.downTo = none ∧
        min r.code (lit.fmaxDue.getD lit.usable) = 10 ∧ lit.clock.drive.step ≠ r.code ∧ lit.clock.spare.step ≠ r.code ∧
        leaves (exec (.stepBroadcastReceived 0) s) (fun t =>
          (t.stage 0).map (fun u => (u.clock.newTau, u.clock.core1)) = some (some 10, { step := 10, locked := false }))) ∧
    (let r : StepReq := { code := 8, waiting := [0, 1], accepted := false };
      let c : Ctx := { ctx0 with stepReq := some r };
      lit.clock.drive.step = 8 ∧ lit.clock.tau ≤ 8 ∧ leaves (exec (.stepBroadcastReceived 0) (work lit c)) (fun t =>
        ((t.ctx 0).bind Ctx.stepReq).map StepReq.waiting = some [1])) ∧
    (let r : StepReq := { code := 10, waiting := [], accepted := false };
      let c : Ctx := { ctx0 with stepReq := some r };
      leaves (exec (.stepAccepted 0) (work { lit with seq := { lit.seq with stepWait := true } } c)) (fun t =>
        ((t.ctx 0).bind Ctx.stepReq).map StepReq.accepted = some true &&
        (t.stage 0).map (fun u => u.seq.stepWait) = some false)) := by decide +kernel

theorem test_margins :
    (thin [3, 9, 9, 9, 9, 9, 9, 3] = true ∧ thin [3, 9, 9, 9, 9, 9, 9, 9, 3] = false ∧
      leaves (exec (.thinMargin 0 [3, 9, 9, 9, 9, 9, 9, 9, 3]) w0) (fun t => (t.stage 0).map Stage.slackNow = some (some 3))) ∧
    (w0.ctxOf 0 = some (0, ctx0) ∧ lit.st = .lit ∧ lit.clock.halted = false ∧ ctx0.reel.floor < lit.clock.drive.step ∧
      lit.clock.spare.locked = true ∧ lit.clock.spare.step + 1 = lit.clock.drive.step ∧
      leaves (exec (.thinMargin 0 [2, 3]) w0) (fun t =>
        (t.stage 0).map (fun u => (u.clock.drive.step, u.clock.downs, u.slackNow)) = some (7, 1, some 2))) ∧
    (let st : Stage := { lit with clock := { lit.clock with core1 := { step := 5, locked := true } } };
      st.clock.spare.step + 1 ≠ st.clock.drive.step ∧ leaves (exec (.thinMargin 0 [0, 0]) (work st ctx0)) (fun t =>
        (t.stage 0).map (fun u => (u.clock.core1, u.clock.downTo)) = some ({ step := 7, locked := false }, some 7))) ∧
    (let st : Stage := { lit with clock := { lit.clock with core0 := { step := 4, locked := true } } };
      st.clock.drive.step ≤ ctx0.reel.floor ∧ leaves (exec (.thinMargin 0 [0, 0]) (work st ctx0)) (fun t =>
        (t.testOf (.clockPath 0)).isSome)) := by decide +kernel

/-- A ledger copy of 96 like entries. -/
def ledger4 : Ledger :=
  { seq := 4, days := 3, entries := List.replicate 96
      { fused := 15, usable := 14, derates := 1, fmTrans := 2, reserved := 0, lastDay := 9 } }

theorem test_derate_and_ledger :
    (let st : Stage := { lit with clock := { lit.clock with marginRun := List.replicate 32 true } };
      let s : State := work st ctx0;
      st.st ≠ .retired ∧ 32 ≤ st.clock.marginRun.count true ∧ st.usable ≠ 0 ∧
        leaves (exec (.fmaxDerate 0) s) (fun t => (t.stage 0).map (fun u => (u.usable, u.fmaxDue, u.derates)) =
          some (15, some 14, 1))) ∧
    (let st : Stage := { lit with fmaxDue := some 14 };
      (work st ctx0).stage 0 = some st ∧ (((work st ctx0).derateTick 0).stage 0).map Stage.usable = some 14 ∧
        (((work { st with usable := 13 } ctx0).derateTick 0).stage 0).map Stage.usable = some 13) ∧
    (let st : Stage := { lit with usable := 0, clock := { lit.clock with marginRun := List.replicate 32 true } };
      st.usable = 0 ∧ leaves (exec (.fmaxDerate 0) (work st ctx0)) (fun t => (t.stage 0).map Stage.st = some .retired)) ∧
    gives (exec (.ledgerWrite false) up) up := by decide +kernel

theorem test_ledger_copies :
    (let s : State := { up with flash := { up.flash with ledger0 := ledger4.bytes } };
      s.inReset = false ∧ s.ledgerRead = true ∧ ledgerOf s.flash.ledger0 = some ledger4 ∧
        ledgerOf s.flash.ledger1 = none) := by
  have h : sealOk 1024 ledger4.bytes = true := sealOk_sealed 1024 _ (by decide +kernel)
  refine ⟨by decide +kernel, by decide +kernel, ?_, by decide +kernel⟩
  show ledgerOf ledger4.bytes = some ledger4
  unfold ledgerOf
  rw [if_pos ⟨by decide +kernel, by decide +kernel, h⟩]
  decide +kernel

/-! ### Splices -/

/-- A follower's end with its trim acquired. -/
def trimmed : Link := { open_ with phase := .acquired }

theorem test_alignment :
    (w0.stages.length = 96 ∧ lit.clock.halted = false ∧ w0.directionOpen { stage := 0, side := .east, edge := false } = true) ∧
    (let s : State := { work lit ctx0 with stages := lit :: { lit with linkW := trimmed } :: up.stages.drop 2 };
      neighbour 0 .east = some 1 ∧ s.alignable 0 .east = true ∧ leaves (exec (.spliceRealign 0 .east) s) (fun t =>
        (t.stage 0).map (fun u => u.linkE.aligned) = some true && (t.stage 1).map (fun u => u.linkW.aligned) = some true)) ∧
    (w0.alignable 0 .east = false ∧ gives (exec (.spliceRealign 0 .east) w0) w0) ∧
    (w0.stage 1 = some lit ∧ w0.measurable 0 1 = true ∧ lit.linkW.elastic = false ∧ lit.linkW.failed = false ∧
      lit.linkW.phase = .reset ∧ leaves (exec (.spliceTrimAverage 0 .east 20 0) w0) (fun t =>
        (t.stage 1).map (fun u => (u.linkW.trim, u.linkW.phase)) = some (54, .moved))) ∧
    (let s : State := { w0 with stages := lit :: { lit with linkW := { open_ with phase := .moved } } :: up.stages.drop 2 };
      leaves (exec (.spliceTrimAverage 0 .east 30 0) s) (fun t =>
        (t.stage 1).map (fun u => (u.linkW.trim, u.linkW.phase)) = some (64, .acquired))) ∧
    (let s : State := { w0 with stages := lit :: { lit with linkW := trimmed } :: up.stages.drop 2 };
      leaves (exec (.spliceTrimAverage 0 .east 4 0) s) (fun t =>
        (t.stage 1).map (fun u => (u.linkW.trim, u.linkW.phase)) = some (62, .acquired))) := by decide +kernel

/-- A splice direction in its lane test, which found some lanes failing. -/
def laneTested (lanes : List Nat) : State :=
  { work { lit with linkE := { open_ with paused := true, unacked := [7], sent := 1 } } ctx0 with
    tests := [{ testing (.spliceDir 0 .east false) with lanes := lanes }] }

/-- The East end of stage 0. -/
def east0 : End := { stage := 0, side := .east, edge := false }

theorem test_lane_tests :
    (let st : Stage := { lit with linkE := { open_ with errAge := List.replicate 16 0 } };
      let s : State := work st ctx0;
      s.endLink east0 = some st.linkE ∧ s.endLink east0.across = some open_ ∧ st.linkE.paused = false ∧
        16 ≤ st.linkE.errAge.length ∧ s.testOf (.spliceDir 0 .east true) = none ∧
        leaves (exec (.spliceLaneTestThreshold 0 .east false) s) (fun t =>
          (t.stage 0).map (fun u => u.linkE.paused) = some true && (t.testOf (.spliceDir 0 .east true)).isSome)) ∧
    (let s : State := { work { lit with linkN := { open_ with failRun := 4 } } ctx0 with edges := open_ :: up.edges.drop 1 };
      let r : End := { stage := 0, side := .north, edge := true };
      s.endLink r = some open_ ∧ (s.endLink r.across).map Link.failedSends = some 4 ∧
        leaves (exec (.spliceLaneTestThreshold 0 .north true) s) (fun t =>
          (t.edges[0]?).map Link.paused = some true && (t.testOf (.spliceDir 0 .north false)).isSome)) ∧
    (let s : State := laneTested [263];
      (s.laneTest east0).map Test.lanes = some [263] ∧ extendMap [] [(263, 3)] = some [(263, 3)] ∧
        s.edgesAt east0 = true ∧ s.edgesAt east0.across = true ∧
        leaves (exec (.spliceMapSwitch 0 .east false [(263, 3)]) s) (fun t =>
          (t.stage 0).map (fun u => (u.linkE.txMap, u.linkE.txGen, u.linkE.again)) = some ([(263, 3)], 1, 1) &&
          (t.stage 1).map (fun u => (u.linkW.rxMap, u.linkW.rxGen)) = some ([(263, 3)], 1))) ∧
    (let v : Stage := { lit with st := .dark, linkE := { open_ with paused := true } };
      let s : State := { laneTested [263] with stages := (laneTested [263]).stages.set 0 v };
      s.edgesAt east0 = false ∧ leaves (exec (.spliceMapSwitch 0 .east false [(263, 3)]) s) (fun t =>
        (t.stage 0).map (fun u => (u.linkE.txMap, u.linkE.mapReq)) = some ([], some (1, [(263, 3)])))) ∧
    (let s : State := laneTested [0, 1, 2, 3, 4];
      sparable [] [0, 1, 2, 3, 4] = false ∧ spliceVictim 0 .east = 1 ∧ s.stage 1 = some lit ∧ lit.st ≠ .retired ∧
        leaves (exec (.spliceFailed 0 .east false) s) (fun t =>
          (t.stage 0).map (fun u => u.linkE.failed) = some true && (t.stage 1).map Stage.st = some .retired)) := by
  decide +kernel

/-- Stages 0 and 1 as given. -/
def pair (a b : Stage) : State := { work a ctx0 with stages := a :: b :: up.stages.drop 2 }

theorem test_beats :
    (w0.directionOpen { stage := 0, side := .north, edge := false } = false ∧
      gives (exec (.spliceBeatReceived 0 .north false 0 0) w0) w0) ∧
    (let b : Stage := { lit with linkW := { open_ with unacked := [5] } };
      let a : Stage := { halted with linkE := open_ };
      let s : State := pair a b;
      s.directionOpen east0 = true ∧ s.edgesAt east0 = false ∧ s.edgesAt east0.across = true ∧
        leaves (exec (.spliceBeatReceived 0 .east false 0 0) s) (fun t =>
          (t.stage 0).map (fun u => u.linkE.fifo.map Prod.fst) = some [5] &&
          (t.stage 1).map (fun u => (u.linkW.wptr, u.linkW.sent)) = some (1, 1)) ∧
        (let f : Stage := { a with linkE := { open_ with fifo := List.replicate 16 (0, 0) } };
          16 ≤ f.linkE.fifo.length ∧ gives (exec (.spliceBeatReceived 0 .east false 0 0) (pair f b)) (pair f b))) ∧
    (let s : State := pair lit halted;
      s.edgesAt east0 = true ∧ s.edgesAt east0.across = false ∧ lit.linkE.fifo = [] ∧
        gives (exec (.spliceBeatReceived 0 .east false 0 0) s) s ∧
        (let a : Stage := { lit with linkE := { open_ with fifo := [(5, 0)] } };
          (0 : BitVec 64) ≠ crc8Check 5 (beatSeed 0 false) ∧ (0 : BitVec 64) ≠ crc8Check 5 (beatSeed 0 true) ∧
            leaves (exec (.spliceBeatReceived 0 .east false 0 0) (pair a halted)) (fun t =>
              (t.stage 0).map (fun u => (u.linkE.fifo, u.linkE.nak, u.linkE.rptr)) = some ([], true, 1)))) ∧
    (let a : Stage := { lit with stopped := true };
      let b : Stage := { lit with linkW := { open_ with unacked := [5] } };
      (pair a b).ctxOf 0 = some (0, ctx0) ∧ ctx0.cut = none ∧ b.linkW.nextPayload = some 5 ∧ b.linkW.nextSeq = 0 ∧
        leaves (exec (.spliceBeatReceived 0 .east false 0 0) (pair a b)) (fun t =>
          (t.stage 0).map (fun u => (u.landEast, u.linkE.rxSeq)) = some ([5], 1))) ∧
    (let st : Stage := { lit with linkE := { open_ with replay := true, unacked := [1, 2, 3], sent := 2 } };
      st.linkE.carries = true ∧ leaves (exec (.spliceNakReplay 0 .east false) (work st ctx0)) (fun t =>
        (t.stage 0).map (fun u => (u.linkE.replay, u.linkE.again, u.linkE.failRun)) = some (false, 2, 1))) := by
  decide +kernel

/-- An acknowledgement inside the beats sent takes them; one past them takes none. -/
theorem test_acknowledgement :
    let l : Link := { open_ with txSeq := 126, unacked := [1, 2, 3, 4], sent := 3 };
    let c : Control := { ack := 1, nak := false, mapSwitch := 0, gen := 0, reserved := false };
    (c.ack - l.txSeq).toNat = 3 ∧ (l.acknowledge (l.acked c.ack) false).txSeq = 1 ∧
      (l.acknowledge (l.acked c.ack) false).unacked = [4] ∧ l.sent < ((2 : BitVec 7) - l.txSeq).toNat ∧
      (l.acknowledge (l.acked 2) false).unacked = [1, 2, 3, 4] ∧ controlOf (controlData c) = c := by decide +kernel
/-! ### Shots -/

/-- One bit of a flag. -/
def one (b : Bool) : Nat := if b then 1 else 0

/-- The word of a two- or three-operand vector shot (Table 9.5). -/
def vecEnc (op : Nat) (f : VecFields) : BitVec 64 :=
  wd op [(52, f.engine.toNat), (46, f.d.toNat), (40, f.a.toNat), (34, f.b.toNat), (32, f.ty.toNat), (31, one f.x)]

/-- The word of an immediate vector shot (Table 9.5). -/
def immEnc (op : Nat) (f : VecImm) : BitVec 64 :=
  wd op [(52, f.engine.toNat), (46, f.d.toNat), (40, f.a.toNat), (32, f.ty.toNat), (0, f.imm.toNat)]

/-- The fields that ACCLD, ACCST and ACCADD share (Table 9.4). -/
def accEnc (op : Nat) (f : AccFields) (more : List (Nat × Nat)) : BitVec 64 :=
  wd op ([(52, f.engine.toNat), (44, f.reg.toNat), (38, f.tile.toNat), (36, f.ty.toNat), (33, one f.xa), (32, one f.xc)] ++ more)

/-- The word of SEND or RECV (Table 9.7). -/
def spliceEnc (op : Nat) (f : SpliceFields) : BitVec 64 :=
  wd op [(56, f.side.toNat), (44, f.slot.toNat), (40, f.reg.toNat), (28, f.beats.toNat), (27, one f.xa), (26, one f.xs)]

/-- The script words of the shots tested, from the encodings of Tables 9.3 to 9.7. -/
def enc : Instr → BitVec 64
  | .nop _ => wd 0x00 []
  | .runahead _ => wd 0x01 []
  | .eof _ f _ => wd 0x02 [(42, f.idle.toNat), (36, f.kindA.toNat), (30, f.kindB.toNat), (25, f.p.toNat), (23, f.final.toNat)]
  | .repeat_ _ b k d => wd 0x03 [(50, b.toNat), (38, k.toNat), (22, d.toNat)]
  | .seta _ r b l => wd 0x04 [(54, r.toNat), (48, b.toNat), (32, l.toNat)]
  | .inca _ r d => wd 0x05 [(54, r.toNat), (32, d.toNat)]
  | .step _ k => wd 0x06 [(54, k.toNat)]
  | .trace _ i => wd 0x07 [(42, i.toNat)]
  | .mma _ f => wd 0x10 [(52, f.engine.toNat), (48, f.format.toNat), (44, f.areg.toNat), (40, f.breg.toNat),
      (34, f.tile.toNat), (26, f.kcode.toNat), (25, one f.z), (24, one f.xa), (23, one f.xb), (22, one f.xc)]
  | .accld _ f => accEnc 0x11 f []
  | .accst _ f o r k => accEnc 0x12 f [(48, o.toNat), (35, one r), (34, one k)]
  | .accadd _ f => accEnc 0x13 f []
  | .accz _ e t k => wd 0x14 [(52, e.toNat), (38, t.toNat), (32, k.toNat)]
  | .movb _ e a d k xa xb => wd 0x18 [(52, e.toNat), (48, a.toNat), (44, d.toNat), (28, k.toNat), (27, one xa), (26, one xb)]
  | .fillb _ e d k w => wd 0x19 [(52, e.toNat), (48, d.toNat), (32, k.toNat), (0, w.toNat)]
  | .cvtb _ f => wd 0x1A [(52, f.engine.toNat), (48, f.sreg.toNat), (44, f.dreg.toNat), (40, f.sfmt.toNat),
      (36, f.dfmt.toNat), (20, f.groups.toNat), (19, one f.r), (18, one f.s), (17, one f.xa), (16, one f.xb)]
  | .vadd _ f => vecEnc 0x20 f
  | .vsub _ f => vecEnc 0x21 f
  | .vmul _ f => vecEnc 0x22 f
  | .vfma _ f => vecEnc 0x23 f
  | .vdiv _ f => vecEnc 0x24 f
  | .vsqrt _ f => vecEnc 0x25 f
  | .vmax _ f => vecEnc 0x26 f
  | .vmin _ f => vecEnc 0x27 f
  | .vabs _ f => vecEnc 0x28 f
  | .vneg _ f => vecEnc 0x29 f
  | .vrelu _ f => vecEnc 0x2A f
  | .vmov _ f => vecEnc 0x2B f
  | .vrsum _ f => vecEnc 0x2C f
  | .vcsum _ f => vecEnc 0x2D f
  | .vscal _ f => immEnc 0x2E f
  | .vaddi _ f => immEnc 0x2F f
  | .vfill _ f => immEnc 0x30 f
  | .send _ f => spliceEnc 0x38 f
  | .recv _ f => spliceEnc 0x39 f
  | .sigt _ y x t k => wd 0x3A [(55, y.toNat), (51, x.toNat), (46, t.toNat), (30, k.toNat)]
  | .waitt _ t k => wd 0x3B [(53, t.toNat), (37, k.toNat)]
  | .commit _ e g xa xe => wd 0x3C [(46, e.toNat), (42, g.toNat), (41, one xa), (40, one xe)]
  | _ => 0

/-- Stage 0 with a shot as its script word. -/
def holding (i : Instr) (st : Stage) : Stage := script1 st (enc i)

/-- The module with that stage. -/
def ready (i : Instr) (st : Stage) (c : Ctx) : State := work (holding i st) c

/-- The shot stands at the head of issue of stage 0. -/
def stands (i : Instr) (st : Stage) (c : Ctx) : Bool :=
  decide ((ready i st c).issuer 0 = some (holding i st, 0, c)) && decide ((holding i st).head 0 i = .shot)

/-- The shot stands there, and commanded there it leaves a state of which a check holds. -/
def shoots (i : Instr) (st : Stage) (c : Ctx) (f : State → Bool) : Bool :=
  stands i st c && leaves (exec i (ready i st c)) f

/-- What a shot leaves of stage 0. -/
def fires (i : Instr) (st : Stage) (f : Stage → Bool) : Bool :=
  shoots i st ctx0 (fun t => (t.stage 0).map f = some true)

/-- The shot stands there and waits: it changes nothing. -/
def holds (i : Instr) (st : Stage) (c : Ctx) : Bool :=
  stands i st c && gives (exec i (ready i st c)) (ready i st c)

theorem test_sequencer_shots :
    (stands (.nop 0) lit ctx0 = true ∧
      gives (exec (.nop 0) (ready (.nop 0) lit ctx0)) ((ready (.nop 0) lit ctx0).modStage 0 (fun u =>
        { u with seq := u.seq.step }))) ∧
    fires (.runahead 0) lit (fun u => u.seq.pc = 1) ∧
    fires (.seta 0 15 47 0xFFFF) lit (fun u => u.seq.ar.getD 15 0 = 0x2FFFFF) ∧
    (lit.seq.lineOf 0 false = 0 ∧ fires (.inca 0 0 7) lit (fun u => u.seq.ar.getD 0 0 = 7) ∧
      shoots (.inca 0 0 0xFFFF) lit ctx0 (fun t => (t.ctx 0).bind Ctx.endDue = some (false, 0x15, 0, 0))) ∧
    (lit.seq.loop = none ∧ fires (.repeat_ 0 2 0xFFF 0xFFFF) lit (fun u =>
      u.seq.loop = some { start := 1, len := 2, count := 4096, stride := -1, iter := 0 })) ∧
    (let st : Stage := { lit with seq := { lit.seq with loop := some { start := 0, len := 5, count := 2, stride := 0, iter := 0 } } };
      st.seq.loop.isSome ∧ shoots (.repeat_ 0 2 1 0) st ctx0 (fun t => (t.testOf (.scriptRow 0 0)).isSome)) ∧
    (let st : Stage := { lit with seq := { lit.seq with tokens := List.replicate 32 3 } };
      st.seq.ahead = false ∧ st.seq.tokens.getD 31 0 = 3 ∧
        fires (.waitt 0 31 3) st (fun u => u.seq.tokens.getD 31 0 = 0 && u.seq.pc = 1) ∧ holds (.waitt 0 31 4) st ctx0) ∧
    fires (.trace 0 0xBEEF) lit (fun u => u.traceBuf.length = 1 && u.seq.pc = 1) := by decide +kernel

theorem test_step_and_full_trace :
    (let e : TraceEntry := { kind := 0, take := 0, frame := 0, stamp := 0, payload := 0 };
      let st : Stage := { lit with traceBuf := List.replicate 2046 e };
      2046 ≤ st.traceBuf.length ∧ fires (.trace 0 1) st (fun u => u.traceDrop = 1)) ∧
    (ctx0.reel.floor ≤ 4 ∧ ctx0.stepReq = none ∧ shoots (.step 0 4) lit ctx0 (fun t =>
      ((t.ctx 0).bind Ctx.stepReq).map StepReq.waiting = some [0, 1] &&
        (t.stage 0).map (fun u => u.seq.stepWait) = some true)) ∧
    (let c : Ctx := { ctx0 with stepReq := some { code := 9, waiting := [], accepted := true } };
      c.stepReq.isSome ∧ shoots (.step 0 15) lit c (fun t => (t.ctx 0).bind Ctx.endDue = some (false, 0x1C, 0, 0))) := by
  decide +kernel

/-- A final EOF of kind 0. -/
def eofWord : EofFields := { idle := 2, kindA := 0, kindB := 0, p := 0, final := 2 }

/-- One shot in flight in engine 5's queue, reading line 0 of bank 3. -/
def flight : Flight :=
  { no := 0, index := 0, dest := .engine 5, ahead := false, checked := true, reads := [{ bank := 3, first := 0, count := 1 }]
    writes := [], left := 0 }

theorem test_eof_and_runahead :
    (lit.seq.ahead = false ∧ lit.drained = true ∧ lit.seq.loop = none ∧ eofOk 0 eofWord ctx0 = true ∧
      fires (.eof 0 eofWord (some 70)) lit (fun u => u.seq.done && !u.seq.final && u.idle = 2 && u.slackEof = some 63) ∧
      shoots (.eof 0 eofWord none) lit { ctx0 with frame := 3 } (fun t =>
        (t.stage 0).map (fun u => u.seq.final) = some true)) ∧
    holds (.eof 0 eofWord none) { lit with flights := [flight] } ctx0 ∧
    gives (exec (.eof 0 eofWord none) (work { holding (.eof 0 eofWord none) lit with seq := { lit.seq with stepWait := true } } ctx0))
      (work { holding (.eof 0 eofWord none) lit with seq := { lit.seq with stepWait := true } } ctx0) ∧
    (let r : StageRec := { row := 0, col := 0, kind0 := 0, words := 512, scriptOff := 0, staging := 1
                           kinds := [{ first := 0, cycles := 100, feet := List.replicate 48 (16, 16) }] };
      let st : Stage := { doneStage with script := [(0, 0x0400000000000000)], acc := [(1, 1)] };
      let s : State := work st ctx0;
      s.ctxOf 0 = some (0, ctx0) ∧ ctx0.stageRec 0 = some r ∧ s.canRunAhead st ctx0 r = true ∧
        leaves (exec (.runaheadStart 0) s) (fun t =>
          (t.stage 0).map (fun u => (u.seq.ahead, u.acc, u.seq.done)) = some (true, [], true))) := by decide +kernel

/-- A call sheet whose stage 0 has two kinds. -/
def twoKinds : Ctx :=
  { ctx0 with reel := { reel with stages := reel.stages.map (fun r => { r with kinds := r.kinds ++ r.kinds }) } }

theorem test_next_kind :
    (let f : EofFields := { eofWord with idle := 1, kindB := 1, p := 1 };
      eofOk 0 f twoKinds = true ∧ (twoKinds.frame.toNat + 1 + f.idle.toNat) % 2 ^ f.p.toNat = 0 ∧
        shoots (.eof 0 f none) lit twoKinds (fun t => (t.stage 0).map (fun u => u.seq.nextKind) = some 1) ∧
        shoots (.eof 0 { f with idle := 2 } none) lit twoKinds (fun t =>
          (t.stage 0).map (fun u => u.seq.nextKind) = some 0)) := by decide +kernel

/-- A token signal for a stage, at its tap: it came down column 0. -/
def token (n : Nat) (t : BitVec 5) (k fr : BitVec 16) (take : BitVec 4) : SpineOut :=
  let h : FlitHeader := { tokenFlit 0 n ctx0 t k with arg := tokenArg t k fr take };
  { col := 0, north := false, header := flitBits h, data := none, crc := flitCrc (flitBits h) none }

/-- The module with a token signal for stage 0 on its spine. -/
def signalled (t : BitVec 5) (k fr : BitVec 16) (take : BitVec 4) (st : Stage) : State :=
  { work st ctx0 with spineOut := [{ token 0 t k fr take with north := true }] }

theorem test_tokens :
    (let st : Stage := { lit with seq := { lit.seq with tokens := List.replicate 32 0xFFFE } };
      st.drained = true ∧ ctx0.offsets 0 = (0, 0) ∧ st.seq.tokens.getD 2 0 + 1 ≤ 0xFFFF ∧
        fires (.sigt 0 0 0 2 1) st (fun u => u.seq.tokens.getD 2 0 = 0xFFFF) ∧
        shoots (.sigt 0 0 0 2 2) st ctx0 (fun t => (t.ctx 0).bind Ctx.endDue = some (false, 0x16, 0, 0)) ∧
        ctx0.offsets 0 ≠ (0, 1) ∧ shoots (.sigt 0 0 1 2 2) st ctx0 (fun t =>
          (t.stage 0).map (fun u => u.seq.pc) = some 1 && t.spineOut.map SpineOut.header = [(token 1 2 2 0 0).header]) ∧
        leaves (exec (.tokenSignalArrival 0 2 1 0 0) (signalled 2 1 0 0 st)) (fun t =>
          (t.stage 0).map (fun u => u.seq.tokens.getD 2 0) = some 0xFFFF && t.spineOut = []) ∧
        leaves (exec (.tokenSignalArrival 0 2 2 0 0) (signalled 2 2 0 0 st)) (fun t => ((t.ctx 0).bind Ctx.endDue).isSome) ∧
        leaves (exec (.tokenSignalArrival 0 2 2 1 0) (signalled 2 2 1 0 st)) (fun t =>
          (t.stage 0).map (fun u => u.seq.held.length) = some 1) ∧
        leaves (exec (.tokenSignalArrival 0 2 2 0 1) (signalled 2 2 0 1 st)) (fun t =>
          (t.stage 0).map (fun u => u.seq.held.length) = some 1) ∧
        gives (exec (.tokenSignalArrival 0 2 2 2 0) (signalled 2 2 2 0 st)) (work st ctx0) ∧
        gives (exec (.tokenSignalArrival 0 2 2 2 0) w0) w0) := by
  decide +kernel

/-- An MMA of int8 with K = 32: A at register 0, B at register 1, tile 63 of engine 47. -/
def mmaWord : MmaFields :=
  { engine := 47, format := 6, areg := 0, breg := 1, tile := 63, kcode := 0, z := false, xa := false, xb := false, xc := false }

/-- Tile 62 and 63 of engine 0 as binary64, at register 0. -/
def accWord : AccFields := { engine := 0, reg := 0, tile := 62, ty := 2, xa := false, xc := false }

theorem test_matrix :
    (lit.seq.tile 63 (mmaWide mmaWord) false = some 63 ∧
      lit.seq.range (ctx0.stagingOf 0) 0 false (16 * lineCount (rowBytes 6 32)) = some { bank := 0, first := 0, count := 16 } ∧
      lit.seq.range (ctx0.stagingOf 0) 1 false (32 * lineCount (rowBytes 6 32)) = some { bank := 0, first := 0, count := 32 } ∧
      lit.waits { dest := .engine 47, reads := [{ bank := 0, first := 0, count := 16 }, { bank := 0, first := 0, count := 32 }]
                  writes := [], checked := true, beats := 0 } = false ∧
      fires (.mma 0 mmaWord) lit (fun u => u.flights.length = 1 && u.seq.pc = 1)) ∧
    (lit.seq.tile 62 (isWide 2) false = some 62 ∧
      lit.seq.range (ctx0.stagingOf 0) 0 false (16 * lineCount (accRowBytes (isWide 2))) =
        some { bank := 0, first := 0, count := 64 } ∧
      lit.waits { dest := .engine 0, reads := [{ bank := 0, first := 0, count := 64 }], writes := [], checked := false
                  beats := 0 } = false ∧
      fires (.accld 0 accWord) { lit with scratch := [(8, 0x55)] } (fun u => cellGet u.acc (accKey 0 62 1) = 0x55) ∧
      fires (.accadd 0 { accWord with ty := 1 }) { lit with scratch := [(4, 0x55)], acc := [(accKey 0 62 1, 2)] }
        (fun u => cellGet u.acc (accKey 0 62 1) = 0x57)) ∧
    (lit.waits (tilePlan 3 false) = false ∧ shotFieldsOk (.accz 0 3 1 63) = false ∧
      fires (.accz 0 3 5 0) { lit with acc := [(accKey 3 5 9, 7), (accKey 3 6 0, 7)] } (fun u =>
        u.acc = [(accKey 3 6 0, 7)])) := by decide +kernel

theorem test_accst :
    (let f : AccFields := { accWord with ty := 1, tile := 0 };
      let st : Stage := { lit with acc := [(accKey 0 0 1, 0x01020304)] };
      let a : LineRange := { bank := 0, first := 0, count := 16 * storeRowLines 8 };
      st.seq.tile 0 (isWide 1) false = some 0 ∧ st.seq.range (ctx0.stagingOf 0) 0 false (16 * storeRowLines 8) = some a ∧
        st.waits { dest := .engine 0, reads := [], writes := [a], checked := false, beats := 0 } = false ∧
        (storeEffect f 0 8 false false st.seq ctx0 st false).isSome ∧
        fires (.accst 0 f 8 false false) st (fun u => u.seq.pc = 1)) := by
  decide +kernel

theorem test_bank_moves :
    (let st : Stage := { lit with scratch := [(0, 1), (63, 2)], seq := { lit.seq with ar := setAt lit.seq.ar 1 (65536 + 9) } };
      let a : LineRange := { bank := 0, first := 0, count := 1 };
      let b : LineRange := { bank := 1, first := 9, count := 1 };
      st.seq.range (ctx0.stagingOf 0) 0 false 1 = some a ∧ st.seq.range (ctx0.stagingOf 0) 1 false 1 = some b ∧
        st.waits { dest := .engine 0, reads := [a], writes := [b], checked := false, beats := 0 } = false ∧
        (st.writeRange false b (linesOf 1 (st.readRange a))).isSome ∧
        fires (.movb 0 0 0 1 1 false false) st (fun u => cellGet u.scratch (lineKey 1 9) = 1 &&
          cellGet u.scratch (lineKey 1 9 + 63) = 2 && u.journal.length = 1) ∧
        (st.writeRange false b [patternLine 0x04030201]).isSome ∧
        fires (.fillb 0 0 1 1 0x04030201) st (fun u => cellGetList u.scratch (lineKey 1 9) 5 = [1, 2, 3, 4, 1])) := by
  decide +kernel

/-- CVTB of one group from int8 to int8. -/
def cvtWord : CvtFields :=
  { engine := 0, sreg := 0, dreg := 1, sfmt := 6, dfmt := 6, groups := 1, r := false, s := false, xa := false, xb := false }

theorem test_cvtb :
    (let st : Stage := { lit with scratch := [(0, 0x80)], seq := { lit.seq with ar := setAt lit.seq.ar 1 (65536 + 9) } };
      (cvtSrc cvtWord st.seq (ctx0.stagingOf 0)).isSome ∧ (cvtDst cvtWord st.seq (ctx0.stagingOf 0)).isSome ∧
        fires (.cvtb 0 cvtWord) st (fun u => cellGet u.scratch (lineKey 1 9) = 0x80 && u.journal.length = 1 &&
          u.flights.length = 1)) := by decide +kernel

/-- A vector shot of int32 on engine 0: tile 2 from tiles 0 and 1. -/
def vecWord : VecFields := { engine := 0, d := 2, a := 0, b := 1, ty := 1, x := false }

/-- Its stage, with elements 5 of the sources 2^31 - 1 and 2. -/
def vecStage : Stage := { lit with acc := [(5, 0x7FFFFFFF), (accKey 0 1 5, 2)] }

/-- Element 5 of tile 2 after a shot, with the wraps it counted. -/
def elem5 (i : Instr) : Option (BitVec 32 × Nat) :=
  if stands i vecStage ctx0 then
    match exec i (ready i vecStage ctx0) with
    | .next t => (t.stage 0).map (fun u => (cellGet u.acc (accKey 0 2 5), u.cnt.wrap))
    | _ => none
  else none

theorem test_vectors_int32 :
    vecWord.ty = 1 ∧ vecStage.seq.tile 2 (isWide 1) false = some 2 ∧ vecStage.seq.tile 0 (isWide 1) false = some 0 ∧
    vecStage.seq.tile 1 (isWide 1) false = some 1 ∧ vecStage.waits (tilePlan 0 false) = false ∧
    Memory.wf vecStage.acc = true ∧
    elem5 (.vadd 0 vecWord) = some (0x80000001, 1) ∧ elem5 (.vsub 0 vecWord) = some (0x7FFFFFFD, 0) ∧
    elem5 (.vmul 0 vecWord) = some (0xFFFFFFFE, 1) ∧ elem5 (.vmax 0 vecWord) = some (0x7FFFFFFF, 0) ∧
    elem5 (.vmin 0 vecWord) = some (2, 0) ∧ elem5 (.vneg 0 { vecWord with b := 0 }) = some (0x80000001, 0) ∧
    elem5 (.vmov 0 { vecWord with b := 0 }) = some (0x7FFFFFFF, 0) := by decide +kernel

theorem test_vectors_more :
    elem5 (.vfma 0 vecWord) = some (0xFFFFFFFE, 1) ∧ elem5 (.vabs 0 { vecWord with b := 0 }) = some (0x7FFFFFFF, 0) ∧
    elem5 (.vrelu 0 { vecWord with b := 0 }) = some (0x7FFFFFFF, 0) ∧ elem5 (.vrsum 0 { vecWord with b := 0 }) = some (0, 0) ∧
    elem5 (.vcsum 0 { vecWord with b := 0 }) = some (0x7FFFFFFF, 0) ∧
    (let f : VecFields := { vecWord with ty := 0, b := 0 };
      vecOk f = true ∧ f.ty ≠ 1 ∧ vecStage.seq.tile 2 (isWide 0) false = some 2 ∧ vecStage.waits (tilePlan 0 true) = false ∧
        stands (.vdiv 0 f) vecStage ctx0 ∧ stands (.vsqrt 0 f) vecStage ctx0) := by decide +kernel

theorem test_vectors_immediate :
    (let f : VecImm := { engine := 0, d := 2, a := 0, ty := 1, imm := 3 };
      vecImmOk f = true ∧ elem5 (.vaddi 0 f) = some (0x80000002, 1) ∧ elem5 (.vscal 0 f) = some (0x7FFFFFFD, 1) ∧
        elem5 (.vfill 0 { f with a := 0 }) = some (3, 0)) := by decide +kernel

theorem test_shots_that_wait :
    (let s : State := { w0 with pins := { w0.pins with issueStopped := true } };
      s.issuer 0 = none ∧ gives (exec (.vadd 0 vecWord) s) s) ∧
    (let s : State := ready (.vsub 0 vecWord) lit ctx0;
      shotOf 0 (enc (.vsub 0 vecWord)).toNat = some (.vsub 0 vecWord) ∧ gives (exec (.vadd 0 vecWord) s) s) ∧
    (shotOf 0 (wd 0x3F []).toNat = none ∧
      leaves (exec (.nop 0) (work (script1 lit (wd 0x3F [])) ctx0)) (fun t => (t.testOf (.scriptRow 0 0)).isSome)) ∧
    (let f : VecFields := { vecWord with ty := 3 };
      shotOf 0 (enc (.vadd 0 f)).toNat = some (.vadd 0 f) ∧ shotFieldsOk (.vadd 0 f) = false ∧
        leaves (exec (.vadd 0 f) (ready (.vadd 0 f) lit ctx0)) (fun t => (t.testOf (.scriptRow 0 0)).isSome)) ∧
    (let f : VecFields := { vecWord with x := true, d := 63 };
      let st : Stage := { lit with seq := { lit.seq with loop := some { start := 0, len := 1, count := 9, stride := 0, iter := 1 } } };
      st.seq.tile 63 (isWide 1) true = none ∧
        shoots (.vadd 0 f) st ctx0 (fun t => (t.ctx 0).bind Ctx.endDue = some (false, 0x15, 0, 0))) ∧
    (let st : Stage := { lit with flights := List.replicate 4 { flight with dest := .engine 0 } };
      4 ≤ st.flights.countP (fun x => x.dest = .engine 0) ∧ holds (.vadd 0 vecWord) st ctx0) ∧
    (let st : Stage := { lit with flights := [{ flight with reads := [{ bank := 0, first := 0, count := 1 }] }] };
      lit.seq.range (ctx0.stagingOf 0) 0 false 1 = some { bank := 0, first := 0, count := 1 } ∧
        holds (.fillb 0 0 0 1 9) st ctx0) := by decide +kernel

/-- A stage whose journal of bank 0 is full. -/
def fullJournal : Stage :=
  holding (.fillb 0 0 0 1 9)
    { lit with journal := List.replicate 4096 { bank := 0, line := 9, ahead := false, old := 0 } }

theorem test_full_journal :
    (work fullJournal ctx0).issuer 0 = some (fullJournal, 0, ctx0) ∧ fullJournal.head 0 (.fillb 0 0 0 1 9) = .shot ∧
    fullJournal.seq.range (ctx0.stagingOf 0) 0 false 1 = some { bank := 0, first := 0, count := 1 } ∧
    fullJournal.waits { dest := .engine 0, reads := [], writes := [{ bank := 0, first := 0, count := 1 }], checked := false
                        beats := 0 } = false ∧
    (fullJournal.writeRange false { bank := 0, first := 0, count := 1 } [patternLine 9]).isNone :=
  ⟨rfl, by decide +kernel, by decide +kernel, by decide +kernel, by decide +kernel⟩

theorem test_splice_shots :
    (let f : SpliceFields := { side := 1, slot := 0, reg := 0, beats := 1, xa := false, xs := false };
      let r : LineRange := { bank := 0, first := 0, count := 4 };
      w0.spliceShotOk 0 f = true ∧ lit.seq.range (ctx0.stagingOf 0) 0 false 4 = some r ∧
        lit.waits { dest := .splice .east, reads := [r], writes := [], checked := false, beats := 1 } = false ∧
        lit.waits { dest := .splice .east, reads := [], writes := [r], checked := false, beats := 1 } = false ∧
        lit.land .east = [] ∧
        fires (.send 0 f) { lit with scratch := [(1, 0xFF)] } (fun u => u.linkE.unacked.length = 1) ∧
        fires (.recv 0 f) lit (fun u => u.flights.length = 1)) := by decide +kernel

/-- A COMMIT of entry 0 in flight. -/
def commitFlight : Flight :=
  { flight with dest := .commit, checked := false, reads := [{ bank := 0, first := 0, count := 1 }], slot := some (0, .a) }

theorem test_commit_and_retire :
    (let o : OutEntry := { row := 0, col := 0, port := 0, tag := false, offset := 0, lines := 1, count := 4, base := 0
                           stride := 4096 };
      let r : LineRange := { bank := 0, first := 0, count := 1 };
      commitEntry 0 0 false lit.seq ctx0 = some (0, o) ∧ lit.seq.range (ctx0.stagingOf 0) 0 false 1 = some r ∧
        lit.waits { dest := .commit, reads := [r], writes := [], checked := false, beats := 0
                    slot := some (0, ctx0.outPort o) } = false ∧
        fires (.commit 0 0 0 false false) lit (fun u => u.staged = [] && u.flights.map Flight.slot = [some (0, .a)]) ∧
        ctx0.outEntry 0 = some o) ∧
    (let st : Stage := { lit with flights := [commitFlight], scratch := [(0, 5)] };
      let s : State := work st { ctx0 with outs := [(0, .a, 0)] };
      s.slotBusy 0 commitFlight = true ∧ gives (exec (.shotRetire 0 0 true) s) s ∧
        leaves (exec (.shotRetire 0 0 true) (work st { ctx0 with outs := [(0, .b, 0), (0, .a, 1)] })) (fun t =>
          (t.stage 0).map (fun u => (u.flights, u.staged)) = some ([], [{ entry := 0, parity := 0, lines := [5] }]))) ∧
    (let st : Stage := { lit with flights := [flight] };
      let s : State := work st ctx0;
      st.flights.find? (fun x => x.no = 0) = some flight ∧ s.live = true ∧ st.clocked = true ∧ st.oldest flight = true ∧
        flight.left = 0 ∧ s.slotBusy 0 flight = false ∧ flight.checked = true ∧
        leaves (exec (.shotRetire 0 0 true) s) (fun t => (t.stage 0).map Stage.flights = some []) ∧
        leaves (exec (.shotRetire 0 0 false) s) (fun t => ((t.ctx 0).bind Ctx.rollback).isSome &&
          (t.testOf (.engine 0 5)).isSome)) := by decide +kernel
/-! ### Errors, rollback, tests and substitution -/

theorem test_detected_errors :
    (lit.st = .lit ∧ w0.ctxOf 0 = some (0, ctx0) ∧ ctx0.level = none ∧ w0.live = true ∧ ctx0.committing = false ∧
      w0.testOf (.scriptRow 0 (511 / 32)) = none ∧
      leaves (exec (.scriptStoreUncorrectable 0 511 1) w0) (fun t =>
        (t.stage 0).map Stage.scriptCorrected = some 1 && t.parts = w0.parts) ∧
      leaves (exec (.scriptStoreUncorrectable 0 511 2) w0) (fun t =>
        ((t.ctx 0).bind Ctx.rollback) = some { both := true, wait := [0, 1], aborted := [], kind := 2, stage := 0 } &&
        (t.stage 0).bind Stage.reload = some 0 && (t.testOf (.scriptRow 0 15)).isSome)) ∧
    (up.stage 0 = some { Stage.reset 0 with fused := 15, usable := 15 } ∧
      gives (exec (.scriptStoreUncorrectable 0 511 2) up) up) ∧
    (let j : JEntry := { bank := 3, line := 9, ahead := false, old := 0 };
      let st : Stage := { lit with journal := [j] };
      st.journaled 3 9 false = true ∧ (work st ctx0).testOf (rowUnit 0 3 9) = none ∧
        leaves (exec (.bankUncorrectable 0 3 9 false false) (work st ctx0)) (fun t =>
          ((t.ctx 0).bind Ctx.rollback).map Rollback.both = some true)) ∧
    (let j : JEntry := { bank := 3, line := 9, ahead := true, old := 0 };
      let st : Stage := { lit with journal := [j] };
      st.journaled 3 9 true = true ∧ (work st ctx0).rollStages ctx0 ≠ [] ∧
        leaves (exec (.bankUncorrectable 0 3 9 true false) (work st ctx0)) (fun t =>
          ((t.ctx 0).bind Ctx.rollback).map Rollback.both = some false && (t.ctx 0).map Ctx.retakes = some 0)) ∧
    (lit.journaled 3 9 true = false ∧ lit.journaled 3 9 false = false ∧
      leaves (exec (.bankUncorrectable 0 3 9 false false) w0) (fun t =>
        ((t.ctx 0).bind Ctx.level).map Level.level = some 3) ∧
      leaves (exec (.bankUncorrectable 0 3 9 false true) w0) (fun t =>
        ((t.ctx 0).bind Ctx.level).map Level.trigger = some 3)) ∧
    leaves (exec (.prefetchSquashError 0 3 9) w0) (fun t => (t.testOf (rowUnit 0 3 9)).isSome && t.parts = w0.parts) := by
  decide +kernel

theorem test_error_events :
    gives (exec (.errorEventReceived (stageErr 0x1C 0 none)) w0) w0 ∧
    leaves (exec (.errorEventReceived (stageErr 0x17 0 none)) w0) (fun t => t.dailies.log.length = 1) ∧
    (let e : ErrReport := stageErr 0x01 0 none;
      e.ahead = false ∧ e.unit = none ∧ leaves (exec (.errorEventReceived e) w0) (fun t =>
        ((t.ctx 0).bind Ctx.rollback).map Rollback.kind = some 1 && (t.ctx 0).map Ctx.retakes = some 1)) := by decide +kernel

theorem test_restore :
    (let j : JEntry := { bank := 3, line := 65535, ahead := false, old := 5 };
      let st : Stage := { lit with journal := [{ j with ahead := true, old := 6 }, j], scratch := [(lineKey 3 65535, 9)] };
      Memory.wf st.scratch = true ∧ (∀ j ∈ st.journal, j.line < 65536) ∧
        st.journal.find? (fun j => j.bank = 3 && j.line = 65535 && !j.ahead) = some j ∧
        cellGet (st.restore true).scratch (lineKey 3 65535) = 5 ∧
        st.journal.find? (fun j => j.bank = 3 && j.line = 65535 && j.ahead) = some { j with ahead := true, old := 6 } ∧
        cellGet (st.restore false).scratch (lineKey 3 65535) = 6 ∧
        (∀ j ∈ st.journal, ¬ (j.bank = 3 ∧ j.line = 0)) ∧ (∀ j ∈ st.journal, j.ahead = true → ¬ (j.bank = 2 ∧ j.line = 0))) ∧
    (let j : JEntry := { bank := 3, line := 0, ahead := true, old := 6 };
      let st : Stage := { lit with journal := [j] };
      st.journal.find? (fun j => j.bank = 3 && j.line = 0 && !j.ahead) = none ∧
        st.journal.find? (fun j => j.bank = 3 && j.line = 0 && j.ahead) = some j ∧
        cellGet (st.restore true).scratch (lineKey 3 0) = 6) := by decide +kernel

theorem test_journaled_write :
    Memory.wf lit.scratch = true ∧ lit.journaled 3 9 false = false ∧
    (lit.writeLine false 3 9 1).map (fun u => (cellGet u.scratch (lineKey 3 9), u.journal.length)) = some (1, 1) ∧
    (let j : JEntry := { bank := 3, line := 9, ahead := false, old := 0 };
      let st : Stage := { lit with journal := List.replicate 4096 j };
      st.journaled 3 9 false = true ∧ (st.writeLine false 3 9 1).isSome ∧ st.journaled 3 8 false = false ∧
        4096 ≤ st.journal.countP (fun j => j.bank = 3) ∧ (st.writeLine false 3 8 1).isNone) := by decide +kernel

/-- A rollback of stages 0 and 1. -/
def rolling (whole : Bool) (aborted : List Nat) : Rollback :=
  { both := whole, wait := [0, 1], aborted := aborted, kind := 1, stage := 0 }

theorem test_rollback :
    (let c : Ctx := { ctx0 with rollback := some (rolling true []) };
      let st : Stage := { lit with acc := [(0, 1)], flights := [flight] };
      (work st c).ctxOf 0 = some (0, c) ∧ 0 ∈ (rolling true []).wait ∧ 0 ∉ (rolling true []).aborted ∧
        leaves (exec (.rollbackAbort 0) (work st c)) (fun t =>
          (t.stage 0).map (fun u => (u.acc, u.flights)) = some ([], []) &&
          ((t.ctx 0).bind Ctx.rollback).map Rollback.aborted = some [0])) ∧
    (let c : Ctx := { ctx0 with rollback := some (rolling false []) };
      let st : Stage := { doneStage with seq := { doneStage.seq with ahead := true } };
      c.inFrame = true ∧ st.seq.ahead = true ∧ leaves (exec (.rollbackAbort 0) (work st c)) (fun t =>
        (t.stage 0).map (fun u => (u.seq.ahead, u.seq.noAhead)) = some (false, true))) ∧
    (let c : Ctx := { ctx0 with rollback := some (rolling true [0]) };
      0 ∈ (rolling true [0]).aborted ∧ leaves (exec (.rollbackComplete 0) (work lit c)) (fun t =>
        ((t.ctx 0).bind Ctx.rollback).map Rollback.wait = some [1]) ∧
        gives (exec (.rollbackComplete 1) (work lit c)) (work lit c)) ∧
    (let rb : Rollback := { rolling false [0] with wait := [0] };
      let c : Ctx := { ctx0 with rollback := some rb };
      (∀ m ∈ rb.wait, m = 0) ∧ leaves (exec (.rollbackComplete 0) (work lit c)) (fun t =>
        (t.ctx 0).bind Ctx.rollback = none)) ∧
    (let c : Ctx := { ctx0 with rollback := some (rolling true []), rolledRun := 4 };
      c.level = none ∧ leaves (exec (.retakeLimit 0) (work lit c)) (fun t =>
        ((t.ctx 0).bind Ctx.level).map Level.level = some 3)) ∧
    (let c : Ctx := { ctx0 with rollback := some (rolling true []), rolledRun := 3 };
      gives (exec (.retakeLimit 0) (work lit c)) (work lit c)) := by decide +kernel

theorem test_trackers :
    ((∀ e ∈ lit.columns, ¬ (e.bank = 3 ∧ e.sub = 1)) ∧ [1, 2, 3, 3].dedup.length < 4 ∧
      leaves (exec (.columnDetector 0 3 1 7 [1, 2, 3, 3]) w0) (fun t =>
        (t.stage 0).map (fun u => (u.columns.length, u.corrected)) = some (1, 4)) ∧
      4 ≤ [1, 2, 3, 4].dedup.length ∧ w0.testOf (.bankCol 0 3 1 7) = none ∧
      leaves (exec (.columnDetector 0 3 1 7 [1, 2, 3, 4]) w0) (fun t => (t.testOf (.bankCol 0 3 1 7)).isSome)) ∧
    (leaves (exec (.cellTracker 0 3 1 2 7) w0) (fun t => (t.stage 0).map (fun u => u.cells.length) = some 1)) ∧
    (let e : CellEntry := { bank := 3, sub := 1, row := 2, col := 7, reads := 0 };
      let st : Stage := { lit with cells := [e] };
      st.cells.find? (fun x => x.bank = 3 && x.sub = 1 && x.row = 2 && x.col = 7) = some e ∧ (work st ctx0).testOf (.bankRow 0 3 1 2) = none ∧
        leaves (exec (.cellTracker 0 3 1 2 7) (work st ctx0)) (fun t => (t.stage 0).map Stage.cells = some [] &&
          (t.testOf (.bankRow 0 3 1 2)).isSome)) := by decide +kernel

/-- The module with tests pending. -/
def tested (st : Stage) (c : Ctx) (k : Test) : State := { work st c with tests := [k] }

theorem test_substitution :
    (let k : Test := testing (.engine 0 5);
      (tested lit ctx0 k).testOf (.engine 0 5) = some k ∧ k.moved = false ∧ k.wait = .free ∧ lit.freeEng = [48, 49] ∧
        leaves (exec (.substitution (.engine 0 5)) (tested lit ctx0 k)) (fun t =>
          (t.stage 0).map (fun u => (u.engineMap.getD 5 0, u.freeEng)) = some (48, [49]) &&
          (t.ctx 0).map Ctx.standIns = some 1)) ∧
    (let k : Test := testing (.engine 0 5);
      let st : Stage := { lit with freeEng := [] };
      gives (exec (.substitution (.engine 0 5)) (tested st ctx0 k)) (tested st ctx0 k)) ∧
    (let k : Test := testing (.bank 0 5);
      k.copied = false ∧ lit.freeBank ≠ [] ∧ leaves (exec (.substitutionCopyComplete (.bank 0 5)) (tested lit ctx0 k))
        (fun t => (t.testOf (.bank 0 5)).map (fun j => (j.copied, j.wait)) = some (true, .tick)) ∧
        gives (exec (.substitutionCopyComplete (.bank 0 5)) (tested { lit with freeBank := [] } ctx0 k))
          (tested { lit with freeBank := [] } ctx0 k)) := by decide +kernel

theorem test_self_tests :
    (let k : Test := { testing (.engine 0 5) with moved := true, repl := some 48 };
      let st : Stage := { lit with freeEng := [49] };
      let s : State := { tested st ctx0 k with transients := [(.engine 0 5, 2)] };
      s.testOf (.engine 0 5) = some k ∧ s.transientOf (.engine 0 5) + k.joined = s.allow ∧
        leaves (exec (.selfTestComplete (.engine 0 5) { failed := false, detectors := [], lanes := [] }) s) (fun t =>
          (t.stage 0).map Stage.freeEng = some [49, 5] && t.transientOf (.engine 0 5) = 3) ∧
        leaves (exec (.selfTestComplete (.engine 0 5) { failed := true, detectors := [], lanes := [] }) s) (fun t =>
          (t.stage 0).map Stage.freeEng = some [49] && t.flash.retire0.isSome)) ∧
    (w0.testOf (.engine 0 5) = none ∧
      gives (exec (.selfTestComplete (.engine 0 5) { failed := true, detectors := [], lanes := [] }) w0) w0) := by
  decide +kernel

theorem test_block_reload :
    (let st : Stage := { lit with reload := some 0, scriptLen := 1, scriptCrc := [crc32 (leBytes 8 0x0800000000800000)] };
      let s : State := { work st ctx0 with portA := bound };
      (s.port .a).canSend = true ∧ (work st ctx0).portA.canSend = false ∧
        leaves (exec (.scriptBlockReload 0 0 (some (leBytes 8 0x0800000000800000))) (work st ctx0))
          (fun t => ((t.ctx 0).bind Ctx.level).isSome) ∧
      s.ctxOf 0 = some (0, ctx0) ∧ ctx0.level = none ∧ st.reload = some 0 ∧ (leBytes 8 7).length = 8 ∧
        leaves (exec (.scriptBlockReload 0 0 (some (leBytes 8 0x0800000000800000))) s) (fun t =>
          (t.stage 0).map (fun u => (u.reload, u.script)) = some (none, [(0, 0x0800000000800000)])) ∧
        some (crc32 (leBytes 8 7)) ≠ st.scriptCrc[0]? ∧ leaves (exec (.scriptBlockReload 0 0 (some (leBytes 8 7))) s)
          (fun t => ((t.ctx 0).bind Ctx.level).isSome) ∧
        leaves (exec (.scriptBlockReload 0 0 none) s) (fun t => ((t.ctx 0).bind Ctx.level).isSome)) ∧
    gives (exec (.scriptBlockReload 0 0 none) w0) w0 := by decide +kernel

/-! ### Hangs, cuts and escalation -/

/-- A cut in progress. -/
def cut0 : Cut := { mask := 1, fixed := true, noticed := true, told := [], stopped := [], resumed := false }

/-- A context that ended by a cut, at a recovery level or none. -/
def cutting (k : Cut) (v : Option Level) : Ctx :=
  { ctx0 with
    inFrame := false, cut := some k, level := v
    ended := some { cut := true, cause := 0, row := 0xFF, col := 0xFF, stamp := 0, tick := 1, energy := 0, epochId := 0
                    era := 0 } }

theorem test_hang_and_cut :
    (let c : Ctx := { ctx0 with noProg := 7 };
      let s : State := work lit c;
      s.ctx 0 = some c ∧ c.cut = none ∧ c.cuttable = true ∧ s.counts c = true ∧ c.action = none ∧
        s.tickActionOf c = .wait ∧ c.noProg + 1 = s.window ∧ leaves (exec (.hang 0) s) (fun t =>
          ((t.ctx 0).bind Ctx.cut).map Cut.mask = some 0x10 && ((t.ctx 0).bind Ctx.level).map Level.trigger = some 0x15)) ∧
    (ctx0.noProg + 1 ≠ w0.window ∧ gives (exec (.hang 0) w0) w0 ∧
      leaves (exec (.cutAccept 0 (.host .b)) w0) (fun t => ((t.ctx 0).bind Ctx.cut).map Cut.mask = some 2)) ∧
    (let c : Ctx := { ctx0 with cut := some { cut0 with fixed := false, noticed := false } };
      leaves (exec (.cutAccept 0 (.control .b)) (work lit c)) (fun t =>
        ((t.ctx 0).bind Ctx.cut).map Cut.mask = some 9)) ∧
    (let c : Ctx := { ctx0 with endDue := some (false, 0, 0, 0) };
      c.cuttable = false ∧ gives (exec (.cutAccept 0 .monitor) (work lit c)) (work lit c)) ∧
    (let c : Ctx := cutting { cut0 with noticed := false } none;
      (work lit c).ctx 0 = some c ∧ leaves (exec (.cutTick 0) (work lit c)) (fun t => (t.ctx 0).map Ctx.epoch = some 1)) ∧
    gives (exec (.cutTick 0) (work lit (cutting cut0 none))) (work lit (cutting cut0 none)) := by decide +kernel

/-- A response of the context in an earlier epoch, still on its spine. -/
def lateFlit : SpineOut :=
  let h : FlitHeader :=
    { cls := 1, data := false, src := 0, dst := 96, ctx := 1, epoch := 9, op := 0, tag := 0, line := 0, bank := 0
      status := 0, arg := 0 }
  { col := 0, north := false, header := flitBits h, data := none, crc := 0 }

theorem test_cut_steps :
    (let c : Ctx := cutting cut0 none;
      let s : State := work { lit with flights := [flight] } c;
      s.ctxOf 0 = some (0, c) ∧ 0 ∉ cut0.told ∧ leaves (exec (.cutNotice 0) s) (fun t =>
        (t.stage 0).map (fun u => (u.flights, u.stopped)) = some ([], true)) ∧
        gives (exec (.cutNotice 0) (work { lit with st := .dark } c)) (work { lit with st := .dark } c)) ∧
    (let k : Cut := { cut0 with told := [0] };
      let c : Ctx := cutting k none;
      let s : State := work lit c;
      0 ∈ k.told ∧ 0 ∉ k.stopped ∧ s.dumpDue c 0 = false ∧ gives (exec (.cutNotice 0) s) s ∧
        leaves (exec (.cutStopped 0) s) (fun t => (t.stage 0).map Stage.releasing = some true)) ∧
    (let nm : Named := { stage := 0, engine := 5, shot := 0, bank := 0, first := 0, dumped := false };
      let c : Ctx := { cutting { cut0 with told := [0] } none with named := some nm };
      let s : State := { work lit c with straps := { up.straps with levels := up.straps.levels.set 9 2 } };
      s.dumpLines = 1024 ∧ gives (exec (.cutStopped 0) s) s ∧ leaves (exec (.stageDump 0 .unlit) s) (fun t =>
        ((t.ctx 0).bind Ctx.named).map Named.dumped = some true && t.dailies.written = 1)) ∧
    (let c : Ctx := { cutting { cut0 with told := [0, 1], stopped := [0, 1] } none with released := [0, 1] };
      let s : State := { work { lit with part := none } c with
        straps := { up.straps with levels := up.straps.levels.set 22 1 }
        stages := List.replicate 2 { lit with part := none } ++ up.stages.drop 2 };
      c.recorded = false ∧ s.allReleased 0 c = true ∧ s.fencesCrossed 0 c = true ∧ s.spinesClear c = true ∧
        (let b : State := { s with spineOut := [lateFlit] };
          b.spinesClear c = false ∧ gives (exec (.cutComplete 0 true) b) b) ∧
        leaves (exec (.cutComplete 0 true) s) (fun t => t.ctx 0 = none && t.chain.next = 1)) ∧
    (let c : Ctx := cutting cut0 none;
      (work lit c).allReleased 0 c = false ∧ gives (exec (.cutComplete 0 true) (work lit c)) (work lit c)) := by
  decide +kernel

/-- A recovery level in progress. -/
def levelAt (n : Nat) : Level := { level := n, trigger := 0x15, start := 0, stage := 0 }

theorem test_levels :
    (let c : Ctx := cutting cut0 (some (levelAt 1));
      (work lit c).ctx 0 = some c ∧ c.ended.isSome ∧ c.recorded = false ∧ (work lit c).unstopped 0 c cut0 ≠ [] ∧
        leaves (exec (.escalationBoundExpiry 1 0) (work lit c)) (fun t =>
          ((t.ctx 0).bind Ctx.level).map Level.level = some 2)) ∧
    (let k : Cut := { cut0 with told := [0, 1], stopped := [0, 1] };
      let c : Ctx := cutting k (some (levelAt 1));
      (work lit c).unstopped 0 c k = [] ∧ leaves (exec (.escalationBoundExpiry 1 0) (work lit c)) (fun t =>
        ((t.ctx 0).bind Ctx.level).map Level.level = some 3)) ∧
    (let c : Ctx := cutting cut0 (some (levelAt 2));
      leaves (exec (.escalationBoundExpiry 2 0) (work lit c)) (fun t =>
        ((t.ctx 0).bind Ctx.level).map Level.level = some 3)) ∧
    (let c : Ctx := cutting cut0 (some (levelAt 3));
      leaves (exec (.escalationBoundExpiry 3 0) (work lit c)) (fun t => t.level4.isSome)) ∧
    leaves (exec (.escalationBoundExpiry 4 0) { w0 with level4 := some (levelAt 4) }) (fun t =>
      t.level5.isSome && t.pins.failed) ∧
    gives (exec (.escalationBoundExpiry 4 0) w0) w0 ∧ gives (exec (.escalationBoundExpiry 2 0) w0) w0 := by decide +kernel

theorem test_resets :
    (let c : Ctx := cutting cut0 (some (levelAt 2));
      leaves (exec (.engineReset 0) (work { lit with acc := [(0, 1)] } c)) (fun t =>
        (t.stage 0).map (fun u => (u.acc, u.releasing)) = some ([], true) &&
        ((t.ctx 0).bind Ctx.cut).map Cut.resumed = some true)) ∧
    (let c : Ctx := { ctx0 with level := some (levelAt 3), endDue := some (false, 0x22, 0, 0) };
      let s : State := { work lit c with straps := { up.straps with levels := up.straps.levels.set 22 1 } };
      s.ctx 0 = some c ∧ leaves (exec (.partitionReset 0 true) s) (fun t => t.ctx 0 = none && t.chain.next = 1 &&
        (t.stage 0).bind Stage.part = none)) ∧
    (let s : State := ({ (work { lit with st := .dark } ctx0) with straps := { up.straps with
        levels := (up.straps.levels.set 22 1).set 9 2 } }).enterLevel3 0 0x09 0;
      ((s.ctx 0).bind Ctx.named).map Named.stage = some 0 ∧ leaves (exec (.partitionReset 0 true) s) (fun t =>
        t.ctx 0 = none && t.dailies.dumps.map (fun d => (d.status, d.stage, d.level)) = [(1, 0, 3)])) ∧
    (let c : Ctx := { ctx0 with level := some (levelAt 1) };
      gives (exec (.partitionReset 0 true) (work lit c)) (work lit c)) ∧
    (let s : State := { w0 with level4 := some (levelAt 4), straps := { up.straps with levels := up.straps.levels.set 22 1 } };
      leaves (exec (.chipComputeReset [] true) { s with spineOut := [token 1 0 0 0 0] }) (fun t => t.level4.isNone && t.spineOut = [] && t.parts.all Option.isNone)) ∧
    gives (exec (.chipComputeReset [] true) w0) w0 ∧
    (let s : State := { w0 with level5 := some (levelAt 5), straps := { up.straps with levels := up.straps.levels.set 22 1 } };
      s.pins.pwrCycleReq = false ∧ s.ledgerRead = true ∧ leaves (exec (.powerCycleRequest true true) s) (fun t => t.pins.pwrCycleReq &&
        t.newestSet.isSome && t.parts.all Option.isNone)) ∧
    gives (exec (.powerCycleRequest true true) w0) w0 := by decide +kernel

/-! ### Hours, calibration, the interval unit and discipline -/

theorem test_hours :
    (let s : State := { w0 with
        time := { w0.time with hourCount := 23, dayCount := 4, bootCount := 9 }, transients := [(.engine 0 5, 2)] };
      s.pins.bootDone = true ∧ s.inReset = false ∧ s.time.holdover = false ∧ s.hasSource = false ∧ s.strap 18 ≠ 1 ∧
        leaves (exec .hourCount s) (fun t => t.time.hourCount = 0 && t.time.dayCount = 5 && t.transients = [] &&
          (daysOf t.flash.days0).map Days.boot = some 9)) ∧
    (ppsOn.hasSource = true ∧ leaves (exec .hourCount ppsOn) (fun t => t.time.corr = 0)) ∧
    (let s : State := { up with
        time := { up.time with holdover := true }, straps := { up.straps with levels := up.straps.levels.set 18 1 } };
      s.time.holdover = true ∧ s.strap 18 = 1 ∧ leaves (exec .hourCount s) (fun t => t.iu.collecting = some 1)) ∧
    gives (exec .hourCount (bootAt 5)) (bootAt 5) := by decide +kernel

theorem test_calibration :
    (let h : List Nat := List.replicate 256 4096;
      (bootAt 4).pins.booting = true ∧ (bootAt 4).strap 18 ≠ 2 ∧ hitsValid h = true ∧ hitsValid (h.set 0 524) = false ∧
        leaves (exec (.bootCalibrationComplete [(2, h), (3, h.set 0 524)]) (bootAt 4)) (fun t =>
          t.iu.tables[2]? = some (.statistical h, 0) && t.iu.tables[3]? = some (.nominal, 0))) ∧
    (let s : State := { up with iu := { up.iu with collecting := some 2 } };
      leaves (exec (.calibrationCollectionComplete []) s) (fun t => t.iu.shadow.isSome && t.iu.collecting = none) ∧
        leaves (exec .calibrationAbandon s) (fun t => t.iu.shadow.isNone && t.iu.collecting = none)) ∧
    (up.iu.collecting = none ∧ gives (exec .calibrationAbandon up) up) := by decide +kernel

/-- The module 1 s after its epoch, with a measurement armed or not. -/
def armed (m : Option Meas) (last : Option Nat) : State :=
  { up with time := { up.time with wafer := 256000000000 }, iu := { up.iu with meas := m, lastIn := List.replicate 9 last } }

/-- A measurement armed at the epoch. -/
def meas0 : Meas := { number := 0, armAt := 0, start := none, stops := [], lost := false, uncal := false }

theorem test_intervals :
    ((armed none none).iu.meas = none ∧ leaves (exec .gateArm (armed none none)) (fun t => t.iu.number = 1 &&
      t.iu.meas.isSome) ∧ gives (exec .gateArm (armed (some meas0) none)) (armed (some meas0) none)) ∧
    (let v : Nat := (armed none none).inputStamp 8 255;
      v ≠ 0 ∧ (armed none none).holdOff = 2048 ∧
        gives (exec (.intervalInputEdge 8 255) (armed none (some (v - 2047)))) (armed none (some (v - 2047))) ∧
        leaves (exec (.intervalInputEdge 8 255) (armed none none)) (fun t => t.iu.lastIn.getD 8 none = some v)) ∧
    (let s : State := { armed none (some ((armed none none).inputStamp 0 0 - 512)) with
        straps := { up.straps with levels := up.straps.levels.set 16 0 } };
      s.holdOff = 512 ∧ leaves (exec (.intervalInputEdge 0 0) s) (fun t => t.iu.lost = 1)) ∧
    (meas0.start = none ∧ (armed (some meas0) none).startInput = 0 ∧
      leaves (exec (.intervalInputEdge 0 0) (armed (some meas0) none)) (fun t => (t.iu.meas.bind Meas.start).isSome)) ∧
    (queueBytes up.portA.queue + 176 ≤ 262144 ∧
      leaves (exec .measurementClose (armed (some meas0) none)) (fun t => t.iu.meas.isNone && t.portA.queue.length = 1) ∧
      leaves (exec .measurementTimeout (armed (some meas0) none)) (fun t => t.iu.meas.isNone && t.portB.queue.length = 1)) ∧
    gives (exec .measurementClose up) up := by decide +kernel

/-- One second in 1/256 ns. -/
abbrev sec : Nat := 256000000000

/-- The module with its PPS on, rising edges of 1 ms, at a wafer time and in a state of the discipline. -/
def ppsAt (w : Nat) (p : Pps) : State :=
  { ppsOn with time := { ppsOn.time with wafer := BitVec.ofNat 72 w, pps := p } }

/-- The stamp of an edge at the next internal tick. -/
def edgeAt : Int := (ppsAt (5 * sec) Pps.idle).stampBefore 9 0 0

theorem test_pps_gate :
    (up.ppsActive = false ∧ gives (exec (.ppsEdge up.ppsFalling 1000000 0 0) up) up) ∧
    (ppsOn.ppsFalling = false ∧ gives (exec (.ppsEdge true 1000000 0 0) ppsOn) ppsOn) ∧
    (let s : State := ppsAt (5 * sec) Pps.idle;
      let near : State := { s with iu := { s.iu with lastIn := List.replicate 9 (some (s.stampBefore 8 0 0 - 1)) } };
      s.ppsActive = true ∧ s.time.epochFixed = true ∧ s.inReset = false ∧ s.pins.bootDone = true ∧
        near.edgeFate 8 (near.stampBefore 8 0 0) = .ignored ∧ gives (exec (.ppsEdge false 1000000 0 0) near) near ∧
        s.edgeFate 8 (s.stampBefore 8 0 0) = .taken ∧ s.time.pps.spaced edgeAt = true ∧ s.time.pps.pending = none ∧
        s.ppsMinWidth ≤ 1000000 ∧ 1 < s.ppsMinWidth ∧
        leaves (exec (.ppsEdge false 1000000 0 0) s) (fun t => t.time.pps.pending = some edgeAt) ∧
        leaves (exec (.ppsEdge false 1 0 0) s) (fun t => t.time.pps.ignored = 1 && t.iu.lastIn.getD 8 none ≠ none)) := by
  decide +kernel

theorem test_pps_edges :
    (let s : State := ppsAt (5 * sec) { Pps.idle with lastEdge := some (edgeAt - sec - sec / 2) };
      s.time.pps.spaced edgeAt = false ∧ leaves (exec (.ppsEdge false 1000000 0 0) s) (fun t => t.time.pps.ignored = 1)) ∧
    (let s : State := ppsAt (5 * sec) { Pps.idle with pending := some (edgeAt - sec), lastEdge := some (edgeAt - sec) };
      s.time.pps.spaced edgeAt = true ∧ nearSeconds 1 (edgeAt - (edgeAt - sec)) = true ∧
        leaves (exec (.ppsEdge false 1000000 0 0) s) (fun t =>
          t.time.pps.acquired && t.time.pps.anchor = some edgeAt && t.time.corr = 0)) ∧
    (let s : State := ppsAt (5 * sec) { Pps.idle with
        anchor := some (edgeAt - 256001 - 3 * sec), acquired := true, locked := true };
      phaseError (edgeAt - 256001 - 3 * sec) edgeAt = 256001 ∧
        leaves (exec (.ppsEdge false 1000000 0 0) s) (fun t => t.time.pps.outliers = 1 && t.time.corr = 0)) ∧
    (let s : State := ppsAt (5 * sec) { Pps.idle with anchor := some (edgeAt - 12800 - 3 * sec), acquired := true };
      phaseError (edgeAt - 12800 - 3 * sec) edgeAt = 12800 ∧ leaves (exec (.ppsEdge false 1000000 0 0) s) (fun t =>
        t.time.pps.lockRun = 1 && t.time.corr = -7031250 / 1000000)) := by decide +kernel

theorem test_discipline :
    (let s : State := ppsAt 0 { Pps.idle with acquired := true, lockRun := 16 };
      s.ppsActive = true ∧ s.time.pps.clampRun < 64 ∧ leaves (exec .disciplineLock s) (fun t => t.time.pps.locked &&
        t.time.epochId.kind = 1)) ∧
    (let s : State := ppsAt 0 { Pps.idle with acquired := true, locked := true, outliers := 4 };
      leaves (exec .ppsOutlierLoss s) (fun t => !t.time.pps.locked && t.time.holdover)) ∧
    gives (exec .ppsOutlierLoss ppsOn) ppsOn ∧
    (let s : State := ppsAt 0 { Pps.idle with pending := some 0 };
      s.time.pps.locked = false ∧ s.time.pps.pending.isSome ∧ leaves (exec .ppsLoss s) (fun t =>
        t.time.pps.pending.isNone && !t.time.holdover)) ∧
    gives (exec .ppsLoss (ppsAt 0 Pps.idle)) (ppsAt 0 Pps.idle) ∧
    (let s : State := ppsAt 0 { Pps.idle with clampRun := 64 };
      s.time.pps.told = false ∧ leaves (exec .disciplineRangeExceeded s) (fun t => t.time.pps.told &&
        t.dailies.log.length = 1)) ∧
    gives (exec .disciplineRangeExceeded ppsOn) ppsOn := by decide +kernel

/-! ### Ring time and the ring link -/

/-- The module with both ring ports up, as master (role 0) or slave (role 1). -/
def onRing (role : Nat) (v : Slave) : State :=
  { up with
    straps := { up.straps with levels := up.straps.levels.set 10 role }
    ringE := { RingState.reset with up := true }, ringW := { RingState.reset with up := true }
    time := { up.time with slave := v } }

/-- The time header of master 9 at a hop count. -/
def header9 (hop : Nat) : TimeHeader := { master := 9, hop := hop, kind := 1, serial := 3, era := 0 }

/-- A frame of module 9, sent from its WEST port. -/
def from9 (hop msgType : Nat) (q : BitVec 16) (t : Nat) : List Byte :=
  (RingOut.time (header9 hop) (ptpMessage msgType 9 .west q t)).bytes

/-- A Sync of master 9 at a hop count, sent at 1000. -/
def sync (hop : Nat) : SyncMsg := { master := 9, hop := hop, kind := 1, serial := 3, era := 0, t1 := 1000 }

/-- A slave with its parent to the east, its Sync arrived at 2000, its Delay_Req sent at 2500. -/
def child : Slave :=
  { Slave.idle with parent := some .east, east := some { msg := sync 1, t2 := 2000 }, asked := some (2500, 0) }

/-- A frame that passes its CRC, read. -/
theorem time_frame {x : List Byte} (h : frameOk x = true) (k : frameKind x = 0x1) :
    timeFrameOf x = some ({ master := BitVec.ofNat 8 (fieldAt x 1 1), hop := fieldAt x 2 1
                            kind := BitVec.ofNat 2 (fieldAt x 3 1), serial := BitVec.ofNat 16 (fieldAt x 5 2)
                            era := BitVec.ofNat 8 (fieldAt x 4 1) }, ptpOf (x.drop 16)) := by
  simp [timeFrameOf, h, k]

theorem status_frame {x : List Byte} (h : frameOk x = true) (k : frameKind x = 0x2) :
    statusFrameOf x = some { origin := BitVec.ofNat 8 (fieldAt x 1 1), serial := BitVec.ofNat 64 (fieldAt x 8 8)
                             hop := fieldAt x 2 1, role := BitVec.ofNat 8 (fieldAt x 16 1)
                             lanes := BitVec.ofNat 8 (fieldAt x 17 1), laneMap := BitVec.ofNat 16 (fieldAt x 18 2)
                             mapGen := BitVec.ofNat 8 (fieldAt x 20 1), mapSwitch := BitVec.ofNat 8 (fieldAt x 21 1) } := by
  simp [statusFrameOf, h, k]

theorem test_sync_pairs : ∀ hop ∈ [0, 2, 62, 63],
    syncPair (from9 hop 0x0 5 0) (from9 hop 0x8 5 1000) = some (sync hop) := by
  intro hop h
  have ok : ∀ ty t, frameOk (from9 hop ty 5 t) = true := fun _ _ => frameOk_bytes _
  fin_cases h <;>
  · rw [syncPair, time_frame (ok 0x0 0) (by decide +kernel), time_frame (ok 0x8 1000) (by decide +kernel)]
    decide +kernel

/-- What a Delay_Req of another module, or a Delay_Resp to one of this module's, says. -/
theorem test_delay_frames :
    timeFrameOf (from9 0 0x1 6 0) = some (header9 0, ptpMessage 0x1 9 .west 6 0) ∧ discarded (from9 0 0x1 6 0) = false ∧
    discarded (from9 0 0x2 6 0) = true ∧ discarded [] = true := by
  have ok : ∀ ty, frameOk (from9 0 ty 6 0) = true := fun _ => frameOk_bytes _
  have f1 := time_frame (ok 0x1) (by decide +kernel)
  have f2 := time_frame (ok 0x2) (by decide +kernel)
  refine ⟨?_, ?_, ?_, ?_⟩
  · rw [f1]; decide +kernel
  · rw [discarded, f1, ok]; decide +kernel
  · rw [discarded, f2, ok]; decide +kernel
  · decide +kernel

theorem test_sync_send :
    (let s : State := onRing 0 .idle;
      s.ringTime .east = true ∧ s.isMaster = true ∧ leaves (exec (.syncSend .east 1024 0) s) (fun t =>
        t.ringE.sent.length = 2 && t.ringE.syncSeq = 1)) ∧
    (let s : State := onRing 1 child;
      s.isSlave = true ∧ child.parent ≠ some .west ∧ child.parentSync = some { msg := sync 1, t2 := 2000 } ∧
        leaves (exec (.syncSend .west 1024 0) s) (fun t => t.ringW.sent.length = 2 && t.ringW.syncSeq = 1) ∧
        gives (exec (.syncSend .east 1024 0) s) s) ∧
    (up.ringTime .east = false ∧ gives (exec (.syncSend .east 0 0) up) up) := by decide +kernel

/-- What a Sync that belongs together does. -/
theorem sync_to {s : State} {rp : RingPort} {x y : List Byte} {m : SyncMsg} (p : syncPair x y = some m)
    (r : s.ringTime rp = true) (e k q j : Nat) :
    exec (.syncReceived rp x y e k q j) s =
      (if s.isMaster then (if m.master.toNat = s.moduleId then .next s else .next (s.discipline 0x09))
      else if s.isSlave && decide (m.hop < 63) then
        .next (s.takeSync rp m (s.stampAt (ringStamper rp) e k) (s.stampAt (ringStamper rp) q j))
      else .next s) := by
  simp [exec, execSyncReceived, p, r]

theorem test_sync_received :
    leaves (exec (.syncReceived .east (from9 0 0x0 5 0) (from9 0 0x8 5 1000) 4096 0 8192 0) (onRing 0 .idle))
      (fun t => (onRing 0 .idle).isMaster && t.time = (onRing 0 .idle).time) ∧
    gives (exec (.syncReceived .east (from9 63 0x0 5 0) (from9 63 0x8 5 1000) 4096 0 8192 0) (onRing 1 child))
      (onRing 1 child) ∧
    leaves (exec (.syncReceived .west (from9 62 0x0 5 0) (from9 62 0x8 5 1000) 4096 0 8192 0) (onRing 1 .idle))
      (fun t => t.time.slave.parent = some .west && t.ringW.reqSeq = 1 && t.time.slave.asked ≠ none) ∧
    (let w : SyncSeen := { msg := sync 1, t2 := 4096 };
      leaves (exec (.syncReceived .east (from9 2 0x0 5 0) (from9 2 0x8 5 1000) 4096 0 8192 0)
          (onRing 1 { Slave.idle with parent := some .west, west := some w }))
        (fun t => t.time.slave.parent = some .west && t.time.slave.east.isSome)) := by
  refine ⟨?_, ?_, ?_, ?_⟩
  · rw [sync_to (test_sync_pairs 0 (by decide)) (by decide +kernel)]; decide +kernel
  · rw [sync_to (test_sync_pairs 63 (by decide)) (by decide +kernel)]; decide +kernel
  · rw [sync_to (test_sync_pairs 62 (by decide)) (by decide +kernel)]; decide +kernel
  · show leaves (exec _ (onRing 1 { Slave.idle with parent := some .west, west := some { msg := sync 1, t2 := 4096 } })) _ = true
    rw [sync_to (test_sync_pairs 2 (by decide)) (by decide +kernel)]; decide +kernel

/-- Frames that fail their CRC are counted, each one. -/
theorem test_frames_discarded :
    syncPair [] [] = none ∧
    leaves (exec (.syncReceived .east [] [] 0 0 0 0) (onRing 1 child)) (fun t => t.ringE.discards = 2) ∧
    leaves (exec (.delayReqReceived .west [] 0 0) (onRing 1 child)) (fun t => t.ringW.discards = 1) ∧
    leaves (exec (.delayRespReceived .east []) (onRing 1 child)) (fun t => t.ringE.discards = 1) := by decide +kernel

/-- What a Delay_Req and a Delay_Resp that are read do. -/
theorem req_to {s : State} {rp : RingPort} {x : List Byte} {h : TimeHeader} {m : PtpMsg}
    (f : timeFrameOf x = some (h, m)) (d : discarded x = false) (r : s.ringTime rp = true) (e k : Nat) :
    exec (.delayReqReceived rp x e k) s =
      (if m.msgType = 0x1 ∧ (s.isMaster ∨ (s.isSlave ∧ s.time.slave.parent ≠ some rp)) then
        .next (s.answerDelay rp m (s.stampAt (ringStamper rp) e k))
      else .next s) := by
  simp [exec, execDelayReqReceived, f, d, r]

theorem resp_to {s : State} {rp : RingPort} {x : List Byte} {h : TimeHeader} {m : PtpMsg} {y : SyncSeen} {t3 : Nat}
    {q : BitVec 16} (f : timeFrameOf x = some (h, m)) (d : discarded x = false) (r : s.ringTime rp = true)
    (p : s.time.slave.parentSync = some y) (a : s.time.slave.asked = some (t3, q)) :
    exec (.delayRespReceived rp x) s =
      (if s.isSlave ∧ s.time.slave.parent = some rp ∧ m.msgType = 0x9 ∧ m.seqId = q
          ∧ m.reqClock = clockIdentity s.moduleId ∧ m.reqPort = portNumber rp then .next (s.exchange y t3 (ptpTime m))
      else .next s) := by
  simp [exec, execDelayRespReceived, f, d, r, p, a]

/-- A master answers a Delay_Req with its sequenceId and port. -/
theorem test_delay_req :
    leaves (exec (.delayReqReceived .east (from9 0 0x1 6 0) 4096 0) (onRing 0 .idle)) (fun t =>
      t.ringE.sent.length = 1) := by
  obtain ⟨f, d, -, -⟩ := test_delay_frames
  rw [req_to f d (by decide +kernel)]
  decide +kernel

/-- A Delay_Resp of the parent to the module's EAST port, with a sequenceId and the arrival stamp 3500. -/
def respond (q : BitVec 16) : List Byte :=
  (RingOut.time (header9 0)
    { ptpMessage 0x9 9 .west q 3500 with reqClock := clockIdentity up.moduleId, reqPort := 1 }).bytes

/-- What a Delay_Resp says. -/
def response (q : BitVec 16) : PtpMsg :=
  { ptpMessage 0x9 9 .west q 3500 with reqClock := clockIdentity up.moduleId, reqPort := 1 }

theorem respond_reads : ∀ q : BitVec 16, q = 0 ∨ q = 1 →
    timeFrameOf (respond q) = some (header9 0, response q) ∧ discarded (respond q) = false := by
  intro q h
  have ok : ∀ q, frameOk (respond q) = true := fun _ => frameOk_bytes _
  rcases h with rfl | rfl <;>
  · refine ⟨?_, ?_⟩
    · rw [time_frame (ok _) (by decide +kernel)]; decide +kernel
    · rw [discarded, time_frame (ok _) (by decide +kernel), ok]; decide +kernel

/-- An exchange: the delay 1000 and the offset 0; the servo of an acquired slave; another's answer. -/
theorem test_delay_resp :
    (child.parentSync = some { msg := sync 1, t2 := 2000 } ∧ (response 0).seqId = 0 ∧
      (response 0).reqClock = clockIdentity (onRing 1 child).moduleId ∧ (response 0).reqPort = portNumber .east) ∧
    leaves (exec (.delayRespReceived .east (respond 0)) (onRing 1 child)) (fun t =>
      t.time.slave.delays = [1000] && t.time.slave.offsets = [0] && t.time.corr = 0) ∧
    leaves (exec (.delayRespReceived .east (respond 0)) (onRing 1 { child with acquired := true, lastOff := 512 }))
      (fun t => t.time.corr = 2 * (512 : Rat) / 256) ∧
    gives (exec (.delayRespReceived .east (respond 1)) (onRing 1 child)) (onRing 1 child) := by
  obtain ⟨f, d⟩ := respond_reads 0 (.inl rfl)
  obtain ⟨f1, d1⟩ := respond_reads 1 (.inr rfl)
  refine ⟨by decide +kernel, ?_, ?_, ?_⟩
  · rw [resp_to f d (by decide +kernel) rfl rfl]; decide +kernel
  · rw [resp_to f d (by decide +kernel) rfl rfl]; decide +kernel
  · rw [resp_to f1 d1 (by decide +kernel) rfl rfl]; decide +kernel

/-- A slave with eight exchanges of one delay and offset. -/
def exchanged (o : Rat) : Slave := { child with delays := List.replicate 8 100, offsets := List.replicate 8 o }

theorem test_slave_acquire :
    (let s : State := onRing 1 (exchanged 5119);
      s.isSlave = true ∧ mean (s.time.slave.offsets.take 8) = 5119 ∧ s.time.slave.acquired = false ∧
        agree (s.time.slave.delays.take 8) = true ∧ leaves (exec .slaveAcquire s) (fun t => t.time.slave.acquired &&
          t.time.slave.stepBy.isNone)) ∧
    (let s : State := onRing 1 (exchanged 5120);
      s.pins.booting = false ∧ s.numCtx = 0 ∧ leaves (exec .slaveAcquire s) (fun t => t.time.slave.stepBy = some 5120)) ∧
    (let s : State := { onRing 1 (exchanged 5120) with pins := (bootAt 5).pins, time :=
        { (onRing 1 (exchanged 5120)).time with wafer := 10240 } };
      s.pins.booting = true ∧ leaves (exec .slaveAcquire s) (fun t => t.time.wafer = 5120 &&
        (t.stage 5).map Stage.island = some 5120)) ∧
    (let s : State := { onRing 1 (exchanged 256000) with parts := w0.parts };
      s.numCtx ≠ 0 ∧ leaves (exec .slaveAcquire s) (fun t => t.time.slave.stepBy.isNone && !t.time.holdover)) ∧
    (let s : State := { onRing 1 (exchanged 256001) with parts := w0.parts };
      s.numCtx ≠ 0 ∧ leaves (exec .slaveAcquire s) (fun t => t.time.slave.stepBy = some 256000 && t.time.holdover)) ∧
    (child.delays.length < 8 ∧ gives (exec .slaveAcquire (onRing 1 child)) (onRing 1 child)) := by decide +kernel

theorem test_slave_lock :
    (let s : State := onRing 1 { child with acquired := true, lockRun := 16 };
      s.time.slave.parentSync = some { msg := sync 1, t2 := 2000 } ∧ leaves (exec .slaveLock s) (fun t =>
        t.time.slave.locked && t.time.epochId.kind = 1)) ∧
    gives (exec .slaveLock (onRing 1 child)) (onRing 1 child) ∧
    leaves (exec .slaveHoldover (onRing 1 { child with acquired := true, locked := true })) (fun t => t.time.holdover) ∧
    gives (exec .slaveHoldover (onRing 1 child)) (onRing 1 child) := by decide +kernel

theorem test_wafer_time_step :
    (let c : Slave := { child with stepBy := some (-5120) };
      let s : State := { onRing 1 c with time := { (onRing 1 c).time with wafer := 5121 } };
      s.numCtx = 0 ∧ leaves (exec .waferTimeStep s) (fun t => t.time.wafer = 15360 && t.time.slave.stepBy.isNone &&
        t.time.slave.east = some { msg := sync 1, t2 := 7120 })) ∧
    (let s : State := { onRing 1 { child with stepBy := some 256000 } with parts := w0.parts };
      s.numCtx ≠ 0 ∧ leaves (exec .waferTimeStep s) (fun t => t.time.slave.stepBy.isNone)) ∧
    (let s : State := { onRing 1 { child with stepBy := some 261120 } with parts := w0.parts };
      s.numCtx ≠ 0 ∧ leaves (exec .waferTimeStep s) (fun t => t.time.slave.stepBy.isSome && t.time.holdover)) ∧
    (up.time.slave.stepBy = none ∧ gives (exec .waferTimeStep up) up) := by decide +kernel

/-- A locked slave whose last tick was at zero, with a tick-chain baseline and a last edge. -/
def chained (b : Option Int) (bad : Nat) (last : Option Nat) : State :=
  let s : State := onRing 1 { child with locked := true }
  { s with time := { s.time with lastTick := some 0, tickIn := { base := b, badRun := bad, last := last } } }

theorem test_tick_chain :
    (let v : Nat := (chained none 0 none).stampAt 10 51200 0;
      leaves (exec (.tickInEdge 51200 0) (chained none 0 none)) (fun t => t.time.tickIn.base = some (v : Int)) ∧
      gives (exec (.tickInEdge 51200 0) (chained none 0 (some (v - 16383)))) (chained none 0 (some (v - 16383))) ∧
      leaves (exec (.tickInEdge 51200 0) (chained (some ((v : Int) - 12800)) 2 (some (v - 16384)))) (fun t =>
        t.time.tickIn.badRun = 0 && t.time.tickIn.last = some v) ∧
      leaves (exec (.tickInEdge 51200 0) (chained (some ((v : Int) - 12801)) 2 none)) (fun t =>
        t.time.tickIn.badRun = 3 && t.dailies.log = []) ∧
      leaves (exec (.tickInEdge 51200 0) (chained (some ((v : Int) - 12801)) 3 none)) (fun t =>
        t.time.tickIn.badRun = 4 && t.dailies.log.length = 1)) := by decide +kernel

/-- A status frame of another module. -/
def frame0 : StatusFrame :=
  { origin := 7, serial := 8, hop := 1, role := 0, lanes := 16, laneMap := 0xFFFF, mapGen := 0, mapSwitch := 0 }

/-- The frames that the next test receives. -/
def statusFrames : List StatusFrame :=
  [{ frame0 with hop := 62 }, { frame0 with hop := 63 }, { frame0 with origin := 0, serial := 7 }, { frame0 with origin := 0 },
   { frame0 with hop := 0, mapSwitch := 1 }, { frame0 with hop := 0, mapSwitch := 2, mapGen := 1 }]

theorem test_status_frames : ∀ f ∈ statusFrames, statusFrameOf (RingOut.status f).bytes = some f := by
  intro f h
  fin_cases h <;>
  · rw [status_frame (frameOk_bytes _) (by decide +kernel)]
    decide +kernel

/-- What a status frame that is read does. -/
theorem status_to {s : State} {rp : RingPort} {x : List Byte} {f : StatusFrame} (h : statusFrameOf x = some f)
    (r : s.inReset = false) (l : (s.ring rp).live = true) :
    exec (.statusFrameReceived rp x) s = .next (s.takeStatus rp f) := by
  simp [exec, execStatusFrameReceived, h, r, l]

theorem test_status_taken :
    (let s : State := onRing 0 .idle;
      leaves (exec (.statusFrameReceived .east (RingOut.status { frame0 with hop := 62 }).bytes) s) (fun t =>
        t.ringW.sent = [.status { frame0 with hop := 63 }]) ∧
      gives (exec (.statusFrameReceived .east (RingOut.status { frame0 with hop := 63 }).bytes) s) s ∧
      gives (exec (.statusFrameReceived .east (RingOut.status { frame0 with origin := 0, serial := 7 }).bytes) s) s ∧
      leaves (exec (.statusFrameReceived .east (RingOut.status { frame0 with origin := 0 }).bytes) s) (fun t =>
        t.dupId && (t.dailies.log.getLast?.map LogEntry.kind) = some 9)) ∧
    (let s : State := { onRing 0 .idle with ringW := RingState.reset };
      leaves (exec (.statusFrameReceived .east (RingOut.status { frame0 with hop := 0, mapSwitch := 1 }).bytes) s)
        (fun t => t.ringE.rxMap = 0xFFFF && t.ringE.sent.length = 1)) ∧
    (let s : State := { onRing 0 .idle with
        ringE := { RingState.reset with up := true, exchange := some { newMap := 0xFFFE, gen := 1 } }, ringW := .reset };
      leaves (exec (.statusFrameReceived .east (RingOut.status { frame0 with hop := 0, mapSwitch := 2, mapGen := 1 }).bytes) s)
        (fun t => t.ringE.txMap = 0xFFFE)) := by
  have r : ∀ f ∈ statusFrames, statusFrameOf (RingOut.status f).bytes = some f := test_status_frames
  refine ⟨⟨?_, ?_, ?_, ?_⟩, ?_, ?_⟩ <;> dsimp only
  · rw [status_to (r _ (by simp [statusFrames])) (by decide +kernel) (by decide +kernel)]; decide +kernel
  · rw [status_to (r _ (by simp [statusFrames])) (by decide +kernel) (by decide +kernel)]; decide +kernel
  · rw [status_to (r _ (by simp [statusFrames])) (by decide +kernel) (by decide +kernel)]; decide +kernel
  · rw [status_to (r _ (by simp [statusFrames])) (by decide +kernel) (by decide +kernel)]; decide +kernel
  · rw [status_to (r _ (by simp [statusFrames])) (by decide +kernel) (by decide +kernel)]; decide +kernel
  · rw [status_to (r _ (by simp [statusFrames])) (by decide +kernel) (by decide +kernel)]; decide +kernel

theorem test_ring_frames :
    (let s : State := onRing 0 .idle;
      s.inReset = false ∧ (s.ring .east).live = true ∧ (s.ring .west).live = true ∧
        leaves (exec (.statusFrameSend .east) s) (fun t => t.ringE.sent.length = 1) ∧ frameOk [3] = false ∧
        frameKind [3] = 3 ∧ leaves (exec (.statusFrameReceived .east [3]) s) (fun t => t.ringE.discards = 1) ∧
        leaves (exec (.ringFrameCrcFail .east []) s) (fun t => t.ringE.discards = 1)) ∧
    (let s : State := { onRing 0 .idle with ringW := RingState.reset };
      (s.ring (otherRing .east)).live = false ∧ (s.ring .east).exchange = none ∧
        0xFFFF &&& s.usableLanes .east = (s.ring .east).txMap) ∧
    (let s : State := { onRing 0 .idle with
        ringE := { RingState.reset with up := true, exchange := some { newMap := 0xFFFE, gen := 1 } }, ringW := .reset };
      leaves (exec (.ringMapExchange .east) s) (fun t => t.ringE.rxMap = 0xFFFE)) ∧
    gives (exec (.ringMapExchange .east) (onRing 0 .idle)) (onRing 0 .idle) := by decide +kernel

/-- A frame that passes its CRC is left alone by the CRC check. -/
theorem test_good_frame :
    frameOk (RingOut.status frame0).bytes = true ∧
    exec (.ringFrameCrcFail .east (RingOut.status frame0).bytes) (onRing 0 .idle) = .next (onRing 0 .idle) := by
  have h : frameOk (RingOut.status frame0).bytes = true := frameOk_bytes _
  exact ⟨h, by simp [exec, execRingFrameCrcFail, h]⟩

theorem test_ring_ports :
    (up.pins.bypassOpen = true ∧ (up.ring .west).failed = false ∧ (up.ring .west).up = false ∧
      12 ≤ laneCount (up.usableLanes .west) ∧ leaves (exec (.ringPortUp .west) up) (fun t => t.ringW.up) ∧
      leaves (exec (.ringPortFailed .west) up) (fun t => t.ringW.failed && !t.pins.bypassOpen)) ∧
    (let s : State := { bootAt 5 with ringE := { RingState.reset with failed := true } };
      s.pins.bypassOpen = false ∧ leaves (exec (.ringPortFailed .west) s) (fun t => t.ringW.failed)) ∧
    gives (exec (.ringPortFailed .west) (bootAt 5)) (bootAt 5) ∧
    (let s : State := { up with ringW := { RingState.reset with lasting := 0x1F } };
      laneCount (s.usableLanes .west) < 12 ∧ leaves (exec (.ringPortUp .west) s) (fun t => t.ringW.failed)) ∧
    ((bootAt 5).pins.bypassOpen = false ∧ gives (exec (.ringPortUp .west) (bootAt 5)) (bootAt 5)) ∧
    leaves (exec (.ringPartnerLost .east) (onRing 0 .idle)) (fun t => !t.ringE.up) ∧
    (let s : State := { onRing 0 .idle with ringE := { RingState.reset with up := true, txMap := 0x1FFF } };
      (s.ring .east).live = true ∧ (s.ring .east).txMap.getLsbD 12 = true ∧ 12 < laneCount (s.ring .east).txMap ∧
        12 ≤ laneCount ((s.ring .east).txMap &&& ~~~(laneBit 12)) ∧ s.testOf (.ringLane .east 12) = none ∧
        leaves (exec (.ringLaneSuspect .east 12) s) (fun t => t.ringE.suspect = [12] &&
          (t.testOf (.ringLane .east 12)).isSome)) ∧
    (let s : State := { onRing 0 .idle with
        ringE := { RingState.reset with up := true, txMap := 0x7FFF, suspect := [15] }
        tests := [testing (.ringLane .east 15)] };
      (s.ring .east).txMap.getLsbD 15 = false ∧ s.transientOf (.ringLane .east 15) + 1 ≤ s.allow ∧
        (s.ring .east).lasting.getLsbD 15 = false ∧ 12 ≤ laneCount ((s.ring .east).txMap ||| laneBit 15) ∧
        leaves (exec (.ringLaneTestComplete .east 15 1) s) (fun t => t.ringE.suspect = [] && t.ringE.exchange.isSome) ∧
        leaves (exec (.ringLaneTestComplete .east 15 2) s) (fun t => t.ringE.lasting = 0x8000 && t.flash.retire0.isSome)) := by
  decide +kernel

/-! ### Spines, the test port and the step -/

/-- A write request of the North block to stage 0 in its context's epoch. -/
def request : FlitHeader :=
  { cls := 2, data := true, src := 97, dst := 0, ctx := 1, epoch := 0, op := 0, tag := 5, line := 9, bank := 47, status := 0
    arg := 47 * 65536 + 9 }

/-- The flits that go out, without their CRC. -/
def sentFlits (s : State) : List (Nat × Bool × BitVec 128 × Option Line) :=
  s.spineOut.map (fun x => (x.col, x.north, x.header, x.data))

theorem test_spine_segments :
    ((w0.spine 11 8).failed = false ∧ leaves (exec (.spineFlitCrcFail 11 8) w0) (fun t => (t.spine 11 8).resends = 1) ∧
      gives (exec (.spineSegmentFailed 11 8) w0) w0) ∧
    (let s : State := { w0 with spines := [{ col := 11, seg := 8, errors := 0, resends := 16, failed := false }] };
      16 ≤ (s.spine 11 8).resends ∧ s.stages.length = 96 ∧ leaves (exec (.spineSegmentFailed 11 8) s) (fun t =>
        (t.spine 11 8).failed && (t.stage 95).map Stage.st = some .retired && (t.stage 94).map Stage.st = some .unlit)) ∧
    (let h : BitVec 128 := flitBits { request with cls := 3 };
      (flitFields h).malformed = true ∧ leaves (exec (.spineFlitAtSink 0 0 h 0) w0) (fun t => (t.spine 0 0).errors = 1)) ∧
    (request.onPath 0 1 = false ∧ gives (exec (.spineFlitAtSink 0 1 (flitBits request) 0) w0) w0) := by decide +kernel

theorem test_spine_taps :
    (flitFields (flitBits request) = request ∧ request.malformed = false ∧ request.onPath 0 0 = true ∧
      w0.stage 0 = some lit ∧ lit.tapUnlit = false ∧
      w0.staleFlit request = false ∧ leaves (exec (.spineFlitAtSink 0 0 (flitBits request) 0x77) w0) (fun t =>
        (t.stage 0).map (fun u => cellGet u.scratch (lineKey 47 9)) = some 0x77 &&
        sentFlits t = [(0, true, flitBits (request.reply 0 false), none)])) ∧
    (let f : FlitHeader := { request with op := 1 };
      leaves (exec (.spineFlitAtSink 0 0 (flitBits f) 0) w0) (fun t =>
        sentFlits t = [(0, true, flitBits (f.reply 0 true), some 0)])) ∧
    (let f : FlitHeader := { request with epoch := 1 };
      w0.staleFlit f = true ∧ leaves (exec (.spineFlitAtSink 0 0 (flitBits f) 0) w0) (fun t =>
        sentFlits t = [(0, true, flitBits (f.reply 2 false), none)] && t.stages = w0.stages)) ∧
    (let f : FlitHeader := { request with dst := 50 };
      f.onPath 2 4 = true ∧ (w0.stage 50).map Stage.tapUnlit = some true ∧
        leaves (exec (.spineFlitAtSink 2 4 (flitBits f) 0) w0) (fun t =>
          sentFlits t = [(2, true, flitBits (f.reply 1 false), none)])) ∧
    (leaves (exec (.rqToUnlitStage 50 (flitBits request)) w0) (fun t => t.spineOut.length = 1) ∧
      gives (exec (.rqToUnlitStage 0 (flitBits request)) w0) w0) := by decide +kernel

/-- A token signal of stage 0 for stage 13 turns north at the South block, on column 1. -/
theorem test_spine_relay :
    (let g : FlitHeader := { tokenFlit 0 13 ctx0 4 5 with arg := 0 };
      let s : State := { w0 with
        spineOut := [{ col := 0, north := false, header := flitBits g, data := none, crc := 0 }] };
      g.cls = 0 ∧ g.onPath 0 8 = true ∧
        takeFlit 0 false 13 (fun x => decide (flitBits x = flitBits g)) [] s.spineOut = some (g, []) ∧
        leaves (exec (.spineFlitAtSink 0 8 (flitBits g) 0) s) (fun t => sentFlits t = [(1, true, flitBits g, none)])) := by
  decide +kernel

theorem test_flit_bits :
    (flitBits request).getLsbD 3 = false ∧ (flitBits request).toNat < 2 ^ 80 ∧
    flitBits (flitFields (flitBits request)) = flitBits request ∧
    (let f : FlitHeader := { request with cls := 0, arg := 2 ^ 71 + 47 * 65536 + 9 };
      flitFields (flitBits f) = f) := by decide +kernel

theorem test_jtag :
    leaves (exec .jtagExtest up) (fun t => t.jtag.driving && t.jtag.ir = 0 && t.jtag.irCapture = 1) ∧
    ((Contact.faultN).isOutput = true ∧ (Contact.ppsIn).isOutput = false ∧ up.pinLevel .faultN = some true ∧
      leaves (exec .jtagExtest up) (fun t => t.pinLevel .faultN = some false)) ∧
    leaves (exec (.jtagSamplePreload [] (List.replicate 67 true)) up) (fun t =>
      t.jtag.boundary = List.replicate 67 true && t.jtag.captured.length = 67 && !t.jtag.driving) ∧
    leaves (exec .jtagIdcode up) (fun t => t.jtag.idcode = idcode) ∧
    leaves (exec (.jtagBypass 0xFF) up) (fun t => t.jtag.ir = 0xFF && !t.jtag.bypass) ∧
    gives (exec (.jtagBypass 2) up) up := by decide +kernel

/-- The step takes the command at the front of the queue and leaves the rest; an empty queue lets one reference edge
pass. -/
theorem test_step :
    (let s : State := { w0 with pending := [.nop 0, .nop 1] };
      leaves (step s) (fun t => t.pending = [.nop 1] && (t.stage 0).map (fun u => u.seq.pc) = some 1)) ∧
    (up.pending = [] ∧ up.time.epochFixed = true ∧ leaves (step up) (fun t => t.time.wafer = 1024 &&
      (t.stage 0).map Stage.island = some 1024)) ∧
    (let s : State := { up with time := { up.time with wafer := 4096, corr := 1 } };
      s.time.applied = 0 ∧ leaves (step s) (fun t => t.time.applied = 1100)) ∧
    (State.reset.time.epochFixed = false ∧ leaves (step State.reset) (fun t => t.time.wafer = 0)) := by decide +kernel

/-- The invariant holds of a state with work in progress. -/
theorem test_invariant : w0.Inv where
  memory := by decide +kernel
  stages := by decide +kernel
  parts := by decide +kernel
  rails := by decide +kernel
  slots := by decide +kernel
  edges := by decide +kernel
  trims := by decide +kernel
  corr := by unfold inRange; decide +kernel
  prev := by unfold inRange; decide +kernel
  hour := by decide +kernel
  limit := by decide +kernel

/-! ### Worked cases of the manual -/

/-- The cap for two codes (section 2.8). -/
theorem test_cap_of_codes :
    let s : State := { up with straps := { up.straps with levels := (up.straps.levels.set 1 3).set 2 13 } };
    { s with slate := { s.slate with cap := some 6 } }.capNow = 5000 ∧
    { s with slate := { s.slate with cap := some 7 } }.capNow = 5333 := by decide +kernel

/-- The cap share of a 4 by 6 reel with 92 stages enabled (section 8.6). -/
theorem test_cap_share :
    let s : State := { up with stages := List.replicate 4 { lit with st := .retired } ++ up.stages.drop 4 };
    s.enabledCount = 92 ∧ s.overShare 4000 { reel with h := 4, w := 6, peak := 1100 } = true ∧
    s.overShare 4000 { reel with h := 4, w := 6, peak := 1040 } = false := by decide +kernel

/-- Eleven quarters at step 9 ask for a realignment of one core cycle; the stage has then fallen 3.3333 ns behind
(section 4.9). -/
theorem test_realignment :
    let k : Clock := { lit.clock with core0 := { step := 9, locked := true }, q := 11, lag := 11 * coreCycle 9 };
    (k.realignNow false false 1).q = 0 ∧ (k.realignNow false false 1).lag = 256 * 10 / 3 := by decide +kernel

/-- Acquisition and the first update (section 7.5): the seed of -25.5 ppb, then -25.53515625 ppb. -/
theorem test_pps_worked :
    (0 : Rat) - ((8312004143 * 256 + 192 : Int) - (7312004118 * 256 + 64) - 256000000000 : Int) / 256 = -255 / 10 ∧
    loopStep (-255 / 10) 64 0 = -2553515625 / 100000000 := by decide +kernel

/-- A slave at boot exchanges with its parent (section 7.6): the delay 488 ns, the offset 124.5 ns, the step 120 ns. -/
theorem test_servo_worked :
    (let x : SyncSeen := { msg := { sync 1 with t1 := 40000000000 * 256 }, t2 := 40000000612 * 256 + 128 };
      let t : State := (onRing 1 child).exchange x (40000000900 * 256) (40000001263 * 256 + 128);
      t.time.slave.delays = [488 * 256] ∧ t.time.slave.offsets = [1245 * 256 / 10]) ∧
    stepOf (1245 * 256 / 10) = 120 * 256 := by decide +kernel

/-- Trim acquisition (section 6.2): 183 and 147 ps move the follower from 64 to 46 ps. -/
theorem test_trim_worked :
    leaves (exec (.spliceTrimAverage 0 .east 183 147) w0) (fun t => (t.stage 1).map (fun u => u.linkW.trim) = some 46) := by
  decide +kernel

/-- An MMA word (section 9.5). -/
theorem test_mma_word :
    shotOf 40 0x411325207D000000 = some (.mma 40 { engine := 17, format := 3, areg := 2, breg := 5, tile := 8, kcode := 31
                                                   z := false, xa := true, xb := false, xc := false }) := by decide +kernel

/-- ACCST of a row to MXFP4 (section 10.6): 20, -7, 3 and the binary32 nearest 0.3. -/
theorem test_mxfp4_row :
    (storeRow 0 7 { r := false, seed := 0, shot := 0 } false 0
      ([0x41A00000, 0xC0E00000, 0x40400000, 0x3E99999A] ++ List.replicate 28 0)).1 = 0x81 * 2 ^ 128 + 0x02C6 := by
  decide +kernel

/-- The seed of one element (section 10.7). -/
theorem test_seed : seedOf 1205 1 2 17 = 0x08910000000004B5 ∧ counterOf 5 0x340 = 0x0000000340000005 := by decide +kernel

/-- A TRACE entry (section 12.8). -/
theorem test_trace_entry :
    (let c : Ctx := { ctx0 with origin := 26, frame := 1205, take := 1, reel := { reel with h := 2, w := 3 } };
      c.offsets 40 = (1, 2)) ∧
    traceBytes { kind := 5, take := 1, frame := 1205, stamp := 0x000000000186A080, payload := 0x034000000A3C } =
      [0x05, 0x01, 0xB5, 0x04, 0, 0, 0, 0, 0x80, 0xA0, 0x86, 0x01, 0, 0, 0, 0, 0x3C, 0x0A, 0, 0, 0x40, 0x03, 0, 0, 0, 0,
       0, 0, 0, 0, 0, 0] := by decide +kernel

/-- The known answers of SHA-256 for "abc" (FIPS 180-4) and of the reflected CRC-32 for "123456789". -/
theorem test_hashes :
    sha256 [0x61, 0x62, 0x63] = [0xBA, 0x78, 0x16, 0xBF, 0x8F, 0x01, 0xCF, 0xEA, 0x41, 0x41, 0x40, 0xDE, 0x5D, 0xAE, 0x22,
      0x23, 0xB0, 0x03, 0x61, 0xA3, 0x96, 0x17, 0x7A, 0x9C, 0xB4, 0x10, 0xFF, 0x61, 0xF2, 0x00, 0x15, 0xAD] ∧
    crc32 [0x31, 0x32, 0x33, 0x34, 0x35, 0x36, 0x37, 0x38, 0x39] = 0xCBF43926 := by decide +kernel

/-! ### Well-formed commands: an ill-formed term for each check -/

theorem test_well_formed_refuses :
    [Instr.idleCountExpiry 96, .reelLoadComplete 8 false, .railRecheck 28, .avsbusWriteFailed 24,
     .temperatureReading 0 4 20, .droopTrip 0 16 0 0 1, .issueLimitReceived 96,
     .strapRead [[0, 0, 0]], .strapRead (List.replicate 23 [0, 0]), .meshTrimBoot (List.replicate 63 0),
     .meshTrimBoot (List.replicate 64 127), .meshTrimBoot (List.replicate 64 128), .meshTrimUpdate (List.replicate 64 2),
     .meshTrimUpdate [0], .carrierFlashBootRead [.table 397], .carrierFlashBootRead [.ledger 2],
     .bootStageBist [.bankRow 0 50 0 0] [] [], .bootStageBist [.bankRow 0 0 16 0] [] [],
     .bootStageBist [.bankRow 0 0 0 1024] [] [], .bootStageBist [.ringLane .east 16] [] [],
     .bootStageBist [.detector 0 16] [] [], .bootStageBist [.engine 0 50] [] [],
     .bootStageBist [] [{ stage := 0, side := .east, receiving := true, lane := 2114 }] [], .bootStageBist [] [] [28],
     .bindDescriptorFetched .a { bindFetch with bytes := zeros 65 }, .reelLoad 0 [0] [],
     .senseSweepComplete [] [], .senseSweepComplete [{ iface := 6, sel := 0, tries := [] }] (List.replicate 96 0),
     .spliceMapSwitch 0 .east false [(2114, 0)], .spliceNakReplay 0 .east true, .crossingTimeout 0x6400,
     .hostLinkError .a (.narrow 0), .hostLinkError .a (.narrow 17), .thinMargin 0 [64],
     .bootCalibrationComplete [(397, List.replicate 256 0)], .bootCalibrationComplete [(0, [0])],
     .intervalInputEdge 9 0, .intervalInputEdge 0 256, .ringLaneSuspect .east 16, .spineFlitCrcFail 12 0,
     .spineFlitCrcFail 0 9, .scriptStoreUncorrectable 0 262144 2, .scriptStoreUncorrectable 0 0 3,
     .bankUncorrectable 0 0 65536 false false, .columnDetector 0 0 0 0 [1024], .columnDetector 0 0 16 0 [],
     .cellTracker 0 0 0 1024 0, .cellTracker 0 50 0 0 0, .errorEventReceived (stageErr 1 0x64 none), .jtagBypass 2,
     .escalationBoundExpiry 5 0, .chipComputeReset [.sense 96] true, .coreLockLost 0 2].all (fun i => !i.wf) = true := by
  decide +kernel

theorem test_well_formed_admits :
    [Instr.idleCountExpiry 95, .reelLoadComplete 7 false, .railRecheck 27, .avsbusWriteFailed 23, .temperatureReading 0 3 20,
     .droopTrip 0 15 0 0 1, .issueLimitReceived 95, .strapRead (List.replicate 23 [0, 0, 0]),
     .meshTrimBoot (List.replicate 64 126), .meshTrimUpdate (List.replicate 64 (-1)), .carrierFlashBootRead [.table 396],
     .bootStageBist [.bankRow 0 49 15 1023] [] [27], .bindDescriptorFetched .a bindFetch, .reelLoad 0 [] [],
     .spliceMapSwitch 0 .east false [(2113, 0)], .spliceNakReplay 11 .east true, .crossingTimeout 0x63FF,
     .hostLinkError .a (.narrow 16), .thinMargin 0 [63], .intervalInputEdge 8 255, .ringLaneSuspect .east 15,
     .spineFlitCrcFail 11 8, .coreLockLost 0 1].all Instr.wf = true := by decide +kernel

end Sys2Proof.Tests
end

section
/-! The slate and the cap code (section 2.7): rules for the arbitration functions, what a dailies entry and an error of an
edge block's crossing leave behind, and the statement on the slate and the cap. -/

namespace Sys2Proof.Machine

open Sys2Proof

/-! ### Arbitration -/

section Arbitration

variable (sl : Slate) (p : Port) (now : WaferTime)

@[simp] theorem Slate.holder_give : (sl.give p now).holder = some p := rfl
@[simp] theorem Slate.inel_give (q : Port) : (sl.give p now).inel q = sl.inel q := by cases q <;> rfl
@[simp] theorem Slate.stb_give (q : Port) : (sl.give p now).stb q = sl.stb q := by cases q <;> rfl

@[simp] theorem Slate.inel_setInel (v : Bool) : (sl.setInel p v).inel p = v := by cases p <;> rfl

/-- Marking a port leaves the other port's eligibility alone (R78). -/
@[simp] theorem Slate.eligible_other_setInel (v : Bool) :
    (sl.setInel p v).eligible p.other = sl.eligible p.other := by cases p <;> rfl

/-- The slate with the requests seen in one reference cycle added to those pending (R74, R75). -/
def Slate.asked (a b : Bool) : Slate := { sl with reqA := sl.reqA || a, reqB := sl.reqB || b }

@[simp] theorem Slate.holder_asked (a b : Bool) : (sl.asked a b).holder = sl.holder := rfl
@[simp] theorem Slate.eligible_a_asked (a b : Bool) :
    (sl.asked a b).eligible .a = ((sl.reqA || a) && !sl.inelA) := rfl
@[simp] theorem Slate.eligible_b_asked (a b : Bool) :
    (sl.asked a b).eligible .b = ((sl.reqB || b) && !sl.inelB) := rfl

/-- The slate without a holder, the handshake of the port that held it down (R76, R88). -/
def Slate.freed : Slate := { sl.setHand p false with holder := none }

@[simp] theorem Slate.holder_freed : (sl.freed p).holder = none := rfl
@[simp] theorem Slate.inel_freed (q : Port) : (sl.freed p).inel q = sl.inel q := by cases p <;> cases q <;> rfl
@[simp] theorem Slate.stb_freed : (sl.freed p).stb p = false := by cases p <;> rfl
@[simp] theorem Slate.eligible_freed (q : Port) : (sl.freed p).eligible q = sl.eligible q := by
  cases p <;> cases q <;> rfl

variable {sl p}

/-- While a port holds the slate nothing is granted (R74). -/
theorem Slate.judge_of_held (tie : Bool) (h : sl.holder = some p) : sl.judge now tie = sl := by
  simp only [Slate.judge, h]

/-- With no holder the one eligible requester is granted (R74). -/
theorem Slate.judge_of_single (tie : Bool) (h : sl.holder = none) (hp : sl.eligible p = true)
    (ho : sl.eligible p.other = false) : sl.judge now tie = sl.give p now := by
  cases p with
  | a => simp only [Slate.judge, h, hp, show sl.eligible .b = false from ho]
  | b => simp only [Slate.judge, h, hp, show sl.eligible .a = false from ho]

/-- A tie goes by the tie bit, which then favours the port that lost (R75). -/
theorem Slate.judge_of_tie (h : sl.holder = none) (ha : sl.eligible .a = true) (hb : sl.eligible .b = true) :
    sl.judge now true = { sl.give sl.tie now with tie := sl.tie.other } := by
  simp only [Slate.judge, h, ha, hb, if_true]

/-- A dropped grant passes to the other port's eligible request (R76). -/
theorem Slate.drop_of_eligible (h : sl.eligible p.other = true) : sl.drop p now = (sl.freed p).give p.other now :=
  if_pos ((sl.eligible_freed p p.other).trans h)

/-- A dropped grant leaves the slate free when the other port has no eligible request (R76, R78). -/
theorem Slate.drop_of_not_eligible (h : sl.eligible p.other = false) : sl.drop p now = sl.freed p :=
  if_neg (Bool.eq_false_iff.mp ((sl.eligible_freed p p.other).trans h))

/-- What every drop of a grant does: the port no longer holds the slate, its strobe is down and its mark stays. -/
theorem Slate.drop_spec : (sl.drop p now).holder ≠ some p ∧ (sl.drop p now).inel p = sl.inel p ∧
    (sl.drop p now).stb p = false := by
  cases h : sl.eligible p.other with
  | true => rw [Slate.drop_of_eligible now h]; cases p <;> simp [Port.other]
  | false => rw [Slate.drop_of_not_eligible now h]; simp

end Arbitration

/-! ### The newest dailies entry -/

/-- An appended entry is the newest one of the log, which never drops it (R506). -/
theorem State.logEntry_newest (s : State) (k : Nat) (c e : BitVec 8) (b : List Byte) :
    ∃ x, (s.logEntry k c e b).dailies.log.getLast? = some x ∧ x.kind = k ∧ x.payload = b := by
  refine ⟨{ kind := k, ctx := c, epoch := e, number := s.dailies.count, time := s.stamp, payload := b }, ?_, rfl, rfl⟩
  simp [State.logEntry, List.getLast?_drop]

/-- An error event's body is in the newest dailies entry (R451). -/
theorem State.errorEvent_toldError (s : State) (e : ErrReport) (a : Nat) (o : BitVec 16) :
    (s.errorEvent e a o).toldError (s.errBody e a o) := by
  unfold State.errorEvent
  exact State.logEntry_newest ..

/-! ### An error of an edge block's crossing -/

/-- An edge block's crossing has no stage, so its test ends in the tests and transient counts alone, lasting or not
(Table 14.2). -/
theorem State.classify_edgeCrossing_frame (s : State) {x : BitVec 16} (hx : 96 ≤ x.toNat / 256) :
    s.classify (.crossing x) false = { s with
      tests := (s.classify (.crossing x) false).tests
      transients := (s.classify (.crossing x) false).transients } := by
  have hsite : ¬ (x.toNat / 256 < 96) := by omega
  cases ht : s.testOf (.crossing x) with
  | none => simp only [State.classify, ht]
  | some t =>
    by_cases hlasting : s.allow < s.transientOf (.crossing x) + t.joined
    · simp only [State.classify, ht, State.lasting, hsite, hlasting, if_true, if_false, Bool.false_eq_true]
      rfl
    · simp only [State.classify, ht, unitStage, hsite, hlasting, if_false, Bool.false_eq_true]
      rfl

/-- Counting an error against an edge block's crossing changes the tests and transient counts alone. -/
theorem State.countCrossing_edge_frame (s : State) {x : BitVec 16} (k : Nat) (hx : 96 ≤ x.toNat / 256) :
    s.countCrossing x k = { s with
      tests := (s.countCrossing x k).tests, transients := (s.countCrossing x k).transients } := by
  have hjoin := s.joinTest_frame (.crossing x) k .free
  have hclass := (s.joinTest (.crossing x) k .free).classify_edgeCrossing_frame hx
  unfold State.countCrossing
  rw [hclass, hjoin]

/-- Records formed and then tests and transient counts changed: no more than what an error may change. -/
theorem State.errorsOf_of_frames {s t u : State} (h : t = s.recordsOf t)
    (hu : u = { t with tests := u.tests, transients := u.transients }) : u = s.errorsOf u := by
  rw [hu, h]; rfl

/-! ### The slate's commands -/

/-- Out of reset the requests seen are added to those pending, and the slate is judged (R74, R75). -/
theorem exec_slateRequest {s : State} (a b : Bool) (h : s.inReset = false) :
    exec (.slateRequest a b) s = .next { s with slate := (s.slate.asked a b).judge s.time.wafer (a && b) } :=
  if_neg (by simp [h])

/-- A holder that lets go drops its grant (R76). -/
theorem exec_slateRelease_holder {s : State} {p : Port} (h : s.inReset = false) (hp : s.slate.holder = some p) :
    exec (.slateRelease p) s = .next { s with slate := (s.slate.setReq p false).drop p s.time.wafer } := by
  have hold : (s.slate.setReq p false).holder = some p := by cases p <;> exact hp
  show execSlateRelease p s = _
  simp only [execSlateRelease, h, hold, if_true, Bool.false_eq_true, if_false]

/-- A silent holder is marked and drops its grant, with an entry of kind 0x03 that names it (R77, R78). -/
theorem exec_slateRevocation_holder {s : State} {p : Port} (hp : s.slate.holder = some p) :
    exec .slateRevocation s = .next
      ({ s with slate := (s.slate.setInel p true).drop p s.time.wafer }.log 0x03 (leBytes 1 p.code)) := by
  show execSlateRevocation s = _
  simp only [execSlateRevocation, hp]

/-- A marked port whose request has been away is eligible again (R78). -/
theorem exec_slateReeligible_away {s : State} {p : Port} (hi : s.slate.inel p = true) (hr : s.slate.req p = false) :
    exec (.slateReeligible p) s = .next { s with slate := s.slate.setInel p false } :=
  if_pos (by simp [hi, hr])

/-- A fall of PWR_GOOD leaves the slate at reset (R79, R521). -/
theorem exec_powerGoodFall_slate {s : State} (h : s.pins.pwrGood = true) :
    ∃ t, exec .powerGoodFall s = .next t ∧ t.slate = Slate.reset := by
  refine ⟨_, if_neg (by simp [h]), ?_⟩
  split <;> rfl

/-- An accepted assertion of RESET_N leaves the slate at reset (R79, R523). -/
theorem exec_resetAssert_slate (s : State) {ns : Nat} (h : 1000 ≤ ns) :
    ∃ t, exec (.resetAssert ns) s = .next t ∧ t.slate = Slate.reset :=
  ⟨_, if_neg (by omega), rfl⟩

/-! ### The cap's commands -/

/-- The identifier of a control port's CAP crossing: site 0x60, the South block (R219, Table 6.6). -/
theorem capXid_edge (p : Port) : 96 ≤ (BitVec.ofNat 16 (0x60B0 + p.code)).toNat / 256 := by
  cases p <;> decide

/-- A crossing error of the holder is told, and counted against its CAP crossing (R83, R216). -/
theorem exec_capCrossingError_holder {s : State} {p : Port} (hp : s.slate.holder = some p) (h : s.inReset = false) :
    exec (.capCrossingError p) s = .next
      ((s.errorEvent (crossingErr 0x0F (BitVec.ofNat 16 (0x60B0 + p.code)) none) 0 0).countCrossing
        (BitVec.ofNat 16 (0x60B0 + p.code)) 0x0F) :=
  if_pos (by simp [hp, h])

/-! ### The statement's parts -/

section Parts

variable {s : State} {p : Port}

theorem slateRequest_single_grants (h : s.inReset = false) (hn : s.slate.holder = none) (hi : s.slate.inelA = false)
    (hb : s.slate.reqB = false) :
    exec (.slateRequest true false) s = .next { s with
      slate := { s.slate with reqA := true, holder := some .a, hbAt := s.time.wafer } } := by
  have free : (s.slate.asked true false).holder = none := (s.slate.holder_asked ..).trans hn
  have hela : (s.slate.asked true false).eligible .a = true := by simp [hi]
  have helb : (s.slate.asked true false).eligible .b = false := by simp [hb]
  rw [exec_slateRequest _ _ h, Slate.judge_of_single _ _ free hela helb]
  simp [Slate.give, Slate.asked]

theorem slateRequest_tie_goes_by_tieBit (h : s.inReset = false) (hn : s.slate.holder = none)
    (hia : s.slate.inelA = false) (hib : s.slate.inelB = false) :
    exec (.slateRequest true true) s = .next { s with
      slate := { s.slate with
        reqA := true, reqB := true, holder := some s.slate.tie, hbAt := s.time.wafer, tie := s.slate.tie.other } } := by
  have free : (s.slate.asked true true).holder = none := (s.slate.holder_asked ..).trans hn
  have hela : (s.slate.asked true true).eligible .a = true := by simp [hia]
  have helb : (s.slate.asked true true).eligible .b = true := by simp [hib]
  rw [exec_slateRequest _ _ h, Bool.and_true, Slate.judge_of_tie _ free hela helb]
  simp [Slate.give, Slate.asked]

theorem slateRequest_held_waits (a b : Bool) (h : s.inReset = false) (hp : s.slate.holder = some p) :
    exec (.slateRequest a b) s = .next { s with
      slate := { s.slate with reqA := s.slate.reqA || a, reqB := s.slate.reqB || b } } := by
  have held : (s.slate.asked a b).holder = some p := (s.slate.holder_asked ..).trans hp
  rw [exec_slateRequest a b h, Slate.judge_of_held _ _ held]
  rfl

theorem slateRelease_grants_other (h : s.inReset = false) (hp : s.slate.holder = some .a) (hb : s.slate.reqB = true)
    (hi : s.slate.inelB = false) :
    exec (.slateRelease .a) s = .next { s with
      slate := { s.slate with
        reqA := false, stbA := false, ackA := false, holder := some .b, hbAt := s.time.wafer } } := by
  have hel : (s.slate.setReq .a false).eligible (Port.other .a) = true := by
    simp [Slate.eligible, Slate.req, Slate.inel, Slate.setReq, Port.other, hb, hi]
  rw [exec_slateRelease_holder h hp, Slate.drop_of_eligible _ hel]
  rfl

theorem slateRelease_frees (h : s.inReset = false) (hp : s.slate.holder = some .a)
    (hb : s.slate.reqB = false ∨ s.slate.inelB = true) :
    exec (.slateRelease .a) s = .next { s with
      slate := { s.slate with reqA := false, stbA := false, ackA := false, holder := none } } := by
  have hel : (s.slate.setReq .a false).eligible (Port.other .a) = false := by
    rcases hb with hb | hb <;> simp [Slate.eligible, Slate.req, Slate.inel, Slate.setReq, Port.other, hb]
  rw [exec_slateRelease_holder h hp, Slate.drop_of_not_eligible _ hel]
  rfl

theorem slateRevocation_marks_and_passes_on (hp : s.slate.holder = some p) : ∃ t, exec .slateRevocation s = .next t ∧
    t.slate.holder ≠ some p ∧ t.slate.inel p = true ∧ t.slate.stb p = false ∧
    (s.slate.eligible p.other = true → t.slate.holder = some p.other) ∧
    (∃ e, t.dailies.log.getLast? = some e ∧ e.kind = 0x03 ∧ e.payload = [BitVec.ofNat 8 p.code]) ∧
    t = { s with slate := t.slate, dailies := t.dailies } := by
  obtain ⟨hholder, hinel, hstb⟩ := (s.slate.setInel p true).drop_spec (p := p) s.time.wafer
  refine ⟨_, exec_slateRevocation_holder hp, hholder, hinel.trans (Slate.inel_setInel ..), hstb, fun hel => ?_,
    State.logEntry_newest .., rfl⟩
  have hel' : (s.slate.setInel p true).eligible p.other = true := (Slate.eligible_other_setInel ..).trans hel
  exact congrArg Slate.holder (Slate.drop_of_eligible s.time.wafer hel')

theorem capCrossingError_tells_alone (hp : s.slate.holder = some p) (h : s.inReset = false) : ∃ t,
    exec (.capCrossingError p) s = .next t ∧ t.slate = s.slate ∧
    t.toldError (s.errBody (crossingErr 0x0F (BitVec.ofNat 16 (0x60B0 + p.code)) none) 0 0) ∧ t = s.errorsOf t := by
  have hevent := s.errorEvent_frame (crossingErr 0x0F (BitVec.ofNat 16 (0x60B0 + p.code)) none) 0 0
  have hcount := (s.errorEvent (crossingErr 0x0F (BitVec.ofNat 16 (0x60B0 + p.code)) none) 0 0).countCrossing_edge_frame
    0x0F (capXid_edge p)
  have hframe := State.errorsOf_of_frames hevent hcount
  refine ⟨_, exec_capCrossingError_holder hp h, by rw [hframe]; rfl, ?_, hframe⟩
  rw [hcount]
  exact s.errorEvent_toldError ..

/-- A port that is not the holder is not heard (R73). -/
theorem capCommands_not_holder (code : BitVec 4) (hp : s.slate.holder ≠ some p) :
    exec (.capCodeAccept p code) s = .next s ∧ exec (.capCrossingError p) s = .next s :=
  ⟨if_neg (by simp [hp]), if_neg (by simp [hp])⟩

end Parts

/-- Settles O6: the slate's statement from the rules of its arbitration, the cap's from the frame of an error event. -/
theorem slateAndCap : Obligations.SlateAndCap := by
  refine ⟨⟨?single, ?tie, ?held, ?release, ?heartbeat, ?revocation, ?reeligible, rfl, ?powerFall, ?resetAssert⟩,
    ?accept, ?notHolder, ?crossingError⟩
  case single => exact fun s h hn hi _ hb => slateRequest_single_grants h hn hi hb
  case tie => exact fun s h hn hia hib => slateRequest_tie_goes_by_tieBit h hn hia hib
  case held => exact fun s p a b h hp => slateRequest_held_waits a b h hp
  case release => exact fun s h hp => ⟨slateRelease_grants_other h hp, slateRelease_frees h hp⟩
  case heartbeat => exact fun s p hp => if_pos hp
  case revocation => exact fun s p hp => slateRevocation_marks_and_passes_on hp
  case reeligible =>
    exact fun s p hi hr => ⟨_, exec_slateReeligible_away hi hr, Slate.inel_setInel .., rfl⟩
  case powerFall =>
    intro s h
    obtain ⟨t, ht, hslate⟩ := exec_powerGoodFall_slate h
    exact ⟨t, ht, congrArg Slate.tie hslate⟩
  case resetAssert =>
    intro s ns h
    obtain ⟨t, ht, hslate⟩ := exec_resetAssert_slate s h
    exact ⟨t, ht, congrArg Slate.tie hslate⟩
  case accept => exact fun s p code hp h => if_pos (by simp [hp, h])
  case notHolder => exact fun s p code hp => capCommands_not_holder code hp
  case crossingError => exact fun s p hp h => capCrossingError_tells_alone hp h

end Sys2Proof.Machine
end

section
/-! Integer vectors (R351): the int32 form of each element operation, what an integer vector shot that is ready answers,
what its results leave in the accumulators and the frame's totals, and the statement on int32 vectors. -/

namespace Sys2Proof.Machine

open Sys2Proof

/-! ### Integer results -/

theorem intRes_bits (v : Int) : (intRes 32 v).bits = (v % 2 ^ 32).toNat := rfl

theorem intRes_wrap_iff (v : Int) : (intRes 32 v).wrap = true ↔ v < -2 ^ 31 ∨ 2 ^ 31 ≤ v := by
  simp [intRes]

/-- The integer that a word holds (section 9.3) is the library's two's-complement reading of it. -/
theorem signed_toNat (x : BitVec 32) : signed 32 x.toNat = x.toInt := by
  unfold signed
  rw [BitVec.toInt_eq_toNat_cond]
  split <;> split <;> omega

/-- An integer result's bits as a word are its exact value reduced modulo 2^32 (R351). -/
theorem ofNat_intRes_bits (v : Int) : BitVec.ofNat 32 (intRes 32 v).bits = BitVec.ofInt 32 v := by
  apply BitVec.eq_of_toNat_eq
  rw [BitVec.toNat_ofNat, BitVec.toNat_ofInt, intRes_bits]
  omega

theorem ofNat_intRes_add (x y : BitVec 32) :
    BitVec.ofNat 32 (intRes 32 (signed 32 x.toNat + signed 32 y.toNat)).bits = x + y := by
  rw [ofNat_intRes_bits, signed_toNat, signed_toNat, BitVec.ofInt_add, BitVec.ofInt_toInt, BitVec.ofInt_toInt]

theorem ofNat_intRes_sub (x y : BitVec 32) :
    BitVec.ofNat 32 (intRes 32 (signed 32 x.toNat - signed 32 y.toNat)).bits = x - y := by
  rw [ofNat_intRes_bits, signed_toNat, signed_toNat, Int.sub_eq_add_neg, BitVec.ofInt_add, BitVec.ofInt_neg,
    BitVec.ofInt_toInt, BitVec.ofInt_toInt, ← BitVec.sub_eq_add_neg]

theorem ofNat_intRes_mul (x y : BitVec 32) :
    BitVec.ofNat 32 (intRes 32 (signed 32 x.toNat * signed 32 y.toNat)).bits = x * y := by
  rw [ofNat_intRes_bits, signed_toNat, signed_toNat, BitVec.ofInt_mul, BitVec.ofInt_toInt, BitVec.ofInt_toInt]

/-! ### Element operations on an integer type -/

section Elements

variable {code : Nat} (h : isInt code = true) (u v w : Nat)

include h

theorem addRes_of_isInt : addRes code u v = intRes 32 (signed 32 u + signed 32 v) := if_pos h

theorem subRes_of_isInt : subRes code u v = intRes 32 (signed 32 u - signed 32 v) := if_pos h

theorem mulRes_of_isInt : mulRes code u v = intRes 32 (signed 32 u * signed 32 v) := if_pos h

theorem fmaRes_of_isInt : fmaRes code u v w = intRes 32 (signed 32 u * signed 32 v + signed 32 w) := if_pos h

theorem absRes_of_isInt : absRes code u = intRes 32 (signed 32 u).natAbs := if_pos h

theorem negRes_of_isInt : negRes code u = intRes 32 (-signed 32 u) := if_pos h

theorem treeRes_of_isInt (us : List Nat) : treeRes code us = intRes 32 (us.map (fun u => signed 32 u)).sum := if_pos h

theorem maxRes_of_isInt : maxMinRes code u v true = .plain (if signed 32 u < signed 32 v then v else u) := by
  simp only [maxMinRes, h, if_true, beq_true, decide_eq_true_eq]

theorem minRes_of_isInt : maxMinRes code u v false = .plain (if signed 32 u < signed 32 v then u else v) := by
  simp only [maxMinRes, h, if_true, beq_false, Bool.not_eq_true', decide_eq_false_iff_not, ite_not]

theorem reluRes_of_isInt : maxMinRes code u 0 true = .plain (if signed 32 u < 0 then 0 else u) := maxRes_of_isInt h u 0

/-- The immediate of an integer shot is taken as it stands (R322). -/
theorem immBits_of_isInt : immBits code u = u := by
  refine if_neg fun hzero => ?_
  rw [hzero] at h
  exact absurd h (by decide)

end Elements

/-! ### Integer vector shots -/

/-- The accumulator type 1 is int32 (R301). -/
theorem isInt_accCode {ty : BitVec 2} (hty : ty = 1) : isInt (accCode ty) = true := by
  subst hty; rfl

/-- An int32 tile is one tile of words (R301, R343). -/
theorem isWide_int {ty : BitVec 2} (hty : ty = 1) : isWide ty = false := by
  subst hty; rfl

/-- The products of an int32 shot are not checked (R334). -/
theorem mulChecked_int {f : VecFields} (hty : f.ty = 1) : mulChecked f = false := by
  simp [mulChecked, hty]

section Shots

variable {s : State} {n : Nat} {i : Instr} {f : VecFields} {st : Stage} {c : Ctx} {d a b : Nat}

/-- An instruction that issues a vector shot, when the shot is ready, leaves the results of the shot's operation. -/
theorem exec_vector_ready {checked counts : Bool} {op : TileOp} {rs : List ElemRes}
    (h : s.vecReady n i f st c d a b) (hexec : exec i s = .next (s.vector n i f checked counts op))
    (hop : op (accCode f.ty) (st.vecIn f d) (st.vecIn f a) (st.vecIn f b) = rs) :
    exec i s = .next (s.vecDone n f st c d checked counts rs) := by
  rw [hexec, vector_ready h, hop]

theorem exec_vadd_int (hty : f.ty = 1) (h : s.vecReady n (.vadd n f) f st c d a b) :
    exec (.vadd n f) s = .next (s.vecDone n f st c d false true
      (List.zipWith (fun u v => intRes 32 (signed 32 u + signed 32 v)) (st.vecIn f a) (st.vecIn f b))) :=
  exec_vector_ready h rfl (by simp only [zipOp, funext₂ (addRes_of_isInt (isInt_accCode hty))])

theorem exec_vsub_int (hty : f.ty = 1) (h : s.vecReady n (.vsub n f) f st c d a b) :
    exec (.vsub n f) s = .next (s.vecDone n f st c d false true
      (List.zipWith (fun u v => intRes 32 (signed 32 u - signed 32 v)) (st.vecIn f a) (st.vecIn f b))) :=
  exec_vector_ready h rfl (by simp only [zipOp, funext₂ (subRes_of_isInt (isInt_accCode hty))])

theorem exec_vmul_int (hty : f.ty = 1) (h : s.vecReady n (.vmul n f) f st c d a b) :
    exec (.vmul n f) s = .next (s.vecDone n f st c d false true
      (List.zipWith (fun u v => intRes 32 (signed 32 u * signed 32 v)) (st.vecIn f a) (st.vecIn f b))) := by
  rw [← mulChecked_int hty]
  exact exec_vector_ready h rfl (by simp only [zipOp, funext₂ (mulRes_of_isInt (isInt_accCode hty))])

theorem exec_vmov_plain (h : s.vecReady n (.vmov n f) f st c d a b) :
    exec (.vmov n f) s = .next (s.vecDone n f st c d false false ((st.vecIn f a).map ElemRes.plain)) :=
  exec_vector_ready h rfl rfl

end Shots

/-! ### The destination tile and the totals -/

section Tile

variable (st : Stage) (e d : Nat) (wide ahead counts : Bool) (xs : List Nat) (rs : List ElemRes) (f : VecFields)

@[simp] theorem count_scratch : (st.count ahead rs).scratch = st.scratch := by cases ahead <;> rfl
@[simp] theorem count_acc : (st.count ahead rs).acc = st.acc := by cases ahead <;> rfl

@[simp] theorem putTile_scratch : (st.putTile e d wide xs).scratch = st.scratch := by cases wide <;> rfl
@[simp] theorem putTile_cnt : (st.putTile e d wide xs).cnt = st.cnt := by cases wide <;> rfl

@[simp] theorem vecPut_scratch : (st.vecPut f d ahead counts rs).scratch = st.scratch := by
  cases counts <;> simp [Stage.vecPut]

/-- The results of a counted shot of the current epoch add their wraps to the frame's total (R361, R363). -/
theorem vecPut_cnt_wrap : (st.vecPut f d false true rs).cnt.wrap =
    capAt (2 ^ 48 - 1) (st.cnt.wrap + rs.countP ElemRes.wrap) := by
  simp [Stage.vecPut, Stage.count, Counts.add, countRes]

variable {f}

/-- An integer shot's results fill the one tile of its destination. -/
theorem vecPut_acc_int (hty : f.ty = 1) : (st.vecPut f d ahead counts rs).acc =
    cellSetList st.acc (accKey f.engine.toNat d 0) (rs.map (fun r => BitVec.ofNat 32 r.bits)) := by
  cases counts <;>
    simp [Stage.vecPut, isWide_int hty, Stage.putTile, Stage.putHalf, Function.comp_def]

/-- An integer shot's source elements are the words of one tile. -/
theorem vecIn_int (hty : f.ty = 1) : st.vecIn f d =
    (List.range 512).map (fun j => (cellGet st.acc (accKey f.engine.toNat d j)).toNat) := by
  simp [Stage.vecIn, Stage.tileElems, isWide_int hty]

theorem accKey_eq_add (j : Nat) : accKey e d j = accKey e d 0 + j := by
  simp [accKey]

end Tile

section Words

variable {m : Cells 32} (hm : Memory.wf m = true) (e d : Nat) (g : Nat → BitVec 32)

include hm

theorem cellGet_tile_written {j : Nat} (hj : j < 512) :
    cellGet (cellSetList m (accKey e d 0) ((List.range 512).map g)) (accKey e d j) = g j := by
  rw [cellGet_cellSetList hm, accKey_eq_add e d j, if_pos (by simp; omega)]
  simp [hj]

theorem cellGet_outside_tile {k : Nat} (hk : k < accKey e d 0 ∨ accKey e d 512 ≤ k) :
    cellGet (cellSetList m (accKey e d 0) ((List.range 512).map g)) k = cellGet m k := by
  rw [accKey_eq_add e d 512] at hk
  rw [cellGet_cellSetList hm, if_neg (by simp; omega)]

end Words

section Shots

variable {s : State} {n : Nat} {i : Instr} {f : VecFields} {st : Stage} {c : Ctx} {d a b : Nat}

/-- The words of an integer shot's results, where each result's word is an operation of its sources' words. -/
theorem words_zipWith_vecIn (hty : f.ty = 1) {r : Nat → Nat → ElemRes} {op : BitVec 32 → BitVec 32 → BitVec 32}
    (hr : ∀ x y : BitVec 32, BitVec.ofNat 32 (r x.toNat y.toNat).bits = op x y) :
    (List.zipWith r (st.vecIn f a) (st.vecIn f b)).map (fun r => BitVec.ofNat 32 r.bits) =
      (List.range 512).map (fun j => op (cellGet st.acc (accKey f.engine.toNat a j))
        (cellGet st.acc (accKey f.engine.toNat b j))) := by
  simp only [vecIn_int _ _ hty, List.zipWith_map, List.zipWith_self, List.map_map, Function.comp_def, hr]

theorem words_plain_vecIn (hty : f.ty = 1) :
    ((st.vecIn f a).map ElemRes.plain).map (fun r => BitVec.ofNat 32 r.bits) =
      (List.range 512).map (fun j => cellGet st.acc (accKey f.engine.toNat a j)) := by
  simp only [vecIn_int _ _ hty, List.map_map, Function.comp_def, ElemRes.plain, BitVec.ofNat_toNat, BitVec.setWidth_eq]

/-- An integer shot whose results are the words `g` leaves them in its destination tile, and every other element, the banks
and the other stages as they were. -/
theorem intVector_writes_tile (hty : f.ty = 1) (hm : Memory.wf st.acc = true) (h : s.vecReady n i f st c d a b)
    {counts : Bool} {rs : List ElemRes} {g : Nat → BitVec 32}
    (hexec : exec i s = .next (s.vecDone n f st c d false counts rs))
    (hwords : rs.map (fun r => BitVec.ofNat 32 r.bits) = (List.range 512).map g) :
    ∃ t u, exec i s = .next t ∧ t.stage n = some u ∧
      (∀ j, j < 512 → cellGet u.acc (accKey f.engine.toNat d j) = g j) ∧
      (∀ k, k < accKey f.engine.toNat d 0 ∨ accKey f.engine.toNat d 512 ≤ k → cellGet u.acc k = cellGet st.acc k) ∧
      u.scratch = st.scratch ∧ (∀ m, m ≠ n → t.stage m = s.stage m) ∧ t = { s with stages := t.stages } := by
  obtain ⟨⟨p, hissuer, -⟩, -⟩ := h
  have hstage : s.stage n = some st := (issuer_ctx hissuer).1
  have hacc := (vecPut_acc_int st d (c.aheadWork st) counts rs hty).trans (congrArg _ hwords)
  refine ⟨_, _, hexec, State.stage_putStage _ hstage, fun j hj => ?_, fun k hk => ?_, ?_, fun m hne => ?_, rfl⟩
  · rw [launch_acc, hacc, cellGet_tile_written hm _ _ _ hj]
  · rw [launch_acc, hacc, cellGet_outside_tile hm _ _ _ hk]
  · rw [launch_scratch, vecPut_scratch]
  · exact State.stage_putStage_other s _ hne

end Shots

/-- Settles O38: the exact result and its wrap from the integer results' rules, each shot from the int32 form of its element
operation, and the words of the destination tile from what a write of one tile leaves in the accumulators. -/
theorem int32Vectors : Obligations.Int32Vectors := by
  refine ⟨⟨fun v => ⟨intRes_bits v, intRes_wrap_iff v⟩, by decide, by decide,
    fun st f d rs => vecPut_cnt_wrap st d rs f, ?shots, ?immediateShots⟩, ?words⟩
  case shots =>
    intro s n f st c d a b x y z hty hx hy hz
    rw [hx, hy, hz]
    have hint := isInt_accCode hty
    refine ⟨exec_vadd_int hty, exec_vsub_int hty, exec_vmul_int hty, ?vfma, ?vmax, ?vmin, ?vabs, ?vneg, ?vrelu,
      exec_vmov_plain, ?vrsum, ?vcsum⟩
    case vfma =>
      intro h
      rw [← mulChecked_int hty]
      exact exec_vector_ready h rfl (by simp only [fmaOp, fmaRes_of_isInt hint])
    case vmax => exact fun h => exec_vector_ready h rfl (by simp only [zipOp, maxRes_of_isInt hint])
    case vmin => exact fun h => exec_vector_ready h rfl (by simp only [zipOp, minRes_of_isInt hint])
    case vabs => exact fun h => exec_vector_ready h rfl (by simp only [mapOp, funext (absRes_of_isInt hint)])
    case vneg => exact fun h => exec_vector_ready h rfl (by simp only [mapOp, funext (negRes_of_isInt hint)])
    case vrelu => exact fun h => exec_vector_ready h rfl (by simp only [mapOp, reluRes_of_isInt hint])
    case vrsum => exact fun h => exec_vector_ready h rfl (by simp only [rowSums, treeRes_of_isInt hint])
    case vcsum => exact fun h => exec_vector_ready h rfl (by simp only [colSums, treeRes_of_isInt hint])
  case immediateShots =>
    intro s n f st c d a b x hty hx
    rw [hx]
    have hint := isInt_accCode hty
    refine ⟨?vscal, ?vaddi, ?vfill⟩
    case vscal =>
      intro h
      rw [← mulChecked_int (f := immVec f) hty]
      exact exec_vector_ready h rfl (by simp only [mapOp, immVec, mulRes_of_isInt hint, immBits_of_isInt hint])
    case vaddi =>
      exact fun h => exec_vector_ready h rfl
        (by simp only [mapOp, immVec, addRes_of_isInt hint, immBits_of_isInt hint])
    case vfill => exact fun h => exec_vector_ready h rfl (by simp only [mapOp, immVec, immBits_of_isInt hint])
  case words =>
    rintro s n f st c d a b hty hm op i (⟨rfl, rfl⟩ | ⟨rfl, rfl⟩ | ⟨rfl, rfl⟩ | ⟨rfl, rfl⟩) h
    · exact intVector_writes_tile hty hm h (exec_vadd_int hty h) (words_zipWith_vecIn hty ofNat_intRes_add)
    · exact intVector_writes_tile hty hm h (exec_vsub_int hty h) (words_zipWith_vecIn hty ofNat_intRes_sub)
    · exact intVector_writes_tile hty hm h (exec_vmul_int hty h) (words_zipWith_vecIn hty ofNat_intRes_mul)
    · exact intVector_writes_tile hty hm h (exec_vmov_plain h) (words_plain_vecIn hty)

end Sys2Proof.Machine
end

section
/-! Every command keeps the invariant, the queue, the serial and the signing key: what a command answers, said of the
outcome, for the commands of power, boot, control, ticks, stages, errors and clocks. -/

namespace Sys2Proof.Machine

set_option Elab.async false

open Sys2Proof

/-- The state that an outcome goes on to, if any, is a kept one. -/
def Kept (s : State) (o : Host.Outcome State Fault Refusal) : Prop := ∀ t, o = .next t → s.Keeps t

variable {s t : State}

theorem Kept.next (h : s.Keeps t) : Kept s (.next t) := fun _ e => by cases e; exact h

theorem Kept.stay : Kept s (.next s) := .next (.refl s)

theorem Kept.ite {c : Prop} [Decidable c] {a b : Host.Outcome State Fault Refusal} (ha : Kept s a) (hb : Kept s b) :
    Kept s (if c then a else b) := by split <;> assumption

/-! ### Power, reset and boot -/

theorem kept_powerGoodRise : Kept s (execPowerGoodRise s) :=
  have h : s.Keeps { s with
      pins := { s.pins with pwrGood := true }, jtag := .reset
      time := { s.time with onPll := false, refOut := false, refFault := false } } := (State.Keeps.refl s).same
  .ite .stay (.next (.ite (Keeps.beginBoot h) h))

theorem kept_powerGoodFall : Kept s (execPowerGoodFall s) :=
  have h := Keeps.shutdown (.refl s)
  .ite .stay (.next (.ite h.same h.same))

theorem kept_resetAssert {ns : Nat} : Kept s (execResetAssert ns s) :=
  .ite .stay (.next (Keeps.shutdown (.refl s)).same)

theorem kept_resetRelease {ns : Nat} : Kept s (execResetRelease ns s) := by
  refine .ite .stay (.next ?_)
  dsimp only
  have h : ∀ p : Pins, s.Keeps { s with pins := p } := fun _ => (State.Keeps.refl s).same
  exact .ite (Keeps.beginBoot (.ite (h _) (h _))) (.ite (h _) (h _))

theorem kept_referencePllLock : Kept s (execReferencePllLock s) := by
  refine .ite .stay (.ite (.next ?_) (.next (State.Keeps.refl s).same))
  exact (State.Keeps.refl s).mapped (f := fun st => { st with island := 0 }) rfl (fun _ hs => hs)

theorem kept_referenceLockTimeout : Kept s (execReferenceLockTimeout s) := by
  refine .ite .stay (.next (Keeps.draw (Keeps.log ?_)))
  exact (State.Keeps.refl s).same

theorem kept_referenceFault {ps : Nat} {ok : Bool} : Kept s (execReferenceFault ps ok s) := by
  have h : s.Keeps { s with time := { s.time with onPll := false, refOut := false, refFault := true } } :=
    (State.Keeps.refl s).same
  refine .ite .stay (.ite (.next (State.Keeps.refl s).same) (.next (.ite ?_ (Keeps.moduleFail h))))
  exact Keeps.copyDailies (Keeps.log h)

theorem kept_supervisorMismatch {o : BitVec 16} {ok : Bool} : Kept s (execSupervisorMismatch o ok s) :=
  .ite .stay (.next (Keeps.moduleFail (.refl s)))

theorem kept_strapRead {mv : List (List Nat)} : Kept s (execStrapRead mv s) :=
  .ite (.next (State.Keeps.refl s).same) .stay

/-- Trims that are settings of R138, beside parts that no clause of the invariant speaks of. -/
theorem State.Keeps.trimmed {l : List Nat}
    (hl : s.Inv → l.length = 64 ∧ ∀ v ∈ l, v ≤ 126 ∧ v % 2 = 0) : s.Keeps { s with trims := l } :=
  ⟨rfl, rfl, rfl, fun i => ⟨i.memory, i.stages, i.parts, i.rails, i.slots, i.edges, hl i, i.corr, i.prev, i.hour, i.limit⟩⟩

theorem kept_meshTrimBoot {ps : List Nat} : Kept s (execMeshTrimBoot ps s) := by
  unfold execMeshTrimBoot
  split
  · rename_i h
    simp only [Bool.and_eq_true, decide_eq_true_eq, List.all_eq_true] at h
    obtain ⟨⟨-, hl⟩, hv⟩ := h
    exact .next (.trimmed fun _ => ⟨hl, fun v m => by simpa [trimOk] using hv v m⟩)
  · exact .stay

/-- A trim that moves by a step of 2 ps stays a setting of R138. -/
theorem moveTrim_setting {v : Nat} {d : Int} (h : v ≤ 126 ∧ v % 2 = 0) : moveTrim v d ≤ 126 ∧ moveTrim v d % 2 = 0 := by
  unfold moveTrim
  repeat' split
  all_goals omega

theorem kept_meshTrimUpdate {dir : List Int} : Kept s (execMeshTrimUpdate dir s) := by
  refine .ite (.next (.trimmed fun i => ?_)) .stay
  obtain ⟨hl, hv⟩ := i.trims
  refine ⟨by simpa using hl, fun v m => ?_⟩
  obtain ⟨⟨x, k⟩, hx, rfl⟩ := List.mem_map.1 m
  exact moveTrim_setting (hv x (List.fst_mem_of_mem_zipIdx hx))

theorem kept_carrierFlashBootRead {bad : List FlashArea} : Kept s (execCarrierFlashBootRead bad s) := by
  have h : s.Keeps { s with idFaults := 0 } := (State.Keeps.refl s).same
  have h1 := Keeps.readTables (b := bad) (Keeps.readRetired (b := bad) (Keeps.readChain (b := bad)
    (Keeps.readDays (b := bad) (Keeps.readLedger (b := bad) (Keeps.readIdentity (b := bad) h)))))
  exact .ite (.next (h1.timed (fun _ => inRange_yAge _))) .stay

theorem kept_dailiesBootCopy {ok : Bool} : Kept s (execDailiesBootCopy ok s) :=
  .ite (.next (Keeps.copyDailies (.refl s))) .stay

theorem kept_bootStageBist {us : List UnitId} {ls : List BadLane} {rs : List Nat} :
    Kept s (execBootStageBist us ls rs s) := by
  refine .ite (.next ?_) .stay
  have h1 := State.Keeps.fold (f := fun t x => t.recheckHeld rs x) (fun _ _ k => Keeps.recheckHeld k) (List.range 24)
    (.refl s)
  have h2 := State.Keeps.fold (f := fun t u => t.lasting u 0x00 [0] none) (fun _ _ k => Keeps.lasting k) us h1
  have h3 := Keeps.saveRetired (Keeps.saveRetired (State.Keeps.fold (f := State.spareLane)
    (fun _ _ k => Keeps.spareLane k) ls h2))
  exact (State.Keeps.ite h3 h2).same

/-- A stage that the end of boot leaves unlit. -/
theorem memWf_unlit {st : Stage} (h : st.memWf = true) {a : StageSt} {p : Option Nat} {u i : Nat} :
    Stage.memWf { st with st := a, part := p, unassigned := u, idle := i } = true := h

theorem limit_reset : 1 ≤ Gaffer.reset.limit ∧ Gaffer.reset.limit ≤ 16 := by decide

theorem kept_bootEnd : Kept s (execBootEnd s) := by
  have h : ∀ u, s.Keeps u → s.Keeps (if u.slaveAlone then u.discipline 0x04 else u) := fun _ k => .ite (Keeps.discipline k) k
  refine .ite (.next (h _ ⟨rfl, rfl, rfl, fun i => ⟨?memory, ?stages, i.parts, ?rails, i.slots, i.edges, i.trims, i.corr,
    i.prev, i.hour, limit_reset⟩⟩)) .stay
  case memory =>
    intro st hs
    obtain ⟨x, hx, rfl⟩ := List.mem_map.1 hs
    split
    · exact i.memory x hx
    · exact memWf_unlit (i.memory x hx)
  case stages => exact (List.length_map ..).trans i.stages
  case rails => exact (List.length_map ..).trans (List.length_zipIdx.trans i.rails)

theorem kept_dailiesAreaErase : Kept s (execDailiesAreaErase s) := by
  refine .ite .stay ?_
  split
  · exact .ite (.next (State.Keeps.refl s).same) (.next (State.Keeps.refl s).same)
  · exact .stay

/-! ### Control -/

theorem kept_slateRequest {a b : Bool} : Kept s (execSlateRequest a b s) :=
  .ite .stay (.next (State.Keeps.refl s).same)

theorem kept_slateRelease {p : Port} : Kept s (execSlateRelease p s) :=
  .ite .stay (.next (State.Keeps.refl s).same)

theorem kept_slateHeartbeat {p : Port} : Kept s (execSlateHeartbeat p s) :=
  .ite (.next (State.Keeps.refl s).same) .stay

theorem kept_slateRevocation : Kept s (execSlateRevocation s) := by
  unfold execSlateRevocation
  split
  · exact .stay
  · exact .next (Keeps.log (State.Keeps.refl s).same)

theorem kept_slateReeligible {p : Port} : Kept s (execSlateReeligible p s) :=
  .ite (.next (State.Keeps.refl s).same) .stay

theorem kept_capCodeAccept {p : Port} {c : BitVec 4} : Kept s (execCapCodeAccept p c s) :=
  .ite (.next (State.Keeps.refl s).same) .stay

theorem kept_capCrossingError {p : Port} : Kept s (execCapCrossingError p s) :=
  .ite (.next (Keeps.countCrossing (Keeps.errorEvent (.refl s)))) .stay

theorem kept_cmdIdle {p : Port} : Kept s (execCmdIdle p s) := .next (Keeps.command (.refl s) fun _ h => h)

theorem kept_cmdCutAll {p : Port} : Kept s (execCmdCutAll p s) :=
  .next (Keeps.command (.refl s) fun _ h => Keeps.cutAll h)

theorem kept_cmdPark {p : Port} : Kept s (execCmdPark p s) := .next (Keeps.command (.refl s) fun _ h => h.same)

theorem kept_cmdUnpark {p : Port} : Kept s (execCmdUnpark p s) :=
  .next (Keeps.command (.refl s) fun _ h => .ite h h.same)

theorem kept_cmdChipComputeReset {p : Port} : Kept s (execCmdChipComputeReset p s) :=
  .next (Keeps.command (.refl s) fun _ h => Keeps.enterLevel4 h)

theorem kept_cmdDumpPowerCycle {p : Port} {a b : Bool} : Kept s (execCmdDumpPowerCycle p a b s) :=
  .next (Keeps.command (.refl s) fun _ h => Keeps.runLevel5 h.same)

theorem kept_cmdRediscipline {p : Port} : Kept s (execCmdRediscipline p s) :=
  .next (Keeps.command (.refl s) fun _ h => Keeps.rediscipline h)

theorem kept_cmdCalibrateNow {p : Port} : Kept s (execCmdCalibrateNow p s) :=
  .next (Keeps.command (.refl s) fun _ h => h.same)

theorem kept_cmdStrobeFall {p : Port} : Kept s (execCmdStrobeFall p s) :=
  .ite (.next (State.Keeps.refl s).same) .stay

theorem kept_cmdCrossingError {p : Port} : Kept s (execCmdCrossingError p s) :=
  .next (Keeps.command (.refl s) fun _ h => Keeps.countCrossing (Keeps.errorEvent h))

/-! ### Coolant and temperature -/

theorem Keeps.coolantLow (h : s.Keeps t) {i : Port} : s.Keeps (t.coolantLow i) := by
  have k : ∀ p : Pins, s.Keeps { t with pins := p } := fun _ => h.same
  exact .ite (k _) (.ite (k _) (.ite (k _) (Keeps.stopModule (k _))))

theorem kept_coolantStop {i : Port} : Kept s (execCoolantStop i s) := .next (Keeps.coolantLow (.refl s))

theorem kept_coolantGlitch {i : Port} {c : BitVec 16} : Kept s (execCoolantGlitch i c s) :=
  .ite (.next (Keeps.coolantLow (.refl s)).same) (.ite .stay (.next (Keeps.log (.refl s))))

theorem kept_temperatureReading {n k : Nat} {d : Int} : Kept s (execTemperatureReading n k d s) := by
  unfold execTemperatureReading
  split
  · exact .stay
  · rename_i st hst
    refine .ite .stay ?_
    have h1 : ∀ a b c, s.Keeps (s.putStage n { st with temps := a, tempsOld := b, tempHot := c }) := fun _ _ _ =>
      Keeps.restage (.refl s) hst
    have h2 : ∀ a b c p, s.Keeps { s.putStage n { st with temps := a, tempsOld := b, tempHot := c } with pins := p } :=
      fun a b c _ => (h1 a b c).same
    exact .ite (.next (h1 ..)) (.ite (.next (Keeps.stopModule (.ite (h2 ..) (h1 ..)))) (.next (.ite (h2 ..) (h1 ..))))

theorem kept_thermWarnDeassert : Kept s (execThermWarnDeassert s) :=
  .ite (.next (State.Keeps.refl s).same) .stay

/-! ### Ticks and stages -/

theorem kept_tick : Kept s (execTick s) := by
  have h : s.Keeps { s.advance s.nextTick with time := { (s.advance s.nextTick).time with lastTick := some s.nextTick } } :=
    (Keeps.advance (.refl s)).same
  exact .ite .stay (.next (.ite (Keeps.tickBody h) h))

theorem kept_commitCutoff : Kept s (execCommitCutoff s) :=
  .ite (.next (State.Keeps.refl s).same) .stay

theorem kept_idleCountExpiry {n : Nat} : Kept s (execIdleCountExpiry n s) := by
  unfold execIdleCountExpiry
  split
  · rename_i st p c hst _
    refine .ite (.next ?_) .stay
    have h1 : s.Keeps (s.putStage n { st with skipping := false, closing := none }) := Keeps.restage (.refl s) hst
    have h2 := State.Keeps.ite (c := st.st = .dark) (Keeps.makeLit (n := n) h1) h1
    exact .ite (Keeps.beginStage h2) h2
  · exact .stay

theorem kept_unassignedCountExpiry {n : Nat} : Kept s (execUnassignedCountExpiry n s) := by
  unfold execUnassignedCountExpiry
  split
  · exact .stay
  · exact .ite (.next (Keeps.restage (.refl s) ‹_›)) .stay

theorem kept_stageRelease {n : Nat} : Kept s (execStageRelease n s) := by
  unfold execStageRelease
  split
  · exact .stay
  · exact .ite (.next (Keeps.modStage (Keeps.flushTrace (.refl s)) fun st _ => memWf_zeroAll st)) .stay

theorem kept_releaseComplete {n : Nat} {ok : Bool} : Kept s (execReleaseComplete n ok s) := by
  unfold execReleaseComplete
  split
  · rename_i st p c0 _ _
    have h1 : s.Keeps ((s.modStage n Stage.unassign).modCtx p (fun c => { c with released := n :: c.released })) :=
      Keeps.modCtx (Keeps.modStage (.refl s) fun _ hs => memWf_unassign hs)
    refine .ite ?_ .stay
    dsimp only
    split
    · exact .next h1
    · split
      · exact .next h1
      · exact .ite (.next h1) (.ite (.next (Keeps.freePart h1)) (.ite (.next h1)
          (.next (Keeps.freePart (Keeps.endRecords h1)))))
  · exact .stay

theorem kept_crossingTimeout {x : BitVec 16} : Kept s (execCrossingTimeout x s) :=
  .ite .stay (.next (Keeps.timeoutXing (Keeps.undelivered (.refl s))))

theorem kept_doubleSampleFailure {x : BitVec 16} : Kept s (execDoubleSampleFailure x s) :=
  .ite .stay (.next (Keeps.countCrossing (Keeps.errorEvent (Keeps.checkAligned (Keeps.keepLast (.refl s))))))

/-- A stage that goes unlit has empty memories. -/
theorem memWf_powerless (st : Stage) {a : StageSt} : Stage.memWf { st.losePower with st := a } = true := rfl

theorem kept_lightsOutHandshake {n : Nat} {g : LightsTarget} {l : List Side} :
    Kept s (execLightsOutHandshake n g l s) := by
  unfold execLightsOutHandshake
  split
  · exact .stay
  · refine .ite .stay (.ite (.next (Keeps.lightsTimeouts (Keeps.modStage (Keeps.lightsOk (.refl s))))) ?_)
    have h1 := fun ds => Keeps.modAllAcross (n := n) (f := Link.mark) (Keeps.lightsOk (n := n) (ds := ds) (.refl s))
    split
    · exact .next (Keeps.modStage (Keeps.darkMarker (h1 _)) fun _ hs => memWf_goDark hs)
    · exact .next (Keeps.restRails (Keeps.modStage (h1 _) fun st _ => memWf_powerless st))

theorem kept_lightsOutRequestReceived {n : Nat} {d : Side} : Kept s (execLightsOutRequestReceived n d s) := by
  unfold execLightsOutRequestReceived
  split
  · exact .stay
  · exact .ite .stay (.next (Keeps.putStage (.refl s) fun hm => memWf_modLink (stage_memWf ‹_› hm) _ _))

theorem kept_lightsOnHandshake {n : Nat} {l : List Side} : Kept s (execLightsOnHandshake n l s) := by
  unfold execLightsOnHandshake
  split
  · exact .stay
  · exact .ite .stay (.next (Keeps.lightsTimeouts (Keeps.lightsOk
      (State.Keeps.fold (fun _ _ k => Keeps.lightsOnSide k) _ (.refl s)))))

theorem kept_lightsOnRequestReceived {n : Nat} {d : Side} : Kept s (execLightsOnRequestReceived n d s) := by
  unfold execLightsOnRequestReceived
  split
  · exact .stay
  · exact .ite .stay (.next (Keeps.putStage (.refl s) fun hm => memWf_modLink (stage_memWf ‹_› hm) _ _))

theorem kept_stagePowerUp {n : Nat} : Kept s (execStagePowerUp n s) := by
  unfold execStagePowerUp
  split
  · exact .stay
  · exact .ite (.next (Keeps.restage (.refl s) ‹_›)) .stay

/-- A stage that has become ready has empty memories. -/
theorem memWf_ready (st : Stage) {b : Bool} {k : Clock} : Stage.memWf { st.zeroAll with ready := b, clock := k } = true := rfl

theorem kept_stageReady {n : Nat} : Kept s (execStageReady n s) := by
  unfold execStageReady
  split
  · rename_i st _ _ _ _
    split
    · exact .ite (.next (Keeps.tellStep (Keeps.raiseFor (Keeps.putStage (.refl s) fun _ => memWf_ready st)))) .stay
    · exact .stay
  · exact .stay

theorem kept_powerSwitchRampFailure {n : Nat} : Kept s (execPowerSwitchRampFailure n s) := by
  unfold execPowerSwitchRampFailure
  split
  · exact .stay
  · split
    · exact .stay
    · exact .ite .stay (.ite (.next (Keeps.errorEvent (Keeps.restage (.refl s) ‹_›)))
        (.next (Keeps.retireStage (Keeps.errorEvent (.refl s)))))

theorem kept_powerSwitchRetry {n : Nat} : Kept s (execPowerSwitchRetry n s) := by
  unfold execPowerSwitchRetry
  split
  · exact .stay
  · split
    · exact .stay
    · exact .ite (.next (Keeps.restage (.refl s) ‹_›)) .stay

/-! ### Errors, rollback and tests -/

theorem kept_scriptStoreUncorrectable {n w b : Nat} : Kept s (execScriptStoreUncorrectable n w b s) := by
  unfold execScriptStoreUncorrectable
  split
  · exact .stay
  · exact .ite (.next (.ite (Keeps.scriptError (.refl s)) (Keeps.restage (.refl s) ‹_›))) .stay

theorem kept_bankUncorrectable {n p l : Nat} {a r : Bool} : Kept s (execBankUncorrectable n p l a r s) := by
  unfold execBankUncorrectable
  split
  · exact .stay
  · exact .ite (.next (Keeps.bankError (.refl s))) .stay

theorem kept_prefetchSquashError {n p l : Nat} : Kept s (execPrefetchSquashError n p l s) := by
  unfold execPrefetchSquashError
  split
  · exact .stay
  · exact .ite (.next (Keeps.noteError (Keeps.errorEvent (.refl s)))) .stay

theorem kept_columnDetector {n p x c : Nat} {rs : List Nat} : Kept s (execColumnDetector n p x c rs s) := by
  unfold execColumnDetector
  split
  · exact .stay
  · rename_i st hst
    have h : ∀ a b, s.Keeps (s.putStage n { st with columns := a, corrected := b }) := fun _ _ =>
      Keeps.restage (.refl s) hst
    exact .ite .stay (.next (.ite (Keeps.noteError (Keeps.errorEvent (h ..))) (h ..)))

theorem kept_cellTracker {n p x r c : Nat} : Kept s (execCellTracker n p x r c s) := by
  unfold execCellTracker
  split
  · exact .stay
  · refine .ite .stay ?_
    dsimp only
    split
    · exact .next (Keeps.noteError (Keeps.restage (.refl s) ‹_›))
    · exact .next (Keeps.restage (.refl s) ‹_›)

theorem kept_errorEventReceived {e : ErrReport} : Kept s (execErrorEventReceived e s) :=
  .ite (.next (Keeps.takeError (.ite (Keeps.xingOk (.refl s)) (.refl s)))) .stay

theorem kept_rollbackAbort {n : Nat} : Kept s (execRollbackAbort n s) := by
  unfold execRollbackAbort
  split
  · split
    · exact .stay
    · refine .ite .stay (.next (Keeps.xingOk (Keeps.modCtx (Keeps.putStage (.refl s) fun hm => ?_))))
      have hst := stage_memWf ‹s.stage n = some _› hm
      split
      · exact memWf_restartSides (memWf_abortBoth hst _) _
      · exact memWf_abortAhead hst _
  · exact .stay

theorem kept_rollbackComplete {n : Nat} : Kept s (execRollbackComplete n s) := by
  unfold execRollbackComplete
  split
  · exact .stay
  · split
    · exact .stay
    · exact .ite .stay (.next (Keeps.modCtx (.refl s)))

theorem kept_retakeLimit {p : Nat} : Kept s (execRetakeLimit p s) := by
  unfold execRetakeLimit
  split
  · exact .stay
  · split
    · exact .stay
    · exact .ite (.next (Keeps.enterLevel3 (.refl s))) .stay

theorem kept_selfTestComplete {u : UnitId} {r : TestResult} : Kept s (execSelfTestComplete u r s) := by
  unfold execSelfTestComplete
  split
  · split
    · exact .ite (.next (Keeps.classify (.refl s))) .stay
    · exact .next (Keeps.clockTested (.refl s))
    · exact .next (Keeps.spliceTested (.refl s))
    · exact .next (Keeps.classify (.refl s))
    · exact .ite (.next (Keeps.classify (.refl s))) .stay
  · exact .stay

theorem kept_substitution {u : UnitId} : Kept s (execSubstitution u s) := by
  unfold execSubstitution
  split
  · rename_i n _ _
    split
    · exact .stay
    · rename_i st hst
      refine .ite .stay ?_
      split
      · exact .stay
      · rename_i r hr
        have h : s.Keeps (s.putStage n r.stage) := Keeps.putStage (.refl s) fun hm =>
          memWf_substitute (stage_memWf hst hm) hr
        dsimp only
        split
        · exact .next (Keeps.modCtx h.same)
        · exact .next h.same
  · exact .stay

theorem kept_substitutionCopyComplete {u : UnitId} : Kept s (execSubstitutionCopyComplete u s) := by
  unfold execSubstitutionCopyComplete
  split
  · exact .ite .stay (.next (State.Keeps.refl s).same)
  · exact .stay

theorem memWf_putScript {st : Stage} (h : st.memWf = true) {r : Option Nat} (k : Nat) (ws : List Word) :
    ({ st with reload := r, script := cellSetList st.script k ws } : Stage).memWf = true := by
  obtain ⟨h1, h2, h3, h4⟩ := memWf_iff.1 h
  exact memWf_iff.2 ⟨h1, h2, h3, cellSetList_wf h4⟩

theorem kept_scriptBlockReload {n b : Nat} {bs : Option (List Byte)} : Kept s (execScriptBlockReload n b bs s) := by
  unfold execScriptBlockReload
  split
  · have hfail : ∀ p, s.Keeps ((s.modStage n (fun t => { t with reload := none })).enterLevel3 p 0x02 n) := fun _ =>
      Keeps.enterLevel3 (Keeps.modStage (.refl s))
    refine .ite .stay ?_
    dsimp only
    split
    · exact .next (hfail _)
    · exact .ite (.next (Keeps.putStage (.refl s) fun hm => memWf_putScript (stage_memWf ‹_› hm) _ _)) (.next (hfail _))
  · exact .stay

/-! ### Clocks -/

theorem kept_thinMargin {n : Nat} {cs : List Nat} : Kept s (execThinMargin n cs s) := by
  unfold execThinMargin
  have h : s.Keeps (s.modStage n (fun st =>
      if st.st = .lit then { st with slackNow := minCode st.slackNow (lowCode cs) } else st)) :=
    Keeps.modStage (.refl s) (fun _ hs => by split <;> exact hs)
  dsimp only
  split
  · exact .ite (.next h) (.ite (.next (Keeps.detect h)) (.ite
      (.next (Keeps.checkReady (Keeps.stepDown h (stage_memWf ‹_›)))) (.next (Keeps.restage h ‹_›))))
  · exact .next h

theorem kept_coreRetuneLock {n c : Nat} : Kept s (execCoreRetuneLock n c s) := by
  unfold execCoreRetuneLock
  split
  · exact .stay
  · rename_i st hst
    refine .ite .stay (.next (Keeps.checkReady ?_))
    have h : ∀ k, s.Keeps (s.putStage n { st with clock := k }) := fun _ => Keeps.restage (.refl s) hst
    split
    · exact .ite (Keeps.stepDown (h _) fun hm => stage_memWf (State.stage_putStage _ hst) hm) (h _)
    · exact .ite (h _) (Keeps.draw (Keeps.switched (h _)))

theorem kept_coreLockLost {n c : Nat} : Kept s (execCoreLockLost n c s) := by
  unfold execCoreLockLost
  split
  · exact .stay
  · refine .ite .stay ?_
    dsimp only
    split
    · refine .next (Keeps.draw (Keeps.switched (Keeps.modStage (Keeps.detect (.refl s)) fun _ hs => ?_)))
      split <;> exact hs
    · exact .next (Keeps.noteError (Keeps.errorEvent (Keeps.restage (.refl s) ‹_›)))

theorem kept_fmaxDerate {n : Nat} : Kept s (execFmaxDerate n s) := by
  unfold execFmaxDerate
  split
  · exact .stay
  · exact .ite .stay (.ite (.next (Keeps.retireStage (.refl s))) (.next (Keeps.restage (.refl s) ‹_›)))

theorem kept_ledgerWrite {ok : Bool} : Kept s (execLedgerWrite ok s) :=
  .ite .stay (.next (Keeps.saveLedger (.refl s)))

theorem kept_stepBroadcastReceived {n : Nat} : Kept s (execStepBroadcastReceived n s) := by
  unfold execStepBroadcastReceived
  split
  · split
    · exact .stay
    · have h : ∀ k, s.Keeps (s.putStage n { ‹Stage› with clock := k }) := fun _ => Keeps.restage (.refl s) ‹_›
      exact .ite .stay (.next (.ite (Keeps.readyFor (h _)) (Keeps.checkReady (h _))))
  · exact .stay

theorem kept_stepAccepted {p : Nat} : Kept s (execStepAccepted p s) := by
  unfold execStepAccepted
  split
  · exact .stay
  · split
    · exact .stay
    · refine .ite .stay (.next (State.Keeps.fold (fun _ _ k => ?_) _ (Keeps.modPart (Keeps.modCtx (.refl s)))))
      split
      · exact k
      · split
        · exact k
        · exact Keeps.raiseFor k

end Sys2Proof.Machine
end

section
/-! Every command keeps the invariant, the queue, the serial and the signing key, for the commands of the host ports, the
load, the shots, the gaffer, droop, spines, recovery, the time base, the ring, the splices and JTAG. -/

namespace Sys2Proof.Machine

set_option Elab.async false

open Sys2Proof

variable {s t : State}

/-! ### Host ports -/

theorem kept_submit {p : Port} {w : Word} : Kept s (execSubmit p w s) :=
  .ite .stay (.ite (.next (Keeps.malformed (.refl s))) (.next (Keeps.modPort (.refl s))))

theorem kept_submissionDescriptorFetched {a b : Option Fetch} : Kept s (execSubmissionDescriptorFetched a b s) := by
  unfold execSubmissionDescriptorFetched
  have h : s.Keeps ((s.takeFetch .a a).1.takeFetch .b b).1 := Keeps.takeFetch (Keeps.takeFetch (.refl s))
  have h2 : ∀ x i y j, s.Keeps ((((s.takeFetch .a a).1.takeFetch .b b).1.takeSlot x i).takeSlot y j) :=
    fun _ _ _ _ => Keeps.takeSlot (Keeps.takeSlot h)
  dsimp only
  split
  · have k := fun x i y j => State.Keeps.ite (c := ((s.takeFetch .a a).1.takeFetch .b b).1.slotPri = .a)
      (h2 x i y j) (h2 y j x i)
    exact .next (.ite (k ..).same (k ..))
  · refine .next (Keeps.takeSlot ?_)
    split
    · exact h
    · exact Keeps.refuseSubmit h
  · refine .next (Keeps.takeSlot ?_)
    split
    · exact h
    · exact Keeps.refuseSubmit h
  · refine .next ?_
    have h3 : s.Keeps (match (s.takeFetch .a a).2 with
        | none => ((s.takeFetch .a a).1.takeFetch .b b).1
        | some r => ((s.takeFetch .a a).1.takeFetch .b b).1.refuseSubmit .a r) := by
      split
      · exact h
      · exact Keeps.refuseSubmit h
    split
    · exact h3
    · exact Keeps.refuseSubmit h3

theorem kept_cutWord {p : Port} {w : Word} : Kept s (execCutWord p w s) := by
  refine .ite .stay (.ite (.next (Keeps.malformed (.refl s))) ?_)
  split
  · exact .next (Keeps.cutAnswer (.refl s))
  · split
    · exact .stay
    · exact .ite (.next (Keeps.acceptCut (.refl s))) (.next (Keeps.cutAnswer (.refl s)))

theorem kept_bind {p : Port} {w : Word} : Kept s (execBind p w s) :=
  .ite .stay (.ite (.next (Keeps.malformed (.refl s))) (.next (Keeps.modPort (.refl s))))

theorem kept_bindDescriptorFetched {p : Port} {f : Fetch} : Kept s (execBindDescriptorFetched p f s) := by
  unfold execBindDescriptorFetched
  split
  · exact .stay
  · have h : ∀ g, s.Keeps (s.modPort p g) := fun _ => Keeps.modPort (.refl s)
    dsimp only
    split
    · exact .next (Keeps.malformed (h _))
    · exact .ite (.next (Keeps.noteDelivery (Keeps.bindPort (h _)))) (.next (Keeps.malformed (h _)))

theorem kept_consumed {p : Port} {w : Word} : Kept s (execConsumed p w s) :=
  .ite .stay (.ite (.ite .stay (.next (Keeps.modPort (.refl s)))) (.next (Keeps.malformed (.refl s))))

theorem kept_unbind {p : Port} {w : Word} : Kept s (execUnbind p w s) :=
  .ite .stay (.ite (.next (Keeps.malformed (.refl s))) (.next (Keeps.modPort (.refl s))))

theorem kept_mailboxWriteMalformed {p : Port} {o : BitVec 16} : Kept s (execMailboxWriteMalformed p o s) :=
  .ite (.next (Keeps.malformed (.refl s))) .stay

theorem kept_hostLinkError {p : Port} {k : LinkError} : Kept s (execHostLinkError p k s) := by
  have h : ∀ c : Prop, ∀ [Decidable c], s.Keeps (if c then s.modPort p (fun q => q.funcReset false) else s) := fun _ =>
    .ite (Keeps.modPort (.refl s)) (.refl s)
  exact .next (.ite (h _) (Keeps.portEvent (h _)))

theorem kept_hostPortReturn {p : Port} : Kept s (execHostPortReturn p s) :=
  .ite .stay (.next (Keeps.modPort (.refl s)))

theorem kept_d3hotEntry {p : Port} : Kept s (execD3hotEntry p s) :=
  .ite (.next (Keeps.modPort (.refl s))) .stay

/-! ### Records -/

theorem kept_recordAtPortHead {p : Port} : Kept s (execRecordAtPortHead p s) := by
  unfold execRecordAtPortHead
  split
  · exact .stay
  · exact .next (Keeps.modPort (.refl s))
  · exact .next (Keeps.modPort (.refl s))

theorem kept_producerWordWrite {p : Port} : Kept s (execProducerWordWrite p s) := by
  unfold execProducerWordWrite
  split
  · exact .stay
  · exact .ite (.next (Keeps.modPort (.refl s))) .stay

theorem kept_msixRecordVector {p : Port} : Kept s (execMsixRecordVector p s) :=
  .ite (.next (Keeps.modPort (.refl s))) .stay

theorem kept_outputWritesComplete {p : Port} {k : Nat} : Kept s (execOutputWritesComplete p k s) := by
  unfold execOutputWritesComplete
  split
  · exact .ite .stay (.next (Keeps.modPort (.refl s)))
  · split
    · exact .stay
    · split
      · exact .stay
      · exact .ite .stay (.next (Keeps.modPort (Keeps.modCtx (.refl s))))

theorem kept_ringStall {p : Port} : Kept s (execRingStall p s) :=
  .ite (.next (Keeps.log (Keeps.modPort (.refl s)))) .stay

/-! ### The load -/

theorem kept_loadCheckStart : Kept s (execLoadCheckStart s) := by
  refine .ite .stay ?_
  split
  · exact .stay
  · exact .ite (.next (Keeps.refuseSlot (.refl s))) (.next (State.Keeps.refl s).same)

theorem kept_loadCheckReadComplete {r : Option (List Byte)} : Kept s (execLoadCheckReadComplete r s) := by
  unfold execLoadCheckReadComplete
  split
  · exact .stay
  · split
    · split
      · exact .next (Keeps.refuseSlot (.refl s))
      · split
        · exact .next (Keeps.refuseSlot (.refl s))
        · exact .next (State.Keeps.refl s).same
    · exact .stay

theorem kept_acceptanceStep : Kept s (execAcceptanceStep s) := by
  refine .ite .stay ?_
  split
  · exact .stay
  · split
    · refine .ite (.next (Keeps.refuseSlot (.refl s))) ?_
      split
      · exact .next (Keeps.refuseSlot (.refl s))
      · exact .next (Keeps.acceptReel (.refl s))
    · exact .stay

theorem kept_reelLoad {p : Nat} {b : List Byte} {gs : List (List Byte)} : Kept s (execReelLoad p b gs s) := by
  unfold execReelLoad
  split
  · exact .stay
  · exact .ite (.ite (.next (Keeps.modCtx (.refl s))) (.next (Keeps.modCtx (State.Keeps.fold
      (fun _ _ k => Keeps.modStage k fun _ hs => memWf_loadFrom hs ..) _ (.refl s))))) .stay

theorem kept_reelLoadComplete {p : Nat} {e : Bool} : Kept s (execReelLoadComplete p e s) := by
  unfold execReelLoadComplete
  split
  · exact .stay
  · refine .ite .stay (.ite (.next (Keeps.failCtx (.refl s))) ?_)
    split
    · exact .stay
    · exact .next (Keeps.modCtx (.refl s))
    · exact .next (Keeps.failCtx (.refl s))

theorem kept_loadTimeout {p : Nat} : Kept s (execLoadTimeout p s) := by
  unfold execLoadTimeout
  split
  · exact .stay
  · exact .ite (.next (Keeps.failCtx (.refl s))) .stay

/-! ### Power -/

theorem length_countIntervals (rs : List Rail) (xs : List RailReport) : (countIntervals rs xs).length = rs.length := by
  induction rs generalizing xs with
  | nil => cases xs <;> rfl
  | cons r rs ih => cases xs <;> simp [countIntervals, ih]

/-- A change of the gaffer to a limit of 1 to 16, of the rails to as many, and of the stages outside their memories. -/
theorem Keeps.gaffer (h : s.Keeps t) {g : Gaffer} {rs : List Rail} (hg : 1 ≤ g.limit ∧ g.limit ≤ 16)
    (hr : rs.length = t.rails.length) :
    s.Keeps { t with gaffer := g, rails := rs, stages := t.stages.map (fun st => { st with work := .zero }) } := by
  refine h.trans ⟨rfl, rfl, rfl, fun i => ⟨?memory, (List.length_map ..).trans i.stages, i.parts, hr.trans i.rails, i.slots,
    i.edges, i.trims, i.corr, i.prev, i.hour, hg⟩⟩
  intro st hs
  obtain ⟨x, hx, rfl⟩ := List.mem_map.1 hs
  exact memWf_work (i.memory x hx)

theorem update_limit_range (g : Gaffer) (p : Rat) (b : Nat → Rat) (cap u : Nat) (now : WaferTime) :
    1 ≤ (g.update p b cap u now).limit ∧ (g.update p b cap u now).limit ≤ 16 := chooseLimit_range

@[simp] theorem State.advance_rails (w : WaferTime) : (s.advance w).rails = s.rails := by
  unfold State.advance; split <;> rfl

theorem kept_gafferUpdate : Kept s (execGafferUpdate s) :=
  .ite .stay (.next (Keeps.gaffer (Keeps.advance (.refl s)) (update_limit_range ..)
    ((length_countIntervals ..).trans (by simp))))

theorem kept_capUnattainable : Kept s (execCapUnattainable s) := by
  refine .ite (.next ?_) .stay
  exact State.Keeps.same (Keeps.log (.refl s))

theorem kept_issueLimitReceived {n : Nat} : Kept s (execIssueLimitReceived n s) := by
  unfold execIssueLimitReceived
  split
  · exact .stay
  · exact .ite (.next (Keeps.restage (.refl s) ‹_›)) .stay

theorem kept_senseSweep : Kept s (execSenseSweep s) := .ite .stay (.next (State.Keeps.refl s).same)

theorem kept_senseSweepComplete {rs : List AvsRead} {ms : List Nat} : Kept s (execSenseSweepComplete rs ms s) :=
  .ite .stay (.next (State.Keeps.fold (fun _ _ k => Keeps.checkSense k) _ (State.Keeps.refl s).same))

theorem kept_gainClampOrSenseMissing {x : Nat} : Kept s (execGainClampOrSenseMissing x s) :=
  .ite (.next (Keeps.modRail (Keeps.joinTest (Keeps.errorEvent (.refl s))))) .stay

theorem kept_railRecheck {x : Nat} : Kept s (execRailRecheck x s) :=
  .ite (.next (Keeps.modRail (State.Keeps.refl s).same)) .stay

theorem kept_railRecheckComplete {x : Nat} {d : RecheckData} : Kept s (execRailRecheckComplete x d s) :=
  .ite .stay (.next (Keeps.modRail (State.Keeps.fold (fun _ _ k => Keeps.settleRecheck k) _ (.refl s))))

theorem kept_slackToVolts : Kept s (execSlackToVolts s) := by
  have h : ∀ u, s.Keeps u →
      s.Keeps { u with stages := u.stages.map (fun st => { st with slackTick := none, slackLow := none }) } :=
    fun _ k => k.mapped (f := fun st => { st with slackTick := none, slackLow := none }) (by with_reducible rfl)
      (fun _ hs => hs)
  exact .ite .stay (.next (h _ (State.Keeps.fold (fun _ _ k => Keeps.evaluate k) _ (.refl s))))

theorem kept_avsbusWriteFailed {x : Nat} : Kept s (execAvsbusWriteFailed x s) :=
  .ite (.next (Keeps.joinTest (Keeps.errorEvent (Keeps.modRail (.refl s))))) .stay

/-! ### Droop -/

theorem kept_droopTrip {n d a r e : Nat} : Kept s (execDroopTrip n d a r e s) := by
  unfold execDroopTrip
  split
  · exact .stay
  · exact .ite .stay (.next (Keeps.passEdges (.refl s) fun hm => memWf_clock (stage_memWf ‹_› hm)))

theorem kept_droopClear {n d a e : Nat} : Kept s (execDroopClear n d a e s) := by
  unfold execDroopClear
  split
  · exact .stay
  · exact .ite .stay (.next (Keeps.passEdges (.refl s) fun hm => memWf_clock (stage_memWf ‹_› hm)))

theorem kept_haltEnd {n c : Nat} : Kept s (execHaltEnd n c s) := by
  unfold execHaltEnd
  split
  · exact .stay
  · have h : ∀ k, s.Keeps (s.putStage n { ‹Stage› with clock := k }) := fun _ => Keeps.restage (.refl s) ‹_›
    exact .ite .stay (.ite (.next (Keeps.traceAt (h _))) (.next (h _)))

theorem kept_persistentDroop {n : Nat} : Kept s (execPersistentDroop n s) := by
  unfold execPersistentDroop
  split
  · exact .stay
  · exact .ite (.next (Keeps.escalateError (.refl s))) .stay

theorem kept_droopOverrunLimit {n : Nat} : Kept s (execDroopOverrunLimit n s) := by
  unfold execDroopOverrunLimit
  split
  · exact .stay
  · have h : ∀ k, s.Keeps ((s.putStage n { ‹Stage› with clock := k }).startTest (.clockPath n) 0x09) := fun _ =>
      Keeps.startTest (Keeps.restage (.refl s) ‹_›)
    exact .ite .stay (.next (.ite (Keeps.startTest (h _)) (h _)))

theorem kept_noticeAssert {n : Nat} : Kept s (execNoticeAssert n s) := by
  unfold execNoticeAssert
  split
  · exact .stay
  · exact .ite (.next (Keeps.unalign (Keeps.restage (.refl s) ‹_›))) .stay

/-! ### Spines -/

theorem kept_spineFlitCrcFail {c g : Nat} : Kept s (execSpineFlitCrcFail c g s) :=
  .ite .stay (.next (Keeps.putSpine (.refl s)))

theorem kept_spineSegmentFailed {c g : Nat} : Kept s (execSpineSegmentFailed c g s) :=
  .ite .stay (.next (State.Keeps.fold (fun _ _ k => Keeps.retireStage k) _ (Keeps.errorEvent (Keeps.putSpine (.refl s)))))

theorem kept_spineFlitAtSink {c g : Nat} {h : BitVec 128} {d : Line} : Kept s (execSpineFlitAtSink c g h d s) := by
  have k : ∀ x, s.Keeps (s.putSpine x) := fun _ => Keeps.putSpine (.refl s)
  refine .ite .stay (.ite (.next (k _)) (.ite .stay (.ite ?_ (.ite (.next (Keeps.takeAtBlock (k _))) (.next (k _))))))
  split
  · exact .next (k _)
  · exact .ite (.next (Keeps.respond (k _))) (.next (Keeps.takeRequest (k _) ‹_›))

theorem kept_rqToUnlitStage {n : Nat} {h : BitVec 128} : Kept s (execRqToUnlitStage n h s) := by
  unfold execRqToUnlitStage
  dsimp only
  split
  · exact .stay
  · exact .ite (.next (Keeps.respond (.refl s))) .stay

/-! ### Recovery -/

theorem kept_hang {p : Nat} : Kept s (execHang p s) := by
  unfold execHang
  split
  · exact .stay
  · exact .ite (.next (Keeps.modCtx (Keeps.acceptCut (Keeps.errorEvent (.refl s))))) .stay

theorem kept_cutTick {p : Nat} : Kept s (execCutTick p s) := by
  unfold execCutTick
  split
  · exact .stay
  · split
    · exact .ite .stay (.next (State.Keeps.same (Keeps.raiseXings (Keeps.modCtx (.refl s)))))
    · exact .stay

theorem kept_cutNotice {n : Nat} : Kept s (execCutNotice n s) := by
  unfold execCutNotice
  split
  · exact .ite .stay (.next (Keeps.xingOk (Keeps.modCtx (Keeps.putStage (.refl s) fun hm =>
      memWf_cutStop (stage_memWf ‹_› hm)))))
  · exact .stay

theorem kept_cutStopped {n : Nat} : Kept s (execCutStopped n s) := by
  unfold execCutStopped
  split
  · exact .stay
  · exact .ite .stay (.next (Keeps.modCtx (Keeps.modStage (.refl s))))

theorem kept_stageDump {n : Nat} {r : DumpReads} : Kept s (execStageDump n r s) := by
  unfold execStageDump
  split
  · exact .stay
  · exact .ite (.next (Keeps.modCtx (Keeps.takeDump (.refl s)))) .stay

theorem kept_cutComplete {p : Nat} {ok : Bool} : Kept s (execCutComplete p ok s) := by
  unfold execCutComplete
  split
  · exact .stay
  · split
    · refine .ite .stay (.next (Keeps.freePart ?_))
      have h := fun c e => Keeps.endRecords (p := p) (c := c) (e := e) (ok := ok) (.refl s)
      split
      · exact h ..
      · exact .ite (Keeps.recovery (h ..)) (h ..)
    · exact .stay

theorem kept_escalationBoundExpiry {l p : Nat} : Kept s (execEscalationBoundExpiry l p s) := by
  unfold execEscalationBoundExpiry
  split
  · split
    · exact .stay
    · exact .next (Keeps.enterLevel5 (.refl s))
  · split
    · exact .stay
    · exact .ite (.next (Keeps.enterLevel4 (.refl s))) .stay
  · split
    · exact .stay
    · split
      · exact .ite .stay (.ite (.next (Keeps.expireCut (.refl s))) (.next (Keeps.enterLevel3 (.refl s))))
      · exact .stay
  · split
    · exact .stay
    · split
      · exact .stay
      · exact .ite (.next (Keeps.expireCut (.refl s))) .stay
  · exact .stay

theorem kept_engineReset {p : Nat} : Kept s (execEngineReset p s) := by
  unfold execEngineReset
  split
  · exact .stay
  · split
    · exact .ite .stay (.next (Keeps.recovery (Keeps.modCtx (Keeps.modStages (.refl s) fun _ hs => memWf_engineReset hs))))
    · exact .stay

/-- The stages of a list reset and their splices restarted. -/
theorem Keeps.resetStages (h : s.Keeps t) {l : List Nat} {f : Stage → Nat × Nat} :
    s.Keeps (l.foldl (fun t n => (t.modStage n (fun st => st.logicReset (f st).1 (f st).2)).restartSplices n) t) :=
  State.Keeps.fold (fun _ _ k => Keeps.restartSplices (Keeps.modStage k fun _ hs => memWf_logicReset hs _ _)) l h

theorem kept_partitionReset {p : Nat} {ok : Bool} : Kept s (execPartitionReset p ok s) := by
  unfold execPartitionReset
  split
  · exact .stay
  · rename_i c _
    split
    · exact .stay
    · refine .ite .stay (.next (Keeps.freeWaits (Keeps.recovery (Keeps.freePart ?_))))
      have h2 := fun r l => Keeps.resetStages (l := l) (f := fun st => (c.tau st, c.reel.floor))
        (Keeps.hangTest (c := c) (Keeps.takeDump (p := p) (r := r) (l := 3) (.refl s)))
      have h4 := fun r l => State.Keeps.fold (f := State.releaseNow) (fun _ _ k => Keeps.releaseNow k) l
        (Keeps.holdBroken (p := some p) (h2 r l))
      split
      · exact h4 ..
      · exact Keeps.endRecords (h4 ..)

theorem kept_chipComputeReset {us : List UnitId} {ok : Bool} : Kept s (execChipComputeReset us ok s) := by
  unfold execChipComputeReset
  split
  · exact .stay
  · refine .next (Keeps.recovery (State.Keeps.same (Keeps.freeAll (State.Keeps.fold (fun _ _ k => Keeps.freeWaits k) _
      (Keeps.recordContexts (State.Keeps.fold (fun _ _ k => ?release) _ (State.Keeps.fold (fun _ _ k => Keeps.resetFails k) _
        (State.Keeps.fold (fun _ _ k => ?reset) _ (Keeps.dumpLevels (.refl s))))))))))
    case release =>
      split
      · exact k
      · exact .ite (Keeps.releaseNow k) k
    case reset =>
      have h : ∀ n (a : Stage → Nat) b, s.Keeps (State.modStage _ n (fun st => st.logicReset (a st) b)) := fun _ _ _ =>
        Keeps.modStage k fun _ hs => memWf_logicReset hs _ _
      dsimp only
      split
      · exact h ..
      · exact .ite (Keeps.restartSplices (h ..)) (h ..)

theorem kept_powerCycleRequest {a b : Bool} : Kept s (execPowerCycleRequest a b s) := by
  unfold execPowerCycleRequest
  split
  · exact .stay
  · exact .ite .stay (.next (Keeps.runLevel5 (.refl s)))

/-! ### The time base -/

theorem kept_hourCount : Kept s (execHourCount s) := by
  refine .ite .stay (.next ⟨rfl, rfl, rfl, fun i => ⟨?memory, (List.length_map ..).trans i.stages, i.parts, i.rails, i.slots,
    i.edges, i.trims, inRange_hourCorr i.corr, i.prev, ?hour, i.limit⟩⟩)
  case memory =>
    intro st hs
    obtain ⟨x, hx, rfl⟩ := List.mem_map.1 hs
    exact memWf_clock (i.memory x hx)
  case hour =>
    have h := i.hour
    dsimp only
    split <;> omega

theorem kept_bootCalibrationComplete {h : List (Nat × List Nat)} : Kept s (execBootCalibrationComplete h s) :=
  .ite (.next (Keeps.calRecord (State.Keeps.refl s).same)) .stay

theorem kept_calibrationCollectionComplete {h : List (Nat × List Nat)} :
    Kept s (execCalibrationCollectionComplete h s) := by
  unfold execCalibrationCollectionComplete
  split
  · exact .stay
  · exact .next (Keeps.calRecord (State.Keeps.refl s).same)

theorem kept_calibrationAbandon : Kept s (execCalibrationAbandon s) := by
  unfold execCalibrationAbandon
  split
  · exact .stay
  · exact .next (Keeps.calRecord (State.Keeps.refl s).same)

theorem kept_gateArm : Kept s (execGateArm s) := .ite .stay (.next (State.Keeps.refl s).same)

theorem kept_intervalInputEdge {i k : Nat} : Kept s (execIntervalInputEdge i k s) :=
  .ite .stay (.next (Keeps.inputEdge (.refl s)))

theorem kept_ppsEdge {f : Bool} {w b k : Nat} : Kept s (execPpsEdge f w b k s) := by
  have h : ∀ i, s.Keeps (if s.pins.bootDone then s.inputEdge 8 i else s) := fun _ =>
    .ite (Keeps.inputEdge (.refl s)) (.refl s)
  exact .ite .stay (.ite (.next (Keeps.ppsTake (h _))) (.next (h _)))

theorem kept_disciplineLock : Kept s (execDisciplineLock s) :=
  .ite (.next (Keeps.discipline (State.Keeps.refl s).same)) .stay

theorem kept_ppsOutlierLoss : Kept s (execPpsOutlierLoss s) := .ite (.next (Keeps.losePps (.refl s))) .stay

theorem kept_ppsLoss : Kept s (execPpsLoss s) := .ite (.next (Keeps.losePps (.refl s))) .stay

theorem kept_disciplineRangeExceeded : Kept s (execDisciplineRangeExceeded s) :=
  .ite (.next (Keeps.errorEvent (Keeps.discipline (State.Keeps.refl s).same))) .stay

/-! ### Ring time -/

theorem Keeps.sendSync (h : s.Keeps t) {rp : RingPort} {x : Nat} : s.Keeps (t.sendSync rp x) := by
  unfold State.sendSync
  exact Keeps.modRing (Keeps.sendPtp (Keeps.sendPtp h))

theorem kept_syncSend {rp : RingPort} {e k : Nat} : Kept s (execSyncSend rp e k s) :=
  .ite (.next (Keeps.sendSync (.refl s))) .stay

theorem kept_syncReceived {rp : RingPort} {a b : List Byte} {e k f g : Nat} : Kept s (execSyncReceived rp a b e k f g s) := by
  refine .ite .stay ?_
  split
  · exact .next (Keeps.countDiscards (.refl s))
  · exact .ite (.ite .stay (.next (Keeps.discipline (.refl s)))) (.ite (.next (Keeps.takeSync (.refl s))) .stay)

theorem kept_delayReqReceived {rp : RingPort} {a : List Byte} {e k : Nat} : Kept s (execDelayReqReceived rp a e k s) := by
  refine .ite .stay (.ite (.next (Keeps.countDiscards (.refl s))) ?_)
  split
  · exact .stay
  · exact .ite (.next (Keeps.answerDelay (.refl s))) .stay

theorem kept_delayRespReceived {rp : RingPort} {a : List Byte} : Kept s (execDelayRespReceived rp a s) := by
  refine .ite .stay (.ite (.next (Keeps.countDiscards (.refl s))) ?_)
  split
  · exact .ite (.next (Keeps.exchange (.refl s))) .stay
  · exact .stay

theorem kept_slaveAcquire : Kept s (execSlaveAcquire s) := by
  have h : ∀ v, s.Keeps { s with time := { s.time with slave := v } } := fun _ => Keeps.slave (.refl s)
  exact .ite .stay (.ite (.next (h _)) (.ite (.next (Keeps.stepTime (h _))) (.ite (.next (Keeps.slave (h _)))
    (.ite (.next (h _)) (.next (Keeps.discipline (Keeps.slaveHold (Keeps.slave (h _)))))))))

theorem kept_slaveLock : Kept s (execSlaveLock s) := by
  unfold execSlaveLock
  dsimp only
  split
  · exact .stay
  · exact .ite (.next (Keeps.discipline (State.Keeps.refl s).same)) .stay

theorem kept_slaveHoldover : Kept s (execSlaveHoldover s) :=
  .ite (.next (Keeps.discipline (Keeps.slaveHold (Keeps.slave (.refl s))))) .stay

theorem kept_waferTimeStep : Kept s (execWaferTimeStep s) := by
  unfold execWaferTimeStep
  split
  · exact .stay
  · exact .ite (.next (.ite (Keeps.stepTime (.refl s)) (Keeps.waitStep (.refl s)))) .stay

theorem kept_tickInEdge {e k : Nat} : Kept s (execTickInEdge e k s) := by
  unfold execTickInEdge
  split
  · exact .stay
  · exact .ite .stay (.next (Keeps.chainEdge (.refl s)))

/-! ### The ring -/

theorem kept_statusFrameSend {rp : RingPort} : Kept s (execStatusFrameSend rp s) :=
  .ite .stay (.next (Keeps.ringSend (.refl s)))

theorem kept_statusFrameReceived {rp : RingPort} {a : List Byte} : Kept s (execStatusFrameReceived rp a s) := by
  refine .ite .stay ?_
  split
  · exact .next (Keeps.takeStatus (.refl s))
  · exact .next (Keeps.countDiscards (.refl s))

theorem kept_ringFrameCrcFail {rp : RingPort} {a : List Byte} : Kept s (execRingFrameCrcFail rp a s) :=
  .ite .stay (.next (Keeps.countDiscards (.refl s)))

theorem kept_ringPortUp {rp : RingPort} : Kept s (execRingPortUp rp s) :=
  .ite .stay (.ite (.next (Keeps.failRing (.refl s))) (.next (Keeps.modRing (.refl s))))

theorem kept_ringPartnerLost {rp : RingPort} : Kept s (execRingPartnerLost rp s) :=
  .ite .stay (.next (Keeps.modRing (.refl s)))

theorem kept_ringLaneSuspect {rp : RingPort} {l : Nat} : Kept s (execRingLaneSuspect rp l s) := by
  have h : s.Keeps ((s.ringEvent rp (some (.ringLane rp l))).joinTest (.ringLane rp l) 0x16 .free) :=
    Keeps.joinTest (Keeps.ringEvent (.refl s))
  exact .ite .stay (.ite (.next (Keeps.requestMap (Keeps.modRing h))) (.next (.ite (Keeps.failRing (Keeps.classify h))
    (Keeps.classify h))))

theorem kept_ringLaneTestComplete {rp : RingPort} {l e : Nat} : Kept s (execRingLaneTestComplete rp l e s) := by
  have h : ∀ f, s.Keeps ((s.classify (.ringLane rp l) (decide (1 < e))).modRing rp f) := fun _ =>
    Keeps.modRing (Keeps.classify (.refl s))
  exact .ite .stay (.ite (.next (h _)) (.next (Keeps.requestMap (h _))))

theorem kept_ringMapExchange {rp : RingPort} : Kept s (execRingMapExchange rp s) := by
  unfold execRingMapExchange
  dsimp only
  split
  · exact .stay
  · exact .ite .stay (.next (Keeps.modRing (.refl s)))

theorem kept_ringPortFailed {rp : RingPort} : Kept s (execRingPortFailed rp s) :=
  .ite .stay (.next (Keeps.failRing (.refl s)))

/-! ### Shots -/

theorem kept_eof {n : Nat} {f : EofFields} {k : Option Nat} : Kept s (execEof n f k s) :=
  .next (Keeps.sequence (.refl s) fun _ _ _ hi => .ite (.refl s) (.ite (Keeps.scriptError (.refl s))
    (Keeps.restage (.refl s) (issuer_stage hi))))

theorem kept_repeat {n : Nat} {b : BitVec 8} {c : BitVec 12} {d : BitVec 16} : Kept s (execRepeat n b c d s) :=
  .next (Keeps.sequence (.refl s) fun _ _ _ _ => .ite (Keeps.scriptError (.refl s)) (Keeps.sequenced (.refl s)))

theorem kept_inca {n : Nat} {r : BitVec 4} {d : BitVec 16} : Kept s (execInca n r d s) :=
  .next (Keeps.sequence (.refl s) fun _ _ _ _ => .ite (Keeps.failStageCtx (.refl s)) (Keeps.sequenced (.refl s)))

theorem kept_step {n : Nat} {c : BitVec 4} : Kept s (execStep n c s) :=
  .next (Keeps.sequence (.refl s) fun _ _ _ _ => .ite (.refl s) (.ite (Keeps.scriptError (.refl s))
    (.ite (Keeps.failStageCtx (.refl s)) (Keeps.sequenced (Keeps.modCtx (.refl s))))))

theorem kept_runaheadStart {n : Nat} : Kept s (execRunaheadStart n s) := by
  unfold execRunaheadStart
  split
  · split
    · exact .stay
    · refine .ite (.next (Keeps.putStage (.refl s) fun hm => ?_)) .stay
      obtain ⟨h1, -, -, h4⟩ := memWf_iff.1 (stage_memWf ‹_› hm)
      exact memWf_iff.2 ⟨h1, rfl, rfl, h4⟩
  · exact .stay

theorem kept_sigt {n : Nat} {r : BitVec 3} {c : BitVec 4} {k : BitVec 5} {i : BitVec 16} :
    Kept s (execSigt n r c k i s) :=
  .next (Keeps.sequence (.refl s) fun _ _ _ _ => .ite (Keeps.scriptError (.refl s)) (.ite (.refl s)
    (.ite (Keeps.sequenced (Keeps.sendFlit (.refl s))) (.ite (Keeps.failStageCtx (.refl s)) (Keeps.sequenced (.refl s))))))

theorem kept_waitt {n : Nat} {k : BitVec 5} {c : BitVec 16} : Kept s (execWaitt n k c s) :=
  .next (Keeps.sequence (.refl s) fun _ _ _ _ => .ite (.refl s) (Keeps.sequenced (.refl s)))

theorem kept_tokenSignalArrival {n : Nat} {k : BitVec 5} {i f : BitVec 16} {x : BitVec 4} :
    Kept s (execTokenSignalArrival n k i f x s) := by
  unfold execTokenSignalArrival
  split
  · exact .stay
  · have h : ∀ o, s.Keeps { s with spineOut := o } := fun _ => (State.Keeps.refl s).same
    exact .ite (.next (h _)) (.next (Keeps.takeSignal (h _)))

theorem kept_send {n : Nat} {f : SpliceFields} : Kept s (execSend n f s) := by
  refine .ite .stay (.next (Keeps.issueTo (.refl s) ?_))
  intro q c st a x hw hx
  obtain ⟨r, -, rfl⟩ := Option.map_eq_some_iff.1 hx
  exact memWf_modLink hw _ _

theorem kept_recv {n : Nat} {f : SpliceFields} : Kept s (execRecv n f s) := by
  refine .ite .stay (.next (Keeps.drainRecv (Keeps.issueTo (.refl s) ?_)))
  intro q c st a x hw hx
  cases hx
  exact hw

theorem kept_commit {n : Nat} {e : BitVec 12} {r : BitVec 4} {a b : Bool} : Kept s (execCommit n e r a b s) := by
  unfold execCommit
  split
  · exact .stay
  · split
    · exact .stay
    · refine .ite .stay (.next (Keeps.issueTo (.refl s) ?_))
      intro q c st a x hw hx
      cases hx
      exact hw

theorem kept_shotRetire {n k : Nat} {ok : Bool} : Kept s (execShotRetire n k ok s) := by
  unfold execShotRetire
  split
  · exact .stay
  · split
    · exact .stay
    · refine .ite .stay (.ite (.next (Keeps.detect (.refl s))) (.next (Keeps.putStage (.refl s) fun hm =>
        memWf_retireShot ?_ _)))
      split
      · exact stage_memWf ‹_› hm
      · exact memWf_copyOut (stage_memWf ‹_› hm) _ _ _

theorem kept_fillb {n : Nat} {e : BitVec 6} {d : BitVec 4} {l : BitVec 16} {p : BitVec 32} :
    Kept s (execFillb n e d l p s) :=
  .next (Keeps.issueTo (.refl s) fillEffect_wf)

/-! ### Splices -/

theorem kept_spliceNakReplay {n : Nat} {d : Side} {e : Bool} : Kept s (execSpliceNakReplay n d e s) := by
  unfold execSpliceNakReplay
  dsimp only
  split
  · exact .stay
  · exact .ite (.next (Keeps.modEnd (.refl s))) .stay

theorem kept_spliceRealign {n : Nat} {d : Side} : Kept s (execSpliceRealign n d s) :=
  .ite (.next (Keeps.modSplice (Keeps.realignSide (Keeps.realignSide (.refl s))))) .stay

theorem kept_spliceLaneTestThreshold {n : Nat} {d : Side} {e : Bool} : Kept s (execSpliceLaneTestThreshold n d e s) := by
  unfold execSpliceLaneTestThreshold
  dsimp only
  split
  · exact .ite (.next (Keeps.noteError (Keeps.errorEvent (Keeps.modSplice (.refl s))))) .stay
  · exact .stay

theorem kept_spliceMapSwitch {n : Nat} {d : Side} {e : Bool} {ls : List (Nat × Nat)} :
    Kept s (execSpliceMapSwitch n d e ls s) := by
  unfold execSpliceMapSwitch
  dsimp only
  split
  · split
    · exact .stay
    · exact .ite .stay (.next (State.Keeps.fold (fun _ _ k => Keeps.laneRetired k) _ (Keeps.dropTest
        (.ite (Keeps.exchangeMap (Keeps.modSplice (.refl s))) (Keeps.modEnd (Keeps.modSplice (.refl s)))))))
  · exact .stay

theorem kept_spliceFailed {n : Nat} {d : Side} {e : Bool} : Kept s (execSpliceFailed n d e s) := by
  unfold execSpliceFailed
  dsimp only
  split
  · exact .ite (.next (Keeps.failSplice (Keeps.dropTest (.refl s)))) .stay
  · exact .stay

theorem kept_spliceTrimAverage {n : Nat} {d : Side} {a b : Rat} : Kept s (execSpliceTrimAverage n d a b s) := by
  unfold execSpliceTrimAverage
  split
  · exact .stay
  · dsimp only
    split
    · exact .stay
    · rename_i m _ _ st hst
      have h : ∀ y x, s.Keeps (s.putStage (follower n m) (st.modLink y (fun _ => x))) := fun _ _ =>
        Keeps.putStage (.refl s) fun hm => memWf_modLink (stage_memWf hst hm) _ _
      exact .ite .stay (.ite (.next (Keeps.noteError (Keeps.errorEvent (h ..)))) (.next (Keeps.checkAligned
        (Keeps.checkAligned (h ..)))))

end Sys2Proof.Machine
end

section
/-! The invariant that every step keeps: the commands together, the step of an empty queue, and the statement. -/

namespace Sys2Proof.Machine

set_option Elab.async false

open Sys2Proof

/-- Every command keeps the queue, the serial, the signing key and the invariant. -/
theorem kept_exec (s : State) (i : Instr) : Kept s (exec i s) := by
  cases i with
  | powerGoodRise => exact kept_powerGoodRise
  | powerGoodFall => exact kept_powerGoodFall
  | resetAssert => exact kept_resetAssert
  | resetRelease => exact kept_resetRelease
  | referencePllLock => exact kept_referencePllLock
  | referenceLockTimeout => exact kept_referenceLockTimeout
  | referenceFault => exact kept_referenceFault
  | supervisorMismatch => exact kept_supervisorMismatch
  | strapRead => exact kept_strapRead
  | meshTrimBoot => exact kept_meshTrimBoot
  | meshTrimUpdate => exact kept_meshTrimUpdate
  | carrierFlashBootRead => exact kept_carrierFlashBootRead
  | dailiesBootCopy => exact kept_dailiesBootCopy
  | bootStageBist => exact kept_bootStageBist
  | bootEnd => exact kept_bootEnd
  | dailiesAreaErase => exact kept_dailiesAreaErase
  | slateRequest => exact kept_slateRequest
  | slateRelease => exact kept_slateRelease
  | slateHeartbeat => exact kept_slateHeartbeat
  | slateRevocation => exact kept_slateRevocation
  | slateReeligible => exact kept_slateReeligible
  | capCodeAccept => exact kept_capCodeAccept
  | capCrossingError => exact kept_capCrossingError
  | cmdIdle => exact kept_cmdIdle
  | cmdCutAll => exact kept_cmdCutAll
  | cmdPark => exact kept_cmdPark
  | cmdUnpark => exact kept_cmdUnpark
  | cmdChipComputeReset => exact kept_cmdChipComputeReset
  | cmdDumpPowerCycle => exact kept_cmdDumpPowerCycle
  | cmdRediscipline => exact kept_cmdRediscipline
  | cmdCalibrateNow => exact kept_cmdCalibrateNow
  | cmdStrobeFall => exact kept_cmdStrobeFall
  | cmdCrossingError => exact kept_cmdCrossingError
  | coolantStop => exact kept_coolantStop
  | coolantGlitch => exact kept_coolantGlitch
  | temperatureReading => exact kept_temperatureReading
  | thermWarnDeassert => exact kept_thermWarnDeassert
  | tick => exact kept_tick
  | commitCutoff => exact kept_commitCutoff
  | idleCountExpiry => exact kept_idleCountExpiry
  | unassignedCountExpiry => exact kept_unassignedCountExpiry
  | stageRelease => exact kept_stageRelease
  | releaseComplete => exact kept_releaseComplete
  | lightsOutHandshake => exact kept_lightsOutHandshake
  | lightsOutRequestReceived => exact kept_lightsOutRequestReceived
  | lightsOnHandshake => exact kept_lightsOnHandshake
  | lightsOnRequestReceived => exact kept_lightsOnRequestReceived
  | crossingTimeout => exact kept_crossingTimeout
  | doubleSampleFailure => exact kept_doubleSampleFailure
  | stagePowerUp => exact kept_stagePowerUp
  | stageReady => exact kept_stageReady
  | powerSwitchRampFailure => exact kept_powerSwitchRampFailure
  | powerSwitchRetry => exact kept_powerSwitchRetry
  | submit => exact kept_submit
  | submissionDescriptorFetched => exact kept_submissionDescriptorFetched
  | cutWord => exact kept_cutWord
  | bind => exact kept_bind
  | bindDescriptorFetched => exact kept_bindDescriptorFetched
  | consumed => exact kept_consumed
  | unbind => exact kept_unbind
  | mailboxWriteMalformed => exact kept_mailboxWriteMalformed
  | bar0WriteBeforeBootEnd => exact .stay
  | hostPortReset => exact .next (Keeps.modPort (.refl s))
  | hostLinkError => exact kept_hostLinkError
  | hostPortReturn => exact kept_hostPortReturn
  | loadCheckStart => exact kept_loadCheckStart
  | loadCheckReadComplete => exact kept_loadCheckReadComplete
  | acceptanceStep => exact kept_acceptanceStep
  | reelLoad => exact kept_reelLoad
  | reelLoadComplete => exact kept_reelLoadComplete
  | loadTimeout => exact kept_loadTimeout
  | recordAtPortHead => exact kept_recordAtPortHead
  | recordQueueDrop => exact .next (Keeps.modPort (.refl s))
  | producerWordWrite => exact kept_producerWordWrite
  | msixRecordVector => exact kept_msixRecordVector
  | outputWritesComplete => exact kept_outputWritesComplete
  | gafferUpdate => exact kept_gafferUpdate
  | capUnattainable => exact kept_capUnattainable
  | issueLimitReceived => exact kept_issueLimitReceived
  | senseSweep => exact kept_senseSweep
  | senseSweepComplete => exact kept_senseSweepComplete
  | gainClampOrSenseMissing => exact kept_gainClampOrSenseMissing
  | railRecheck => exact kept_railRecheck
  | railRecheckComplete => exact kept_railRecheckComplete
  | slackToVolts => exact kept_slackToVolts
  | avsbusWriteFailed => exact kept_avsbusWriteFailed
  | droopTrip => exact kept_droopTrip
  | droopClear => exact kept_droopClear
  | haltEnd => exact kept_haltEnd
  | persistentDroop => exact kept_persistentDroop
  | droopOverrunLimit => exact kept_droopOverrunLimit
  | noticeAssert => exact kept_noticeAssert
  | spliceRealign => exact kept_spliceRealign
  | spliceBeatReceived => exact .next (Keeps.beat (.refl s))
  | spliceNakReplay => exact kept_spliceNakReplay
  | spliceLaneTestThreshold => exact kept_spliceLaneTestThreshold
  | spliceMapSwitch => exact kept_spliceMapSwitch
  | spliceFailed => exact kept_spliceFailed
  | spliceTrimAverage => exact kept_spliceTrimAverage
  | thinMargin => exact kept_thinMargin
  | coreRetuneLock => exact kept_coreRetuneLock
  | coreLockLost => exact kept_coreLockLost
  | fmaxDerate => exact kept_fmaxDerate
  | ledgerWrite => exact kept_ledgerWrite
  | stepAccepted => exact kept_stepAccepted
  | stepBroadcastReceived => exact kept_stepBroadcastReceived
  | shotRetire => exact kept_shotRetire
  | nop => exact .next (Keeps.sequence (.refl s) fun _ _ _ _ => Keeps.sequenced (.refl s))
  | runahead => exact .next (Keeps.sequence (.refl s) fun _ _ _ _ => Keeps.sequenced (.refl s))
  | runaheadStart => exact kept_runaheadStart
  | eof => exact kept_eof
  | repeat_ => exact kept_repeat
  | seta => exact .next (Keeps.sequence (.refl s) fun _ _ _ _ => Keeps.sequenced (.refl s))
  | inca => exact kept_inca
  | step => exact kept_step
  | trace => exact .next (Keeps.sequence (.refl s) fun _ _ _ _ => Keeps.sequenced (Keeps.traceAt (.refl s)))
  | mma => exact .next (Keeps.issueTo (.refl s) mmaEffect_wf)
  | accld => exact .next (Keeps.issueTo (.refl s) loadEffect_wf)
  | accst => exact .next (Keeps.issueTo (.refl s) storeEffect_wf)
  | accadd => exact .next (Keeps.issueTo (.refl s) addEffect_wf)
  | accz => exact .next (Keeps.issueTo (.refl s) zeroEffect_wf)
  | movb => exact .next (Keeps.issueTo (.refl s) moveEffect_wf)
  | fillb => exact kept_fillb
  | cvtb => exact .next (Keeps.issueTo (.refl s) cvtEffect_wf)
  | vadd => exact .next (Keeps.vector (.refl s))
  | vsub => exact .next (Keeps.vector (.refl s))
  | vmul => exact .next (Keeps.vector (.refl s))
  | vfma => exact .next (Keeps.vector (.refl s))
  | vdiv => exact .next (Keeps.vector (.refl s))
  | vsqrt => exact .next (Keeps.vector (.refl s))
  | vmax => exact .next (Keeps.vector (.refl s))
  | vmin => exact .next (Keeps.vector (.refl s))
  | vabs => exact .next (Keeps.vector (.refl s))
  | vneg => exact .next (Keeps.vector (.refl s))
  | vrelu => exact .next (Keeps.vector (.refl s))
  | vmov => exact .next (Keeps.vector (.refl s))
  | vrsum => exact .next (Keeps.vector (.refl s))
  | vcsum => exact .next (Keeps.vector (.refl s))
  | vscal => exact .next (Keeps.vector (.refl s))
  | vaddi => exact .next (Keeps.vector (.refl s))
  | vfill => exact .next (Keeps.vector (.refl s))
  | send => exact kept_send
  | recv => exact kept_recv
  | sigt => exact kept_sigt
  | waitt => exact kept_waitt
  | commit => exact kept_commit
  | tokenSignalArrival => exact kept_tokenSignalArrival
  | scriptStoreUncorrectable => exact kept_scriptStoreUncorrectable
  | bankUncorrectable => exact kept_bankUncorrectable
  | prefetchSquashError => exact kept_prefetchSquashError
  | columnDetector => exact kept_columnDetector
  | cellTracker => exact kept_cellTracker
  | errorEventReceived => exact kept_errorEventReceived
  | rollbackAbort => exact kept_rollbackAbort
  | rollbackComplete => exact kept_rollbackComplete
  | retakeLimit => exact kept_retakeLimit
  | selfTestComplete => exact kept_selfTestComplete
  | substitution => exact kept_substitution
  | substitutionCopyComplete => exact kept_substitutionCopyComplete
  | scriptBlockReload => exact kept_scriptBlockReload
  | hang => exact kept_hang
  | ringStall => exact kept_ringStall
  | cutAccept => exact .next (Keeps.acceptCut (.refl s))
  | cutTick => exact kept_cutTick
  | cutNotice => exact kept_cutNotice
  | cutStopped => exact kept_cutStopped
  | cutComplete => exact kept_cutComplete
  | stageDump => exact kept_stageDump
  | escalationBoundExpiry => exact kept_escalationBoundExpiry
  | engineReset => exact kept_engineReset
  | partitionReset => exact kept_partitionReset
  | chipComputeReset => exact kept_chipComputeReset
  | powerCycleRequest => exact kept_powerCycleRequest
  | hourCount => exact kept_hourCount
  | bootCalibrationComplete => exact kept_bootCalibrationComplete
  | calibrationCollectionComplete => exact kept_calibrationCollectionComplete
  | calibrationAbandon => exact kept_calibrationAbandon
  | gateArm => exact kept_gateArm
  | intervalInputEdge => exact kept_intervalInputEdge
  | measurementClose => exact .next (Keeps.closeMeasure (.refl s))
  | measurementTimeout => exact .next (Keeps.closeMeasure (.refl s))
  | ppsEdge => exact kept_ppsEdge
  | disciplineLock => exact kept_disciplineLock
  | ppsOutlierLoss => exact kept_ppsOutlierLoss
  | ppsLoss => exact kept_ppsLoss
  | disciplineRangeExceeded => exact kept_disciplineRangeExceeded
  | syncSend => exact kept_syncSend
  | syncReceived => exact kept_syncReceived
  | delayReqReceived => exact kept_delayReqReceived
  | delayRespReceived => exact kept_delayRespReceived
  | slaveAcquire => exact kept_slaveAcquire
  | slaveLock => exact kept_slaveLock
  | slaveHoldover => exact kept_slaveHoldover
  | waferTimeStep => exact kept_waferTimeStep
  | tickInEdge => exact kept_tickInEdge
  | statusFrameSend => exact kept_statusFrameSend
  | statusFrameReceived => exact kept_statusFrameReceived
  | ringFrameCrcFail => exact kept_ringFrameCrcFail
  | ringPortUp => exact kept_ringPortUp
  | ringLaneSuspect => exact kept_ringLaneSuspect
  | ringLaneTestComplete => exact kept_ringLaneTestComplete
  | ringMapExchange => exact kept_ringMapExchange
  | ringPortFailed => exact kept_ringPortFailed
  | spineFlitCrcFail => exact kept_spineFlitCrcFail
  | spineSegmentFailed => exact kept_spineSegmentFailed
  | spineFlitAtSink => exact kept_spineFlitAtSink
  | rqToUnlitStage => exact kept_rqToUnlitStage
  | jtagExtest => exact .next (State.Keeps.refl s).same
  | jtagSamplePreload => exact .next (State.Keeps.refl s).same
  | jtagIdcode => exact .next (State.Keeps.refl s).same
  | jtagBypass => exact .ite .stay (.next (State.Keeps.refl s).same)
  | d3hotEntry => exact kept_d3hotEntry
  | ringPartnerLost => exact kept_ringPartnerLost

/-- The idle step keeps them too (R225). -/
theorem Keeps.idle (s : State) : s.Keeps (idle s) := .ite (Keeps.advance (.refl s)) (.refl s)

/-- Settles O60: a command runs on the state with the queue's rest, which meets the invariant as well, and keeps all four;
the step of an empty queue does so too. -/
theorem everyStepKeepsTheInvariant : Obligations.EveryStepKeepsTheInvariant := by
  intro s t hinv hstep
  unfold step at hstep
  split at hstep
  · rename_i hq
    cases hstep
    have h := Keeps.idle s
    exact ⟨h.inv hinv, h.serial, h.key, by rw [h.queue, hq]; rfl⟩
  · rename_i c rest hq
    have hrest : State.Inv { s with pending := rest } := ⟨hinv.memory, hinv.stages, hinv.parts, hinv.rails, hinv.slots,
      hinv.edges, hinv.trims, hinv.corr, hinv.prev, hinv.hour, hinv.limit⟩
    have h := kept_exec { s with pending := rest } c t hstep
    exact ⟨h.inv hrest, h.serial, h.key, by rw [h.queue, hq]; rfl⟩

end Sys2Proof.Machine
end

section
/-! What the shared operations leave alone: relations "a state is another one but for these parts", each reflexive and
transitive, and the operations on contexts, records and stages that keep to them. -/

namespace Sys2Proof.Machine

set_option Elab.async false

open Sys2Proof

variable {s t u : State}

/-! ### Folds -/

/-- A fold of steps each of which is in a reflexive and transitive relation is in it. -/
theorem foldl_rel {α σ : Type} {r : σ → σ → Prop} (hr : ∀ a, r a a) (ht : ∀ {a b c}, r a b → r b c → r a c)
    {f : σ → α → σ} (hf : ∀ a x, r a (f a x)) (l : List α) (a : σ) : r a (l.foldl f a) := by
  induction l generalizing a with
  | nil => exact hr a
  | cons x l ih => exact ht (hf a x) (ih (f a x))

/-! ### Records and contexts -/

/-- A state with the records, the contexts and the stages of another: what the end of contexts may change. -/
def State.contextsOf (s t : State) : State := { s.recordsOf t with stages := t.stages, parts := t.parts }

theorem State.contextsOf_refl (s : State) : s = s.contextsOf s := rfl

theorem State.contextsOf_trans (h : t = s.contextsOf t) (k : u = t.contextsOf u) : u = s.contextsOf u := by
  rw [k, h]; rfl

theorem State.contextsOf_of_recordsOf (h : t = s.recordsOf t) : t = s.contextsOf t := by rw [h]; rfl

/-- A fold of operations that change records, contexts and stages alone. -/
theorem State.contextsOf_foldl {α : Type} {f : State → α → State} (hf : ∀ t x, f t x = t.contextsOf (f t x)) (l : List α)
    (s : State) : l.foldl f s = s.contextsOf (l.foldl f s) :=
  foldl_rel (r := fun s t => t = s.contextsOf t) State.contextsOf_refl State.contextsOf_trans hf l s

theorem State.contextsOf_ite {c : Prop} [Decidable c] (h : t = s.contextsOf t) (k : u = s.contextsOf u) :
    (if c then t else u) = s.contextsOf (if c then t else u) := by split <;> assumption

theorem State.log_frame (s : State) (k : Nat) (b : List Byte) : s.log k b = s.recordsOf (s.log k b) := s.logEntry_frame ..

theorem State.recovery_frame (s : State) (l : Level) (o : Nat) (m : BitVec 8) :
    s.recovery l o m = s.recordsOf (s.recovery l o m) := rfl

theorem State.modCtx_contextsOf (s : State) (p : Nat) (f : Ctx → Ctx) : s.modCtx p f = s.contextsOf (s.modCtx p f) := rfl

theorem State.modStages_contextsOf (s : State) (ns : List Nat) (f : Stage → Stage) :
    s.modStages ns f = s.contextsOf (s.modStages ns f) :=
  State.contextsOf_foldl (fun _ _ => rfl) ns s

theorem State.modPort_recordsOf (s : State) (p : Port) (f : HostPort → HostPort) :
    s.modPort p f = s.recordsOf (s.modPort p f) := by cases p <;> rfl

theorem State.keepLate_contextsOf (s : State) (p : Nat) : s.keepLate p = s.contextsOf (s.keepLate p) := by
  unfold State.keepLate
  split
  · rfl
  · exact State.contextsOf_foldl (fun t q => State.contextsOf_of_recordsOf (t.modPort_recordsOf ..)) _ s

theorem State.endRecord_frame (s : State) (p : Nat) (c : Ctx) (e : Ended) :
    s.endRecord p c e = s.recordsOf (s.endRecord p c e) := by
  unfold State.endRecord; split <;> exact s.emit_frame ..

theorem State.supersede_contextsOf (s : State) : s.supersede = s.contextsOf s.supersede := by
  refine State.contextsOf_foldl (fun t p => ?_) _ s
  split
  · rfl
  · split
    · rfl
    · exact State.contextsOf_trans (State.contextsOf_of_recordsOf (t.recovery_frame ..)) (State.modCtx_contextsOf ..)

theorem State.giveWay_contextsOf (s : State) (m : BitVec 8) : s.giveWay m = s.contextsOf (s.giveWay m) := by
  unfold State.giveWay
  split
  · rfl
  · exact State.contextsOf_of_recordsOf (s.recovery_frame ..)

theorem State.endAllNow_contextsOf (s : State) (k : Nat) : s.endAllNow k = s.contextsOf (s.endAllNow k) := by
  refine State.contextsOf_foldl (fun t p => ?_) _ s
  dsimp only
  split
  · rfl
  · refine State.contextsOf_trans ?_ (State.contextsOf_trans (State.keepLate_contextsOf ..)
      (State.contextsOf_trans (State.modStages_contextsOf ..) rfl))
    split
    · rfl
    · exact State.contextsOf_of_recordsOf (t.endRecord_frame ..)

/-- A dailies copy changes the dailies and carrier flash alone (R508). -/
theorem State.copyDailies_frame (s : State) (ok : Bool) :
    s.copyDailies ok = { s with dailies := (s.copyDailies ok).dailies, flash := (s.copyDailies ok).flash } := by
  unfold State.copyDailies; split <;> rfl

/-- A ledger write changes carrier flash alone (R146). -/
theorem State.saveLedger_frame (s : State) : s.saveLedger = { s with flash := s.saveLedger.flash } := by
  unfold State.saveLedger
  dsimp only
  split <;> rfl

/-! ### The end of every context with its records -/

/-- A state with the contexts, records, carrier flash and wrap chain of another: what ending records may change. -/
def State.endingOf (s t : State) : State := { s.contextsOf t with flash := t.flash, chain := t.chain }

theorem State.endingOf_refl (s : State) : s = s.endingOf s := rfl

theorem State.endingOf_trans (h : t = s.endingOf t) (k : u = t.endingOf u) : u = s.endingOf u := by
  rw [k, h]; rfl

theorem State.endingOf_of_contextsOf (h : t = s.contextsOf t) : t = s.endingOf t := by rw [h]; rfl

theorem State.endRecords_endingOf (s : State) (p : Nat) (c : Ctx) (e : Ended) (ok : Bool) :
    s.endRecords p c e ok = s.endingOf (s.endRecords p c e ok) :=
  State.endingOf_trans (State.endingOf_of_contextsOf (State.contextsOf_of_recordsOf (s.endRecord_frame p c e))) rfl

theorem State.endingOf_foldl {α : Type} {f : State → α → State} (hf : ∀ t x, f t x = t.endingOf (f t x)) (l : List α)
    (s : State) : l.foldl f s = s.endingOf (l.foldl f s) :=
  foldl_rel (r := fun s t => t = s.endingOf t) State.endingOf_refl State.endingOf_trans hf l s

theorem State.noteConcurrency_endingOf (s : State) : s.noteConcurrency = s.endingOf s.noteConcurrency := rfl

theorem State.modCtx_endingOf (s : State) (p : Nat) (f : Ctx → Ctx) : s.modCtx p f = s.endingOf (s.modCtx p f) := rfl

theorem State.recordContexts_endingOf (s : State) (ok : Bool) : s.recordContexts ok = s.endingOf (s.recordContexts ok) := by
  refine State.endingOf_trans s.noteConcurrency_endingOf (State.endingOf_foldl (fun t p => ?_) _ _)
  dsimp only
  split
  · rfl
  · split
    · rfl
    · exact State.endingOf_trans (t.endRecords_endingOf ..) (State.modCtx_endingOf ..)

theorem State.takeDump_contextsOf (s : State) (p : Nat) (r : DumpReads) (l : Nat) :
    s.takeDump p r l = s.contextsOf (s.takeDump p r l) := by
  have h : ∀ d k c e b, State.logEntry { s with dailies := d } k c e b =
      s.contextsOf (State.logEntry { s with dailies := d } k c e b) := fun _ _ _ _ _ => rfl
  unfold State.takeDump
  split
  · rfl
  · split
    · rfl
    · split
      · rfl
      · split
        · rfl
        · exact State.contextsOf_ite (h ..) (h ..)

theorem State.dumpLevels_contextsOf (s : State) (l : Nat) : s.dumpLevels l = s.contextsOf (s.dumpLevels l) := by
  refine State.contextsOf_foldl (fun t p => ?_) _ s
  split
  · rfl
  · split
    · rfl
    · exact t.takeDump_contextsOf ..

theorem State.dropAll_contextsOf (s : State) : s.dropAll = s.contextsOf s.dropAll := rfl

theorem State.stopContexts_contextsOf (s : State) (k : Nat) : s.stopContexts k = s.contextsOf (s.stopContexts k) := rfl

theorem State.freeAll_contextsOf (s : State) : s.freeAll = s.contextsOf s.freeAll :=
  State.contextsOf_trans (State.contextsOf_foldl (fun t p => t.keepLate_contextsOf p) _ s) (State.dropAll_contextsOf _)

/-- After every partition is freed no context exists (R387). -/
theorem State.freeAll_parts (s : State) : ∀ c ∈ s.freeAll.parts, c = none := by
  intro c hc
  obtain ⟨x, -, rfl⟩ := List.mem_map.1 hc
  rfl

/-- The power-cycle request changes records, carrier flash and its own pin alone (R148, R498). -/
theorem State.powerCycleReq_frame (s : State) (a n : Nat) (w : Word) (m : BitVec 8) :
    s.powerCycleReq a n w m = { s.recordsOf (s.powerCycleReq a n w m) with
      flash := (s.powerCycleReq a n w m).flash, pins := { s.pins with pwrCycleReq := true } } := by
  have h : (if s.ledgerRead then s.saveLedger else s) =
      { s with flash := (if s.ledgerRead then s.saveLedger else s).flash } := by
    split
    · exact s.saveLedger_frame
    · rfl
  unfold State.powerCycleReq
  dsimp only
  rw [h]
  rfl

/-- The levels give way and the named stages are dumped. -/
theorem State.dumpAll_contextsOf (s : State) (l : Nat) (m : BitVec 8) :
    ((s.dumpLevels l).supersede.giveWay m) = s.contextsOf ((s.dumpLevels l).supersede.giveWay m) :=
  State.contextsOf_trans (s.dumpLevels_contextsOf l) (State.contextsOf_trans (State.supersede_contextsOf _)
    (State.giveWay_contextsOf _ m))

/-- Every context ends with its records, and every partition is freed. -/
theorem State.endAll_endingOf (s : State) (k : Nat) (ok : Bool) :
    ((s.stopContexts k).recordContexts ok).freeAll = s.endingOf ((s.stopContexts k).recordContexts ok).freeAll :=
  State.endingOf_trans (State.endingOf_of_contextsOf (s.stopContexts_contextsOf k)) (State.endingOf_trans
    (State.recordContexts_endingOf _ ok) (State.endingOf_of_contextsOf (State.freeAll_contextsOf _)))

/-- Level 5 ends every context, halts issue and requests the power cycle; level 4 is over, and what else it changes are
records, stages, carrier flash and the chain (R503). -/
theorem State.runLevel5_spec (s : State) (a n : Nat) (w : Word) (b c : Bool) :
    s.runLevel5 a n w b c = { s.endingOf (s.runLevel5 a n w b c) with
      pins := { s.pins with issueStopped := true, pwrCycleReq := true }, level4 := none } ∧
    ∀ x ∈ (s.runLevel5 a n w b c).parts, x = none := by
  unfold State.runLevel5
  dsimp only
  have hd := State.dumpAll_contextsOf { s with pins := { s.pins with issueStopped := true } } 5 s.allMask
  generalize (State.dumpLevels { s with pins := { s.pins with issueStopped := true } } 5).supersede.giveWay s.allMask = u at *
  have he := State.endAll_endingOf { u with level4 := none } 0x23 b
  have hp := State.freeAll_parts ((State.stopContexts { u with level4 := none } 0x23).recordContexts b)
  generalize ((State.stopContexts { u with level4 := none } 0x23).recordContexts b).freeAll = v at *
  have hc := v.copyDailies_frame c
  generalize v.copyDailies c = x at *
  have hr := x.powerCycleReq_frame a n w s.allMask
  generalize x.powerCycleReq a n w s.allMask = y at *
  constructor
  · rw [hr, hc, he, hd]; rfl
  · rw [hr, hc]; exact hp

end Sys2Proof.Machine
end

section
/-! Stages of a partition: what changing several of them does to each, and the stages of a rectangle (R38, R385). -/

namespace Sys2Proof.Machine

set_option Elab.async false

open Sys2Proof

variable {s : State} {n : Nat} {st : Stage} {f : Stage → Stage}

/-- Stages that are not named stay (R38). -/
theorem State.stage_modStages_other {ns : List Nat} (h : n ∉ ns) : (s.modStages ns f).stage n = s.stage n := by
  induction ns generalizing s with
  | nil => rfl
  | cons m ns ih =>
    rw [List.mem_cons, not_or] at h
    exact (ih (s := s.modStage m f) h.2).trans (State.stage_modStage_other _ f h.1)

/-- A named stage is changed once. -/
theorem State.stage_modStages {ns : List Nat} (hns : ns.Nodup) (hn : n ∈ ns) (h : s.stage n = some st) :
    (s.modStages ns f).stage n = some (f st) := by
  induction ns generalizing s with
  | nil => cases hn
  | cons m ns ih =>
    rw [List.nodup_cons] at hns
    rcases List.mem_cons.mp hn with rfl | hn
    · exact (State.stage_modStages_other (s := s.modStage n f) hns.1).trans (State.stage_modStage f h)
    · have hne : n ≠ m := fun k => hns.1 (k ▸ hn)
      exact ih (s := s.modStage m f) hns.2 hn ((State.stage_modStage_other _ f hne).trans h)

/-- Changing stages changes the stages alone. -/
theorem State.modStages_frame (s : State) (ns : List Nat) (f : Stage → Stage) :
    s.modStages ns f = { s with stages := (s.modStages ns f).stages } := by
  induction ns generalizing s with
  | nil => rfl
  | cons m ns ih =>
    have h := ih (s.modStage m f)
    exact h

/-- Changing stages depends on the stages alone. -/
theorem State.modStages_stages (s : State) (ns : List Nat) (f : Stage → Stage) :
    (s.modStages ns f).stages = ns.foldl (fun l n => modAt l n f) s.stages := by
  induction ns generalizing s with
  | nil => rfl
  | cons m ns ih => exact ih (s.modStage m f)

/-- Changing stages keeps how many there are. -/
@[simp] theorem State.modStages_length (s : State) (ns : List Nat) (f : Stage → Stage) :
    (s.modStages ns f).stages.length = s.stages.length := by
  induction ns generalizing s with
  | nil => rfl
  | cons m ns ih => exact (ih (s.modStage m f)).trans (length_modAt ..)

/-- A stage whose number is below the count exists. -/
theorem State.stage_of_lt (h : n < s.stages.length) : ∃ st, s.stage n = some st := ⟨_, List.getElem?_eq_getElem h⟩

/-- A stage that exists has a number below the count. -/
theorem State.lt_of_stage (h : s.stage n = some st) : n < s.stages.length := (List.getElem?_eq_some_iff.mp h).1

/-- A stage of a state is one of its stages. -/
theorem State.stage_mem (h : s.stage n = some st) : st ∈ s.stages := List.mem_of_getElem? h

/-- The context of a stage's partition is the stage's context. -/
theorem State.ctxOf_eq {p : Nat} {c : Ctx} (h : s.stage n = some st) (hp : st.part = some p) (hc : s.ctx p = some c) :
    s.ctxOf n = some (p, c) := by simp [State.ctxOf, h, hp, hc]

/-- A stage's context is that of its partition. -/
theorem State.of_ctxOf {p : Nat} {c : Ctx} (h : s.stage n = some st) (hc : s.ctxOf n = some (p, c)) :
    st.part = some p ∧ s.ctx p = some c := by
  unfold State.ctxOf at hc
  rw [h] at hc
  dsimp only at hc
  split at hc
  · cases hc
  · next q hq =>
    obtain ⟨d, hd, heq⟩ := Option.map_eq_some_iff.mp hc
    cases heq
    exact ⟨hq, hd⟩

/-- Changing stages leaves the contexts. -/
@[simp] theorem State.ctx_modStage (s : State) (n : Nat) (f : Stage → Stage) (p : Nat) :
    (s.modStage n f).ctx p = s.ctx p := rfl

@[simp] theorem State.ctx_putStage (s : State) (n : Nat) (x : Stage) (p : Nat) : (s.putStage n x).ctx p = s.ctx p := rfl

/-- Changing contexts leaves the stages. -/
@[simp] theorem State.stage_modCtx (s : State) (p : Nat) (f : Ctx → Ctx) (n : Nat) :
    (s.modCtx p f).stage n = s.stage n := rfl

/-- Every stage of a state is followed by a related one, and no other stage comes. -/
structure State.Each (R : Stage → Stage → Prop) (s t : State) : Prop where
  count : t.stages.length = s.stages.length
  stage : ∀ n st, s.stage n = some st → ∃ u, t.stage n = some u ∧ R st u

section Each

variable {R : Stage → Stage → Prop} {t u : State}

theorem State.Each.of_stages (hr : ∀ x, R x x) (h : t.stages = s.stages) : s.Each R t :=
  ⟨by rw [h], fun n st hst => ⟨st, by unfold State.stage; rw [h]; exact hst, hr st⟩⟩

theorem State.Each.refl (hr : ∀ x, R x x) (s : State) : s.Each R s := .of_stages hr rfl

theorem State.Each.trans (ht : ∀ {x y z}, R x y → R y z → R x z) (h : s.Each R t) (k : t.Each R u) : s.Each R u :=
  ⟨k.count.trans h.count, fun n st hst => by
    obtain ⟨x, hx, hsx⟩ := h.stage n st hst
    obtain ⟨y, hy, hxy⟩ := k.stage n x hx
    exact ⟨y, hy, ht hsx hxy⟩⟩

theorem State.Each.modStage (hr : ∀ x, R x x) (s : State) (m : Nat) (hf : ∀ x, R x (f x)) : s.Each R (s.modStage m f) :=
  ⟨length_modAt .., fun n st hst => by
    by_cases h : n = m
    · subst h; exact ⟨_, State.stage_modStage f hst, hf st⟩
    · exact ⟨st, (State.stage_modStage_other s f h).trans hst, hr st⟩⟩

theorem State.Each.foldl {α : Type} (hr : ∀ x, R x x) (ht : ∀ {x y z}, R x y → R y z → R x z) {g : State → α → State}
    (hg : ∀ (t : State) (a : α), t.Each R (g t a)) (l : List α) (s : State) : s.Each R (l.foldl g s) := by
  induction l generalizing s with
  | nil => exact .refl hr s
  | cons a l ih => exact .trans ht (hg s a) (ih (g s a))

theorem State.Each.modStages (hr : ∀ x, R x x) (ht : ∀ {x y z}, R x y → R y z → R x z) (s : State) (ns : List Nat)
    (hf : ∀ x, R x (f x)) : s.Each R (s.modStages ns f) :=
  .foldl hr ht (fun t m => .modStage hr t m hf) ns s

/-- A stage that stands comes from a related one. -/
theorem State.Each.back (h : s.Each R t) {v : Stage} (hv : t.stage n = some v) : ∃ w, s.stage n = some w ∧ R w v := by
  obtain ⟨w, hw⟩ := State.stage_of_lt (s := s) (n := n) (by rw [← h.count]; exact State.lt_of_stage hv)
  obtain ⟨x, hx, hwx⟩ := h.stage n w hw
  rw [hv, Option.some.injEq] at hx
  exact ⟨w, hw, hx ▸ hwx⟩

end Each

/-- Membership in a rectangle (R38). -/
theorem mem_rectStages {o h w n : Nat} : n ∈ rectStages o h w ↔ ∃ r < h, ∃ c < w, o + 12 * r + c = n := by
  simp [rectStages]

/-- The stages of a rectangle no wider than the grid are distinct (R38). -/
theorem rectStages_nodup {o h w : Nat} (hw : w ≤ 12) : (rectStages o h w).Nodup := by
  refine List.nodup_flatMap.mpr ⟨fun r _ => ?_, List.pairwise_iff_getElem.mpr fun i j hi hj hij => ?_⟩
  · exact List.nodup_range.map (fun a b hab => by simpa using hab)
  · simp only [Function.onFun, List.disjoint_left, List.getElem_range, List.mem_map, List.mem_range]
    rintro _ ⟨a, ha, rfl⟩ ⟨b, hb, hab⟩
    omega

/-- A rectangle that lies on the grid holds stages of the block alone (R385). -/
theorem rectStages_lt {o h w n : Nat} (hr : rowOf o + h ≤ 8) (hc : colOf o + w ≤ 12) (hn : n ∈ rectStages o h w) :
    n < 96 := by
  obtain ⟨r, hr', c, hc', rfl⟩ := mem_rectStages.mp hn
  unfold rowOf at hr
  unfold colOf at hc
  omega

end Sys2Proof.Machine
end

section
/-! Splice ends and retirement: what changing an end, the ends across, and retiring a stage do to each stage (R23, R28, R46,
R197, R471). -/

namespace Sys2Proof.Machine

set_option Elab.async false

open Sys2Proof

variable {s : State} {n m : Nat} {st : Stage} {d : Side} {f : Link → Link}

/-! ### The four ends of a stage -/

@[simp] theorem Stage.link_modLink (st : Stage) (d : Side) (f : Link → Link) : (st.modLink d f).link d = f (st.link d) := by
  cases d <;> rfl

theorem Stage.link_modLink_other {d' : Side} (st : Stage) (f : Link → Link) (h : d' ≠ d) :
    (st.modLink d f).link d' = st.link d' := by
  cases d <;> cases d' <;> first | rfl | exact absurd rfl h

/-- A stage with the splice ends of another. -/
def Stage.linksOf (st u : Stage) : Stage :=
  { st with linkN := u.linkN, linkE := u.linkE, linkS := u.linkS, linkW := u.linkW }

/-- Changing an end leaves all but the ends. -/
theorem Stage.modLink_linksOf (st : Stage) (d : Side) (f : Link → Link) : st.modLink d f = st.linksOf (st.modLink d f) := by
  cases d <;> rfl

theorem Stage.linksOf_trans {a b c : Stage} (h : b = a.linksOf b) (k : c = b.linksOf c) : c = a.linksOf c := by
  rw [k, h]; rfl

@[simp] theorem Stage.link_modLinks (st : Stage) (f : Link → Link) (d : Side) : (st.modLinks f).link d = f (st.link d) := by
  cases d <;> rfl

/-! ### Neighbours -/

/-- How far a neighbour lies (R23). -/
theorem neighbour_offset (h : neighbour n d = some m) :
    match d with
    | .north => m + 12 = n
    | .east => m = n + 1
    | .south => m = n + 12
    | .west => m + 1 = n := by
  cases d <;> simp only [neighbour, Option.ite_none_left_eq_some, Option.some.injEq] at h ⊢ <;> obtain ⟨hn, rfl⟩ := h
  · unfold rowOf at hn; omega
  · rfl
  · rfl
  · unfold colOf at hn; omega

/-- A stage is no neighbour of itself (R23). -/
theorem neighbour_ne (h : neighbour n d = some m) : m ≠ n := by
  have h := neighbour_offset h
  cases d <;> dsimp only at h <;> omega

/-- A stage has one side to each neighbour (R23). -/
theorem neighbour_inj {d' : Side} (h : neighbour n d = some m) (h' : neighbour n d' = some m) : d = d' := by
  have h := neighbour_offset h
  have h' := neighbour_offset h'
  cases d <;> cases d' <;> first | rfl | (dsimp only at h h'; omega)

/-! ### The ends across -/

/-- The stages when one of them is changed. -/
theorem State.stage_modStage_map (s : State) (n : Nat) (g : Stage → Stage) (m : Nat) :
    (s.modStage n g).stage m = (s.stage m).map (fun v => if n = m then g v else v) := by
  simp only [State.stage, State.modStage_stages, modAt, List.getElem?_modify]
  rfl

/-- A stage whose end towards side `d` of stage `n` is changed, where it is the stage across. -/
def Stage.facing (n : Nat) (d : Side) (m : Nat) (f : Link → Link) (v : Stage) : Stage :=
  if neighbour n d = some m then v.modLink d.opposite f else v

/-- The end across a side of a stage: another stage's, or an edge block's (R23). -/
theorem State.stage_modAcross (s : State) (n : Nat) (d : Side) (f : Link → Link) (m : Nat) :
    (s.modAcross n d f).stage m = (s.stage m).map (Stage.facing n d m f) := by
  unfold State.modAcross End.across State.modEnd Stage.facing
  cases hn : neighbour n d with
  | none => cases hi : edgeIndex n d <;> simp [State.stage, hi]
  | some k =>
    refine (s.stage_modStage_map k (fun v => v.modLink d.opposite f) m).trans ?_
    simp only [Option.some.injEq]

/-- Only ends change across. -/
theorem Stage.facing_linksOf (v : Stage) : v.facing n d m f = v.linksOf (v.facing n d m f) := by
  unfold Stage.facing; split
  · exact v.modLink_linksOf ..
  · rfl

/-- The ends of a stage when one of its neighbours changes the end across. -/
theorem Stage.link_facing (v : Stage) (n : Nat) (d : Side) (m : Nat) (f : Link → Link) (d' : Side) :
    (v.facing n d m f).link d' = if neighbour n d = some m ∧ d' = d.opposite then f (v.link d') else v.link d' := by
  unfold Stage.facing
  by_cases h : neighbour n d = some m
  · by_cases hd : d' = d.opposite
    · subst hd; simp [h]
    · simp [h, hd, Stage.link_modLink_other v f hd]
  · simp [h]

/-- Changing the end across leaves all but the stages and the edge blocks' ends. -/
theorem State.modAcross_frame (s : State) (n : Nat) (d : Side) (f : Link → Link) :
    s.modAcross n d f = { s with stages := (s.modAcross n d f).stages, edges := (s.modAcross n d f).edges } := by
  unfold State.modAcross State.modEnd; split
  · split <;> rfl
  · rfl

/-- The edge block's end across a side (R23). -/
theorem State.edges_modAcross (s : State) (n : Nat) (d : Side) (f : Link → Link) (i : Nat) :
    (s.modAcross n d f).edges[i]? = s.edges[i]?.map (fun l => if neighbour n d = none ∧ edgeIndex n d = some i then f l else l) := by
  unfold State.modAcross End.across State.modEnd
  cases hn : neighbour n d with
  | none =>
    cases he : edgeIndex n d with
    | none => simp [he]
    | some j => simp [he, modAt, List.getElem?_modify, eq_comm]
  | some k => simp

/-- A stage after all four ends across stage `n` are changed. -/
def Stage.facingAll (n m : Nat) (f : Link → Link) (v : Stage) : Stage :=
  Side.all.foldl (fun u d => u.facing n d m f) v

/-- All four ends across a stage. -/
theorem State.stage_modAllAcross (s : State) (n : Nat) (f : Link → Link) (m : Nat) :
    (s.modAllAcross n f).stage m = (s.stage m).map (Stage.facingAll n m f) := by
  simp only [State.modAllAcross, Side.all, List.foldl, State.stage_modAcross, Option.map_map]
  rfl

/-- Only ends change across. -/
theorem Stage.facingAll_linksOf (v : Stage) : v.facingAll n m f = v.linksOf (v.facingAll n m f) :=
  Stage.linksOf_trans (Stage.linksOf_trans (Stage.linksOf_trans v.facing_linksOf (Stage.facing_linksOf _))
    (Stage.facing_linksOf _)) (Stage.facing_linksOf _)

/-- The end of a stage towards its neighbour `n` is changed, and no other. -/
theorem Stage.link_facingAll (v : Stage) (n m : Nat) (f : Link → Link) (d : Side) :
    (v.facingAll n m f).link d.opposite = if neighbour n d = some m then f (v.link d.opposite) else v.link d.opposite := by
  cases d <;> simp [Stage.facingAll, Side.all, Stage.link_facing, Side.opposite]

/-- A stage is not across from itself. -/
theorem Stage.facingAll_self (v : Stage) (n : Nat) (f : Link → Link) : v.facingAll n n f = v := by
  have h : ∀ d, neighbour n d ≠ some n := fun d h => neighbour_ne h rfl
  simp [Stage.facingAll, Side.all, Stage.facing, h]

/-- Changing the ends across leaves all but the stages and the edge blocks' ends. -/
theorem State.modAllAcross_frame (s : State) (n : Nat) (f : Link → Link) :
    s.modAllAcross n f = { s with stages := (s.modAllAcross n f).stages, edges := (s.modAllAcross n f).edges } :=
  foldl_rel (r := fun s t : State => t = { s with stages := t.stages, edges := t.edges }) (fun _ => rfl)
    (fun h k => by rw [k, h]) (fun t d => t.modAcross_frame n d f) Side.all s

/-! ### Retirement -/

/-- A failing context changes its stages' stop alone, and itself (R49). -/
theorem State.failCtx_frame (s : State) (p k r c : Nat) : s.failCtx p k r c =
    { s with stages := (s.failCtx p k r c).stages, parts := (s.failCtx p k r c).parts } := by
  unfold State.failCtx
  split
  · rfl
  · split
    · rfl
    · dsimp only; split <;> rfl

/-- A stage that may have stopped. -/
def Stage.Stops (st u : Stage) : Prop := u = { st with stopped := u.stopped }

/-- A failing context stops stages (R49). -/
theorem State.failCtx_stage (s : State) (p k r c : Nat) (h : s.stage n = some st) :
    ∃ u, (s.failCtx p k r c).stage n = some u ∧ st.Stops u := by
  have hmap : (s.modPart p (fun st => { st with stopped := true })).stage n =
      some (if st.part = some p then { st with stopped := true } else st) :=
    List.getElem?_map.trans (congrArg (Option.map _) h)
  unfold State.failCtx
  split
  · exact ⟨st, h, rfl⟩
  · split
    · exact ⟨st, h, rfl⟩
    · dsimp only
      split
      · exact ⟨_, hmap, by split <;> rfl⟩
      · exact ⟨_, hmap, by split <;> rfl⟩

theorem State.failStageCtx_frame (s : State) (n k : Nat) : s.failStageCtx n k =
    { s with stages := (s.failStageCtx n k).stages, parts := (s.failStageCtx n k).parts } := by
  unfold State.failStageCtx; split
  · rfl
  · exact s.failCtx_frame ..

theorem State.failStageCtx_stage (s : State) (m k : Nat) (h : s.stage n = some st) :
    ∃ u, (s.failStageCtx m k).stage n = some u ∧ st.Stops u := by
  unfold State.failStageCtx; split
  · exact ⟨st, h, rfl⟩
  · exact s.failCtx_stage _ _ _ _ h

/-- A retirement is recorded and stored (R471). -/
theorem State.retirement_frame (s : State) (b : RetBody) :
    s.retirement b = { s.recordsOf (s.retirement b) with flash := (s.retirement b).flash } := by
  unfold State.retirement
  dsimp only
  rw [State.emit_frame]
  rfl

/-- A retiring stage loses its power (R49, R471). -/
def Stage.retire (st : Stage) : Stage := { st.losePower with st := .retired, held := false }

/-- Retiring a stage that is not retired: its context fails, and the ends across are barred (R28, R49, R471). -/
theorem State.retireStage_eq (h : s.stage n = some st) (hst : st.st ≠ .retired) (r k c : Nat) :
    s.retireStage n r k c = ((((s.failStageCtx n (st.retireCause c)).modStage n Stage.retire).modAllAcross n
      Link.bar).retirement
        { cls := 0x07, stage := n, reason := r, kind := k, unit := BitVec.ofNat 32 n, repl := 0xFFFFFFFF
          left := 0 }).checkFloor := by
  unfold State.retireStage
  rw [h]
  exact if_neg hst

/-- A stage retired already, or none, is left alone. -/
theorem State.retireStage_none (h : ∀ st, s.stage n = some st → st.st = .retired) (r k c : Nat) :
    s.retireStage n r k c = s := by
  unfold State.retireStage
  split
  · rfl
  · next st hst => exact if_pos (h st hst)

/-- A retirement changes what `retirementOf` says. -/
theorem State.retirementOf_trans {t u : State} (h : t = s.retirementOf t) (k : u = t.retirementOf u) :
    u = s.retirementOf u := by
  rw [k, h]; rfl

theorem State.retireStage_frame (s : State) (n r k c : Nat) :
    s.retireStage n r k c = s.retirementOf (s.retireStage n r k c) := by
  unfold State.retireStage
  split
  · rfl
  · split
    · rfl
    · next st _ _ =>
      have hfail := s.failStageCtx_frame n (st.retireCause c)
      dsimp only
      generalize s.failStageCtx n (st.retireCause c) = u at *
      have hacross := (u.modStage n (fun t => { t.losePower with st := .retired, held := false })).modAllAcross_frame n Link.bar
      generalize (u.modStage n _).modAllAcross n Link.bar = v at *
      have hret := v.retirement_frame { cls := 0x07, stage := n, reason := r, kind := k, unit := BitVec.ofNat 32 n
                                        repl := 0xFFFFFFFF, left := 0 }
      generalize v.retirement _ = w at *
      unfold State.checkFloor
      rw [hret, hacross, hfail]
      rfl

/-- The stages after a retirement: the retired one, stopped ones of its context, and ends across it. -/
theorem State.retireStage_stage (h : s.stage n = some st) (hst : st.st ≠ .retired) (r k c : Nat) :
    (∃ v, (s.retireStage n r k c).stage n = some v.retire ∧ st.Stops v) ∧
    (∀ m x, m ≠ n → s.stage m = some x → ∃ v, (s.retireStage n r k c).stage m = some (v.facingAll n m Link.bar) ∧ x.Stops v) := by
  rw [State.retireStage_eq h hst]
  obtain ⟨v, hv, hs⟩ := s.failStageCtx_stage n (st.retireCause c) h
  have hother := fun m x (hx : s.stage m = some x) => s.failStageCtx_stage n (st.retireCause c) hx
  generalize s.failStageCtx n (st.retireCause c) = u at *
  have hacross := (u.modStage n Stage.retire).stage_modAllAcross n Link.bar
  have hret : ∀ (w : State) (b : RetBody) (m : Nat), (w.retirement b).checkFloor.stage m = w.stage m := fun w b m => by
    rw [w.retirement_frame b]; rfl
  generalize (u.modStage n Stage.retire).modAllAcross n Link.bar = w at *
  refine ⟨⟨v, ?_, hs⟩, fun m x hm hx => ?_⟩
  · rw [hret, hacross, State.stage_modStage Stage.retire hv, Option.map_some, Stage.facingAll_self]
  · obtain ⟨y, hy, hxy⟩ := hother m x hx
    refine ⟨y, ?_, hxy⟩
    rw [hret, hacross, State.stage_modStage_other _ _ hm, hy]
    rfl

@[simp] theorem State.modAllAcross_count (s : State) (n : Nat) (f : Link → Link) :
    (s.modAllAcross n f).stages.length = s.stages.length := by
  have h : ∀ (t : State) (d : Side), (t.modAcross n d f).stages.length = t.stages.length := fun t d => by
    unfold State.modAcross State.modEnd
    split
    · split <;> rfl
    · exact length_modAt ..
  simp only [State.modAllAcross, Side.all, List.foldl, h]

theorem State.failCtx_count (s : State) (p k r c : Nat) : (s.failCtx p k r c).stages.length = s.stages.length := by
  unfold State.failCtx
  split
  · rfl
  · split
    · rfl
    · dsimp only; split <;> exact List.length_map ..

/-- A retirement keeps how many stages there are. -/
theorem State.retireStage_count (s : State) (n r k c : Nat) : (s.retireStage n r k c).stages.length = s.stages.length := by
  by_cases h : ∃ st, s.stage n = some st ∧ st.st ≠ .retired
  · obtain ⟨st, hst, hne⟩ := h
    have hfail : (s.failStageCtx n (st.retireCause c)).stages.length = s.stages.length := by
      unfold State.failStageCtx; split
      · rfl
      · exact s.failCtx_count ..
    rw [State.retireStage_eq hst hne, ← hfail]
    generalize s.failStageCtx n (st.retireCause c) = u
    have hacross := (u.modStage n Stage.retire).modAllAcross_count n Link.bar
    generalize (u.modStage n Stage.retire).modAllAcross n Link.bar = v at *
    rw [State.retirement_frame]
    exact hacross.trans (length_modAt ..)
  · rw [State.retireStage_none (fun st hst => by_contra fun hne => h ⟨st, hst, hne⟩)]

end Sys2Proof.Machine
end

section
/-! Power and reset (R79, R298, R504, R518, R521, R523): when boot begins and when it is held back, what a shutdown leaves,
and the statements on PWR_GOOD and RESET_N. -/

namespace Sys2Proof.Machine

set_option Elab.async false

open Sys2Proof

variable {s : State}

/-! ### The beginning of boot -/

/-- A latched stop, a failure or an awaited power cycle holds boot back (R26, R298, R504). -/
theorem State.beginBoot_of_held (h : s.pins.stop.isSome ∨ s.pins.failed = true ∨ s.pins.pwrCycleReq = true) :
    s.beginBoot = s := by
  rcases h with h | h | h <;> simp [State.beginBoot, h]

/-- Otherwise boot begins with wafer time zero in every stage (R225, R518). -/
theorem State.beginBoot_of_clear (hs : s.pins.stop = none) (hf : s.pins.failed = false) (hp : s.pins.pwrCycleReq = false) :
    s.beginBoot = { s with
      pins := { s.pins with booting := true, bootPhase := if s.time.onPll then 2 else 1 }
      time := { s.time with wafer := 0, epochFixed := s.time.onPll, lastTick := none }
      stages := s.stages.map (fun st => { st with island := 0 }) } := by
  simp [State.beginBoot, hs, hf, hp]

/-- PWR_GOOD rises: the reference domain is on the backup oscillator, the JTAG port in Test-Logic-Reset (R22, R518). -/
def State.powered (s : State) : State :=
  { s with
    pins := { s.pins with pwrGood := true }, jtag := .reset
    time := { s.time with onPll := false, refOut := false, refFault := false } }

theorem exec_powerGoodRise (h : s.pins.pwrGood = false) :
    exec .powerGoodRise s = .next (if s.pins.resetN then s.powered.beginBoot else s.powered) :=
  if_neg (by simp [h])

theorem powerGoodRise_holds_boot_back (h : s.pins.pwrGood = false)
    (hb : s.pins.resetN = false ∨ s.pins.stop.isSome ∨ s.pins.failed = true ∨ s.pins.pwrCycleReq = true) :
    exec .powerGoodRise s = .next s.powered := by
  rw [exec_powerGoodRise h]
  cases hr : s.pins.resetN with
  | false => rfl
  | true => rw [if_pos rfl, State.beginBoot_of_held (s := s.powered) (by simpa [hr, State.powered] using hb)]

/-- RESET_N is released after its inputs have been high for `ns` nanoseconds, or not at all (R298). -/
def State.released (s : State) (ns : Nat) : State :=
  { s with pins := { s.pins with
    resetN := true, coolA := s.pins.coolA || decide (0 < ns), coolB := s.pins.coolB || decide (0 < ns) } }

/-- The clearing conditions of a latched stop: 1 ms of coolant, every sensor below T_trip - 15, PWR_GOOD high (R298). -/
def State.stopClears (s : State) (ns : Nat) : Bool :=
  decide (1000000 ≤ ns) && s.sensorsBelow (s.trip - 15) && s.pins.pwrGood

/-- RESET_N is released, a latched stop cleared where its conditions are met (R298). -/
def State.unlatched (s : State) (ns : Nat) : State :=
  if s.pins.stop.isSome && s.stopClears ns then
    { s.released ns with pins := { (s.released ns).pins with stop := none } }
  else s.released ns

theorem exec_resetRelease {ns : Nat} (h : s.pins.resetN = false) :
    exec (.resetRelease ns) s =
      .next (if (s.unlatched ns).pins.pwrGood then (s.unlatched ns).beginBoot else s.unlatched ns) :=
  if_neg (by simp [h])

theorem State.unlatched_of_kept {ns : Nat} (h : s.pins.stop = none ∨ s.stopClears ns = false) :
    s.unlatched ns = s.released ns := by
  rcases h with h | h <;> simp [State.unlatched, h]

theorem State.unlatched_of_clear {ns : Nat} (h : s.pins.stop = none ∨ s.stopClears ns = true) :
    s.unlatched ns = { s.released ns with pins := { (s.released ns).pins with stop := none } } := by
  cases hs : s.pins.stop with
  | none => simp [State.unlatched, State.released, hs]
  | some b => simp [State.unlatched, hs, h.resolve_left (by simp [hs])]

theorem resetRelease_holds_boot_back {ns : Nat} (h : s.pins.resetN = false)
    (hb : s.pins.pwrGood = false ∨ s.pins.failed = true ∧ s.pins.stop = none ∨ s.pins.pwrCycleReq = true ∧ s.pins.stop = none ∨
      s.pins.stop.isSome ∧ (ns < 1000000 ∨ s.sensorsBelow (s.trip - 15) = false)) :
    exec (.resetRelease ns) s = .next (s.released ns) := by
  have kept : s.pins.stop = none ∨ s.stopClears ns = false := by
    rcases hb with hb | ⟨-, hb⟩ | ⟨-, hb⟩ | ⟨-, hb | hb⟩
    · exact .inr (by simp [State.stopClears, hb])
    · exact .inl hb
    · exact .inl hb
    · exact .inr (by simp [State.stopClears, hb])
    · exact .inr (by simp [State.stopClears, hb])
  rw [exec_resetRelease h, State.unlatched_of_kept kept]
  rcases hb with hb | ⟨hb, -⟩ | ⟨hb, -⟩ | ⟨hb, -⟩
  · exact congrArg _ (if_neg (by simpa [State.released] using hb))
  all_goals
    rw [State.beginBoot_of_held (s := s.released ns) (by simp [State.released, hb])]
    exact congrArg _ (ite_self _)

theorem resetRelease_begins_boot {ns : Nat} (h : s.pins.resetN = false) (hg : s.pins.pwrGood = true)
    (hf : s.pins.failed = false) (hp : s.pins.pwrCycleReq = false)
    (hc : s.pins.stop = none ∨ 1000000 ≤ ns ∧ s.sensorsBelow (s.trip - 15) = true) :
    exec (.resetRelease ns) s = .next { s.released ns with
      pins := { (s.released ns).pins with stop := none, booting := true, bootPhase := if s.time.onPll then 2 else 1 }
      stages := s.stages.map (fun st => { st with island := 0 })
      time := { s.time with wafer := 0, epochFixed := s.time.onPll, lastTick := none } } := by
  have clear : s.pins.stop = none ∨ s.stopClears ns = true :=
    hc.imp_right fun ⟨hn, ht⟩ => by simp [State.stopClears, hn, ht, hg]
  rw [exec_resetRelease h, State.unlatched_of_clear clear]
  exact congrArg _ ((if_pos hg).trans (State.beginBoot_of_clear rfl hf hp))

/-- Settles O1: PWR_GOOD and RESET_N each begin boot, or leave it to be begun, by what holds boot back. -/
theorem powerAndResetBeginBoot : Obligations.PowerAndResetBeginBoot := by
  refine ⟨fun s h => ⟨powerGoodRise_holds_boot_back h, fun hr hs hf hp => ?_⟩, ?_⟩
  · rw [exec_powerGoodRise h, if_pos hr, State.beginBoot_of_clear (s := s.powered) hs hf hp]
    rfl
  · rintro s ns p h rfl
    exact ⟨resetRelease_holds_boot_back h, resetRelease_begins_boot h⟩

/-! ### The fall of PWR_GOOD and the assertion of RESET_N -/

/-- A change of every splice end of a stage leaves its state alone. -/
@[simp] theorem Stage.modLinks_eq (st : Stage) (f : Link → Link) :
    st.modLinks f = { st with linkN := f st.linkN, linkE := f st.linkE, linkS := f st.linkS, linkW := f st.linkW } := rfl

/-- A shutdown leaves every stage unlit or retired, and no context (R521, R523). -/
theorem State.shutdown_stilled (s : State) : s.shutdown.stilled := by
  refine ⟨fun st hst => ?_, fun c hc => ?_⟩
  · obtain ⟨x, -, rfl⟩ := List.mem_map.1 hst
    split
    · rename_i h
      exact .inr (by simp [h])
    · exact .inl rfl
  · obtain ⟨x, -, rfl⟩ := List.mem_map.1 hc
    rfl

/-- What PWR_GOOD's fall leaves beside the shutdown (R521). -/
def State.fallen (s : State) : State :=
  { s.shutdown with
    pins := { s.shutdown.pins with pwrGood := false }
    time := { s.shutdown.time with onPll := false, refOut := false } }

/-- An ordinary fall of PWR_GOOD. -/
theorem exec_powerGoodFall (h : s.pins.pwrGood = true) (hp : s.pins.pwrCycleReq = false) :
    exec .powerGoodFall s = .next s.fallen :=
  (if_neg (by simp [h])).trans (congrArg _ (if_neg (by simp [hp])))

/-- A fall that is the requested power cycle ends the failed condition and loses the dailies SRAM (R504, log entry 10). -/
theorem exec_powerGoodFall_cycle (h : s.pins.pwrGood = true) (hp : s.pins.pwrCycleReq = true) :
    exec .powerGoodFall s = .next { s.fallen with
      pins := { s.fallen.pins with failed := false, pwrCycleReq := false, parked := false, belowFloor := false }
      dailies := .absent } :=
  (if_neg (by simp [h])).trans (congrArg _ (if_pos hp))

/-- An accepted assertion of RESET_N (R523). -/
theorem exec_resetAssert {ns : Nat} (h : 1000 ≤ ns) :
    exec (.resetAssert ns) s = .next { s.shutdown with pins := { s.shutdown.pins with resetN := false } } :=
  if_neg (by omega)

/-- Settles O2: both commands leave what a shutdown leaves, and a requested power cycle ends the failed condition. -/
theorem shutdownStillsTheModule : Obligations.ShutdownStillsTheModule := by
  refine ⟨fun s h => ?fall, fun s ns h => if_pos h, fun s ns h => ?reset⟩
  case fall =>
    cases hp : s.pins.pwrCycleReq with
    | false =>
      refine ⟨_, exec_powerGoodFall h hp, s.shutdown_stilled, ?_⟩
      simp [State.fallen, State.shutdown]
    | true =>
      refine ⟨_, exec_powerGoodFall_cycle h hp, s.shutdown_stilled, ?_⟩
      simp [State.fallen, State.shutdown]
  case reset =>
    refine ⟨_, exec_resetAssert h, s.shutdown_stilled, ?_⟩
    simp [State.shutdown]

end Sys2Proof.Machine
end

section
/-! The reference and the supervisor (R26, R134 to R137, R225): what a failed module is left with, and the statement on the
reference's lock, its timeout, its fault and a supervisor mismatch. -/

namespace Sys2Proof.Machine

set_option Elab.async false

open Sys2Proof

variable {s : State}

/-- A state with the records, contexts, stages, pins, carrier flash and levels of another: what the failure of a module may
change. -/
def State.failureOf (s t : State) : State :=
  { s.contextsOf t with pins := t.pins, flash := t.flash, level4 := t.level4, level5 := t.level5 }

theorem State.failureOf_trans {t u : State} (h : t = s.failureOf t) (k : u = t.failureOf u) : u = s.failureOf u := by
  rw [k, h]; rfl

theorem State.failureOf_of_contextsOf {t : State} (h : t = s.contextsOf t) : t = s.failureOf t := by rw [h]; rfl

/-- The contexts of a module end with their levels, beside the records of it. -/
theorem State.endAll_contextsOf (s : State) (m : BitVec 8) (k : Nat) :
    (s.supersede.giveWay m).endAllNow k = s.contextsOf ((s.supersede.giveWay m).endAllNow k) :=
  State.contextsOf_trans (s.supersede_contextsOf) (State.contextsOf_trans (State.giveWay_contextsOf ..)
    (State.endAllNow_contextsOf ..))

theorem State.copyDailies_failureOf (s : State) (ok : Bool) : s.copyDailies ok = s.failureOf (s.copyDailies ok) := by
  rw [State.copyDailies_frame]; rfl

theorem State.powerCycleReq_failureOf (s : State) (a n : Nat) (w : Word) (m : BitVec 8) :
    s.powerCycleReq a n w m = s.failureOf (s.powerCycleReq a n w m) := by
  rw [State.powerCycleReq_frame]; rfl

theorem State.moduleFail_frame (s : State) (k : Nat) (b : List Byte) (ok : Bool) :
    s.moduleFail k b ok = s.failureOf (s.moduleFail k b ok) := by
  have hstart : ∀ p, { s with pins := p } = s.failureOf { s with pins := p } := fun _ => rfl
  have hend : ∀ (u : State) m, ((u.log k b).supersede.giveWay m).endAllNow 0x24 =
      u.failureOf (((u.log k b).supersede.giveWay m).endAllNow 0x24) := fun u m =>
    State.failureOf_of_contextsOf (State.contextsOf_trans (State.contextsOf_of_recordsOf (u.log_frame k b))
      (State.endAll_contextsOf ..))
  have hstop : ∀ (u : State) sts l, { u with stages := sts, level4 := none, level5 := l } =
      u.failureOf { u with stages := sts, level4 := none, level5 := l } := fun _ _ _ => rfl
  have hdraw : ∀ u : State, u.draw = u.failureOf u.draw := fun _ => rfl
  unfold State.moduleFail
  exact State.failureOf_trans (State.failureOf_trans (State.failureOf_trans (State.failureOf_trans
    (State.failureOf_trans (hstart _) (hend ..)) (hstop ..)) (State.copyDailies_failureOf ..))
    (State.powerCycleReq_failureOf ..)) (hdraw _)

/-- What the failure of a module makes of its pins and levels (R26, R136, R503). -/
theorem State.moduleFail_spec (s : State) (k : Nat) (b : List Byte) (ok : Bool) :
    (s.moduleFail k b ok).pins = { s.pins with
      issueStopped := true, failed := true, booting := false, bypassOpen := false, pwrCycleReq := true } ∧
    (s.moduleFail k b ok).level4 = none ∧ (s.moduleFail k b ok).level5.isSome := by
  have hend := fun (u : State) => congrArg State.pins (State.endAll_contextsOf (u.log k b) s.allMask 0x24)
  unfold State.moduleFail
  dsimp only [State.draw]
  rw [State.powerCycleReq_frame, State.copyDailies_frame]
  exact ⟨by rw [hend]; rfl, rfl, rfl⟩

/-- A module-level log entry is the newest one of the log (R506). -/
theorem State.log_newest (s : State) (k : Nat) (b : List Byte) :
    ∃ e, (s.log k b).dailies.log.getLast? = some e ∧ e.kind = k ∧ e.payload = b := s.logEntry_newest ..

/-- A dailies copy keeps the log (R508). -/
@[simp] theorem State.copyDailies_log (s : State) (ok : Bool) : (s.copyDailies ok).dailies.log = s.dailies.log := by
  unfold State.copyDailies; split <;> rfl

theorem exec_referencePllLock (hg : s.pins.pwrGood = true) (hp : s.time.onPll = false) :
    exec .referencePllLock s = .next (if s.pins.booting && s.pins.bootPhase = 1 then { s with
      pins := { s.pins with bootPhase := 2 }
      stages := s.stages.map (fun st => { st with island := 0 })
      time := { s.time with
        onPll := true, refOut := !s.time.refFault, epochFixed := true, wafer := 0, lastTick := none } }
    else { s with time := { s.time with onPll := true, refOut := !s.time.refFault } }) := by
  refine (if_neg (by simp [hg, hp])).trans ?_
  dsimp only
  split <;> rfl

/-- A lock timeout in boot fails the module and logs a code (R26, R134, log entry 44). -/
theorem exec_referenceLockTimeout (hb : s.pins.booting = true) (hp : s.time.onPll = false) :
    exec .referenceLockTimeout s = .next ((State.log { s with pins := { s.pins with
      failed := true, booting := false, pwrCycleReq := true, bypassOpen := false } } 0x05
        (leBytes 2 (Config.freePhase s.freeCtr).toNat)).draw) :=
  if_neg (by simp [hb, hp])

/-- A fault of the reference out of reset (R136). -/
theorem exec_referenceFault {ps : Nat} {ok : Bool} (hp : s.time.onPll = true) (hr : s.inReset = false) :
    exec (.referenceFault ps ok) s = .next (if s.pins.failed then
      (State.log { s with time := { s.time with onPll := false, refOut := false, refFault := true } } 0x05
        (leBytes 2 (capAt 0xFFFF ps))).copyDailies ok
    else State.moduleFail { s with time := { s.time with onPll := false, refOut := false, refFault := true } } 0x05
        (leBytes 2 (capAt 0xFFFF ps)) ok) :=
  (if_neg (by simp [hp])).trans (if_neg (by simp [hr]))

/-- A value cut to a field's largest. -/
theorem capAt_eq_ite (top v : Nat) : capAt top v = if top < v then top else v := by
  unfold capAt; split <;> split <;> omega

theorem referenceFault_failed {ps : Nat} {ok : Bool} (hp : s.time.onPll = true) (hr : s.inReset = false)
    (hf : s.pins.failed = true) : ∃ t, exec (.referenceFault ps ok) s = .next t ∧
      t = { s with
        time := { s.time with onPll := false, refOut := false, refFault := true }
        dailies := t.dailies, flash := t.flash } ∧
      ∃ e, t.dailies.log.getLast? = some e ∧ e.kind = 0x05 ∧ e.payload = leBytes 2 (capAt 0xFFFF ps) := by
  refine ⟨_, (exec_referenceFault hp hr).trans (congrArg _ (if_pos hf)), ?_, ?_⟩
  · rw [State.copyDailies_frame]; rfl
  · rw [State.copyDailies_log]; exact State.log_newest ..

/-- Settles O3: the lock's two cases, and what the failure of a module leaves, for each of the three that fail it. -/
theorem referenceAndSupervisorOutcomes : Obligations.ReferenceAndSupervisorOutcomes := by
  refine ⟨fun s hg hp => ⟨fun hb h1 => ?boot, fun h => ?later⟩, fun s hb hp => ?timeout, fun s ps ok hp hr hf => ?fault,
    fun s ps ok hp hr hf => capAt_eq_ite 0xFFFF ps ▸ referenceFault_failed hp hr hf, fun s ps ok hp hr => ?inReset, fun s o ok hr hf => ?mismatch⟩
  case boot => rw [exec_referencePllLock hg hp, if_pos (by simp [hb, h1])]
  case later =>
    rw [exec_referencePllLock hg hp, if_neg]
    rcases h with h | h <;> simp [h]
  case timeout =>
    exact ⟨_, exec_referenceLockTimeout hb hp, rfl, (State.log_newest ..).imp fun _ h => ⟨h.1, h.2.1⟩, rfl⟩
  case fault =>
    refine ⟨_, (exec_referenceFault hp hr).trans (congrArg _ (if_neg (by simp [hf]))), ?_⟩
    have h := State.moduleFail_frame
      { s with time := { s.time with onPll := false, refOut := false, refFault := true } } 0x05 (leBytes 2 (capAt 0xFFFF ps)) ok
    obtain ⟨hp, h4, h5⟩ := State.moduleFail_spec
      { s with time := { s.time with onPll := false, refOut := false, refFault := true } } 0x05 (leBytes 2 (capAt 0xFFFF ps)) ok
    exact ⟨by rw [h]; rfl, by rw [hp], by rw [hp], by rw [hp], by rw [hp], by rw [hp], h4, h5, by rw [h]; rfl, by rw [h]; rfl,
      by rw [h]; rfl⟩
  case inReset => exact (if_neg (by simp [hp])).trans (if_pos hr)
  case mismatch =>
    refine ⟨_, if_neg (by simp [hr, hf]), ?_⟩
    have h := s.moduleFail_frame 0x04 (leBytes 2 o.toNat) ok
    obtain ⟨hp, h4, h5⟩ := s.moduleFail_spec 0x04 (leBytes 2 o.toNat) ok
    exact ⟨by rw [h]; rfl, by rw [hp], by rw [hp], by rw [hp], h4, h5, by rw [h]; rfl, by rw [h]; rfl, by rw [h]; rfl⟩

end Sys2Proof.Machine
end

section
/-! Boot phases 2 to 4 (R58 to R61, R138, R146, R234 to R236, R420, R508, R520): what each flash area's read changes, the
days-in-service copies, the boot copy of the dailies and a self-test with nothing to do, and the statement on them. -/

namespace Sys2Proof.Machine

set_option Elab.async false

open Sys2Proof

variable {s t u : State}

/-! ### Trims -/

theorem moveTrim_bounds {v : Nat} {d : Int} (h : v ≤ 126) : moveTrim v d ≤ 126 ∧ moveTrim v d ≤ v + 2 ∧ v ≤ moveTrim v d + 2 := by
  unfold moveTrim
  repeat' split
  all_goals omega

theorem exec_meshTrimUpdate {dir : List Int} (hd : s.pins.bootDone = true) (hr : s.inReset = false) :
    exec (.meshTrimUpdate dir) s =
      .next { s with trims := s.trims.zipIdx.map (fun (v, i) => moveTrim v (dir.getD i 0)) } :=
  if_pos (by simp [hd, hr])

/-- Every trim moves by one step at most inside its range (R138). -/
theorem meshTrimUpdate_moves_trims {dir : List Int} (hd : s.pins.bootDone = true) (hr : s.inReset = false) :
    ∃ t, exec (.meshTrimUpdate dir) s = .next t ∧ t = { s with trims := t.trims } ∧
      t.trims.length = s.trims.length ∧
      ∀ (i v : Nat), s.trims[i]? = some v → v ≤ 126 → ∃ w, t.trims[i]? = some w ∧ w ≤ 126 ∧ w ≤ v + 2 ∧ v ≤ w + 2 := by
  refine ⟨_, exec_meshTrimUpdate hd hr, rfl, by simp, fun i v hv h => ⟨moveTrim v (dir.getD i 0), ?_, moveTrim_bounds h⟩⟩
  simp [hv]

/-! ### The reads of boot phase 3 -/

/-- A state with the parts that the reads of carrier flash may change taken from another. -/
def State.flashReadOf (s t : State) : State :=
  { s with
    time := t.time, iu := t.iu, stages := t.stages, flash := t.flash, chain := t.chain, issue := t.issue, cert := t.cert
    idFaults := t.idFaults, ringE := t.ringE, ringW := t.ringW, edges := t.edges, spines := t.spines }

theorem State.flashReadOf_refl (s : State) : s = s.flashReadOf s := rfl

theorem State.flashReadOf_trans (h : t = s.flashReadOf t) (k : u = t.flashReadOf u) : u = s.flashReadOf u := by
  rw [k, h]; rfl

/-- A read that changes no part of the time base or the days-in-service copies, and ends no fault. -/
structure State.ReadBeside (s t : State) : Prop where
  frame : t = s.flashReadOf t
  time  : t.time = s.time
  days0 : t.flash.days0 = s.flash.days0
  days1 : t.flash.days1 = s.flash.days1
  fault : s.idFaults.getLsbD 2 = true → t.idFaults.getLsbD 2 = true

theorem State.ReadBeside.refl (s : State) : s.ReadBeside s := ⟨rfl, rfl, rfl, rfl, id⟩

theorem State.ReadBeside.trans (h : s.ReadBeside t) (k : t.ReadBeside u) : s.ReadBeside u :=
  ⟨State.flashReadOf_trans h.frame k.frame, k.time.trans h.time, k.days0.trans h.days0, k.days1.trans h.days1,
    k.fault ∘ h.fault⟩

theorem State.readBeside_identity (s : State) (bad : List FlashArea) : s.ReadBeside (s.readIdentity bad) := by
  unfold State.readIdentity
  split
  · exact ⟨rfl, rfl, rfl, rfl, id⟩
  · exact ⟨rfl, rfl, rfl, rfl, fun h => by simp [h]⟩

theorem State.readBeside_ledger (s : State) (bad : List FlashArea) : s.ReadBeside (s.readLedger bad) := by
  refine ⟨rfl, rfl, rfl, rfl, fun h => ?_⟩
  unfold State.readLedger
  dsimp only
  split <;> simp [h]

theorem State.readBeside_chain (s : State) (bad : List FlashArea) : s.ReadBeside (s.readChain bad) := by
  unfold State.readChain
  dsimp only
  split
  · split
    · split <;> exact ⟨rfl, rfl, rfl, rfl, id⟩
    · exact ⟨rfl, rfl, rfl, rfl, id⟩
  · refine ⟨rfl, rfl, rfl, rfl, fun h => ?_⟩
    dsimp only
    split <;> simp [h]

/-- A change of an end that a stage's record or a neighbour's retirement makes is beside the days in service. -/
theorem State.readBeside_rebar (s : State) : s.ReadBeside s.rebar := by
  have hend : ∀ (t : State) e f, t.ReadBeside (t.modEnd e f) := fun t e f => by
    unfold State.modEnd
    split
    · split <;> exact ⟨rfl, rfl, rfl, rfl, id⟩
    · exact ⟨rfl, rfl, rfl, rfl, id⟩
  have hclear : ∀ sts es, s.ReadBeside { s with stages := sts, edges := es } := fun _ _ => ⟨rfl, rfl, rfl, rfl, id⟩
  have hbar : ∀ (t : State) n, t.ReadBeside (match t.stage n with
      | none => t
      | some st => if st.st = .retired then t.modAllAcross n Link.bar else t) := by
    intro t n
    split
    · exact .refl _
    · split
      · exact foldl_rel State.ReadBeside.refl State.ReadBeside.trans (fun t d => hend t _ _) _ _
      · exact .refl _
  unfold State.rebar
  exact (hclear ..).trans (foldl_rel State.ReadBeside.refl State.ReadBeside.trans hbar _ _)

theorem State.readBeside_applyRecord (s : State) (o : Option RetRecord) : s.ReadBeside (s.applyRecord o) := by
  unfold State.applyRecord
  split
  · exact ⟨rfl, rfl, rfl, rfl, id⟩
  · refine ⟨rfl, rfl, rfl, rfl, fun h => ?_⟩
    dsimp only
    split <;> simp [h]

theorem State.readBeside_retired (s : State) (bad : List FlashArea) : s.ReadBeside (s.readRetired bad) := by
  have hr := (s.readBeside_applyRecord (retPick s.flash (badArea bad (.retire 0)) (badArea bad (.retire 1)))).trans
    (State.readBeside_rebar _)
  have hfl : ∀ (u : State) f, f.days0 = u.flash.days0 → f.days1 = u.flash.days1 → u.ReadBeside { u with flash := f } :=
    fun _ _ h0 h1 => ⟨rfl, rfl, h0, h1, id⟩
  unfold State.readRetired
  dsimp only
  generalize (s.applyRecord (retPick s.flash (badArea bad (.retire 0)) (badArea bad (.retire 1)))).rebar = v at hr ⊢
  split
  · exact ⟨rfl, rfl, rfl, rfl, fun h => by simp [h]⟩
  · split
    · exact hr.trans (hfl _ _ rfl rfl)
    · split
      · exact hr.trans (hfl _ _ rfl rfl)
      · exact hr

theorem State.readBeside_tables (s : State) (bad : List FlashArea) : s.ReadBeside (s.readTables bad) :=
  ⟨rfl, rfl, rfl, rfl, id⟩

/-! ### The days in service -/

theorem State.readDays_frame (s : State) (bad : List FlashArea) : s.readDays bad = s.flashReadOf (s.readDays bad) := rfl

/-- With a copy in use its counts are taken with the boot count one higher, which goes to the other copy (R234). -/
theorem State.readDays_of_inUse {bad : List FlashArea} {d : Days} {one : Bool}
    (h : daysInUse { s.flash with
      days0 := readArea bad (.days 0) s.flash.days0, days1 := readArea bad (.days 1) s.flash.days1 } = some (d, one)) :
    (s.readDays bad).time = { s.time with bootCount := d.boot + 1, dayCount := d.day, hourCount := d.hour } ∧
    (s.readDays bad).flash = Flash.putDays { s.flash with
      days0 := readArea bad (.days 0) s.flash.days0, days1 := readArea bad (.days 1) s.flash.days1 } (!one)
        { d with seq := d.seq + 1, boot := d.boot + 1 } := by
  unfold State.readDays
  dsimp only
  rw [h]
  exact ⟨rfl, rfl⟩

/-- With no valid copy the counts start, with the area's fault (R235). -/
theorem State.readDays_of_none {bad : List FlashArea}
    (h : daysInUse { s.flash with
      days0 := readArea bad (.days 0) s.flash.days0, days1 := readArea bad (.days 1) s.flash.days1 } = none) :
    (s.readDays bad).time = { s.time with bootCount := 1, dayCount := 0, hourCount := 0 } ∧
    (s.readDays bad).idFaults.getLsbD 2 = true := by
  unfold State.readDays
  dsimp only
  rw [h]
  exact ⟨rfl, by simp⟩

theorem readArea_nil (a : FlashArea) (bs : List Byte) : readArea [] a bs = bs := rfl

/-- A copy that the medium has lost, or that fails its check, holds no record. -/
theorem daysOf_readArea_none {bad : List FlashArea} {a : FlashArea} {bs : List Byte} (h : a ∈ bad ∨ daysOf bs = none) :
    daysOf (readArea bad a bs) = none := by
  have lost : daysOf [] = none := by decide
  unfold readArea badArea
  split
  · exact lost
  · exact h.resolve_left (by simpa using ‹¬ bad.contains a = true›)

/-! ### The boot read as a whole -/

/-- The state after the reads of boot phase 3. -/
def State.bootRead (s : State) (bad : List FlashArea) : State :=
  (((((({ s with idFaults := 0 } : State).readIdentity bad).readLedger bad).readDays bad).readChain bad).readRetired
    bad).readTables bad

theorem exec_carrierFlashBootRead {bad : List FlashArea} (hb : s.pins.booting = true) (hp : s.pins.bootPhase = 3) :
    exec (.carrierFlashBootRead bad) s = .next { s.bootRead bad with
      pins := { (s.bootRead bad).pins with bootPhase := 4 }
      time := { (s.bootRead bad).time with
        corr := (s.bootRead bad).yAge
        epochId := { source := BitVec.ofNat 8 (s.bootRead bad).moduleId
                     serial := (s.bootRead bad).time.bootCount.truncate 16, kind := 0 } } } :=
  if_pos (by simp [hb, hp])

/-- The days in service are read of the state's own copies, and nothing read later touches what was read. -/
theorem State.bootRead_days (s : State) (bad : List FlashArea) : ∃ v : State,
    v.time = s.time ∧ v.flash.days0 = s.flash.days0 ∧ v.flash.days1 = s.flash.days1 ∧ v = s.flashReadOf v ∧
    (v.readDays bad).ReadBeside (s.bootRead bad) := by
  have h1 : State.ReadBeside { s with idFaults := 0 } _ :=
    (State.readBeside_identity _ bad).trans (State.readBeside_ledger _ bad)
  exact ⟨_, h1.time, h1.days0, h1.days1, State.flashReadOf_trans (t := { s with idFaults := 0 }) rfl h1.frame,
    ((State.readBeside_chain _ bad).trans (State.readBeside_retired _ bad)).trans (State.readBeside_tables _ bad)⟩

theorem State.bootRead_frame (s : State) (bad : List FlashArea) : s.bootRead bad = s.flashReadOf (s.bootRead bad) := by
  obtain ⟨v, -, -, -, hv, h⟩ := s.bootRead_days bad
  exact State.flashReadOf_trans hv (State.flashReadOf_trans (v.readDays_frame bad) h.frame)

/-- The newer of two valid copies is used, and the boot it counts goes to the other one (R234). -/
theorem State.bootRead_newer (s : State) {bad : List FlashArea} (hbad : bad = []) {d e : Days} (hd : daysOf s.flash.days0 = some d)
    (he : daysOf s.flash.days1 = some e) :
    (e.seq < d.seq →
      (s.bootRead bad).time = { s.time with bootCount := d.boot + 1, dayCount := d.day, hourCount := d.hour } ∧
      (s.bootRead bad).flash.days0 = s.flash.days0 ∧
      (s.bootRead bad).flash.days1 = ({ d with seq := d.seq + 1, boot := d.boot + 1 } : Days).bytes) ∧
    (d.seq < e.seq →
      (s.bootRead bad).time = { s.time with bootCount := e.boot + 1, dayCount := e.day, hourCount := e.hour } ∧
      (s.bootRead bad).flash.days0 = ({ e with seq := e.seq + 1, boot := e.boot + 1 } : Days).bytes ∧
      (s.bootRead bad).flash.days1 = s.flash.days1) := by
  subst hbad
  obtain ⟨v, ht, h0, h1, -, h⟩ := s.bootRead_days []
  have use : ∀ x one, newerCopy Days.seq (some d) (some e) = some (x, one) → daysInUse { v.flash with
      days0 := readArea [] (.days 0) v.flash.days0, days1 := readArea [] (.days 1) v.flash.days1 } = some (x, one) := by
    intro x one hx
    simp only [daysInUse, readArea_nil, h0, h1, hd, he, hx]
  rw [h.time, h.days0, h.days1]
  refine ⟨fun hlt => ?_, fun hlt => ?_⟩
  · obtain ⟨kt, kf⟩ := State.readDays_of_inUse (use d false (if_neg (by omega)))
    rw [kt, kf, ht]
    exact ⟨rfl, h0, rfl⟩
  · obtain ⟨kt, kf⟩ := State.readDays_of_inUse (use e true (if_pos hlt))
    rw [kt, kf, ht]
    exact ⟨rfl, rfl, h1⟩

/-- With neither copy valid the counts start, and the fault is raised (R235). -/
theorem State.bootRead_fresh (s : State) {bad : List FlashArea} (h0 : .days 0 ∈ bad ∨ daysOf s.flash.days0 = none)
    (h1 : .days 1 ∈ bad ∨ daysOf s.flash.days1 = none) :
    (s.bootRead bad).time = { s.time with bootCount := 1, dayCount := 0, hourCount := 0 } ∧
    (s.bootRead bad).idFaults.getLsbD 2 = true := by
  obtain ⟨v, ht, k0, k1, -, h⟩ := s.bootRead_days bad
  have none : daysInUse { v.flash with
      days0 := readArea bad (.days 0) v.flash.days0, days1 := readArea bad (.days 1) v.flash.days1 } = none := by
    simp only [daysInUse, k0, k1, daysOf_readArea_none h0, daysOf_readArea_none h1]
    rfl
  obtain ⟨kt, kf⟩ := State.readDays_of_none none
  exact ⟨h.time.trans (kt.trans (by rw [ht])), h.fault kf⟩

theorem carrierFlashBootRead_spec {bad : List FlashArea} (hb : s.pins.booting = true) (hp : s.pins.bootPhase = 3) :
    ∃ t, exec (.carrierFlashBootRead bad) s = .next t ∧ t.pins = { s.pins with bootPhase := 4 } ∧
      t.time.epochId = { source := BitVec.ofNat 8 s.moduleId, serial := t.time.bootCount.truncate 16, kind := 0 } ∧
      t.time.corr = t.yAge ∧ t.iu.tables.length = 397 ∧
      (∀ d e, daysOf s.flash.days0 = some d → daysOf s.flash.days1 = some e → bad = [] →
        (e.seq < d.seq → t.time.bootCount = d.boot + 1 ∧ t.time.dayCount = d.day ∧ t.time.hourCount = d.hour ∧
          t.flash.days0 = s.flash.days0 ∧ t.flash.days1 = ({ d with seq := d.seq + 1, boot := d.boot + 1 } : Days).bytes) ∧
        (d.seq < e.seq → t.time.bootCount = e.boot + 1 ∧ t.time.dayCount = e.day ∧ t.time.hourCount = e.hour ∧
          t.flash.days0 = ({ e with seq := e.seq + 1, boot := e.boot + 1 } : Days).bytes ∧ t.flash.days1 = s.flash.days1)) ∧
      (.days 0 ∈ bad ∨ daysOf s.flash.days0 = none → .days 1 ∈ bad ∨ daysOf s.flash.days1 = none →
        t.time.bootCount = 1 ∧ t.time.dayCount = 0 ∧ t.time.hourCount = 0 ∧ t.idFaults.getLsbD 2 = true) ∧
      t = { s with
        pins := t.pins, time := t.time, iu := t.iu, stages := t.stages, flash := t.flash, chain := t.chain
        issue := t.issue, cert := t.cert, idFaults := t.idFaults, ringE := t.ringE, ringW := t.ringW
        edges := t.edges, spines := t.spines } := by
  have hexec := exec_carrierFlashBootRead (bad := bad) hb hp
  have hframe := s.bootRead_frame bad
  have htab : (s.bootRead bad).iu.tables.length = 397 := by simp [State.bootRead, State.readTables]
  have hnewer := fun h => @State.bootRead_newer s bad h
  have hfresh := @State.bootRead_fresh s bad
  generalize s.bootRead bad = x at *
  refine ⟨_, hexec, by rw [hframe]; rfl, by rw [hframe]; rfl, rfl, htab, fun d e hd he hbad => ?_, fun h0 h1 => ?_,
    by rw [hframe]; rfl⟩
  · obtain ⟨k0, k1⟩ := hnewer hbad hd he
    refine ⟨fun hlt => ?_, fun hlt => ?_⟩
    · obtain ⟨kt, kf0, kf1⟩ := k0 hlt
      exact ⟨by rw [kt], by rw [kt], by rw [kt], kf0, kf1⟩
    · obtain ⟨kt, kf0, kf1⟩ := k1 hlt
      exact ⟨by rw [kt], by rw [kt], by rw [kt], kf0, kf1⟩
  · obtain ⟨kt, kf⟩ := hfresh h0 h1
    exact ⟨by rw [kt], by rw [kt], by rw [kt], kf⟩

/-! ### The dailies copy and the self-test of stages -/

/-- A completed copy is the newest set of carrier flash, and holds this boot's dailies (R508, R509). -/
theorem State.copyDailies_newest (s : State) : ∃ d, (s.copyDailies true).newestSet = some d ∧ d.boot = s.dailies.boot := by
  unfold State.copyDailies State.newestSet
  dsimp only [Bool.not_true]
  cases s.flash.dailies0 with
  | none =>
    cases s.flash.dailies1 with
    | none => simp
    | some b =>
      have newest : ¬ (if 0 < b.seq then b.seq else 0) + 1 < b.seq := by split <;> omega
      simp [newest]
  | some a =>
    cases s.flash.dailies1 with
    | none => by_cases ha : 0 < a.seq <;> simp [ha]
    | some b =>
      by_cases hlt : b.seq < a.seq
      · simp [hlt, show ¬ a.seq < b.seq by omega]
      · have newest : ¬ (if a.seq < b.seq then b.seq else a.seq) + 1 < b.seq := by split <;> omega
        simp [hlt, newest]

theorem exec_dailiesBootCopy {ok : Bool} (hb : s.pins.booting = true) (hp : s.pins.bootPhase = 4)
    (hv : s.dailies.valid = true) (hu : s.dailies.unsaved = true) :
    exec (.dailiesBootCopy ok) s = .next (s.copyDailies ok) := if_pos (by simp [hb, hp, hv, hu])

/-- Rails whose stages are not held are not re-checked (R32). -/
theorem State.recheckHeld_of_none (rails : List Nat) (x : Nat) (h : ∀ st ∈ s.stages, st.held = false) :
    s.recheckHeld rails x = s := by
  refine if_neg ?_
  simp only [List.any_eq_true, not_exists, not_and]
  intro n _
  split
  · simp
  · rw [h _ (List.mem_of_getElem? ‹s.stage n = some _›)]; simp

theorem foldl_fixed {α σ : Type} {f : σ → α → σ} {a : σ} (h : ∀ x, f a x = a) (l : List α) : l.foldl f a = a := by
  induction l with
  | nil => rfl
  | cons x l ih => rw [List.foldl_cons, h, ih]

/-- Settles O4: the straps and trims, the reads of boot phase 3 by what each of them changes, the boot copy, and a self-test
that finds nothing. -/
theorem bootPhases : Obligations.BootPhases := by
  refine ⟨⟨fun s mv hb hp hl => if_pos (by simp [hb, hp, hl]), fun s ps hb hp hl hv => if_pos ?trims,
    fun s dir hd hr => meshTrimUpdate_moves_trims hd hr⟩, fun s bad hb hp => ?read, fun s hb hp hv hu => ?copy,
    fun s lanes rails hb hp hi hh => ?bist⟩
  case trims =>
    have all : ps.all trimOk = true := List.all_eq_true.2 fun v hm => by simp [trimOk, hv v hm]
    rcases hp with hp | hp <;> simp [hb, hp, hl, all]
  case read => exact carrierFlashBootRead_spec hb hp
  case copy =>
    refine ⟨⟨_, exec_dailiesBootCopy hb hp hv hu, rfl, s.copyDailies_newest, s.copyDailies_frame true⟩,
      exec_dailiesBootCopy hb hp hv hu⟩
  case bist =>
    refine (if_pos (by simp [hb, hp])).trans ?_
    have hrails : (List.range 24).foldl (fun t x => t.recheckHeld rails x) s = s :=
      foldl_fixed (fun x => State.recheckHeld_of_none rails x hh) _
    simp only [hrails, List.foldl_nil, hi, Bool.false_eq_true, if_false]

end Sys2Proof.Machine
end

section
/-! The end of boot (R34, R45, R94, R408, R505, R518), the erasure of a dailies area (R509), and the statement on them. -/

namespace Sys2Proof.Machine

set_option Elab.async false

open Sys2Proof

variable {s : State}

/-- A stage at the end of boot: unlit and unassigned unless it is retired (R45). -/
def Stage.atBootEnd (st : Stage) : Stage :=
  if st.st = .retired then st else { st with st := .unlit, part := none, unassigned := 0, idle := 0 }

/-- The end of boot of a module that does not wait for a master's time (R518). -/
theorem exec_bootEnd (hb : s.pins.booting = true) (hp : s.pins.bootPhase = 5) (ha : s.slaveAlone = false) :
    exec .bootEnd s = .next { s with
      pins := { s.pins with
        booting := false, bootDone := true, parked := false, issueStopped := false
        belowFloor := decide (s.enabledCount < 88) }
      time := { s.time with tickCount := 0 }
      gaffer := { Gaffer.reset with cap := s.capNow }
      rails := s.rails.zipIdx.map (fun (r, _) =>
        if r.broken = 0 then Rail.reset else { Rail.reset with volt := r.volt, excluded := true, broken := r.broken })
      stages := s.stages.map Stage.atBootEnd
      transients := [], lastCtx := 0
      portA := { s.portA with seq := 0 }, portB := { s.portB with seq := 0 }
      iu := { s.iu with number := 0, lost := 0 }
      dailies := { valid := true, boot := s.time.bootCount, unsaved := false, count := 0, log := [], used := 0
                   written := 0, droppedN := 0, dumps := [], delivered := false } } :=
  (if_pos (by simp [hb, hp])).trans (congrArg _ (if_neg (by
    rw [Bool.not_eq_true]; exact ha)))

theorem bootEnd_stage {n : Nat} {st : Stage} (h : s.stage n = some st) :
    (s.stages.map Stage.atBootEnd)[n]? = some st.atBootEnd := by
  rw [List.getElem?_map]
  exact congrArg (Option.map Stage.atBootEnd) h

/-- Settles O5: the end of boot by its state, and an erasure by which of the two sets is the older. -/
theorem bootEndMakesReady : Obligations.BootEndMakesReady := by
  refine ⟨fun s hb hp ha => ⟨_, exec_bootEnd hb hp ha, rfl, rfl, rfl, rfl, rfl, rfl, rfl, fun n st h hr => ?_, fun n st h hr => ?_,
    rfl⟩, fun s a b hd hr hv h0 h1 => ?erase⟩
  · exact (bootEnd_stage h).trans (congrArg some (if_neg hr))
  · exact (bootEnd_stage h).trans (congrArg some (if_pos hr))
  case erase =>
    refine (if_neg (by simp [hd, hr, hv])).trans ?_
    simp only [h0, h1]
    split <;> rfl

end Sys2Proof.Machine
end

section
/-! Control commands (R85 to R91, R243, R262, R488, R502, R503): the handshake said once, what each code does in a state that
accepts it, and the statement on them. -/

namespace Sys2Proof.Machine

set_option Elab.async false

open Sys2Proof

variable {s : State} {p : Port}

/-! ### The handshake -/

/-- The state with the holder's strobe acknowledged (R85). -/
def State.acked (s : State) (p : Port) : State := { s with slate := s.slate.setHand p true }

section Fresh

variable (hr : s.inReset = false) (hh : s.slate.holder = some p) (hs : s.slate.stb p = false)
  {k : Nat} {ok : Bool} {f : State → State}

include hr hh hs

/-- A fresh strobe of the holder is acknowledged, and acts in a state that accepts its code (R85, R89). -/
theorem State.command_acts (hok : ok = true) : s.command p k ok f = f (s.acked p) :=
  (if_neg (by simp [hr, hh, hs])).trans (if_pos hok)

/-- A command whose STATE does not accept it is acknowledged and only entered in the dailies (R89). -/
theorem State.command_logs (hok : ok = false) :
    s.command p k ok f = (s.acked p).log 0x02 (leBytes 1 p.code ++ leBytes 1 k ++ leBytes 1 s.code) :=
  (if_neg (by simp [hr, hh, hs])).trans (if_neg (by simp [hok]))

/-- An instruction that gives a command acts as its code does. -/
theorem exec_command_acts {i : Instr} (hi : exec i s = .next (s.command p k ok f)) (hok : ok = true) :
    exec i s = .next (f (s.acked p)) :=
  hi.trans (congrArg Host.Outcome.next (State.command_acts hr hh hs hok))

/-- An instruction that gives a command out of its states only leaves its dailies entry. -/
theorem exec_command_logs {i : Instr} (hi : exec i s = .next (s.command p k ok f)) (hok : ok = false) :
    exec i s = .next ((s.acked p).log 0x02 (leBytes 1 p.code ++ leBytes 1 k ++ leBytes 1 s.code)) :=
  hi.trans (congrArg Host.Outcome.next (State.command_logs hr hh hs hok))

end Fresh

/-- A port that does not hold the slate, or whose strobe is still up, gives no command (R73, R85). -/
theorem State.command_ignored {k : Nat} {ok : Bool} {f : State → State}
    (h : s.slate.holder ≠ some p ∨ s.slate.stb p = true) : s.command p k ok f = s :=
  if_pos (by rcases h with h | h <;> simp [h])

/-- An instruction that gives such a command changes nothing. -/
theorem exec_command_ignored {i : Instr} {k : Nat} {ok : Bool} {f : State → State}
    (hi : exec i s = .next (s.command p k ok f)) (h : s.slate.holder ≠ some p ∨ s.slate.stb p = true) :
    exec i s = .next s :=
  hi.trans (congrArg Host.Outcome.next (State.command_ignored h))

/-! ### Chip compute reset and re-discipline -/

/-- Entry to level 4 (R502). -/
theorem State.enterLevel4_spec (s : State) (a n : Nat) (h4 : s.level4 = none) (h5 : s.level5 = none) :
    (s.enterLevel4 a n).level4 = some { level := 4, trigger := a, start := s.stamp, stage := n } ∧
    s.enterLevel4 a n = { s.contextsOf (s.enterLevel4 a n) with level4 := (s.enterLevel4 a n).level4 } := by
  have h : s.enterLevel4 a n = { s.supersede.stopContexts 0x23 with
      level4 := some { level := 4, trigger := a, start := s.stamp, stage := n } } := if_neg (by simp [h4, h5])
  have hs := State.contextsOf_trans s.supersede_contextsOf (State.stopContexts_contextsOf _ 0x23)
  rw [h]
  generalize s.supersede.stopContexts 0x23 = u at *
  exact ⟨rfl, by rw [hs]; rfl⟩

/-- A traceable epoch kind becomes holdover, and nothing else changes (R241). -/
theorem State.kindHoldover_frame (s : State) : s.kindHoldover =
    { s with time := { s.time with epochId := s.kindHoldover.time.epochId } } := by
  unfold State.kindHoldover; split <;> rfl

/-- A module that disciplines to PPS acquires afresh, and holds its correction where it was locked (R243). -/
theorem State.rediscipline_pps (hp : s.ppsActive = true) :
    s.rediscipline = { s.recordsOf s.rediscipline with time := s.rediscipline.time } ∧
    s.rediscipline.time.pps = { Pps.idle with ignored := s.time.pps.ignored, lastEdge := s.time.pps.lastEdge } ∧
    (s.time.pps.locked = true → s.rediscipline.time.corr = s.time.corr ∧ s.rediscipline.time.holdover = true) := by
  unfold State.rediscipline
  dsimp only
  rw [if_pos hp]
  have hk := s.kindHoldover_frame
  generalize s.kindHoldover = u at *
  refine ⟨by rw [hk]; rfl, rfl, fun hl => ⟨?_, ?_⟩⟩
  · rw [hk]; simp [State.discipline, State.emit, hl]
  · simp [State.discipline, State.emit, hl]

/-- A slave restarts its servo (R243). -/
theorem State.rediscipline_slave (hs : s.isSlave = true) :
    s.rediscipline = { s.recordsOf s.rediscipline with time := s.rediscipline.time } ∧
    s.rediscipline.time.slave.acquired = false ∧ s.rediscipline.time.slave.locked = false ∧
    s.rediscipline.time.slave.offsets = [] ∧ s.rediscipline.time.slave.stepBy = s.time.slave.stepBy ∧
    s.rediscipline.time.corr = (if s.time.holdover || s.time.slave.locked then s.time.corr else s.yAge) := by
  have hp : s.ppsActive = false := by simp [State.ppsActive, hs]
  unfold State.rediscipline
  dsimp only
  rw [if_neg (by simp [hp]), if_pos hs]
  have hk := s.kindHoldover_frame
  generalize s.kindHoldover = u at *
  refine ⟨by rw [hk]; rfl, rfl, rfl, rfl, by rw [hk]; rfl, by rw [hk]; rfl⟩

/-- With no time source the ageing correction is formed anew (R236, R243). -/
theorem State.rediscipline_sourceless (hp : s.ppsActive = false) (hs : s.isSlave = false) :
    s.rediscipline = State.discipline { s with time := { s.time with corr := s.yAge } } 0x08 := by
  unfold State.rediscipline
  dsimp only
  rw [if_neg (by simp [hp]), if_neg (by simp [hs])]

theorem cmdXid_edge (p : Port) : 96 ≤ (BitVec.ofNat 16 (0x60C0 + p.code)).toNat / 256 := by
  cases p <;> decide

/-- A code that never agreed is told and counted, and changes what an error may change alone (R87). -/
theorem cmdError_spec (s : State) (p : Port) :
    ((s.errorEvent (crossingErr 0x0F (BitVec.ofNat 16 (0x60C0 + p.code)) none) 0 0).countCrossing
      (BitVec.ofNat 16 (0x60C0 + p.code)) 0x0F).toldError
        (s.errBody (crossingErr 0x0F (BitVec.ofNat 16 (0x60C0 + p.code)) none) 0 0) ∧
    (s.errorEvent (crossingErr 0x0F (BitVec.ofNat 16 (0x60C0 + p.code)) none) 0 0).countCrossing
      (BitVec.ofNat 16 (0x60C0 + p.code)) 0x0F =
        s.errorsOf ((s.errorEvent (crossingErr 0x0F (BitVec.ofNat 16 (0x60C0 + p.code)) none) 0 0).countCrossing
          (BitVec.ofNat 16 (0x60C0 + p.code)) 0x0F) := by
  have hevent := s.errorEvent_frame (crossingErr 0x0F (BitVec.ofNat 16 (0x60C0 + p.code)) none) 0 0
  have htold := s.errorEvent_toldError (crossingErr 0x0F (BitVec.ofNat 16 (0x60C0 + p.code)) none) 0 0
  have hcount := (s.errorEvent (crossingErr 0x0F (BitVec.ofNat 16 (0x60C0 + p.code)) none) 0 0).countCrossing_edge_frame
    0x0F (cmdXid_edge p)
  refine ⟨?_, State.errorsOf_of_frames hevent hcount⟩
  rw [hcount]
  exact htold

/-- Settles O7: every command by the handshake, and the effect of its code. -/
theorem controlCommands : Obligations.ControlCommands := by
  refine ⟨fun s p hr hh hs => ⟨?idle, fun hc => ?cutAll, fun hc => ?park, fun hc hp => ?unpark, fun hc h4 h5 => ?reset,
      fun h1 h6 b c => ?cycle⟩,
    ⟨fun s p hr hh hs => ⟨fun h2 h3 => ?parkLogs, fun h4 => ?unparkLogs⟩, fun s p h => ?ignored⟩,
    fun s p hr hh hs hc => ⟨fun hp => ?pps, fun hsl => ?slave, fun hp hsl => ?sourceless, fun h18 => ?calibrate⟩,
    fun s p h => if_pos h, fun s p hr hh hs => ?error⟩
  case idle => exact (exec_command_acts hr hh hs rfl rfl).trans rfl
  case cutAll => exact (exec_command_acts hr hh hs rfl (by simpa [or_assoc] using hc)).trans rfl
  case park => exact (exec_command_acts hr hh hs rfl (by simpa using hc)).trans rfl
  case unpark =>
    exact (exec_command_acts hr hh hs rfl (by simpa using hc)).trans (congrArg Host.Outcome.next (if_neg (by
      rw [Bool.not_eq_true]; exact hp)))
  case reset =>
    obtain ⟨h, hf⟩ := (s.acked p).enterLevel4_spec 0x84 0xFF h4 h5
    exact ⟨_, exec_command_acts hr hh hs rfl (by simpa [or_assoc] using hc), by rw [hf]; rfl, h, by rw [hf]; rfl⟩
  case cycle =>
    refine ⟨_, exec_command_acts hr hh hs rfl (by simp [h1, h6]), ?_⟩
    obtain ⟨hf, hparts⟩ := State.runLevel5_spec { s.acked p with pins := { (s.acked p).pins with parked := true } } 0x85 0xFF
      (s.acked p).stamp b c
    exact ⟨by rw [hf], by rw [hf], by rw [hf], hparts, by rw [hf], by rw [hf]; rfl, by rw [hf]; rfl, by rw [hf]; rfl⟩
  case parkLogs => exact exec_command_logs hr hh hs rfl (by simp [h2, h3])
  case unparkLogs => exact exec_command_logs hr hh hs rfl (by simp [h4])
  case ignored =>
    exact ⟨exec_command_ignored rfl h, exec_command_ignored rfl h, exec_command_ignored rfl h,
      exec_command_ignored rfl h, exec_command_ignored rfl h, exec_command_ignored rfl h,
      exec_command_ignored rfl h⟩
  case pps =>
    obtain ⟨hf, hpps, hl⟩ := State.rediscipline_pps (s := s.acked p) hp
    exact ⟨_, exec_command_acts hr hh hs rfl (by simpa [or_assoc] using hc), by rw [hf]; rfl, hpps, hl,
      by rw [hf]; rfl⟩
  case slave =>
    obtain ⟨hf, h1, h2, h3, h4, h5⟩ := State.rediscipline_slave (s := s.acked p) hsl
    exact ⟨_, exec_command_acts hr hh hs rfl (by simpa [or_assoc] using hc), by rw [hf]; rfl, h1, h2, h3, h4, h5,
      by rw [hf]; rfl⟩
  case sourceless =>
    exact ⟨_, (exec_command_acts hr hh hs rfl (by simpa [or_assoc] using hc)).trans
      (congrArg Host.Outcome.next (State.rediscipline_sourceless (s := s.acked p) hp hsl)), rfl, rfl⟩
  case calibrate => exact (exec_command_acts hr hh hs rfl (by simpa [or_assoc, h18] using hc)).trans rfl
  case error =>
    obtain ⟨⟨e, he⟩, hf⟩ := cmdError_spec (s.acked p) p
    exact ⟨_, exec_command_acts hr hh hs rfl rfl, by rw [hf]; rfl, ⟨e, he⟩, by rw [hf]; rfl⟩

end Sys2Proof.Machine
end

section
/-! The whole block and the JTAG port (R18, R22, R225): the queue, the state at reset, and the statements on them. -/

namespace Sys2Proof.Machine

set_option Elab.async false

open Sys2Proof

/-! ### Steps -/

/-- A reference edge moves wafer time and every island's copy, and at an alignment boundary the correction takes effect
(R133, R225). -/
theorem State.advance_spec (s : State) (now : WaferTime) :
    (s.advance now).time = { s.time with
      wafer := now, applied := if now.toNat % 5120 = 0 then divider s.time.corr else s.time.applied } ∧
    (∀ st ∈ (s.advance now).stages, st.island = now) ∧
    s.advance now = { s with time := (s.advance now).time, stages := (s.advance now).stages } := by
  unfold State.advance
  split
  · refine ⟨rfl, fun st hst => ?_, rfl⟩
    obtain ⟨u, -, rfl⟩ := List.mem_map.mp hst
    rfl
  · refine ⟨rfl, fun st hst => ?_, rfl⟩
    obtain ⟨u, -, rfl⟩ := List.mem_map.mp hst
    rfl

/-- Settles O58, by the two cases of the queue. -/
theorem stepRunsTheFrontCommand : Obligations.StepRunsTheFrontCommand := by
  refine ⟨fun s c rest h => ?_, fun s h => ⟨fun he => ?_, fun he => ?_⟩, fun s nbits w => ⟨rfl, rfl⟩⟩
  · simp only [step, h]
  · obtain ⟨htime, hisland, hframe⟩ := s.advance_spec (s.time.wafer + 1024)
    have hstep : step s = .next (s.advance (s.time.wafer + 1024)) := by simp only [step, h, idle, he, if_true]
    exact ⟨_, hstep, by rw [htime], hisland, by rw [htime], by rw [htime], hframe⟩
  · simp [step, h, idle, he]

/-! ### Reset -/

/-- A stage at reset is unlit and holds nothing. -/
theorem Stage.reset_memWf (n : Nat) : (Stage.reset n).memWf = true := rfl

/-- The state at reset meets the invariant. -/
theorem State.reset_inv : State.reset.Inv where
  memory := fun st hst => by
    obtain ⟨n, -, rfl⟩ := List.mem_map.mp hst
    exact Stage.reset_memWf n
  stages := by rw [State.reset, List.length_map, List.length_range]
  parts := List.length_replicate
  rails := List.length_replicate
  slots := List.length_replicate
  edges := List.length_replicate
  trims := by decide
  corr := by simp [inRange, State.reset, TimeBase.reset]
  prev := by simp [inRange, State.reset, TimeBase.reset, Pps.idle]
  hour := by decide
  limit := by decide

/-- Settles O59. -/
theorem resetMeetsTheInvariant : Obligations.ResetMeetsTheInvariant := by
  refine ⟨State.reset_inv, ⟨fun st hst => ?_, fun c hc => List.eq_of_mem_replicate hc⟩, rfl, rfl, rfl, rfl, rfl⟩
  obtain ⟨n, -, rfl⟩ := List.mem_map.mp hst
  exact .inl rfl

/-! ### JTAG -/

/-- A cell of the register that SAMPLE/PRELOAD captures or loads. -/
theorem getElem?_map_zipIdx {α β : Type} (l : List α) (f : α × Nat → β) {i : Nat} {a : α} (h : l[i]? = some a) :
    (l.zipIdx.map f)[i]? = some (f (a, i)) := by
  simp [List.getElem?_zipIdx, h]

/-- Settles O57: each instruction loads its register, and the pins are driven under EXTEST alone. -/
theorem jtagInstructions : Obligations.JtagInstructions := by
  refine ⟨rfl, by decide, fun s sampled loaded op => ⟨⟨_, rfl, rfl, fun c hc => ?_, fun c hc => ?_⟩,
    ⟨_, rfl, rfl, ?_, ?_, fun i c hi => ⟨?_, ?_⟩, fun c => ?_⟩, rfl, by decide, by decide, by decide, by decide,
    fun h => ?_, fun h => if_pos h⟩⟩
  · exact if_pos (by simp [Jtag.load, hc])
  · exact if_neg (by simp [hc])
  · rw [List.length_map, List.length_zipIdx]; decide
  · rw [List.length_map, List.length_zipIdx]; decide
  · exact getElem?_map_zipIdx contacts (fun (c, i) => (s.ownLevel c).getD (sampled.getD i false)) hi
  · exact getElem?_map_zipIdx contacts (fun (_, i) => loaded.getD i false) hi
  · exact if_neg (by simp [Jtag.load])
  · have hop : op ≠ 0x00 := by rintro rfl; simp at h
    refine (if_neg (by omega)).trans ?_
    rw [Jtag.load, decide_eq_false hop]

end Sys2Proof.Machine
end

section
/-! Host ports (R395 to R404, R408 to R415, R483, R487, R540): what the operations of a port leave alone, and the statements
on the BAR0 words, submission, the CUT word, binding and delivery. -/

namespace Sys2Proof.Machine

set_option Elab.async false

open Sys2Proof

variable {s : State} {p : Port}

/-! ### Ports of a state -/

/-- A host port's change leaves the other port alone. -/
@[simp] theorem State.port_modPort_twin (s : State) (p : Port) (f : HostPort → HostPort) :
    (s.modPort p f).port p.other = s.port p.other := by cases p <;> rfl

/-- A host port's change changes the two ports alone. -/
theorem State.modPort_ports (s : State) (p : Port) (f : HostPort → HostPort) :
    s.modPort p f = { s with portA := (s.modPort p f).portA, portB := (s.modPort p f).portB } := by cases p <;> rfl

/-- A port that stays as it is leaves the state as it is. -/
theorem State.modPort_self (s : State) (p : Port) {f : HostPort → HostPort} (h : f (s.port p) = s.port p) :
    s.modPort p f = s := by
  cases p
  · exact congrArg (fun q => { s with portA := q }) h
  · exact congrArg (fun q => { s with portB := q }) h

/-- A port's change depends on the port that stands there alone. -/
theorem State.modPort_congr (s : State) (p : Port) {f g : HostPort → HostPort} (h : f (s.port p) = g (s.port p)) :
    s.modPort p f = s.modPort p g := by
  cases p
  · exact congrArg (fun q => { s with portA := q }) h
  · exact congrArg (fun q => { s with portB := q }) h

/-- Two changes of one port in turn. -/
theorem State.modPort_modPort (s : State) (p : Port) (f g : HostPort → HostPort) :
    (s.modPort p f).modPort p g = s.modPort p (fun q => g (f q)) := by cases p <;> rfl

/-- An error event of a port leaves records alone (R451). -/
theorem State.portEvent_frame (s : State) (k : Nat) (p : Port) (o : Nat) :
    s.portEvent k p o = s.recordsOf (s.portEvent k p o) := rfl

section Posting

variable {q : HostPort} (h : q.canSend = true)
include h

/-- A port that can send sends a write at once (R540). -/
theorem HostPort.post_sends (o : HostOut) : q.post o = { q with sent := q.sent ++ [o] } := if_pos h

/-- A port that can send signals a vector at once (R412). -/
theorem HostPort.msix_sends (v : Nat) : q.msix v = { q with sent := q.sent ++ [.msix v] } := if_pos h

end Posting

/-- A write of a port, sent or held, changes what was sent and what is held (R540). -/
theorem HostPort.post_frame (q : HostPort) (o : HostOut) :
    q.post o = { q with sent := (q.post o).sent, held := (q.post o).held } := by
  unfold HostPort.post; split <;> rfl

/-- A vector, sent or pending, changes what was sent and what is pending (R412). -/
theorem HostPort.msix_frame (q : HostPort) (v : Nat) :
    q.msix v = { q with sent := (q.msix v).sent, msixPend := (q.msix v).msixPend } := by
  unfold HostPort.msix; split
  · rfl
  · split <;> rfl

/-! ### BAR0 words -/

/-- Mailbox words are heard after boot and out of reset (R519). -/
theorem State.hears_of (hb : s.pins.bootDone = true) (hr : s.inReset = false) : (!s.hears) = false := by
  simp [State.hears, hb, hr]

/-- Before that they are not (R519). -/
theorem State.not_hears_of (h : s.pins.bootDone = false ∨ s.inReset = true) : (!s.hears) = true := by
  rcases h with h | h <;> simp [State.hears, h]

/-- An instruction that acts on mailbox words heard. -/
theorem exec_heard {i : Instr} {o : Host.Outcome State Fault Refusal} (hi : exec i s = if !s.hears then .next s else o)
    (hb : s.pins.bootDone = true) (hr : s.inReset = false) : exec i s = o :=
  hi.trans (if_neg (by rw [State.hears_of hb hr]; decide))

/-- An instruction that acts on mailbox words changes nothing while they are not heard. -/
theorem exec_unheard {i : Instr} {o : Host.Outcome State Fault Refusal} (hi : exec i s = if !s.hears then .next s else o)
    (h : s.pins.bootDone = false ∨ s.inReset = true) : exec i s = .next s :=
  hi.trans (if_pos (State.not_hears_of h))

/-- Settles O15, word by word. -/
theorem mailboxWords : Obligations.MailboxWords := by
  refine ⟨fun s p w hb hr => ⟨fun h => ⟨?_, ?_⟩, fun h => ⟨?_, ?_⟩, fun hring hlow hhigh => ?_, fun h => ?_,
    fun hring heq hhigh => ?_, fun h => ?_, fun h => ?_, fun o => ?_⟩, fun s p w o h => ⟨rfl, exec_unheard rfl h,
    exec_unheard rfl h, exec_unheard rfl h, exec_unheard rfl h, exec_unheard rfl h⟩⟩
  · exact (exec_heard rfl hb hr).trans (if_neg (not_not.mpr h))
  · exact (exec_heard rfl hb hr).trans (if_neg (not_not.mpr h))
  · exact (exec_heard rfl hb hr).trans (if_pos h)
  · exact (exec_heard rfl hb hr).trans (if_pos h)
  · exact ((exec_heard rfl hb hr).trans (if_pos (by simp [hring, hlow.le, hhigh]))).trans (if_neg (by omega))
  · refine (exec_heard rfl hb hr).trans (if_neg ?_)
    rcases h with h | h | h
    · simp [h]
    · simp [Nat.not_le.mpr h]
    · simp [Nat.not_le.mpr h]
  · exact ((exec_heard rfl hb hr).trans (if_pos (by simp [hring, heq.ge, hhigh]))).trans (if_pos heq)
  · refine ⟨_, (exec_heard rfl hb hr).trans (if_neg (not_not.mpr h)), ?_⟩
    rw [State.port_modPort, State.port_modPort_twin]
    exact ⟨rfl, rfl, rfl, rfl, rfl, rfl, rfl, s.modPort_ports p _⟩
  · exact (exec_heard rfl hb hr).trans (if_pos h)
  · exact if_pos (by simp [State.hears, hb, hr])

/-! ### Submission -/

/-- A descriptor that keeps Table 12.4 asks for a slot. -/
theorem judgeSubmit_request {p : Port} {f : Fetch} (he : f.err = false) (hst : fieldAt f.bytes 16 8 % 8 = 0)
    (ha : fieldAt f.bytes 0 8 % 4096 = 0) (hl : fieldAt f.bytes 8 8 % 4096 = 0) (hlo : 8192 ≤ fieldAt f.bytes 8 8)
    (hhi : fieldAt f.bytes 8 8 ≤ 2 ^ 32) (hz : fieldAt f.bytes 32 32 = 0) :
    judgeSubmit p f = .request { port := p, addr := fieldAt f.bytes 0 8, len := fieldAt f.bytes 8 8
                                 tag := BitVec.ofNat 64 (fieldAt f.bytes 24 8) } (fieldAt f.bytes 16 8) := by
  unfold judgeSubmit
  dsimp only
  rw [if_neg (by simp [he]), if_neg (by simp [hst]), if_pos (by simpa [ha, hl, hlo, hz] using hhi)]

/-- The descriptor fetch of a port completes (R402, R540). -/
theorem State.takeFetch_some {f : Fetch} {w : Word} {rest : List Word} (h : (s.port p).submitAt = w :: rest) :
    s.takeFetch p (some f) = (s.modPort p (fun q => { q with submitAt := rest }),
      some (judgeSubmit p (if (s.port p).canSend then f else { f with err := true, statusOk := false }))) := by
  unfold State.takeFetch
  rw [h]

/-- What a fetch on one port alone leads to. -/
def State.judged (s : State) (p : Port) : SubmitResult → State
  | .request sub addr => s.takeSlot sub addr
  | r => s.refuseSubmit p r

/-- What the module reads of a descriptor fetch: through a port that cannot send, nothing (R540). -/
def State.fetched (s : State) (p : Port) (f : Fetch) : Fetch :=
  if (s.port p).canSend then f else { f with err := true, statusOk := false }

/-- A port that can send reads its descriptor. -/
theorem State.fetched_sends (h : (s.port p).canSend = true) (f : Fetch) : s.fetched p f = f := if_pos h

/-- A port that cannot send reads nothing (R540). -/
theorem State.fetched_held (h : (s.port p).canSend = false) (f : Fetch) :
    s.fetched p f = { f with err := true, statusOk := false } := if_neg (by simp [h])

/-- A fetch that completes on port A alone. -/
theorem exec_submission_a {f : Fetch} {w : Word} {rest : List Word} (h : s.portA.submitAt = w :: rest) :
    exec (.submissionDescriptorFetched (some f) none) s = .next
      ((s.modPort .a (fun q => { q with submitAt := rest })).judged .a (judgeSubmit .a (s.fetched .a f))) := by
  have hfetch : s.takeFetch .a (some f) = (_, some (judgeSubmit .a (s.fetched .a f))) := State.takeFetch_some (p := .a) h
  show execSubmissionDescriptorFetched (some f) none s = _
  unfold execSubmissionDescriptorFetched
  rw [hfetch]
  generalize judgeSubmit .a (s.fetched .a f) = r
  generalize s.modPort .a _ = u
  cases r <;> rfl

/-- A fetch that completes on port B alone. -/
theorem exec_submission_b {f : Fetch} {w : Word} {rest : List Word} (h : s.portB.submitAt = w :: rest) :
    exec (.submissionDescriptorFetched none (some f)) s = .next
      ((s.modPort .b (fun q => { q with submitAt := rest })).judged .b (judgeSubmit .b (s.fetched .b f))) := by
  have hfetch : s.takeFetch .b (some f) = (_, some (judgeSubmit .b (s.fetched .b f))) := State.takeFetch_some (p := .b) h
  have hnone : s.takeFetch .a none = (s, none) := rfl
  show execSubmissionDescriptorFetched none (some f) s = _
  unfold execSubmissionDescriptorFetched
  rw [hnone]
  dsimp only
  rw [hfetch]
  generalize judgeSubmit .b (s.fetched .b f) = r
  generalize s.modPort .b _ = u
  cases r <;> rfl

/-- Two requests that meet with one slot free (R403). -/
theorem exec_submission_tie {a b : Option Fetch} {u v : State} {sa sb : Submission} {xa xb : Nat}
    (ha : s.takeFetch .a a = (u, some (.request sa xa))) (hb : u.takeFetch .b b = (v, some (.request sb xb)))
    (hone : v.freeSlots.length = 1) :
    exec (.submissionDescriptorFetched a b) s = .next { (if v.slotPri = .a then (v.takeSlot sa xa).takeSlot sb xb
      else (v.takeSlot sb xb).takeSlot sa xa) with slotPri := v.slotPri.other } := by
  show execSubmissionDescriptorFetched a b s = _
  unfold execSubmissionDescriptorFetched
  rw [ha]
  dsimp only
  rw [hb]
  exact congrArg Host.Outcome.next (if_pos (decide_eq_true hone))

/-- The lowest free slot comes first (R403). -/
theorem State.freeSlots_cons {i : Nat} (h : s.slots[i]? = some none) (hlow : ∀ j, j < i → s.slots[j]? ≠ some none)
    (hi : i < 16) : ∃ rest, s.freeSlots = i :: rest := by
  have hhead : s.freeSlots.head? = some i := by
    rw [State.freeSlots, List.head?_filter, List.find?_range_eq_some]
    exact ⟨by simpa using h, List.mem_range.mpr hi, fun j hj => by simpa using hlow j hj⟩
  cases hf : s.freeSlots with
  | nil => rw [hf] at hhead; simp at hhead
  | cons a l => rw [hf] at hhead; exact ⟨l, by simpa using hhead⟩

/-- With none free there is none (R403). -/
theorem State.freeSlots_nil (h : ∀ i, i < 16 → s.slots[i]? ≠ some none) : s.freeSlots = [] :=
  List.filter_eq_nil_iff.mpr (fun i hi => by simpa using h i (List.mem_range.mp hi))

/-- A status word changes what its port sends, holds and has pending (R404). -/
theorem State.status_port (s : State) (p : Port) (a c k g : Nat) : (s.status p a c k g).port p = { s.port p with
    sent := ((s.status p a c k g).port p).sent, held := ((s.status p a c k g).port p).held
    msixPend := ((s.status p a c k g).port p).msixPend } := by
  rw [State.status, State.port_modPort, HostPort.msix_frame]
  generalize HostOut.status a _ = o
  rw [HostPort.post_frame (s.port p) o]

theorem State.takeSlot_cons {i : Nat} {rest : List Nat} {sub : Submission} {a : Nat} (h : s.freeSlots = i :: rest) :
    s.takeSlot sub a = ({ s with slots := s.slots.set i (some sub), slotOrder := s.slotOrder ++ [i] }).status sub.port a
      0x01 i sub.tag.toNat := by
  unfold State.takeSlot; rw [h]

theorem State.takeSlot_nil {sub : Submission} {a : Nat} (h : s.freeSlots = []) :
    s.takeSlot sub a = s.status sub.port a 0x02 0xFF sub.tag.toNat := by
  unfold State.takeSlot; rw [h]

/-- A status word changes the two ports alone. -/
theorem State.status_ports (s : State) (p : Port) (a c k g : Nat) : s.status p a c k g =
    { s with portA := (s.status p a c k g).portA, portB := (s.status p a c k g).portB } := s.modPort_ports p _

/-- With one slot free the first of two requests takes it, and the second gets a status word alone (R403). -/
theorem State.takeSlot_takeSlot {i : Nat} (hi : s.freeSlots = [i]) (x y : Submission) (a b : Nat) :
    ((s.takeSlot x a).takeSlot y b).slots = s.slots.set i (some x) ∧
    ((s.takeSlot x a).takeSlot y b).slotOrder = s.slotOrder ++ [i] ∧
    ((s.takeSlot x a).takeSlot y b).slotPri = s.slotPri := by
  have hmem : ∀ j, j < 16 → (s.slots[j]? = some none ↔ j = i) := fun j hj => by
    have h : j ∈ s.freeSlots ↔ j = i := by rw [hi]; simp
    simpa [State.freeSlots, hj] using h
  have h1 := State.takeSlot_cons (sub := x) (a := a) hi
  have hslots : (s.takeSlot x a).slots = s.slots.set i (some x) := by rw [h1, State.status_ports]
  have hnone : (s.takeSlot x a).freeSlots = [] := State.freeSlots_nil (fun j hj => by
    rw [hslots, List.getElem?_set]
    split
    · split <;> simp
    · next h => exact fun k => h ((hmem j hj).mp k).symm)
  rw [State.takeSlot_nil hnone, State.status_ports]
  exact ⟨hslots, by rw [h1, State.status_ports], by rw [h1, State.status_ports]⟩

/-- Settles O16: a fetch on one port alone, and two that meet. -/
theorem submissionTakesASlot : Obligations.SubmissionTakesASlot := by
  refine ⟨fun s f w rest hat hsend he hst ha hl hlo hhi hz => ?_, fun s f w rest hat hsend => ?_,
    fun s f w rest hat hsend he hst ha => ?_, fun s f g w v r1 r2 sa sb xa xb i hA hB hsA hsB hjA hjB hfree => ?_⟩
  · have hexec := exec_submission_a (f := f) hat
    rw [State.fetched_sends (p := .a) hsend, judgeSubmit_request he hst ha hl hlo hhi hz] at hexec
    refine ⟨fun i hi hlow h16 => ?_, fun hnone => ?_⟩
    · obtain ⟨more, hmore⟩ := State.freeSlots_cons (s := s.modPort .a (fun q => { q with submitAt := rest })) hi hlow h16
      have htake := State.takeSlot_cons (a := fieldAt f.bytes 16 8)
        (sub := { port := .a, addr := fieldAt f.bytes 0 8, len := fieldAt f.bytes 8 8
                  tag := BitVec.ofNat 64 (fieldAt f.bytes 24 8) }) hmore
      refine ⟨_, hexec.trans (congrArg Host.Outcome.next htake), rfl, rfl, ?_, rfl, rfl⟩
      exact congrArg HostPort.submitAt (State.status_port _ .a _ _ _ _)
    · exact hexec.trans (congrArg Host.Outcome.next (State.takeSlot_nil
        (s := s.modPort .a (fun q => { q with submitAt := rest })) (State.freeSlots_nil hnone)))
  · have hexec := exec_submission_a (f := f) hat
    rw [State.fetched_held (p := .a) hsend] at hexec
    exact hexec
  · have hexec := exec_submission_b (f := f) hat
    rw [State.fetched_sends (p := .b) hsend] at hexec
    have hjudge : judgeSubmit .b f = .status (fieldAt f.bytes 16 8) 0x03 (fieldAt f.bytes 24 8) := by
      unfold judgeSubmit
      dsimp only
      rw [if_neg (by simp [he]), if_neg (by simp [hst]), if_neg (by simp [ha])]
    rw [hjudge] at hexec
    exact hexec
  · have ha : s.takeFetch .a (some f) = (_, some (judgeSubmit .a (s.fetched .a f))) := State.takeFetch_some (p := .a) hA
    have hb : (s.modPort .a (fun q => { q with submitAt := r1 })).takeFetch .b (some g) =
      (_, some (judgeSubmit .b (s.fetched .b g))) := State.takeFetch_some (p := .b) hB
    rw [State.fetched_sends (p := .a) hsA, hjA] at ha
    rw [State.fetched_sends (p := .b) hsB, hjB] at hb
    have hexec := exec_submission_tie ha hb (congrArg List.length hfree)
    generalize hw : (s.modPort .a (fun q => { q with submitAt := r1 })).modPort .b (fun q => { q with submitAt := r2 }) = u
      at hexec
    have hpri : u.slotPri = s.slotPri := by rw [← hw]; rfl
    have hslots : u.slots = s.slots := by rw [← hw]; rfl
    have horder : u.slotOrder = s.slotOrder := by rw [← hw]; rfl
    have hu : u.freeSlots = [i] := by rw [State.freeSlots, hslots]; exact hfree
    rw [hpri] at hexec
    obtain ⟨ha1, ha2, -⟩ := State.takeSlot_takeSlot hu sa sb xa xb
    obtain ⟨hb1, hb2, -⟩ := State.takeSlot_takeSlot hu sb sa xb xa
    rw [hslots] at ha1 hb1
    rw [horder] at ha2 hb2
    refine ⟨_, hexec, ?_, rfl, ?_⟩
    · by_cases hp : s.slotPri = .a
      · rw [if_pos hp, if_pos hp]; exact ha1
      · rw [if_neg hp, if_neg hp]; exact hb1
    · by_cases hp : s.slotPri = .a
      · rw [if_pos hp]; exact ha2
      · rw [if_neg hp]; exact hb2

/-! ### The CUT word -/

/-- Settles O17: the word heard, and the context that it names. -/
theorem cutWordNamesAContext : Obligations.CutWordNamesAContext := by
  refine fun s p w hb hr => ⟨fun hz hid => ?_, fun h => ?_⟩
  · have hexec := (exec_heard (i := .cutWord p w) rfl hb hr).trans (if_neg (by simpa using ⟨hz, hid⟩))
    refine ⟨fun hnone => hexec.trans ?_, fun k c hk hc hcut => hexec.trans ?_, fun k c hk hc hcut => hexec.trans ?_⟩
    · rw [hnone]; rfl
    · rw [hk]; dsimp only; rw [hc]; exact if_pos hcut
    · rw [hk]; dsimp only; rw [hc]; exact if_neg (by simp [hcut])
  · refine (exec_heard rfl hb hr).trans (if_pos ?_)
    simpa using h

end Sys2Proof.Machine
end

section
/-! Binding, port states and delivery (R395, R399 to R401, R408 to R414, R483, R487, R540): the statements on them. -/

namespace Sys2Proof.Machine

set_option Elab.async false

open Sys2Proof

variable {s : State} {p : Port}

/-! ### Records at the head of a port -/

/-- A written record moves the produced position and takes a number (R409). -/
theorem HostPort.ringWrite_frame (q : HostPort) (r : Ring) (rec : Record) : q.ringWrite r rec = { q with
    sent := (q.ringWrite r rec).sent, produced := q.produced + rec.body.units, seq := q.seq + 1, prodDue := true
    dropped := false } := rfl

/-- A record is sent behind what the port has sent (R409). -/
theorem HostPort.ringWrite_sent (q : HostPort) (r : Ring) (rec : Record) :
    ∃ outs, (q.ringWrite r rec).sent = q.sent ++ outs := ⟨_, rfl⟩

/-- A record that does not reach the end of the ring is written in one piece (R409). -/
theorem HostPort.ringWrite_whole {q : HostPort} {r : Ring} {rec : Record} (hpos : q.produced % ringUnits r = 0)
    (hlen : (rec.bytes q.seq).length ≤ 16 * ringUnits r) :
    (q.ringWrite r rec).sent = q.sent ++ [.ring 0 (rec.bytes q.seq)] := by
  simp [HostPort.ringWrite, hpos, hlen]

/-- A dropped record changes the lost counts, the sequence number and what vector 2 changes (R408, R412). -/
theorem HostPort.dropOne_frame (q : HostPort) : q.dropOne = { q with
    lost := q.lost + 1, firstLost := if q.lost = 0 then q.seq else q.firstLost, lastLost := q.seq
    lostBind := q.lostBind + 1, seq := q.seq + 1, dropped := true
    sent := q.dropOne.sent, msixPend := q.dropOne.msixPend } := by
  unfold HostPort.dropOne
  dsimp only
  split
  · rfl
  · rw [HostPort.msix_frame]

@[simp] theorem HostPort.dropOne_lost (q : HostPort) : q.dropOne.lost = q.lost + 1 := by rw [HostPort.dropOne_frame]
@[simp] theorem HostPort.dropOne_seq (q : HostPort) : q.dropOne.seq = q.seq + 1 := by rw [HostPort.dropOne_frame]
@[simp] theorem HostPort.dropOne_queue (q : HostPort) : q.dropOne.queue = q.queue := by rw [HostPort.dropOne_frame]

/-- Dropped records take a number each and are counted (R411). -/
theorem HostPort.dropMany_spec (n : Nat) (q : HostPort) : (HostPort.dropMany n q).lost = q.lost + n ∧
    (HostPort.dropMany n q).seq = q.seq + BitVec.ofNat 32 n ∧ (HostPort.dropMany n q).queue = q.queue := by
  induction n generalizing q with
  | zero => exact ⟨rfl, (BitVec.add_zero _).symm, rfl⟩
  | succ n ih =>
    obtain ⟨h1, h2, h3⟩ := ih q.dropOne
    rw [HostPort.dropOne_lost] at h1
    rw [HostPort.dropOne_seq] at h2
    rw [HostPort.dropOne_queue] at h3
    refine ⟨h1.trans (by omega), h2.trans ?_, h3⟩
    rw [Nat.add_comm n 1, BitVec.ofNat_add, ← BitVec.add_assoc]
    rfl

/-- The record at the front of a port's queue is delivered (R408 to R410). -/
theorem exec_recordAtPortHead_item {r : Record} {rest : List QItem} (h : (s.port p).queue = .item r :: rest) :
    exec (.recordAtPortHead p) s = .next (s.modPort p (fun q => ({ q with queue := rest }).deliver r s.stamp)) := by
  show execRecordAtPortHead p s = _
  unfold execRecordAtPortHead
  rw [h]

/-- A record with room in a ring, and nothing lost, is written (R409, R410). -/
theorem HostPort.deliver_writes {q : HostPort} {r : Record} {g : Ring} {now : Word} (hg : q.ring = some g)
    (hsend : q.canSend = true) (hlost : q.lost = 0) (hfits : q.fits r.body.units = true) :
    q.deliver r now = q.ringWrite g r := by
  unfold HostPort.deliver
  rw [hg]
  dsimp only
  rw [if_neg (by simp [hsend]), if_pos hlost, if_pos hfits]

/-- A record with no ring is dropped (R410). -/
theorem HostPort.deliver_drops {q : HostPort} (r : Record) (now : Word) (hg : q.ring = none) :
    q.deliver r now = q.dropOne := by
  unfold HostPort.deliver; rw [hg]

/-! ### Output completion -/

/-- The commits outstanding on a port without those of a frame (R414). -/
def Ctx.outDone (p : Port) (m : Nat) (c : Ctx) : Ctx :=
  { c with outs := c.outs.filter (fun x => !(decide (x.2.1 = p) && decide (x.2.2 = m))) }

/-- A port without a commit of an ended context (R414). -/
def HostPort.settled (x : Nat × BitVec 8 × Nat) (q : HostPort) : HostPort :=
  { q with late := q.late.filter (fun y => y ≠ x) }

/-- No commit of an ended context stands before those of the one that runs (R414). -/
theorem find_late_none {l : List (Nat × BitVec 8 × Nat)} {k : Nat} (h : ∀ x ∈ l, x.1 ≠ k) :
    l.find? (fun x => x.1 = k) = none :=
  List.find?_eq_none.mpr (fun x hx => by simpa using h x hx)

/-- Settles O19, statement by statement. -/
theorem recordsVectorsAndStalls : Obligations.RecordsVectorsAndStalls := by
  refine ⟨⟨fun s p r rest h => ⟨fun g hg hsend hlost hexp hroom => ?written, fun hring => ?dropped⟩,
      fun s p n rest h => ?marker, fun s p n => ⟨fun h => ?full, fun h => ?room⟩⟩,
    ⟨fun s p r hring hdue hsend => ?producer, fun s p hdue hsend => ?vector,
      fun s p k n m c rest hc houts hlate hheld hsend => ?complete, fun s p k f i rest hlate hheld hsend => ?late⟩,
    fun s p => ⟨fun hring htold hticks => ?stall, fun h => ?noStall⟩⟩
  case written =>
    have hunits : ringUnits g = 2 ^ 26 := by rw [ringUnits, hexp]
    have hdel : ({ s.port p with queue := rest } : HostPort).deliver r s.stamp =
        ({ s.port p with queue := rest } : HostPort).ringWrite g r :=
      HostPort.deliver_writes hg hsend hlost (by
        unfold HostPort.fits
        dsimp only
        rw [hg]
        exact decide_eq_true (by rw [hunits]; exact hroom))
    refine ⟨_, exec_recordAtPortHead_item h, ?_⟩
    rw [State.port_modPort, State.port_modPort_twin, hdel]
    exact ⟨rfl, rfl, rfl, rfl, hlost, rfl, fun hpos hlen => HostPort.ringWrite_whole (by rw [hunits]; exact hpos) (by
      rw [hunits]; exact hlen), s.modPort_ports p _⟩
  case dropped =>
    have hdel := HostPort.deliver_drops (q := { s.port p with queue := rest }) r s.stamp hring
    refine ⟨_, exec_recordAtPortHead_item h, ?_⟩
    rw [State.port_modPort, hdel, HostPort.dropOne_frame]
    exact ⟨rfl, rfl, rfl, rfl, rfl, rfl, s.modPort_ports p _⟩
  case marker =>
    have hexec : exec (.recordAtPortHead p) s = .next (s.modPort p (fun q => HostPort.dropMany n { q with queue := rest })) := by
      show execRecordAtPortHead p s = _
      unfold execRecordAtPortHead
      rw [h]
    obtain ⟨h1, h2, h3⟩ := HostPort.dropMany_spec n { s.port p with queue := rest }
    exact ⟨_, hexec, by rw [State.port_modPort]; exact h1, by rw [State.port_modPort]; exact h2, by
      rw [State.port_modPort]; exact h3, s.modPort_ports p _⟩
  case full => exact congrArg Host.Outcome.next (s.modPort_congr p (if_pos h))
  case room => exact congrArg Host.Outcome.next (s.modPort_self p (if_neg (by omega)))
  case producer =>
    have hexec : exec (.producerWordWrite p) s = .next (s.modPort p (fun q =>
        { q.post (.producer r.producer q.produced) with prodDue := false, vec0Due := true })) := by
      show execProducerWordWrite p s = _
      unfold execProducerWordWrite
      rw [hring]
      exact if_pos hdue
    exact hexec.trans (congrArg Host.Outcome.next (s.modPort_congr p (by rw [HostPort.post_sends hsend])))
  case vector =>
    refine (if_pos hdue).trans (congrArg Host.Outcome.next (s.modPort_congr p ?_))
    rw [HostPort.msix_sends hsend]
  case complete =>
    have hfind : c.outs.find? (fun o => decide (o.2.1 = p)) = some (n, p, m) := by rw [houts]; simp
    have hexec : exec (.outputWritesComplete p k) s = .next ((s.modCtx k (Ctx.outDone p m)).modPort p
        (fun q => q.msix (8 + k))) := by
      show execOutputWritesComplete p k s = _
      unfold execOutputWritesComplete
      rw [find_late_none hlate]
      dsimp only
      rw [hc]
      dsimp only
      rw [hfind]
      exact if_neg (by simp [hheld])
    have hport : (s.modCtx k (Ctx.outDone p m)).port p = s.port p := by cases p <;> rfl
    refine ⟨_, c.outDone p m, hexec, ?_, fun x hx => ?_, fun x hx hne => ?_, ?_, ?_⟩
    · rw [State.modPort_ports]
      exact State.ctx_modCtx (Ctx.outDone p m) hc
    · simpa [imp_iff_not_or] using (List.mem_filter.mp hx).2
    · exact List.mem_filter.mpr ⟨hx, by simpa [imp_iff_not_or] using hne⟩
    · rw [State.port_modPort, hport, HostPort.msix_sends hsend]
    · rw [State.modPort_ports]; rfl
  case late =>
    have hexec : exec (.outputWritesComplete p k) s = .next (s.modPort p (fun q =>
        (q.settled (k, i, f)).msix (8 + k))) := by
      show execOutputWritesComplete p k s = _
      unfold execOutputWritesComplete
      rw [hlate, List.find?_cons_of_pos (by simp)]
      exact if_neg (by simp [hheld])
    refine ⟨_, hexec, ?_⟩
    rw [State.port_modPort, HostPort.msix_sends (q := (s.port p).settled (k, i, f)) hsend]
    exact ⟨by simp [HostPort.settled, hlate], rfl, s.modPort_ports p _⟩
  case stall =>
    refine ⟨_, if_pos (by simp [hring, htold, hticks]), ?_, State.log_newest .., ?_⟩
    · have h1 : ∀ (u : State) (x : List Byte), (u.log 0x0A x).port p = u.port p := fun u x => by cases p <;> rfl
      rw [h1, State.port_modPort]
    · cases p <;> rfl
  case noStall =>
    refine if_neg ?_
    rcases h with h | h
    · simp [h]
    · simp [Nat.not_le.mpr h]

/-! ### Binding and port states -/

/-- A port bound to a ring that stands at zero, its producer word first (R400). -/
def HostPort.opened (q : HostPort) (r : Ring) : HostPort :=
  { q with
    ring := some r, produced := 0, consumed := 0, prodDue := false, vec0Due := true, stallTicks := 0
    stallTold := false, sent := q.sent ++ [.producer r.producer 0] }

/-- The identity record and the lost-record count that a bind writes (R400). -/
def HostPort.greeted (q : HostPort) (r : Ring) (x : Record) (now : Word) : HostPort :=
  if q.lost = 0 then q.ringWrite r x
  else { (q.ringWrite r x).ringWrite r ((q.ringWrite r x).lostRecord now) with lost := 0 }

/-- A valid bind with no dailies set to deliver (R400). -/
theorem State.bindPort_port {r : Ring} (hsend : (s.port p).canSend = true) (hset : s.newestSet = none) :
    (s.bindPort p r).port p = { ((s.port p).opened r).greeted r (s.moduleRecord (.identity (s.identityBytes p))) s.stamp with
      lostBind := 0 } := by
  have hchunks : s.chunks = [] := by unfold State.chunks; rw [hset]
  have hpost : ({ s.port p with
      ring := some r, produced := 0, consumed := 0, prodDue := false, vec0Due := true, stallTicks := 0
      stallTold := false } : HostPort).post (.producer r.producer 0) = (s.port p).opened r :=
    HostPort.post_sends (q := { s.port p with
      ring := some r, produced := 0, consumed := 0, prodDue := false, vec0Due := true, stallTicks := 0
      stallTold := false }) hsend _
  unfold State.bindPort
  rw [State.port_modPort, hchunks, hpost]
  rfl

/-- What the records of a bind change (R400, R409). -/
theorem HostPort.greeted_spec (q : HostPort) (r : Ring) (x : Record) (now : Word) :
    q.greeted r x now = { q with
      sent := (q.greeted r x now).sent, produced := q.produced + x.body.units + (if q.lost = 0 then 0 else 3)
      seq := (q.greeted r x now).seq, prodDue := true, dropped := false, lost := 0 } ∧
    ∃ outs, (q.greeted r x now).sent = q.sent ++ outs := by
  unfold HostPort.greeted
  by_cases h : q.lost = 0
  · rw [if_pos h, if_pos h]
    refine ⟨?_, q.ringWrite_sent r x⟩
    rw [HostPort.ringWrite_frame, h]
    rfl
  · rw [if_neg h, if_neg h]
    obtain ⟨o1, h1⟩ := q.ringWrite_sent r x
    obtain ⟨o2, h2⟩ := (q.ringWrite r x).ringWrite_sent r ((q.ringWrite r x).lostRecord now)
    exact ⟨rfl, o1 ++ o2, by rw [h2, h1, List.append_assoc]⟩

/-- A valid bind through a port that can send (R399, R400). -/
theorem exec_bind_valid {f : Fetch} {w : Word} {rest : List Word} {r : Ring} (h : (s.port p).bindAt = w :: rest)
    (hj : judgeBind f = some r) (hsend : (s.port p).canSend = true) (hset : s.newestSet = none) :
    exec (.bindDescriptorFetched p f) s = .next ((s.modPort p (fun q => { q with bindAt := rest })).bindPort p r) := by
  have hset' : ((s.modPort p (fun q => { q with bindAt := rest })).bindPort p r).newestSet = none := by
    unfold State.bindPort
    rw [State.newestSet, State.modPort_ports, State.modPort_ports s]
    exact hset
  show execBindDescriptorFetched p f s = _
  unfold execBindDescriptorFetched
  rw [h]
  dsimp only
  rw [hj]
  dsimp only
  rw [if_pos (by rw [State.port_modPort]; exact hsend), State.noteDelivery, if_neg (by rw [hset']; decide)]

/-- No strap holds a host port below x4 (Table 2.11). -/
theorem State.four_le_hostLanes (s : State) : 4 ≤ s.hostLanes := by
  unfold State.hostLanes
  generalize s.strap 19 / 3 = k
  match k with
  | 0 | 1 | 2 | k + 3 => simp

/-- A record at the back of a queue changes the queue alone (R408, R411). -/
theorem HostPort.enqueue_frame (q : HostPort) (r : Record) : q.enqueue r = { q with queue := (q.enqueue r).queue } := by
  unfold HostPort.enqueue; split <;> rfl

/-- An error event of a port changes the queues of the ports alone, as to ports. -/
theorem State.portEvent_port (s : State) (k : Nat) (p q : Port) (o : Nat) :
    (s.portEvent k p o).port q = { s.port q with queue := ((s.portEvent k p o).port q).queue } := by
  cases q
  · exact HostPort.enqueue_frame s.portA _
  · exact HostPort.enqueue_frame s.portB _

/-- A link that trains at x4 or wider does not reset its function (R395). -/
theorem exec_narrow_wide (p : Port) {l : Nat} (h : 4 ≤ l) : exec (.hostLinkError p (.narrow l)) s =
    .next (if s.inReset || !s.linkFault (.narrow l) then s else s.portEvent 0x17 p 0) := by
  have hdown : (if decide (l < 4) = true then s.modPort p (fun q => q.funcReset false) else s) = s :=
    if_neg (by simpa using h)
  exact congrArg (fun u : State => Host.Outcome.next (if s.inReset || !s.linkFault (.narrow l) then u
    else u.portEvent 0x17 p 0)) hdown

/-- Settles O18, statement by statement. -/
theorem bindingAndPortStates : Obligations.BindingAndPortStates := by
  refine ⟨fun s p f w rest r h hj hup hd3 hset => ?valid, fun s p f w rest h hbad => ?invalid, fun s p k => ?reset,
    fun s p k hr => ⟨fun h => ?told, fun l hl hw => ?wide, fun h => ?down⟩, fun s p hr => ?back, fun s p hup => if_pos hup⟩
  case valid =>
    have hsend : (s.port p).canSend = true := by simp [HostPort.canSend, hup, hd3]
    refine ⟨_, exec_bind_valid h hj hsend hset, ?_⟩
    have hport := State.bindPort_port (s := s.modPort p (fun q => { q with bindAt := rest })) (p := p) (r := r)
      (by rw [State.port_modPort]; exact hsend) (by rw [State.newestSet, State.modPort_ports]; exact hset)
    rw [State.port_modPort] at hport
    obtain ⟨hframe, outs, houts⟩ := HostPort.greeted_spec (({ s.port p with bindAt := rest } : HostPort).opened r) r
      ((s.modPort p (fun q => { q with bindAt := rest })).moduleRecord
        (.identity ((s.modPort p (fun q => { q with bindAt := rest })).identityBytes p)))
      (s.modPort p (fun q => { q with bindAt := rest })).stamp
    have hbind : (s.modPort p (fun q => { q with bindAt := rest })).bindPort p r =
      { s with portA := ((s.modPort p (fun q => { q with bindAt := rest })).bindPort p r).portA
               portB := ((s.modPort p (fun q => { q with bindAt := rest })).bindPort p r).portB } := by
      unfold State.bindPort
      rw [State.modPort_ports, State.modPort_ports s]
    refine ⟨?_, ?_, ?_, ?_, ?_, ?_, ⟨outs, ?_⟩, ?_, ?_, hbind⟩
    · rw [hport, hframe]; rfl
    · rw [hport, hframe]; rfl
    · rw [hport, hframe]
    · rw [hport]
    · rw [hport, hframe]; rfl
    · rw [hport, hframe]; show 0 + 127 + (if (s.port p).lost = 0 then 0 else 3) = _; split <;> rfl
    · rw [hport]; exact houts.trans (List.append_assoc ..)
    · rw [hport, hframe]; rfl
    · rw [State.bindPort, State.port_modPort_twin, State.port_modPort_twin]
  case invalid =>
    show execBindDescriptorFetched p f s = _
    unfold execBindDescriptorFetched
    rw [h]
    dsimp only
    rcases hbad with hbad | hbad
    · rw [hbad]; rfl
    · cases judgeBind f with
      | none => rfl
      | some r => exact if_neg (by rw [State.port_modPort]; simpa [HostPort.canSend] using hbad)
  case reset =>
    refine ⟨_, rfl, ?_⟩
    rw [State.port_modPort, State.port_modPort_twin]
    refine ⟨rfl, rfl, rfl, rfl, rfl, ?_, rfl, rfl, fun k i f a d hmem => ?_, rfl, s.modPort_ports p _⟩
    · simp [HostPort.funcReset]
    · exact List.mem_filter.mpr ⟨hmem, rfl⟩
  case told =>
    rcases h with rfl | ⟨l, rfl, h4, hl⟩
    · exact congrArg Host.Outcome.next (if_neg (by simp [hr, State.linkFault]))
    · rw [exec_narrow_wide p h4]
      exact congrArg Host.Outcome.next (if_neg (by simp [hr, State.linkFault, hl]))
  case wide =>
    subst hl
    rw [exec_narrow_wide p (s.four_le_hostLanes.trans hw)]
    exact congrArg Host.Outcome.next (if_pos (by simp [State.linkFault, hw]))
  case down =>
    have hexec : exec (.hostLinkError p k) s = .next ((s.modPort p (fun q => q.funcReset false)).portEvent 0x17 p 0) := by
      rcases h with rfl | ⟨l, rfl, hl⟩
      · exact congrArg Host.Outcome.next (if_neg (by simp [hr, State.linkFault]))
      · have h4 := s.four_le_hostLanes
        refine (congrArg Host.Outcome.next (if_neg ?_)).trans (congrArg (fun u : State => Host.Outcome.next (u.portEvent 0x17 p 0))
          (if_pos (decide_eq_true hl)))
        simp [hr, State.linkFault, hl.trans_le h4]
    have hport := (s.modPort p (fun q => q.funcReset false)).portEvent_port 0x17 p p 0
    rw [State.port_modPort] at hport
    refine ⟨_, hexec, by rw [hport]; exact Bool.and_false _, by rw [hport]; rfl, ?_, ?_⟩
    · obtain ⟨e, he, hk, -⟩ := State.logEntry_newest ((s.modPort p (fun q => q.funcReset false)).emit 0 0 _) 0x01 0 0 _
      exact ⟨e, he, hk⟩
    · rw [State.portEvent_frame, State.modPort_ports s]; rfl
  case back => exact if_neg (by simp [hr])

end Sys2Proof.Machine
end

section
/-! The load check and acceptance (R381 to R387, R403, R405): what an accepted reel's partition and origin are, and the
statement on them. -/

namespace Sys2Proof.Machine

set_option Elab.async false

open Sys2Proof

variable {s : State}

/-- A slot that holds a submission is refused with its record and freed (R384, R403). -/
theorem State.refuseSlot_held {k : Nat} {sub : Submission} (h : s.slots[k]? = some (some sub)) (r : Refused) (hash : List Byte) :
    s.refuseSlot k r hash =
      { s.emit 0 0 (.refused k r.reason sub.port.code sub.tag (BitVec.ofNat 64 r.detail) hash) with
        check := none, slots := s.slots.set k none, slotOrder := s.slotOrder.erase k } := by
  unfold State.refuseSlot
  rw [h]
  rfl

/-- Nothing is read through a port that cannot send, or by a failed read (R383, R540). -/
theorem exec_loadCheckRead_none {k cap : Nat} {sub : Submission} (hk : s.check = some { slot := k, cap := cap, reel := none })
    (hsub : s.slots[k]? = some (some sub)) {o : Option (List Byte)} (ho : o = none ∨ (s.port sub.port).canSend = false) :
    exec (.loadCheckReadComplete o) s = .next (s.refuseSlot k unreadRefusal (zeros 32)) := by
  have hread : (if (s.port sub.port).canSend = true then o else none) = none := by
    rcases ho with rfl | ho
    · exact ite_self _
    · simp [ho]
  show execLoadCheckReadComplete o s = _
  unfold execLoadCheckReadComplete
  rw [hk]
  dsimp only
  rw [hsub]
  dsimp only [Option.join]
  simp only [Option.bind, id]
  rw [hread]

/-- The bytes read are judged (R383). -/
theorem exec_loadCheckRead_passes {k cap : Nat} {sub : Submission} {bytes : List Byte} {r : Reel}
    (hk : s.check = some { slot := k, cap := cap, reel := none }) (hsub : s.slots[k]? = some (some sub))
    (hsend : (s.port sub.port).canSend = true) (hj : judgeReel bytes sub.len (s.strap 0) = .inr r) :
    exec (.loadCheckReadComplete (some bytes)) s = .next { s with check := some { slot := k, cap := cap, reel := some r } } := by
  show execLoadCheckReadComplete (some bytes) s = _
  unfold execLoadCheckReadComplete
  rw [hk]
  dsimp only
  rw [hsub]
  simp only [Option.join, Option.bind, id, hsend, if_true]
  rw [hj]

/-- The origin with the first key is one of those listed (R386). -/
theorem bestOrigin_mem {l : List (Nat × (Nat × Nat))} {x : Nat × (Nat × Nat)} (h : bestOrigin l = some x) : x ∈ l := by
  induction l generalizing x with
  | nil => cases h
  | cons a l ih =>
    rw [bestOrigin] at h
    cases hl : bestOrigin l with
    | none => rw [hl] at h; cases h; exact List.mem_cons_self
    | some y =>
      rw [hl] at h
      dsimp only at h
      split at h
      · cases h; exact List.mem_cons_of_mem _ (ih hl)
      · cases h; exact List.mem_cons_self

/-- A chosen origin's rectangle lies on the grid (R385, R386). -/
theorem State.place_fits {r : Reel} {o : Nat} (h : s.place r = .inl o) :
    rowOf o + r.h ≤ 8 ∧ colOf o + r.w ≤ 12 := by
  have hmem : o ∈ s.candidates r.h r.w := by
    unfold State.place at h
    dsimp only at h
    split at h
    · next x hx =>
      cases h
      obtain ⟨y, hy, rfl⟩ := List.mem_map.mp (bestOrigin_mem hx)
      exact (List.mem_filter.mp hy).1
    · cases h
  unfold State.candidates at hmem
  split at hmem
  · cases hmem
  · have hp := (List.mem_filter.mp hmem).2
    simp only [Bool.and_eq_true, decide_eq_true_eq] at hp
    exact hp.1

/-- What passes tests 12 to 15: the lowest partition with no context, and an origin on the grid (R382, R385). -/
theorem State.judgeState_inr {cap : Nat} {r : Reel} {p o : Nat} (h : s.judgeState cap r = .inr (p, o)) :
    p < 8 ∧ s.ctx p = none ∧ (∀ q, q < p → s.ctx q ≠ none) ∧ rowOf o + r.h ≤ 8 ∧ colOf o + r.w ≤ 12 := by
  unfold State.judgeState at h
  split at h
  · cases h
  · next q hq =>
    split at h
    · cases h
    · split at h
      · cases h
      · split at h
        · next x hx =>
          cases h
          obtain ⟨hnone, hrange, hlow⟩ := List.find?_range_eq_some.mp hq
          exact ⟨List.mem_range.mp hrange, by simpa using hnone, fun q hq => by simpa [Option.isSome_iff_ne_none] using hlow q hq,
            State.place_fits hx⟩
        · cases h

/-- The context of a partition is what stands in its place. -/
theorem State.ctx_putCtx {p : Nat} (c : Option Ctx) (h : p < s.parts.length) : (s.putCtx p c).ctx p = c := by
  simp [State.ctx, setAt, h]

theorem State.ctx_putCtx_other {p q : Nat} (c : Option Ctx) (h : q ≠ p) : (s.putCtx p c).ctx q = s.ctx q := by
  simp [State.ctx, setAt, List.getElem?_set_ne h.symm]

/-- The stage of a new partition (R387). -/
def Stage.placed (p : Nat) (st : Stage) : Stage :=
  { st with part := some p, closing := none, stopped := false, skipping := false, idle := 0, unassigned := 0 }

/-- Acceptance takes the stages of the context into the partition and leaves the rest but the records, the context, its ID
and the slot (R387). -/
theorem State.acceptReel_frame (s : State) (k p o : Nat) (sub : Submission) (r : Reel) :
    s.acceptReel k p o sub r = { s.recordsOf (s.acceptReel k p o sub r) with
      stages := (s.modStages (rectStages o r.h r.w) (Stage.placed p)).stages
      parts := setAt s.parts p (some (.accepted (s.freshId 16 s.lastCtx) sub k o r s.time.wafer))
      lastCtx := s.freshId 16 s.lastCtx, check := none, slots := s.slots.set k none
      slotOrder := s.slotOrder.erase k } := by
  have hstages := s.modStages_stages (rectStages o r.h r.w) (Stage.placed p)
  have hput := (s.putCtx p (some (.accepted (s.freshId 16 s.lastCtx) sub k o r s.time.wafer))).modStages_stages
    (rectStages o r.h r.w) (Stage.placed p)
  have hframe := (s.putCtx p (some (.accepted (s.freshId 16 s.lastCtx) sub k o r s.time.wafer))).modStages_frame
    (rectStages o r.h r.w) (Stage.placed p)
  unfold State.acceptReel
  dsimp only
  have hc : (Ctx.accepted (s.freshId 16 s.lastCtx) sub k o r s.time.wafer).stages = rectStages o r.h r.w := rfl
  have hf : (fun st : Stage => ({ st with
    part := some p, closing := none, stopped := false, skipping := false, idle := 0, unassigned := 0 } : Stage)) =
      Stage.placed p := rfl
  rw [hc, hf]
  generalize s.freshId 16 s.lastCtx = id at *
  generalize (s.putCtx p _).modStages _ _ = u at *
  rw [hframe, hstages, hput]
  rfl

/-- The acceptance step of a module that is not parked (R382, R385). -/
theorem exec_acceptance {k cap : Nat} {sub : Submission} {r : Reel} (h4 : s.level4 = none) (hp : s.pins.parked = false)
    (hk : s.check = some { slot := k, cap := cap, reel := some r }) (hsub : s.slots[k]? = some (some sub)) :
    exec .acceptanceStep s = .next (Sum.elim (fun f => s.refuseSlot k f r.hash)
      (fun x => s.acceptReel k x.1 x.2 sub r) (s.judgeState cap r)) := by
  show execAcceptanceStep s = _
  unfold execAcceptanceStep
  rw [if_neg (by simp [h4]), hk]
  dsimp only
  rw [hsub]
  simp only [Option.join, Option.bind, id, hp]
  cases s.judgeState cap r <;> rfl

/-- Settles O20, statement by statement. -/
theorem loadCheckAndAcceptance : Obligations.LoadCheckAndAcceptance := by
  refine ⟨⟨fun s k rest hc hb hr ho => ⟨fun hp => ?begins, fun sub hp hsub => ?parked⟩, fun s k cap sub hk hsub =>
      ⟨fun o ho => ?unread, fun bytes r hsend hj => exec_loadCheckRead_passes hk hsub hsend hj⟩⟩,
    fun s k cap p o sub r h4 hp hk hsub hparts hstages hj => ?accepted, fun s k cap sub r f h4 hp hk hsub hj => ?refused,
    fun s h => if_pos h⟩
  case begins =>
    refine (if_neg (by simp [hc, State.hears, hb, hr])).trans ?_
    rw [ho]
    exact if_neg (by simp [hp])
  case parked =>
    refine ⟨_, (if_neg (by simp [hc, State.hears, hb, hr])).trans ?_, State.refuseSlot_held hsub parkedRefusal (zeros 32)⟩
    rw [ho]
    exact if_pos hp
  case unread => exact (exec_loadCheckRead_none hk hsub ho).trans (congrArg Host.Outcome.next (State.refuseSlot_held hsub _ _))
  case accepted =>
    obtain ⟨hp8, hnone, hlow, hrow, hcol⟩ := State.judgeState_inr hj
    have hexec := exec_acceptance h4 hp hk hsub
    rw [hj] at hexec
    have hframe := s.acceptReel_frame k p o sub r
    have hctx := fun c q (hq : q ≠ p) => State.ctx_putCtx_other (s := s) c hq
    have hself := fun c => State.ctx_putCtx (s := s) (p := p) c (by omega)
    have hnodup : (rectStages o r.h r.w).Nodup := rectStages_nodup (by omega)
    have hin : ∀ n ∈ rectStages o r.h r.w, ∃ st, s.stage n = some st := fun n hn =>
      State.stage_of_lt (by rw [hstages]; exact rectStages_lt hrow hcol hn)
    rw [Sum.elim_inr] at hexec
    generalize s.acceptReel k p o sub r = t at *
    refine ⟨t, .accepted (s.freshId 16 s.lastCtx) sub k o r s.time.wafer, hexec, ?_, hnone, hlow, rfl, rfl, rfl, rfl, rfl,
      rfl, rfl, ?_, fun n hn => ?_, fun n hn => ?_, fun q hq => ?_, by rw [hframe], by rw [hframe], by rw [hframe]; rfl⟩
    · rw [hframe]; exact hself _
    · rw [hframe]; rfl
    · obtain ⟨st, hst⟩ := hin n hn
      exact ⟨st.placed p, by rw [hframe]; exact State.stage_modStages hnodup hn hst, rfl⟩
    · rw [hframe]; exact State.stage_modStages_other hn
    · rw [hframe]; exact hctx _ q hq
  case refused =>
    have hexec := exec_acceptance h4 hp hk hsub
    rw [hj] at hexec
    exact hexec.trans (congrArg Host.Outcome.next (State.refuseSlot_held hsub f r.hash))

end Sys2Proof.Machine
end

section
/-! What a tick leaves standing (R93, R108, R229, R285): the parts of the state that none of a tick's operations changes,
operation by operation, and the statement on the tick's time and counts. -/

namespace Sys2Proof.Machine

set_option Elab.async false

open Sys2Proof

/-- The parts of the state that nothing a counted tick does to contexts, stages and reports changes. -/
structure Standing where
  time      : TimeBase
  gaffer    : Gaffer
  straps    : Straps
  slate     : Slate
  trims     : List Nat
  slots     : List (Option Submission)
  slotOrder : List Nat
  check     : Option Check
  lastCtx   : BitVec 8
  chain     : Chain
  ringE     : RingState
  ringW     : RingState
  spines    : List SpineSeg
  spineOut  : List SpineOut
  jtag      : Jtag
  cert      : List Byte
  level5    : Option Level

/-- What stands in a state. -/
def State.standing (s : State) : Standing :=
  { time := s.time, gaffer := s.gaffer, straps := s.straps, slate := s.slate, trims := s.trims, slots := s.slots
    slotOrder := s.slotOrder, check := s.check, lastCtx := s.lastCtx, chain := s.chain, ringE := s.ringE
    ringW := s.ringW, spines := s.spines, spineOut := s.spineOut, jtag := s.jtag, cert := s.cert, level5 := s.level5 }

variable {s : State}

/-- Steps that each leave what stands leave it together. -/
theorem standing_foldl {α : Type} {f : State → α → State} (hf : ∀ t x, (f t x).standing = t.standing) (l : List α) (s : State) :
    (l.foldl f s).standing = s.standing := by
  induction l generalizing s with
  | nil => rfl
  | cons x l ih => exact (ih (f s x)).trans (hf s x)

/-! ### Operations on stages, splices and rails -/

section Operations

variable (s : State) (n p : Nat)

@[simp] theorem standing_modStage (f : Stage → Stage) : (s.modStage n f).standing = s.standing := rfl
@[simp] theorem standing_putStage (st : Stage) : (s.putStage n st).standing = s.standing := rfl
@[simp] theorem standing_modPart (f : Stage → Stage) : (s.modPart p f).standing = s.standing := rfl
@[simp] theorem standing_modCtx (f : Ctx → Ctx) : (s.modCtx p f).standing = s.standing := rfl
@[simp] theorem standing_putCtx (c : Option Ctx) : (s.putCtx p c).standing = s.standing := rfl
@[simp] theorem standing_modRail (f : Rail → Rail) : (s.modRail n f).standing = s.standing := rfl
@[simp] theorem standing_draw : s.draw.standing = s.standing := rfl
@[simp] theorem standing_emit (c e : BitVec 8) (b : RecBody) : (s.emit c e b).standing = s.standing := rfl
@[simp] theorem standing_checkFloor : s.checkFloor.standing = s.standing := rfl
@[simp] theorem standing_noteConcurrency : s.noteConcurrency.standing = s.standing := rfl
@[simp] theorem standing_traceTick (m : Bool) (c : Ctx) (k x : Nat) : (s.traceTick n m c k x).standing = s.standing := rfl
@[simp] theorem standing_freeWaits : (s.freeWaits p).standing = s.standing := rfl
@[simp] theorem standing_saveRetired : s.saveRetired.standing = s.standing := rfl

@[simp] theorem standing_modPort (q : Port) (f : HostPort → HostPort) : (s.modPort q f).standing = s.standing := by
  cases q <;> rfl

@[simp] theorem standing_modStages (ns : List Nat) (f : Stage → Stage) : (s.modStages ns f).standing = s.standing :=
  standing_foldl (f := fun t n => t.modStage n f) (fun _ _ => rfl) ns s

@[simp] theorem standing_errorEvent (e : ErrReport) (a : Nat) (o : BitVec 16) :
    (s.errorEvent e a o).standing = s.standing := by rw [State.errorEvent_frame]; rfl

@[simp] theorem standing_modEnd (e : End) (f : Link → Link) : (s.modEnd e f).standing = s.standing := by
  unfold State.modEnd; split
  · split <;> rfl
  · rfl

@[simp] theorem standing_modSplice (e : End) (f : Link → Link) : (s.modSplice e f).standing = s.standing := by
  simp [State.modSplice]

@[simp] theorem standing_modAllAcross (f : Link → Link) : (s.modAllAcross n f).standing = s.standing :=
  standing_foldl (fun t _ => standing_modEnd t _ f) _ s

@[simp] theorem standing_unalign : (s.unalign n).standing = s.standing := by simp [State.unalign]

@[simp] theorem standing_tellStep : (s.tellStep n).standing = s.standing := by
  unfold State.tellStep; split <;> simp

@[simp] theorem standing_switched : (s.switched n).standing = s.standing := by simp [State.switched]

@[simp] theorem standing_setVolt (v : Nat) : (s.setVolt n v).standing = s.standing := by simp [State.setVolt]

@[simp] theorem standing_raiseFor (k : Nat) : (s.raiseFor n k).standing = s.standing := by
  unfold State.raiseFor
  dsimp only
  split
  · split <;> simp
  · rfl

@[simp] theorem standing_retirement (b : RetBody) : (s.retirement b).standing = s.standing := by
  unfold State.retirement; dsimp only; split <;> rfl

@[simp] theorem standing_holdStage (k : Nat) : (s.holdStage n k).standing = s.standing := by
  unfold State.holdStage
  split
  · rfl
  · split <;> simp

@[simp] theorem standing_litMarker : (s.litMarker n).standing = s.standing := by
  unfold State.litMarker; split <;> rfl

@[simp] theorem standing_makeLit : (s.makeLit n).standing = s.standing := by simp [State.makeLit]

@[simp] theorem standing_flushTrace (fuel : Nat) : (s.flushTrace n fuel).standing = s.standing := by
  induction fuel generalizing s with
  | zero => rfl
  | succ fuel ih =>
    rw [State.flushTrace]
    split
    · split
      · rfl
      · simp [ih]
    · rfl

/-! ### Contexts -/

@[simp] theorem standing_failCtx (k r c : Nat) : (s.failCtx p k r c).standing = s.standing := by
  unfold State.failCtx
  split
  · rfl
  · split
    · rfl
    · dsimp only; split <;> simp

@[simp] theorem standing_failStageCtx (k : Nat) : (s.failStageCtx n k).standing = s.standing := by
  unfold State.failStageCtx; split <;> simp

@[simp] theorem standing_dropStep (c : Ctx) : (s.dropStep c).standing = s.standing := by simp [State.dropStep]

@[simp] theorem standing_endCtxTick (c : Ctx) (d : Bool × Nat × Nat × Nat) :
    (s.endCtxTick p c d).standing = s.standing := by simp [State.endCtxTick]

@[simp] theorem standing_cutCtxTick (c : Ctx) : (s.cutCtxTick p c).standing = s.standing := by
  unfold State.cutCtxTick
  dsimp only
  rw [standing_freeWaits, standing_foldl (fun t m => by split; · rfl
                                                        · split <;> simp)]
  simp

@[simp] theorem standing_releaseOn (c : Ctx) (q : Port) (xs : List (Nat × Staged × OutEntry)) :
    (s.releaseOn p c q xs).standing = s.standing := by
  unfold State.releaseOn; dsimp only; split <;> simp

@[simp] theorem standing_tallyStage (c : Ctx) : (s.tallyStage p n c).standing = s.standing := by
  unfold State.tallyStage; split
  · rfl
  · dsimp only; split <;> simp

@[simp] theorem standing_commitFrame (c : Ctx) : (s.commitFrame p c).standing = s.standing := by
  unfold State.commitFrame
  dsimp only
  rw [standing_modCtx, standing_modStages, standing_foldl (fun t m => standing_tallyStage t m p c)]
  simp

@[simp] theorem standing_beginStage (c : Ctx) (x y : Bool) : (s.beginStage c n x y).standing = s.standing := by
  unfold State.beginStage
  split
  · next st r _ _ =>
    dsimp only
    generalize st.beginTake r _ _ _ = b
    split <;> simp
  · rfl

@[simp] theorem standing_beginFrame : (s.beginFrame p).standing = s.standing := by
  unfold State.beginFrame
  split
  · rfl
  · dsimp only
    rw [standing_foldl (fun t m => standing_beginStage t m _ _ _)]
    simp

@[simp] theorem standing_beginRetake : (s.beginRetake p).standing = s.standing := by
  unfold State.beginRetake
  split
  · rfl
  · dsimp only
    rw [standing_foldl (fun t m => standing_beginStage t m _ _ _)]
    simp

@[simp] theorem standing_noteMargin (c : Ctx) : (s.noteMargin c).standing = s.standing := by simp [State.noteMargin]

@[simp] theorem standing_commitTick (c : Ctx) (a : TickAction) : (s.commitTick p c a).standing = s.standing := by
  unfold State.commitTick
  split
  · split <;> simp
  · dsimp only
    split
    · simp
    · split
      · simp
      · split <;> simp

@[simp] theorem standing_holdTick (c : Ctx) : (s.holdTick p c).standing = s.standing := by
  unfold State.holdTick; split <;> simp

@[simp] theorem standing_waitTick (c : Ctx) : (s.waitTick p c).standing = s.standing := by
  unfold State.waitTick; dsimp only; split <;> simp

@[simp] theorem standing_runAction (c : Ctx) (a : TickAction) : (s.runAction p c a).standing = s.standing := by
  cases a
  case begin_ => unfold State.runAction; dsimp only; split <;> simp
  all_goals simp [State.runAction]

@[simp] theorem standing_tickCtx : (s.tickCtx p).standing = s.standing := by
  unfold State.tickCtx
  split
  · rfl
  · split
    · rfl
    · split
      · simp
      · dsimp only
        split <;> split <;> simp

/-! ### Stages and clocks -/

@[simp] theorem standing_relight : (s.relight n).standing = s.standing := by
  unfold State.relight; split
  · rfl
  · split <;> simp

@[simp] theorem standing_lowerFmax (f : Nat) : (s.lowerFmax n f).standing = s.standing := by
  unfold State.lowerFmax; dsimp only; split
  · rfl
  · split <;> simp

@[simp] theorem standing_derateTick : (s.derateTick n).standing = s.standing := by
  unfold State.derateTick; split <;> simp

@[simp] theorem standing_closeDebt : (s.closeDebt n).standing = s.standing := by
  unfold State.closeDebt
  split
  · rfl
  · split
    · rfl
    · dsimp only
      split
      · split <;> simp
      · split <;> split <;> simp

@[simp] theorem standing_stageTick : (s.stageTick n).standing = s.standing := by
  unfold State.stageTick
  split
  · rfl
  · split
    · rfl
    · split
      · split <;> simp
      · split <;> simp
      · rfl
      · rfl
      · rfl

@[simp] theorem standing_clockTick : (s.clockTick n).standing = s.standing := by
  unfold State.clockTick
  split
  · rfl
  · split
    · rfl
    · dsimp only; split <;> simp

@[simp] theorem standing_checkSide (d : Side) : (s.checkSide n d).standing = s.standing := by
  unfold State.checkSide; split
  · rfl
  · simp

@[simp] theorem standing_checkAligned : (s.checkAligned n).standing = s.standing :=
  standing_foldl (fun t d => standing_checkSide t n d) _ s

@[simp] theorem standing_sendTrace : (s.sendTrace n).standing = s.standing := by
  unfold State.sendTrace; split
  · rfl
  · split <;> simp

/-! ### The module -/

@[simp] theorem standing_measureTick : s.measureTick.standing = s.standing := by
  unfold State.measureTick State.measure; split <;> rfl

@[simp] theorem standing_reportOverruns : s.reportOverruns.standing = s.standing := by
  have h := standing_foldl (fun (t : State) (x : Xing) => standing_errorEvent t (crossingErr 0x0E x.xid none) 0 x.count)
    (s.xings.filter Xing.flag) s
  exact h

@[simp] theorem standing_holdBroken (o : Option Nat) : (s.holdBroken o).standing = s.standing :=
  standing_foldl (fun t x => by
    dsimp only
    split
    · rfl
    · exact standing_foldl (fun t m => by split; · rfl
                                          · split <;> simp) _ t) _ s

@[simp] theorem standing_restRails : s.restRails.standing = s.standing :=
  standing_foldl (fun t x => by
    dsimp only
    split
    · rfl
    · split <;> simp) _ s

end Operations

/-- Everything a counted tick does leaves what stands as the tick's own counts leave it (R93, R286, R484). -/
theorem standing_tickBody (s : State) : s.tickBody.standing = { s.standing with
    time := { s.time with tickCount := s.time.tickCount + 1 }
    gaffer := { s.gaffer with latched := s.gaffer.energy, limited := false } } := by
  have hend : ∀ t : State, t.endTick.standing = { t.standing with gaffer := { t.gaffer with limited := false } } :=
    fun _ => rfl
  have hstart : s.startTick.standing = { s.standing with
    time := { s.time with tickCount := s.time.tickCount + 1 }, gaffer := { s.gaffer with latched := s.gaffer.energy } } := rfl
  have h : ∀ u : State, u.standing = s.startTick.standing → u.endTick.standing = { s.standing with
      time := { s.time with tickCount := s.time.tickCount + 1 }
      gaffer := { s.gaffer with latched := s.gaffer.energy, limited := false } } := fun u hu => by
    rw [hend, hu, show u.gaffer = s.startTick.gaffer from congrArg Standing.gaffer hu, hstart]
    rfl
  unfold State.tickBody
  refine h _ ?_
  rw [standing_restRails, standing_holdBroken, standing_reportOverruns, standing_foldl standing_sendTrace,
    standing_foldl standing_checkAligned, standing_foldl standing_clockTick, standing_foldl standing_stageTick,
    standing_foldl standing_tickCtx, standing_foldl standing_derateTick, standing_foldl standing_closeDebt,
    standing_foldl standing_relight, standing_noteConcurrency, standing_measureTick]

/-- A tick before the end of boot moves time and the islands' copies of it alone (R94, R229). -/
theorem exec_tick_early (hr : s.inReset = false) (he : s.time.epochFixed = true) (hb : s.pins.bootDone = false) :
    exec .tick s = .next { s.advance s.nextTick with
      time := { (s.advance s.nextTick).time with lastTick := some s.nextTick } } := by
  exact (if_neg (by simp [hr, he])).trans (congrArg Host.Outcome.next (if_neg (by simp [hb])))

/-- A tick after the end of boot (R93). -/
theorem exec_tick_counted (hr : s.inReset = false) (he : s.time.epochFixed = true) (hb : s.pins.bootDone = true) :
    exec .tick s = .next ({ s.advance s.nextTick with
      time := { (s.advance s.nextTick).time with lastTick := some s.nextTick } } : State).tickBody := by
  exact (if_neg (by simp [hr, he])).trans (congrArg Host.Outcome.next (if_pos hb))

/-- A stage when time moves (R229, R233). -/
theorem State.stage_advance (now : WaferTime) {n : Nat} {st : Stage} (h : s.stage n = some st) :
    ∃ u, (s.advance now).stage n = some u ∧ u.island = now ∧ u = { st with island := u.island, clock := u.clock } ∧
      u.clock.lag = st.clock.lag := by
  unfold State.advance
  split
  · refine ⟨_, List.getElem?_map.trans (congrArg (Option.map _) h), ?_, ?_, ?_⟩ <;> rfl
  · refine ⟨_, List.getElem?_map.trans (congrArg (Option.map _) h), ?_, ?_, ?_⟩ <;> rfl

/-- What stands after a counted tick (R93, R94, R133, R286). -/
theorem standing_counted (s : State) :
    ({ s.advance s.nextTick with time := { (s.advance s.nextTick).time with lastTick := some s.nextTick } } :
      State).tickBody.standing = { s.standing with
        time := { s.time with
          wafer := s.nextTick, lastTick := some s.nextTick, tickCount := s.time.tickCount + 1
          applied := if s.nextTick.toNat % 5120 = 0 then divider s.time.corr else s.time.applied }
        gaffer := { s.gaffer with latched := s.gaffer.energy, limited := false } } := by
  obtain ⟨htime, -, hframe⟩ := s.advance_spec s.nextTick
  generalize s.advance s.nextTick = u at *
  rw [standing_tickBody, htime, hframe]
  rfl

/-- Settles O9. -/
theorem tickCountsAndMovesTime : Obligations.TickCountsAndMovesTime := by
  refine ⟨fun s h => if_pos (by rcases h with h | h <;> simp [h]), fun s hr he hb => ?early, fun s hr he hb => ?counted⟩
  case early =>
    obtain ⟨htime, -, hframe⟩ := s.advance_spec s.nextTick
    refine ⟨_, exec_tick_early hr he hb, by rw [htime], fun n st hst => State.stage_advance s.nextTick hst, ?_⟩
    rw [hframe]
  case counted =>
    obtain ⟨t, ht, hu⟩ : ∃ t, exec .tick s = .next t ∧ t.standing = _ :=
      ⟨_, exec_tick_counted hr he hb, standing_counted s⟩
    exact ⟨t, ht, congrArg Standing.time hu, congrArg Standing.gaffer hu, congrArg Standing.straps hu,
      congrArg Standing.slate hu, congrArg Standing.trims hu, congrArg Standing.slots hu, congrArg Standing.slotOrder hu,
      congrArg Standing.check hu, congrArg Standing.lastCtx hu, congrArg Standing.chain hu, congrArg Standing.ringE hu,
      congrArg Standing.ringW hu, congrArg Standing.spines hu, congrArg Standing.spineOut hu, congrArg Standing.jtag hu,
      congrArg Standing.cert hu, congrArg Standing.level5 hu⟩

end Sys2Proof.Machine
end

section
/-! The cut-off and the commit (R96, R104 to R107, R116, R362): what each does to a context and to its stages, and the
statements on them. -/

namespace Sys2Proof.Machine

set_option Elab.async false

open Sys2Proof

variable {s : State} {n p : Nat} {st : Stage} {c : Ctx}

/-! ### The cut-off -/

/-- The context of a partition when every context is changed. -/
theorem State.ctx_mapParts (s : State) (f : Ctx → Ctx) (p : Nat) :
    ({ s with parts := s.parts.map (fun o => o.map f) } : State).ctx p = (s.ctx p).map f := by
  simp only [State.ctx, List.getElem?_map]
  cases s.parts[p]? with
  | none => rfl
  | some o => rfl

/-- A cut-off changes each context alone (R104). -/
theorem exec_commitCutoff (hb : s.pins.bootDone = true) (hr : s.inReset = false) :
    exec .commitCutoff s = .next { s with parts := s.parts.map (fun o => o.map s.cutoffCtx) } :=
  if_pos (by simp [hb, hr])

/-- A context that ends keeps its end at the cut-off (R104). -/
theorem State.cutoffCtx_ending (s : State) (h : c.ended.isSome ∨ c.endDue.isSome) : s.cutoffCtx c = c :=
  if_pos (by simpa using h)

/-- A context that does not end is judged at the cut-off: its cut tick is fixed, or its tick action (R104, R489). -/
theorem State.cutoffCtx_going (s : State) (he : c.ended = none) (hd : c.endDue = none) :
    (c.cut = none → s.cutoffCtx c = { c with action := some (s.tickActionOf c), counted := s.countedTick c }) ∧
    (∀ k, c.cut = some k → s.cutoffCtx c = { c with cut := some { k with fixed := true }, action := none }) := by
  unfold State.cutoffCtx
  rw [if_neg (by simp [he, hd])]
  exact ⟨fun h => by rw [h], fun k h => by rw [h]⟩

/-! ### The tick action of Table 3.3 -/

/-- A working stage that is not done holds the commit (R105). -/
theorem State.commitOk_unfinished (hn : n ∈ c.stages) (h : s.stage n = some st) (hl : st.st = .lit)
    (hs : st.skipping = false) (hd : st.seq.done = false) : s.commitOk c = false := by
  have hmem : st ∈ s.stagesOf c := List.mem_filterMap.mpr ⟨n, hn, h⟩
  have hdone : st.doneNow = false := by simp [Stage.doneNow, Stage.working, hl, hs, hd]
  unfold State.commitOk
  rw [Bool.and_eq_false_iff]
  exact .inl (List.all_eq_false.mpr ⟨st, hmem, by simp [hdone]⟩)

/-- What R107 asks of a frame that begins. -/
theorem State.beginOk_of (hp : s.pins.parked = false) (hrb : c.rollback = none) (hl : c.loaded = true)
    (hst : ∀ n ∈ c.stages, ∀ st, s.stage n = some st → st.clocked = true ∧ st.power = none) : s.beginOk c = true := by
  have hall : (s.stagesOf c).all (fun st => st.clocked && st.power.isNone) = true := List.all_eq_true.mpr (fun st h => by
    obtain ⟨n, hn, h⟩ := List.mem_filterMap.mp h
    obtain ⟨h1, h2⟩ := hst n hn st h
    simp [h1, h2])
  simp [State.beginOk, hp, hrb, hl, hall]

/-- With a frame in progress and no rollback the commit rule decides (R105, R107). -/
theorem State.tickActionOf_frame (s : State) (hf : c.inFrame = true) (hrb : c.rollback = none) : s.tickActionOf c =
    if s.commitOk c then (if s.allFinal c then .end_ else if s.beginOk c then .commitBegin else .commitHold)
    else .wait := by
  unfold State.tickActionOf
  rw [if_pos hf, hrb]

/-- During a whole rollback the tick waits for the retake (R124, R454). -/
theorem State.tickActionOf_rollback (s : State) {rb : Rollback} (hf : c.inFrame = true) (hrb : c.rollback = some rb)
    (hb : rb.both = true) :
    s.tickActionOf c = if rb.wait.isEmpty && decide (c.rolledRun < takeLimit) then .retake else .wait := by
  unfold State.tickActionOf
  rw [if_pos hf, hrb]
  exact if_pos hb

/-- Settles O10: the cut-off of a context by its end and its cut, and Table 3.3 row by row. -/
theorem tickActions : Obligations.TickActions := by
  refine ⟨fun s hb hr => ⟨_, exec_commitCutoff hb hr, rfl, List.length_map .., fun p h => ?none,
      fun p c h he hd hcut => ?action, fun p c k h he hd hcut => ?cut, fun p c h he => ?ending⟩,
    fun s c => ⟨fun hf hrb ho ha => ?_, fun hf hrb ho ha hp => ?_, fun hf hrb ho ha hp hl hst => ?_,
      fun hf hrb ⟨n, hn, st, h, hl, hs, hd⟩ => ?_, fun rb hf hrb hb hw hk => ?_, fun rb hf hrb hb h => ?_, fun hf h => ?_⟩⟩
  case none => rw [State.ctx_mapParts, h]; rfl
  case action =>
    rw [State.ctx_mapParts, h, Option.map_some]
    exact congrArg some ((s.cutoffCtx_going he hd).1 hcut)
  case cut =>
    rw [State.ctx_mapParts, h, Option.map_some]
    exact congrArg some ((s.cutoffCtx_going he hd).2 k hcut)
  case ending =>
    rw [State.ctx_mapParts, h, Option.map_some]
    exact congrArg some (s.cutoffCtx_ending he)
  · rw [s.tickActionOf_frame hf hrb, if_pos ho, if_pos ha]
  · rw [s.tickActionOf_frame hf hrb, if_pos ho, if_neg (by simp [ha]), if_neg (by simp [State.beginOk, hp])]
  · rw [s.tickActionOf_frame hf hrb, if_pos ho, if_neg (by simp [ha]), if_pos (State.beginOk_of hp hrb hl hst)]
  · rw [s.tickActionOf_frame hf hrb, if_neg (by simp [State.commitOk_unfinished hn h hl hs hd])]
  · rw [s.tickActionOf_rollback hf hrb hb, if_pos (by simp [hw, takeLimit, hk])]
  · rw [s.tickActionOf_rollback hf hrb hb, if_neg]
    rcases h with h | h
    · simp [h]
    · simp [takeLimit, Nat.not_lt.mpr h]
  · unfold State.tickActionOf
    rw [if_neg (by simp [hf]), if_neg]
    rcases h with h | h <;> simp [State.beginOk, h]

/-! ### The commit -/

/-- Before its frame is closed a commit gives the context outputs to wait for and counts (R362, R413). -/
def Ctx.Closing (c d : Ctx) : Prop := ∃ o t, d = { c with outs := o, totals := t }

theorem Ctx.Closing.refl (c : Ctx) : c.Closing c := ⟨_, _, rfl⟩

@[simp] theorem State.ctx_modPort (s : State) (q : Port) (f : HostPort → HostPort) (p : Nat) :
    (s.modPort q f).ctx p = s.ctx p := by cases q <;> rfl

/-- Releasing outputs on a port notes them in the context and leaves the stages (R413). -/
theorem State.releaseOn_spec {d : Ctx} (s : State) (hd : s.ctx p = some d) (hc : c.Closing d) (q : Port)
    (xs : List (Nat × Staged × OutEntry)) :
    (∃ e, (s.releaseOn p c q xs).ctx p = some e ∧ c.Closing e) ∧ (s.releaseOn p c q xs).stages = s.stages := by
  unfold State.releaseOn
  dsimp only
  split
  · exact ⟨⟨d, hd, hc⟩, rfl⟩
  · obtain ⟨o, t, rfl⟩ := hc
    exact ⟨⟨_, State.ctx_modCtx _ ((State.ctx_modPort s q _ p).trans hd), _, _, rfl⟩, State.modPort_stages ..⟩

/-- A stage whose trace buffer alone has moved on. -/
def Stage.Traced (st u : Stage) : Prop := u = { st with traceBuf := u.traceBuf, traceDrop := u.traceDrop }

theorem Stage.Traced.refl (st : Stage) : st.Traced st := rfl

theorem Stage.pushTrace_traced (st : Stage) (m : Bool) (e : TraceEntry) : st.Traced (st.pushTrace m e) := by
  unfold Stage.pushTrace; split <;> rfl

theorem Stage.Traced.trans {a b d : Stage} (h : a.Traced b) (k : b.Traced d) : a.Traced d := by
  unfold Stage.Traced at *
  rw [k, h]

/-- The summary of a stage at a commit moves that stage's trace buffer and the context's totals (R362, R363). -/
theorem State.tallyStage_spec {d : Ctx} (s : State) (hd : s.ctx p = some d) (hc : c.Closing d) (n : Nat) :
    (∃ e, (s.tallyStage p n c).ctx p = some e ∧ c.Closing e) ∧
    (∀ m st, s.stage m = some st → ∃ u, (s.tallyStage p n c).stage m = some u ∧ st.Traced u) ∧
    (∀ m, m ≠ n → (s.tallyStage p n c).stage m = s.stage m) := by
  obtain ⟨o, t, rfl⟩ := hc
  unfold State.tallyStage
  split
  · exact ⟨⟨_, hd, _, _, rfl⟩, fun m st h => ⟨st, h, .refl st⟩, fun _ _ => rfl⟩
  · next x hx =>
    dsimp only
    split
    · refine ⟨⟨_, State.ctx_modCtx (s := s.traceTick n false c 0x04 x.cnt.summary) _ hd, _, _, rfl⟩, fun m st h => ?_,
        fun m hm => State.stage_modStage_other _ _ hm⟩
      by_cases hm : m = n
      · subst hm
        exact ⟨_, State.stage_modStage _ h, st.pushTrace_traced _ _⟩
      · exact ⟨st, (State.stage_modStage_other _ _ hm).trans h, .refl st⟩
    · exact ⟨⟨_, State.ctx_modCtx _ hd, _, _, rfl⟩, fun m st h => ⟨st, h, .refl st⟩, fun _ _ => rfl⟩

/-- The summaries of all stages of a context (R362, R363). -/
theorem State.tallyStages_spec {d : Ctx} (s : State) (hd : s.ctx p = some d) (hc : c.Closing d) (ns : List Nat) :
    (∃ e, (ns.foldl (fun t n => t.tallyStage p n c) s).ctx p = some e ∧ c.Closing e) ∧
    (∀ m st, s.stage m = some st → ∃ u, (ns.foldl (fun t n => t.tallyStage p n c) s).stage m = some u ∧ st.Traced u) ∧
    (∀ m, m ∉ ns → (ns.foldl (fun t n => t.tallyStage p n c) s).stage m = s.stage m) := by
  induction ns generalizing s d with
  | nil => exact ⟨⟨d, hd, hc⟩, fun m st h => ⟨st, h, .refl st⟩, fun _ _ => rfl⟩
  | cons n ns ih =>
    obtain ⟨⟨e, he, hce⟩, hst, hother⟩ := s.tallyStage_spec hd hc n
    obtain ⟨hctx, hst', hother'⟩ := ih (s.tallyStage p n c) he hce
    refine ⟨hctx, fun m st h => ?_, fun m hm => ?_⟩
    · obtain ⟨u, hu, htu⟩ := hst m st h
      obtain ⟨v, hv, htv⟩ := hst' m u hu
      exact ⟨v, hv, htu.trans htv⟩
    · rw [List.mem_cons, not_or] at hm
      exact (hother' m hm.2).trans (hother m hm.1)

/-- What a commit does in a stage apart from its idle counts (R106, R362). -/
theorem Stage.commitIdle_frame (st : Stage) : st.commitIdle =
    { st with idle := st.commitIdle.idle, skipping := st.commitIdle.skipping, closing := st.commitIdle.closing } := by
  unfold Stage.commitIdle
  dsimp only
  split
  · rfl
  · split <;> rfl

/-- Settles O11: outputs and summaries move the context's counts and the trace buffers; then each stage's epoch is freed. -/
theorem commitFreesTheEpoch : Obligations.CommitFreesTheEpoch := by
  intro s p c hc hh hw hrow hcol hlen
  obtain ⟨⟨d1, hd1, hc1⟩, hs1⟩ := s.releaseOn_spec hc (.refl c) .a (s.stagedOf c)
  obtain ⟨⟨d2, hd2, hc2⟩, hs2⟩ := (s.releaseOn p c .a (s.stagedOf c)).releaseOn_spec hd1 hc1 .b (s.stagedOf c)
  obtain ⟨⟨d3, hd3, hc3⟩, hstage, hother⟩ := State.tallyStages_spec _ hd2 hc2 c.stages
  have hnodup : c.stages.Nodup := rectStages_nodup (by omega)
  unfold State.commitFrame
  dsimp only
  generalize (s.releaseOn p c .a (s.stagedOf c)).releaseOn p c .b (s.stagedOf c) = s1 at *
  generalize c.stages.foldl (fun t n => t.tallyStage p n c) s1 = s2 at *
  have hstages : s1.stages = s.stages := hs2.trans hs1
  have heq : ∀ m, s1.stage m = s.stage m := fun m => by unfold State.stage; rw [hstages]
  refine ⟨?_, fun n hn st hst => ?_, fun n hn => ?_⟩
  · obtain ⟨o, t, rfl⟩ := hc3
    have hd := State.ctx_modCtx (s := s2.modStages c.stages (fun st => st.commitEpoch.commitIdle)) (p := p)
      (fun c => { c with
        frame := if c.frame = BitVec.allOnes 48 then c.frame else c.frame + 1
        take := 0, inFrame := false, noProg := 0, rolledRun := 0 }) (by rw [State.modStages_frame]; exact hd3)
    exact ⟨_, hd, rfl, rfl, rfl, rfl⟩
  · obtain ⟨u, hu, htu⟩ := hstage n st ((heq n).trans hst)
    refine ⟨_, State.stage_modStages hnodup hn hu, ?_⟩
    rw [Stage.commitIdle_frame, htu]
    exact ⟨rfl, rfl, rfl, rfl, rfl⟩
  · exact (State.stage_modStages_other hn).trans ((hother n hn).trans (heq n))

end Sys2Proof.Machine
end

section
/-! Idle and unassigned counts, the release of a stage and the end of its context (R42 to R44, R314, R418, R419). -/

namespace Sys2Proof.Machine

set_option Elab.async false

open Sys2Proof

variable {s : State} {n p : Nat} {st : Stage} {c : Ctx}

/-! ### Trace on its way out -/

/-- Sending a stage's trace changes its buffer, the records and nothing else (R423). -/
theorem State.flushTrace_spec (fuel : Nat) (s : State) (h : s.stage n = some st) :
    (∃ u, (s.flushTrace n fuel).stage n = some u ∧ st.Traced u) ∧
    (∀ m, m ≠ n → (s.flushTrace n fuel).stage m = s.stage m) ∧
    s.flushTrace n fuel = { s.recordsOf (s.flushTrace n fuel) with stages := (s.flushTrace n fuel).stages } := by
  induction fuel generalizing s st with
  | zero => exact ⟨⟨st, h, .refl st⟩, fun _ _ => rfl, rfl⟩
  | succ fuel ih =>
    rw [State.flushTrace]
    split
    · next x y d hx hy =>
      split
      · exact ⟨⟨st, h, .refl st⟩, fun _ _ => rfl, rfl⟩
      · dsimp only
        obtain ⟨⟨u, hu, htu⟩, hother, hframe⟩ := ih ((s.emit d.id d.epoch
          (.trace n (d.offsets n).1 (d.offsets n).2 (capAt 0xFFFFFFFF x.traceDrop) (x.traceBuf.take 126))).modStage n
            (fun t => { t with traceBuf := t.traceBuf.drop 126, traceDrop := 0 })) (State.stage_modStage _ h)
        refine ⟨⟨u, hu, ?_⟩, fun m hm => (hother m hm).trans (State.stage_modStage_other _ _ hm), ?_⟩
        · exact Stage.Traced.trans (b := { st with traceBuf := st.traceBuf.drop 126, traceDrop := 0 }) rfl htu
        · rw [hframe]; rfl
    · exact ⟨⟨st, h, .refl st⟩, fun _ _ => rfl, rfl⟩

/-- The marker of a stage that becomes lit (R51). -/
def State.litEntry (s : State) (c : Ctx) : TraceEntry :=
  { kind := 0x02, take := c.take, frame := c.frame, stamp := s.changeStamp, payload := BitVec.ofNat 128 0 }

/-- A stage of a context that becomes lit takes the issue limit in force and leaves its marker (R51, R278). -/
theorem State.makeLit_stage (h : s.stage n = some st) (hp : st.part = some p) (hc : s.ctx p = some c) :
    (s.makeLit n).stage n = some { st with
      st := .lit, closing := none, limit := s.gaffer.limit, traceBuf := st.traceBuf ++ [s.litEntry c] } := by
  have h1 := State.stage_modStage (s := s) (fun st => { st with st := .lit, closing := none, limit := s.gaffer.limit }) h
  have hof : (s.modStage n (fun st => { st with st := .lit, closing := none, limit := s.gaffer.limit })).ctxOf n = some (p, c) :=
    State.ctxOf_eq h1 hp hc
  unfold State.makeLit State.litMarker
  rw [hof]
  exact State.stage_modStage _ h1

/-- A stage that becomes lit changes the stages alone, and of these itself alone (R51). -/
theorem State.makeLit_frame (s : State) (n : Nat) :
    s.makeLit n = { s with stages := (s.makeLit n).stages } ∧ ∀ m, m ≠ n → (s.makeLit n).stage m = s.stage m := by
  unfold State.makeLit State.litMarker
  split
  · exact ⟨rfl, fun m hm => State.stage_modStage_other _ _ hm⟩
  · exact ⟨rfl, fun m hm => (State.stage_modStage_other _ _ hm).trans (State.stage_modStage_other _ _ hm)⟩

/-! ### The release -/

/-- A partition that is freed keeps nothing but its late commits (R387). -/
theorem State.freePart_spec (s : State) (p : Nat) :
    (s.freePart p).ctx p = none ∧ (∀ u ∈ (s.freePart p).stages, u.part ≠ some p) ∧
    s.freePart p = s.contextsOf (s.freePart p) := by
  have hframe := s.keepLate_contextsOf p
  unfold State.freePart
  generalize s.keepLate p = u at *
  refine ⟨?_, fun x hx => ?_, ?_⟩
  · simp only [State.ctx, State.putCtx_parts, setAt, List.getElem?_set]
    split
    · split <;> rfl
    · contradiction
  · obtain ⟨y, -, rfl⟩ := List.mem_map.mp hx
    split
    · simp [Stage.unassign]
    · assumption
  · rw [hframe]; rfl

/-- The ending records of a context take one number of the wrap chain (R418 to R420). -/
theorem State.endRecords_next (s : State) (p : Nat) (c : Ctx) (e : Ended) (ok : Bool) :
    (s.endRecords p c e ok).chain.next = s.chain.next + 1 := by
  have h : (s.endRecord p c e).chain = s.chain := by rw [s.endRecord_frame p c e]; rfl
  rw [← h]
  rfl

/-- A release that is noted: the stage leaves its partition, and the context counts it (R43). -/
def State.noteRelease (s : State) (n p : Nat) : State :=
  (s.modStage n Stage.unassign).modCtx p (fun c => { c with released := n :: c.released })

/-- The context of a noted release. -/
theorem State.noteRelease_ctx (hc : s.ctx p = some c) :
    (s.noteRelease n p).ctx p = some { c with released := n :: c.released } :=
  State.ctx_modCtx (s := s.modStage n Stage.unassign) _ hc

/-- Of the other stages none has left that had not (R43). -/
theorem State.noteRelease_gone (s : State) (n p : Nat) (c : Ctx) {m : Nat} (hm : m ≠ n) :
    (s.noteRelease n p).gone p { c with released := n :: c.released } m = s.gone p c m := by
  have hst : (s.noteRelease n p).stage m = s.stage m := State.stage_modStage_other _ _ hm
  have hmem : (n :: c.released).contains m = c.released.contains m := by simp [hm]
  unfold State.gone
  rw [hst]
  dsimp only
  rw [hmem]

/-- The released stage has left. -/
theorem State.noteRelease_self (s : State) (n p : Nat) (c : Ctx) :
    (s.noteRelease n p).gone p { c with released := n :: c.released } n = true := by
  simp [State.gone]

/-- What a noted release leads to: the context's end once every stage has left (R43, R418, R419). -/
def State.afterRelease (u : State) (p : Nat) (c : Ctx) (ok : Bool) : State :=
  match c.ended with
  | none => u
  | some e =>
    if !u.allReleased p c then u
    else if c.recorded then u.freePart p
    else if e.cut then u
    else (u.endRecords p c e ok).freePart p

/-- While a stage has not left nothing more happens (R43). -/
theorem State.afterRelease_waits {u : State} (ok : Bool) (h : u.allReleased p c = false) : u.afterRelease p c ok = u := by
  unfold State.afterRelease
  split
  · rfl
  · exact if_pos (by simp [h])

/-- A context that was not cut ends with its records when every stage has left (R418, R419). -/
theorem State.afterRelease_ends {u : State} {e : Ended} (ok : Bool) (h : u.allReleased p c = true)
    (he : c.ended = some e) (hrec : c.recorded = false) (hcut : e.cut = false) :
    u.afterRelease p c ok = (u.endRecords p c e ok).freePart p := by
  unfold State.afterRelease
  rw [he]
  dsimp only
  rw [if_neg (by simp [h]), if_neg (by simp [hrec]), if_neg (by simp [hcut])]

/-- The release of a stage is noted, and the end of its context judged (R43). -/
theorem exec_releaseComplete (h : s.stage n = some st) (hc : s.ctxOf n = some (p, c)) (hr : st.releasing = true)
    (hz : st.zeroed = true) (ok : Bool) : exec (.releaseComplete n ok) s =
      .next ((s.noteRelease n p).afterRelease p { c with released := n :: c.released } ok) := by
  obtain ⟨-, hctx⟩ := State.of_ctxOf h hc
  have hreleased : ((s.modStage n Stage.unassign).modCtx p (fun c => { c with released := n :: c.released })).ctx p =
      some { c with released := n :: c.released } := State.noteRelease_ctx hctx
  show execReleaseComplete n ok s = _
  unfold execReleaseComplete State.afterRelease State.noteRelease
  rw [h, hc]
  dsimp only
  rw [if_pos (by simp [hr, hz]), hreleased]
  dsimp only
  cases c.ended with
  | none => rfl
  | some e =>
    dsimp only
    split
    · rfl
    · split
      · rfl
      · split <;> rfl

/-- Settles O12, statement by statement. -/
theorem idleReleaseAndEnd : Obligations.IdleReleaseAndEnd := by
  refine ⟨fun s n p st c h hc hskip hidle hend hframe => ⟨fun hl => ?lit, fun hd => ?dark⟩,
    fun s n st h hd hp hu ht => ?unassigned, fun s n st h hr hl => ?release,
    fun s n p m st c ok h hc hr hz hm hne hg => ?more, fun s n p st c e ok h hc hr hz he hrec hcut hall => ?last⟩
  case lit =>
    have hexec : exec (.idleCountExpiry n) s = .next (s.putStage n { st with skipping := false, closing := none }) := by
      show execIdleCountExpiry n s = _
      unfold execIdleCountExpiry
      rw [h, hc]
      dsimp only
      rw [if_pos (by simp [hskip, hidle, hend, Stage.clocked, hl]), if_neg (show ¬ st.st = .dark by simp [hl]),
        if_neg (show ¬ c.inFrame = true by simp [hframe])]
    exact hexec
  case dark =>
    have hexec : exec (.idleCountExpiry n) s =
        .next ((s.putStage n { st with skipping := false, closing := none }).makeLit n) := by
      show execIdleCountExpiry n s = _
      unfold execIdleCountExpiry
      rw [h, hc]
      dsimp only
      rw [if_pos (by simp [hskip, hidle, hend, Stage.clocked, hd]), if_pos hd, if_neg (by simp [hframe])]
    obtain ⟨hpart, hctx⟩ := State.of_ctxOf h hc
    obtain ⟨hlit, hother⟩ := (s.putStage n { st with skipping := false, closing := none }).makeLit_frame n
    refine ⟨_, _, hexec, State.makeLit_stage (State.stage_putStage _ h) hpart hctx, rfl, ⟨_, rfl, rfl⟩, ?_,
      fun m hm => (hother m hm).trans (State.stage_putStage_other _ _ hm)⟩
    rw [hlit]; rfl
  case unassigned =>
    have hexec : exec (.unassignedCountExpiry n) s = .next (s.putStage n { st with closing := some .unlit }) := by
      show execUnassignedCountExpiry n s = _
      unfold execUnassignedCountExpiry
      rw [h]
      exact if_pos (by simpa [hd, hp, hu, State.testPending] using ht)
    exact hexec
  case release =>
    have hexec : exec (.stageRelease n) s = .next ((s.flushTrace n 17).modStage n Stage.zeroAll) := by
      show execStageRelease n s = _
      unfold execStageRelease
      rw [h]
      exact if_pos (by simp [hr, hl])
    obtain ⟨⟨u, hu, htu⟩, hother, hflush⟩ := s.flushTrace_spec 17 h
    refine ⟨_, _, hexec, State.stage_modStage _ hu, rfl, rfl, rfl, rfl, rfl, rfl, rfl, ?_, ?_,
      fun m hm => (State.stage_modStage_other _ _ hm).trans (hother m hm), ?_⟩
    · rw [htu]; exact hr
    · rw [htu]; rfl
    · generalize s.flushTrace n 17 = v at *
      rw [hflush]; rfl
  case more =>
    obtain ⟨-, hctx⟩ := State.of_ctxOf h hc
    have hg' : (s.noteRelease n p).gone p { c with released := n :: c.released } m = false := by
      rw [s.noteRelease_gone n p c hne]; exact hg
    have hall : (s.noteRelease n p).allReleased p { c with released := n :: c.released } = false :=
      List.all_eq_false.mpr ⟨m, hm, by simp [hg']⟩
    exact (exec_releaseComplete h hc hr hz ok).trans (congrArg Host.Outcome.next (State.afterRelease_waits ok hall))
  case last =>
    obtain ⟨-, hctx⟩ := State.of_ctxOf h hc
    have hall' : (s.noteRelease n p).allReleased p { c with released := n :: c.released } = true :=
      List.all_eq_true.mpr (fun m hm => by
        by_cases hne : m = n
        · rw [hne]; exact s.noteRelease_self n p c
        · rw [s.noteRelease_gone n p c hne]; exact hall m hm hne)
    have hexec : exec (.releaseComplete n ok) s =
        .next (((s.noteRelease n p).endRecords p { c with released := n :: c.released } e ok).freePart p) :=
      (exec_releaseComplete h hc hr hz ok).trans (congrArg Host.Outcome.next
        (State.afterRelease_ends ok hall' he hrec hcut))
    have hreleased : s.noteRelease n p = s.contextsOf (s.noteRelease n p) := rfl
    have hrecords := (s.noteRelease n p).endRecords_endingOf p { c with released := n :: c.released } e ok
    have hnext := (s.noteRelease n p).endRecords_next p { c with released := n :: c.released } e ok
    generalize s.noteRelease n p = w at *
    generalize w.endRecords p { c with released := n :: c.released } e ok = u at *
    have hw : w.chain = s.chain := by rw [hreleased]; rfl
    obtain ⟨hnone, hparts, hfree⟩ := u.freePart_spec p
    refine ⟨_, hexec, hnone, hparts, ?_, ?_⟩
    · have hchain : (u.freePart p).chain = u.chain := by rw [hfree]; rfl
      rw [hchain, hnext, hw]
    · exact State.endingOf_trans (State.endingOf_of_contextsOf hreleased)
        (State.endingOf_trans hrecords (State.endingOf_of_contextsOf hfree))

end Sys2Proof.Machine
end

section
/-! Lights-out, lights-on and power-up (R28, R46 to R49, R143, R211, R471, R472). -/

namespace Sys2Proof.Machine

set_option Elab.async false

open Sys2Proof

variable {s : State} {n m : Nat} {st : Stage} {d : Side}

/-! ### Rails and neighbours beside a stage -/

/-- A stage of which R148's note of the frame alone may have changed. -/
def Stage.Noted (st u : Stage) : Prop := u = { st with clock := { st.clock with marginOk := u.clock.marginOk } }

theorem Stage.Noted.refl (st : Stage) : st.Noted st := rfl

theorem Stage.Noted.trans {a b c : Stage} (h : a.Noted b) (k : b.Noted c) : a.Noted c := by
  unfold Stage.Noted at *; rw [k, h]

/-- A new voltage of a rail is noted in its stages (R148, R290). -/
theorem State.setVolt_each (s : State) (x v : Nat) : s.Each Stage.Noted (s.setVolt x v) :=
  State.Each.trans (t := s.modRail x (fun r => { r with confirmed := r.volt, volt := v })) Stage.Noted.trans
    (.of_stages Stage.Noted.refl rfl) (.modStages Stage.Noted.refl Stage.Noted.trans _ _ (fun _ => rfl))

/-- A state with the stages and rails of another: what a rail's voltage may change. -/
def State.railedOf (s t : State) : State := { s with stages := t.stages, rails := t.rails }

theorem State.railedOf_trans {t u : State} (h : t = s.railedOf t) (k : u = t.railedOf u) : u = s.railedOf u := by
  rw [k, h]; rfl

theorem State.setVolt_railedOf (s : State) (x v : Nat) : s.setVolt x v = s.railedOf (s.setVolt x v) := by
  unfold State.setVolt
  have h := (s.modRail x (fun r => { r with confirmed := r.volt, volt := v })).modStages_frame (railStages x) (fun st =>
    { st with clock := { st.clock with marginOk := st.clock.marginOk && decide (v = 800) } })
  exact State.railedOf_trans (t := s.modRail x (fun r => { r with confirmed := r.volt, volt := v })) rfl (by
    generalize State.modStages _ _ _ = u at *
    rw [h]; rfl)

/-- A rail that rises for a step changes rails, and notes it in stages (R290). -/
theorem State.raiseFor_each (s : State) (n k : Nat) : s.Each Stage.Noted (s.raiseFor n k) := by
  unfold State.raiseFor
  dsimp only
  split
  · split
    · exact .of_stages Stage.Noted.refl rfl
    · exact .trans Stage.Noted.trans (.of_stages (t := s.modRail _ _) Stage.Noted.refl rfl) (State.setVolt_each _ _ _)
  · exact .refl Stage.Noted.refl s

theorem State.raiseFor_railedOf (s : State) (n k : Nat) : s.raiseFor n k = s.railedOf (s.raiseFor n k) := by
  unfold State.raiseFor
  dsimp only
  split
  · split
    · rfl
    · exact State.railedOf_trans (t := s.modRail _ _) rfl (State.setVolt_railedOf ..)
  · rfl

/-- Rails at rest change rails, and are noted in stages (R290). -/
theorem State.restRails_each (s : State) : s.Each Stage.Noted s.restRails :=
  .foldl Stage.Noted.refl Stage.Noted.trans (fun t x => by
    dsimp only
    split
    · exact .refl Stage.Noted.refl t
    · split
      · exact .of_stages Stage.Noted.refl rfl
      · exact .trans Stage.Noted.trans (.of_stages (t := t.modRail _ _) Stage.Noted.refl rfl) (State.setVolt_each _ _ _)) _ s

theorem State.restRails_railedOf (s : State) : s.restRails = s.railedOf s.restRails :=
  foldl_rel (r := fun s t : State => t = s.railedOf t) (fun _ => rfl) State.railedOf_trans (fun t x => by
    dsimp only
    split
    · rfl
    · split
      · rfl
      · exact State.railedOf_trans (t := t.modRail _ _) rfl (State.setVolt_railedOf ..)) _ s

/-! ### Crossings of a handshake -/

/-- Crossings that complete change crossings alone (R218). -/
theorem State.lightsOk_frame (s : State) (n : Nat) (l : List Side) :
    s.lightsOk n l = { s with xings := (s.lightsOk n l).xings } :=
  foldl_rel (r := fun s t : State => t = { s with xings := t.xings }) (fun _ => rfl) (fun h k => by rw [k, h])
    (fun t d => by unfold State.xingOk; split <;> rfl) l s

/-- A stage that stays in its state with no change asked for, or is retired. -/
def Stage.Settled (st u : Stage) : Prop := st.closing = none → u.closing = none ∧ (u.st = st.st ∨ u.st = .retired)

theorem Stage.Settled.refl (st : Stage) : st.Settled st := fun h => ⟨h, .inl rfl⟩

theorem Stage.Settled.trans {a b c : Stage} (h : a.Settled b) (k : b.Settled c) : a.Settled c := fun ha => by
  obtain ⟨hb, hst⟩ := h ha
  obtain ⟨hc, hst'⟩ := k hb
  refine ⟨hc, ?_⟩
  rcases hst' with h | h
  · rw [h]; exact hst
  · exact .inr h

/-- Retiring a stage settles it, and stops or bars beside it. -/
theorem State.retireStage_settled (s : State) (n r k c : Nat) : s.Each Stage.Settled (s.retireStage n r k c) := by
  by_cases h : ∃ st, s.stage n = some st ∧ st.st ≠ .retired
  · obtain ⟨st, hst, hne⟩ := h
    obtain ⟨⟨v, hv, hs⟩, hother⟩ := State.retireStage_stage hst hne r k c
    refine ⟨State.retireStage_count .., fun m x hx => ?_⟩
    by_cases hm : m = n
    · subst hm
      exact ⟨_, hv, fun _ => ⟨rfl, .inr rfl⟩⟩
    · obtain ⟨y, hy, hxy⟩ := hother m x hm hx
      refine ⟨_, hy, fun h => ?_⟩
      rw [Stage.facingAll_linksOf, hxy]
      exact ⟨h, .inl rfl⟩
  · rw [State.retireStage_none (fun st hst => by_contra fun hne => h ⟨st, hst, hne⟩)]
    exact .refl Stage.Settled.refl s

/-- Counting an error of a crossing may retire the stage that holds it, and changes no other stage's state (R218). -/
theorem State.countCrossing_settled (s : State) (x : BitVec 16) (k : Nat) : s.Each Stage.Settled (s.countCrossing x k) := by
  have hjoin : s.Each Stage.Settled (s.joinTest (.crossing x) k .free) := .of_stages Stage.Settled.refl (by
    rw [s.joinTest_frame])
  unfold State.countCrossing
  refine .trans Stage.Settled.trans hjoin ?_
  generalize s.joinTest (.crossing x) k .free = u
  unfold State.classify
  split
  · exact .refl Stage.Settled.refl u
  · next t ht =>
    dsimp only
    rw [if_neg (by decide)]
    split
    · unfold State.lasting
      dsimp only
      split
      · exact .trans Stage.Settled.trans (.of_stages (t := u.dropTest _) Stage.Settled.refl rfl)
          (State.retireStage_settled _ _ _ _ _)
      · exact .of_stages Stage.Settled.refl rfl
    · split
      · exact .of_stages Stage.Settled.refl rfl
      · split
        · exact .trans Stage.Settled.trans (.of_stages (t := (u.dropTest _).setTransient _ _) Stage.Settled.refl rfl)
            (.modStage Stage.Settled.refl _ _ (fun x => Stage.Settled.refl x))
        · exact .of_stages Stage.Settled.refl rfl

/-- A crossing's timeout may retire the stage that holds it, and changes no other stage's state (R218). -/
theorem State.timeoutXing_settled (s : State) (x : BitVec 16) : s.Each Stage.Settled (s.timeoutXing x) := by
  have hevent : ∀ (u : State) (e : ErrReport), u.Each Stage.Settled (u.errorEvent e 0 0) := fun u e =>
    .of_stages Stage.Settled.refl (by rw [u.errorEvent_frame]; rfl)
  have hput : ∀ y, s.Each Stage.Settled (s.putXing y) := fun y => .of_stages Stage.Settled.refl rfl
  unfold State.timeoutXing
  dsimp only
  split
  · exact .trans Stage.Settled.trans (.trans Stage.Settled.trans (hput _) (hevent _ _)) (State.countCrossing_settled _ _ _)
  · split
    · exact .trans Stage.Settled.trans (.trans Stage.Settled.trans (hput _) (hevent _ _)) (State.retireStage_settled _ _ _ _ _)
    · exact .trans Stage.Settled.trans (hput _) (hevent _ _)

theorem State.lightsTimeouts_settled (s : State) (n : Nat) (l : List Side) : s.Each Stage.Settled (s.lightsTimeouts n l) :=
  .foldl Stage.Settled.refl Stage.Settled.trans (fun t _ => t.timeoutXing_settled _) l s

/-! ### Lights-out -/

/-- The edge block's end across a side is marked when all ends across are (R46). -/
theorem State.edges_markAllAcross {i : Nat} {l : Link} (hn : neighbour n d = none) (he : edgeIndex n d = some i)
    (hl : (s.modAllAcross n Link.mark).edges[i]? = some l) : l.marked = true := by
  have hmark : ∀ (c : Prop) [Decidable c] (l : Link), (if c then l.mark else l).marked = (decide c || l.marked) :=
    fun c _ l => by by_cases h : c <;> simp [h, Link.mark]
  simp only [State.modAllAcross, Side.all, List.foldl, State.edges_modAcross, Option.map_map, Option.map_eq_some_iff] at hl
  obtain ⟨l0, -, rfl⟩ := hl
  simp only [Function.comp, hmark]
  cases d <;> simp [hn, he]

/-- The dark marker is a stage's last trace entry (R51, R52). -/
theorem State.darkMarker_spec (s : State) (h : s.stage n = some st) :
    (∃ x, (s.darkMarker n).stage n = some x ∧ st.Traced x) ∧ (∀ m, m ≠ n → (s.darkMarker n).stage m = s.stage m) ∧
    s.darkMarker n = { s with stages := (s.darkMarker n).stages } := by
  unfold State.darkMarker
  split
  · exact ⟨⟨st, h, .refl st⟩, fun _ _ => rfl, rfl⟩
  · exact ⟨⟨_, State.stage_modStage _ h, st.pushTrace_traced _ _⟩, fun m hm => State.stage_modStage_other _ _ hm, rfl⟩

/-- A stage whose clock gates (R46, R183). -/
theorem Stage.goDark_eq (st : Stage) : st.goDark = { st with
    linkN := { st.linkN with usable := false, aligned := false }, linkE := { st.linkE with usable := false, aligned := false }
    linkS := { st.linkS with usable := false, aligned := false }, linkW := { st.linkW with usable := false, aligned := false }
    st := .dark, closing := none, clock := { st.clock with run := 0, halted := false, heldCores := 0 } } := by
  unfold Stage.goDark
  rw [Stage.modLinks_eq]

/-- What a stage without power keeps and what it loses (R46, R49). -/
theorem Stage.losePower_eq (st : Stage) : st.losePower = { st with
    linkN := st.linkN.unpower, linkE := st.linkE.unpower, linkS := st.linkS.unpower, linkW := st.linkW.unpower
    clock := { Clock.off with
      overruns := st.clock.overruns, limitHit := st.clock.limitHit, marginRun := st.clock.marginRun
      supStep := st.clock.supStep, supOld := st.clock.supOld }
    seq := .start, flights := [], scratch := [], journal := [], acc := [], resid := [], script := []
    scriptLen := 0
    staged := [], landNorth := [], landEast := [], landSouth := [], landWest := []
    slackNow := none, slackEof := none, slackTick := none
    traceBuf := [], traceDrop := 0, power := none, ready := false, closing := none } := by
  unfold Stage.losePower
  rw [Stage.modLinks_eq]

section LightsOut

variable {g : LightsTarget} (h : s.stage n = some st) (hc : st.closing = some g)

include h hc

/-- With every acknowledgement a stage asked to go dark gates its clock (R46). -/
theorem exec_lightsOut_dark (hg : g = .dark) : ∃ u : State, exec (.lightsOutHandshake n .dark []) s =
    .next (((u.modAllAcross n Link.mark).darkMarker n).modStage n Stage.goDark) ∧ u = { s with xings := u.xings } := by
  subst hg
  refine ⟨_, ?_, s.lightsOk_frame n (st.askable.filter (fun d => !([] : List Side).contains d))⟩
  show execLightsOutHandshake n .dark [] s = _
  unfold execLightsOutHandshake
  rw [h]
  exact (if_neg (not_not.mpr hc)).trans (if_neg (by simp))

/-- With every acknowledgement a stage asked to go unlit opens its power switch (R46). -/
theorem exec_lightsOut_unlit (hg : g = .unlit) : ∃ u : State, exec (.lightsOutHandshake n .unlit []) s =
    .next ((u.modAllAcross n Link.mark).modStage n (fun t => { t.losePower with st := .unlit })).restRails ∧
    u = { s with xings := u.xings } := by
  subst hg
  refine ⟨_, ?_, s.lightsOk_frame n (st.askable.filter (fun d => !([] : List Side).contains d))⟩
  show execLightsOutHandshake n .unlit [] s = _
  unfold execLightsOutHandshake
  rw [h]
  exact (if_neg (not_not.mpr hc)).trans (if_neg (by simp))

/-- Without one the change is abandoned (R47). -/
theorem exec_lightsOut_abandoned {no : List Side} (hd : d ∈ no) (hb : (st.link d).barred = false) : ∃ (u : State) (l : List Side),
    exec (.lightsOutHandshake n g no) s = .next ((u.modStage n (fun t => { t with closing := none })).lightsTimeouts n l) ∧
    u = { s with xings := u.xings } := by
  refine ⟨_, st.askable.filter (fun d => no.contains d), ?_,
    s.lightsOk_frame n (st.askable.filter (fun d => !no.contains d))⟩
  have hall : d ∈ Side.all := by cases d <;> decide
  have hmiss : d ∈ st.askable.filter (fun d => no.contains d) := by simp [Stage.askable, hall, hb, hd]
  show execLightsOutHandshake n g no s = _
  unfold execLightsOutHandshake
  rw [h]
  exact (if_neg (not_not.mpr hc)).trans (if_pos (by
    cases hl : st.askable.filter (fun d => no.contains d) with
    | nil => rw [hl] at hmiss; cases hmiss
    | cons a l => rfl))

end LightsOut

/-- The end of a neighbour across is marked (R46). -/
theorem State.marked_across {v : Stage} (hn : neighbour n d = some m) (hv : (s.modAllAcross n Link.mark).stage m = some v) :
    (v.link d.opposite).marked = true := by
  rw [State.stage_modAllAcross] at hv
  obtain ⟨v0, -, rfl⟩ := Option.map_eq_some_iff.mp hv
  rw [Stage.link_facingAll, if_pos hn]
  rfl

theorem lightsOutHandshake_dark (h : s.stage n = some st) (hc : st.closing = some .dark) : ∃ t u,
    exec (.lightsOutHandshake n .dark []) s = .next t ∧ t.stage n = some u ∧ u.st = .dark ∧ u.closing = none ∧
    u.scratch = st.scratch ∧ u.acc = st.acc ∧ u.script = st.script ∧ (∀ d, (u.link d).usable = false) ∧
    (∀ d m v, neighbour n d = some m → t.stage m = some v → (v.link d.opposite).marked = true) ∧
    (∀ d i l, neighbour n d = none → edgeIndex n d = some i → t.edges[i]? = some l → l.marked = true) ∧
    t = { s with stages := t.stages, edges := t.edges, xings := t.xings } := by
  obtain ⟨u0, hexec, hu0⟩ := exec_lightsOut_dark h hc rfl
  have h0 : u0.stage n = some st := by rw [hu0]; exact h
  have hacross := u0.modAllAcross_frame n Link.mark
  have hself : (u0.modAllAcross n Link.mark).stage n = some st := by
    rw [State.stage_modAllAcross, h0, Option.map_some, Stage.facingAll_self]
  have hmark := fun d m v (hn : neighbour n d = some m) hv => State.marked_across (s := u0) (v := v) hn hv
  have hedge := fun d i l hn he hl => State.edges_markAllAcross (s := u0) (n := n) (d := d) (i := i) (l := l) hn he hl
  generalize u0.modAllAcross n Link.mark = u1 at *
  obtain ⟨⟨x, hx, htx⟩, hother, hdark⟩ := u1.darkMarker_spec hself
  generalize u1.darkMarker n = u2 at *
  have hgo := Stage.goDark_eq x
  generalize x.goDark = y at hgo
  have hy : (u2.modStage n Stage.goDark).stage n = some y := by rw [hgo, ← Stage.goDark_eq]; exact State.stage_modStage _ hx
  refine ⟨_, y, hexec, hy, ?_, ?_, ?_, ?_, ?_, fun d => ?_, fun d m v hn hv => ?_, fun d i l hn he hl => ?_, ?_⟩
  · rw [hgo]
  · rw [hgo]
  · rw [hgo, htx]
  · rw [hgo, htx]
  · rw [hgo, htx]
  · rw [hgo]; cases d <;> rfl
  · refine hmark d m v hn ?_
    rw [← hother m (neighbour_ne hn), ← hv]
    exact (State.stage_modStage_other _ _ (neighbour_ne hn)).symm
  · refine hedge d i l hn he ?_
    rw [hdark] at hl
    exact hl
  · rw [hdark, hacross, hu0]; rfl

theorem lightsOutHandshake_unlit (h : s.stage n = some st) (hc : st.closing = some .unlit) : ∃ t u,
    exec (.lightsOutHandshake n .unlit []) s = .next t ∧ t.stage n = some u ∧ u.st = .unlit ∧
    u.unassigned = st.unassigned ∧ u.scratch = [] ∧ u.acc = [] ∧ u.script = [] ∧
    (∀ d, (u.link d).marked = (st.link d).marked ∧ (u.link d).txMap = (st.link d).txMap) ∧
    (∀ d m v, neighbour n d = some m → t.stage m = some v → (v.link d.opposite).marked = true) ∧
    t = { s with stages := t.stages, edges := t.edges, xings := t.xings, rails := t.rails } := by
  obtain ⟨u0, hexec, hu0⟩ := exec_lightsOut_unlit h hc rfl
  have h0 : u0.stage n = some st := by rw [hu0]; exact h
  have hacross := u0.modAllAcross_frame n Link.mark
  have hself : (u0.modAllAcross n Link.mark).stage n = some st := by
    rw [State.stage_modAllAcross, h0, Option.map_some, Stage.facingAll_self]
  have hmark := fun d m v (hn : neighbour n d = some m) hv => State.marked_across (s := u0) (v := v) hn hv
  generalize u0.modAllAcross n Link.mark = u1 at *
  have hrest := (u1.modStage n (fun t => { t.losePower with st := .unlit })).restRails_railedOf
  have heach := (u1.modStage n (fun t => { t.losePower with st := .unlit })).restRails_each
  obtain ⟨u, hu, hnoted⟩ := heach.stage n _ (State.stage_modStage _ hself)
  rw [Stage.losePower_eq] at hnoted
  have hother := fun m (hm : m ≠ n) => State.stage_modStage_other u1 (fun t => { t.losePower with st := .unlit }) hm
  have hu2 : u1.modStage n (fun t => { t.losePower with st := .unlit }) = { u1 with
    stages := (u1.modStage n (fun t => { t.losePower with st := .unlit })).stages } := rfl
  generalize u1.modStage n (fun t => { t.losePower with st := .unlit }) = u2 at *
  generalize u2.restRails = t at *
  refine ⟨_, u, hexec, hu, ?_, ?_, ?_, ?_, ?_, fun d => ⟨?_, ?_⟩, fun d m v hn hv => ?_, ?_⟩
  · rw [hnoted]
  · rw [hnoted]
  · rw [hnoted]
  · rw [hnoted]
  · rw [hnoted]
  · rw [hnoted]; cases d <;> rfl
  · rw [hnoted]; cases d <;> rfl
  · have hm := neighbour_ne hn
    obtain ⟨w, hw, hnw⟩ := heach.back hv
    have := hmark d m w hn ((hother m hm).symm.trans hw)
    rw [hnw]
    cases d <;> exact this
  · rw [hrest, hu2, hacross, hu0]; rfl

/-- A change that is abandoned leaves the stage as it is, or retired (R47). -/
theorem lightsOutHandshake_abandoned {g : LightsTarget} {no : List Side} (h : s.stage n = some st)
    (hc : st.closing = some g) (hd : d ∈ no) (hb : (st.link d).barred = false) : ∃ t u,
    exec (.lightsOutHandshake n g no) s = .next t ∧ t.stage n = some u ∧ u.closing = none ∧
    (u.st = st.st ∨ u.st = .retired) := by
  obtain ⟨u0, l, hexec, hu0⟩ := exec_lightsOut_abandoned h hc hd hb
  have h0 : u0.stage n = some st := by rw [hu0]; exact h
  obtain ⟨u, hu, hsettled⟩ := ((u0.modStage n (fun t => { t with closing := none })).lightsTimeouts_settled n l).stage n _
    (State.stage_modStage _ h0)
  obtain ⟨h1, h2⟩ := hsettled rfl
  exact ⟨_, u, hexec, hu, h1, h2⟩

/-! ### Lights-on -/

/-- The near end of a lights-on handshake (R47, R211). -/
def Link.near (edge : Bool) (l : Link) : Link := { l.restart with usable := true, marked := l.marked && !edge }

/-- The far end of a lights-on handshake (R47, R211). -/
def Link.far (edge : Bool) (l : Link) : Link := { l.relit with usable := l.usable || edge }

theorem State.lightsOnSide_eq (s : State) (n : Nat) (d : Side) : s.lightsOnSide n d =
    (s.modStage n (fun u => u.modLink d (Link.near (neighbour n d).isNone))).modAcross n d (Link.far (neighbour n d).isNone) :=
  rfl

/-- One side of a handshake at the stage itself. -/
theorem State.lightsOnSide_self (h : s.stage n = some st) (d : Side) :
    (s.lightsOnSide n d).stage n = some (st.modLink d (Link.near (neighbour n d).isNone)) := by
  rw [State.lightsOnSide_eq, State.stage_modAcross, State.stage_modStage _ h, Option.map_some]
  exact congrArg some (if_neg (fun hn => neighbour_ne hn rfl))

/-- One side of a handshake at another stage. -/
theorem State.lightsOnSide_other (s : State) (d : Side) (hm : m ≠ n) :
    (s.lightsOnSide n d).stage m = (s.stage m).map (Stage.facing n d m (Link.far (neighbour n d).isNone)) := by
  rw [State.lightsOnSide_eq, State.stage_modAcross, State.stage_modStage_other _ _ hm]

theorem State.lightsOnSide_frame (s : State) (n : Nat) (d : Side) :
    s.lightsOnSide n d = { s with stages := (s.lightsOnSide n d).stages, edges := (s.lightsOnSide n d).edges } := by
  rw [State.lightsOnSide_eq]
  have h := (s.modStage n (fun u => u.modLink d (Link.near (neighbour n d).isNone))).modAcross_frame n d
    (Link.far (neighbour n d).isNone)
  generalize State.modAcross _ n d _ = u at *
  rw [h]; rfl

/-- The sides of a handshake that is acknowledged, at the stage itself (R47). -/
theorem State.lightsOnSides_self (l : List Side) (hl : l.Nodup) (h : s.stage n = some st) :
    ∃ u, (l.foldl (fun t d => t.lightsOnSide n d) s).stage n = some u ∧ u = st.linksOf u ∧
      ∀ d, u.link d = if d ∈ l then Link.near (neighbour n d).isNone (st.link d) else st.link d := by
  induction l generalizing s st with
  | nil => exact ⟨st, h, rfl, fun d => rfl⟩
  | cons a l ih =>
    rw [List.nodup_cons] at hl
    obtain ⟨u, hu, hframe, hlink⟩ := ih hl.2 (State.lightsOnSide_self h a)
    refine ⟨u, hu, Stage.linksOf_trans (st.modLink_linksOf a _) hframe, fun d => ?_⟩
    rw [hlink d]
    by_cases hd : d = a
    · subst hd; simp [hl.1]
    · simp [hd, Stage.link_modLink_other st _ hd]

/-- An end that has restarted across a lights-on handshake. -/
def Link.Relit (l : Link) : Prop := l.marked = false ∧ l.unacked = [] ∧ l.fifo = []

/-- A relit end stays relit while other sides are handled, and each side's end across is relit (R47, R211). -/
theorem State.lightsOnSides_across (l : List Side) (hm : m ≠ n) (s : State) {v : Stage}
    (hv : (l.foldl (fun t d => t.lightsOnSide n d) s).stage m = some v) : ∃ w, s.stage m = some w ∧
      (∀ d, (w.link d).Relit → (v.link d).Relit) ∧ (∀ d ∈ l, neighbour n d = some m → (v.link d.opposite).Relit) := by
  induction l generalizing s with
  | nil => exact ⟨v, hv, fun _ h => h, fun d hd => by cases hd⟩
  | cons a l ih =>
    obtain ⟨w, hw, hkeep, hdone⟩ := ih (s.lightsOnSide n a) hv
    rw [State.lightsOnSide_other s a hm] at hw
    obtain ⟨x, hx, rfl⟩ := Option.map_eq_some_iff.mp hw
    refine ⟨x, hx, fun d h => hkeep d ?_, fun d hd hn => ?_⟩
    · rw [Stage.link_facing]
      split
      · exact ⟨rfl, rfl, rfl⟩
      · exact h
    · rcases List.mem_cons.mp hd with rfl | hd
      · refine hkeep _ ?_
        rw [Stage.link_facing, if_pos ⟨hn, rfl⟩]
        exact ⟨rfl, rfl, rfl⟩
      · exact hdone d hd hn

/-- A lit stage takes traffic across each side that is neither usable nor barred (R47, R211). -/
theorem lightsOnHandshake_spec (h : s.stage n = some st) (hl : st.st = .lit) : ∃ t u,
    exec (.lightsOnHandshake n []) s = .next t ∧ t.stage n = some u ∧
    (∀ d, (st.link d).barred = false → (u.link d).usable = true) ∧
    (∀ d, (st.link d).usable = false → (st.link d).barred = false →
      (u.link d).txSeq = 0 ∧ (u.link d).rxSeq = 0 ∧ (u.link d).unacked = [] ∧ (u.link d).fifo = [] ∧
      (∀ m v, neighbour n d = some m → t.stage m = some v →
        (v.link d.opposite).marked = false ∧ (v.link d.opposite).unacked = [] ∧ (v.link d.opposite).fifo = [])) ∧
    (∀ d, (st.link d).usable = true ∨ (st.link d).barred = true → u.link d = st.link d) ∧ u.scratch = st.scratch ∧
    t = { s with stages := t.stages, edges := t.edges, xings := t.xings } := by
  let got := (st.askable.filter (fun d => !(st.link d).usable)).filter (fun d => !([] : List Side).contains d)
  have hexec : exec (.lightsOnHandshake n []) s = .next ((got.foldl (fun t d => t.lightsOnSide n d) s).lightsOk n got) := by
    show execLightsOnHandshake n [] s = _
    unfold execLightsOnHandshake
    rw [h]
    refine (if_neg (not_not.mpr hl)).trans (congrArg Host.Outcome.next ?_)
    simp [got, State.lightsTimeouts]
  have hmem : ∀ d, d ∈ got ↔ (st.link d).usable = false ∧ (st.link d).barred = false := fun d => by
    have hall : d ∈ Side.all := by cases d <;> decide
    simp [got, Stage.askable, hall, and_comm]
  have hnodup : got.Nodup := ((by decide : Side.all.Nodup).filter _).filter _ |>.filter _
  clear_value got
  obtain ⟨u, hu, hframe, hlink⟩ := State.lightsOnSides_self got hnodup h
  have hacross := fun m (hm : m ≠ n) v => State.lightsOnSides_across (v := v) got hm s
  have hfold : got.foldl (fun t d => t.lightsOnSide n d) s = { s with
      stages := (got.foldl (fun t d => t.lightsOnSide n d) s).stages
      edges := (got.foldl (fun t d => t.lightsOnSide n d) s).edges } :=
    foldl_rel (r := fun s t : State => t = { s with stages := t.stages, edges := t.edges }) (fun _ => rfl)
      (fun h k => by rw [k, h]) (fun t d => t.lightsOnSide_frame n d) got s
  generalize got.foldl (fun t d => t.lightsOnSide n d) s = v at *
  have hok := v.lightsOk_frame n got
  generalize v.lightsOk n got = t at *
  have hstage : ∀ m, t.stage m = v.stage m := fun m => by rw [hok]; rfl
  refine ⟨t, u, hexec, (hstage n).trans hu, fun d hb => ?_, fun d hus hb => ?_, fun d hd => ?_, ?_, ?_⟩
  · rw [hlink d]
    cases hus : (st.link d).usable with
    | true => rw [if_neg (by simp [hmem, hus])]; exact hus
    | false => rw [if_pos ((hmem d).mpr ⟨hus, hb⟩)]; rfl
  · rw [hlink d, if_pos ((hmem d).mpr ⟨hus, hb⟩)]
    refine ⟨rfl, rfl, rfl, rfl, fun m w hn hw => ?_⟩
    obtain ⟨-, -, -, hdone⟩ := hacross m (neighbour_ne hn) w ((hstage m).symm.trans hw)
    exact hdone d ((hmem d).mpr ⟨hus, hb⟩) hn
  · rw [hlink d, if_neg]
    rw [hmem]
    rcases hd with hd | hd <;> simp [hd]
  · rw [hframe]; rfl
  · rw [hok, hfold]

/-! ### Power-up and retirement -/

/-- A stage's step is told to its neighbours: their ends change, and nothing of its own (R202). -/
theorem State.tellStep_spec (s : State) (n : Nat) : s.Each (fun x y => y = x.linksOf y) (s.tellStep n) ∧
    s.tellStep n = { s with stages := (s.tellStep n).stages, edges := (s.tellStep n).edges } ∧
    (s.tellStep n).stage n = s.stage n := by
  unfold State.tellStep
  split
  · exact ⟨.refl (R := fun x y => y = x.linksOf y) (fun _ => rfl) s, rfl, rfl⟩
  · refine ⟨⟨s.modAllAcross_count .., fun m st h => ?_⟩, s.modAllAcross_frame .., ?_⟩
    · exact ⟨_, by rw [State.stage_modAllAcross, h]; rfl, st.facingAll_linksOf⟩
    · rw [State.stage_modAllAcross]
      cases s.stage n with
      | none => rfl
      | some v => exact congrArg some (v.facingAll_self n _)

/-- A clock that tells its step changes what the supervisor knows of it (R168). -/
theorem Clock.report_frame (k : Clock) : k.report = { k with supStep := k.report.supStep, supOld := k.report.supOld } := by
  unfold Clock.report; split <;> rfl

/-- The stage that has powered up (R48, R54, R143). -/
def Stage.poweredUp (st : Stage) (tau floor : Nat) : Stage :=
  { st.zeroAll with ready := true, clock := (st.clock.powerUp tau floor).report }

/-- A ramping unlit stage of a context becomes ready (R48). -/
theorem exec_stageReady {p a : Nat} {c : Ctx} (h : s.stage n = some st) (hc : s.ctxOf n = some (p, c)) (hst : st.st = .unlit)
    (hp : st.power = some { attempt := a, ramping := true }) : exec (.stageReady n) s = .next
      (((s.putStage n (st.poweredUp (c.tau st) c.reel.floor)).raiseFor n
        (st.clock.powerUp (c.tau st) c.reel.floor).report.drive.step).tellStep n) := by
  show execStageReady n s = _
  unfold execStageReady
  rw [h, hc]
  dsimp only
  rw [hp]
  exact if_pos (by simp [hst])

/-- A stage that stays beside one that powers up. -/
theorem Stage.besideOf_of {v x w : Stage} (h : v.Noted x) (k : w = x.linksOf w) : w = v.besideOf w := by
  rw [k, h]; rfl

theorem stageReady_spec {p a : Nat} {c : Ctx} (h : s.stage n = some st) (hc : s.ctxOf n = some (p, c))
    (hst : st.st = .unlit) (hp : st.power = some { attempt := a, ramping := true }) : ∃ t u, exec (.stageReady n) s = .next t ∧
    t.stage n = some u ∧ u.ready = true ∧ u.st = .unlit ∧ u.scratch = [] ∧ u.acc = [] ∧ u.script = [] ∧
    u.clock.core0 = { step := c.tau st, locked := true } ∧
    u.clock.core1 = { step := spareStep (c.tau st) c.reel.floor, locked := true } ∧ u.clock.drive1 = false ∧
    u.clock.resync = true ∧ u.clock.lag = 0 ∧
    (∀ m v, m ≠ n → s.stage m = some v → ∃ w, t.stage m = some w ∧ w = v.besideOf w) ∧
    t = { s with stages := t.stages, edges := t.edges, rails := t.rails } := by
  have hexec := exec_stageReady h hc hst hp
  have hself := State.stage_putStage (st.poweredUp (c.tau st) c.reel.floor) h
  have hother := fun m (hm : m ≠ n) => State.stage_putStage_other s (st.poweredUp (c.tau st) c.reel.floor) hm
  have hput : s.putStage n (st.poweredUp (c.tau st) c.reel.floor) = s.railedOf
    (s.putStage n (st.poweredUp (c.tau st) c.reel.floor)) := rfl
  generalize s.putStage n (st.poweredUp (c.tau st) c.reel.floor) = u1 at *
  generalize (st.clock.powerUp (c.tau st) c.reel.floor).report.drive.step = step at *
  have heach := u1.raiseFor_each n step
  have hraise := u1.raiseFor_railedOf n step
  generalize u1.raiseFor n step = u2 at *
  obtain ⟨hends, htell, hn⟩ := u2.tellStep_spec n
  generalize u2.tellStep n = t at *
  obtain ⟨u, hu, hnoted⟩ := heach.stage n _ hself
  have hclock : u.clock = { (st.clock.powerUp (c.tau st) c.reel.floor).report with marginOk := u.clock.marginOk } := by
    rw [hnoted]; rfl
  rw [Clock.report_frame] at hclock
  refine ⟨t, u, hexec, hn.trans hu, ?_, ?_, ?_, ?_, ?_, ?_, ?_, ?_, ?_, ?_, fun m v hm hv => ?_, ?_⟩
  · rw [hnoted]; rfl
  · rw [hnoted]; exact hst
  · rw [hnoted]; rfl
  · rw [hnoted]; rfl
  · rw [hnoted]; rfl
  · rw [hclock]; rfl
  · rw [hclock]; rfl
  · rw [hclock]; rfl
  · rw [hclock]; rfl
  · rw [hclock]; rfl
  · obtain ⟨x, hx, hvx⟩ := heach.stage m v ((hother m hm).trans hv)
    obtain ⟨w, hw, hxw⟩ := hends.stage m x hx
    exact ⟨w, hw, Stage.besideOf_of hvx hxw⟩
  · rw [htell, State.railedOf_trans hput hraise]; rfl

/-- The switch of a stage that ramps into a short opens, and ramps once more (R49, R471). -/
theorem exec_rampFailure (h : s.stage n = some st) (hr : st.ready = false) {a : Nat}
    (hp : st.power = some { attempt := a, ramping := true }) : exec (.powerSwitchRampFailure n) s = .next
      (if a = 1 then (s.putStage n { st with power := some { attempt := a, ramping := false } }).errorEvent
        (stageErr 0x10 n none) 0x03 0
      else (s.errorEvent (stageErr 0x10 n none) 0x00 0).retireStage n 0x03 0x10 0x11) := by
  show execPowerSwitchRampFailure n s = _
  unfold execPowerSwitchRampFailure
  rw [h]
  dsimp only
  rw [hp]
  dsimp only
  rw [if_neg (by simp [hr])]
  split <;> rfl

/-- An error's body says the stage's context, which its power does not change. -/
theorem errBody_putStage (x : Stage) (h : s.stage n = some st) (hx : x.part = st.part) (e : ErrReport) (a : Nat) (o : BitVec 16) :
    (s.putStage n x).errBody e a o = s.errBody e a o := by
  have hof : (s.putStage n x).ctxOf e.stage = s.ctxOf e.stage := by
    by_cases he : e.stage = n
    · rw [he]
      simp only [State.ctxOf, State.stage_putStage x h, h, hx]
      rfl
    · simp only [State.ctxOf, State.stage_putStage_other s x he]
      rfl
  unfold State.errBody
  rw [hof]

/-- Settles O13: the handshakes, and power-up with its failures. -/
theorem stagesComeAndGo : Obligations.StagesComeAndGo := by
  refine ⟨⟨fun s n st h hc => lightsOutHandshake_dark h hc, fun s n st h hc => lightsOutHandshake_unlit h hc,
      fun s n st g no d h hc hd hb => lightsOutHandshake_abandoned h hc hd hb,
      fun s n side st h hst => ⟨?outRequest, fun hb => ?onRequest⟩, fun s n side st h => ⟨fun hst => ?outRetired, fun hst => ?onRetired⟩,
      fun s n st h hl => lightsOnHandshake_spec h hl⟩,
    fun s n st h hst hh hp hw hr => ?powerUp, fun s n p st c a h hc hst hp => stageReady_spec h hc hst hp,
    fun s n st h hr hp => ?firstFailure, fun s n st h hr hst hp => ?secondFailure, fun s n st h hr hp => ?retry⟩
  case outRequest =>
    show execLightsOutRequestReceived n side s = _
    unfold execLightsOutRequestReceived
    rw [h]
    exact if_neg hst
  case onRequest =>
    have hexec : exec (.lightsOnRequestReceived n side) s = .next (s.putStage n (st.modLink side Link.relit)) := by
      show execLightsOnRequestReceived n side s = _
      unfold execLightsOnRequestReceived
      rw [h]
      exact if_neg (by simp [hst, hb])
    refine ⟨_, st.modLink side Link.relit, hexec, State.stage_putStage _ h, ?_⟩
    rw [Stage.link_modLink]
    exact ⟨rfl, rfl, rfl, rfl, rfl, rfl, rfl, rfl, fun d hd => st.link_modLink_other _ hd, rfl,
      fun m hm => State.stage_putStage_other _ _ hm⟩
  case outRetired =>
    show execLightsOutRequestReceived n side s = _
    unfold execLightsOutRequestReceived
    rw [h]
    exact if_pos hst
  case onRetired =>
    show execLightsOnRequestReceived n side s = _
    unfold execLightsOnRequestReceived
    rw [h]
    exact if_pos (by simpa using hst)
  case powerUp =>
    show execStagePowerUp n s = _
    unfold execStagePowerUp
    rw [h]
    exact if_pos (by simp [hst, hh, hp, hw, hr])
  case firstFailure =>
    have hevent := (s.putStage n { st with power := some { attempt := 1, ramping := false } }).errorEvent_frame
      (stageErr 0x10 n none) 0x03 0
    have htold := (s.putStage n { st with power := some { attempt := 1, ramping := false } }).errorEvent_toldError
      (stageErr 0x10 n none) 0x03 0
    rw [errBody_putStage { st with power := some { attempt := 1, ramping := false } } h rfl] at htold
    refine ⟨_, (exec_rampFailure h hr hp).trans (congrArg Host.Outcome.next (if_pos rfl)), ?_, htold, ?_⟩
    · rw [hevent]; exact State.stage_putStage _ h
    · rw [hevent]; rfl
  case secondFailure =>
    have hevent := s.errorEvent_frame (stageErr 0x10 n none) 0x00 0
    have hexec := (exec_rampFailure h hr hp).trans (congrArg Host.Outcome.next (if_neg (by decide)))
    generalize s.errorEvent (stageErr 0x10 n none) 0x00 0 = u at *
    obtain ⟨⟨v, hv, -⟩, -⟩ := State.retireStage_stage (show u.stage n = some st by rw [hevent]; exact h) hst 0x03 0x10 0x11
    exact ⟨_, _, hexec, hv, rfl, State.retirementOf_trans (by rw [hevent]; rfl) (u.retireStage_frame ..)⟩
  case retry =>
    show execPowerSwitchRetry n s = _
    unfold execPowerSwitchRetry
    rw [h]
    dsimp only
    rw [hp]
    exact if_pos (by simp [hr])

end Sys2Proof.Machine
end

section
/-! Crossing timeouts and double-sample failures (R46, R47, R216, R218, R219). -/

namespace Sys2Proof.Machine

set_option Elab.async false

open Sys2Proof

variable {s : State} {n m : Nat} {st : Stage} {x : BitVec 16}

/-! ### The context an error names -/

/-- A stage that keeps its partition keeps its context. -/
theorem State.ctxOf_modStage (s : State) (n : Nat) {f : Stage → Stage} (hf : ∀ st, (f st).part = st.part) (m : Nat) :
    (s.modStage n f).ctxOf m = s.ctxOf m := by
  simp only [State.ctxOf, State.stage_modStage_map]
  cases s.stage m with
  | none => rfl
  | some v =>
    have h : (if n = m then f v else v).part = v.part := by split; exacts [hf v, rfl]
    simp only [Option.map_some, h]
    rfl

/-- An error's body depends on the context of its stage alone. -/
theorem State.errBody_congr {s t : State} {e : ErrReport} (h : t.ctxOf e.stage = s.ctxOf e.stage) (a : Nat) (o : BitVec 16) :
    t.errBody e a o = s.errBody e a o := by
  unfold State.errBody
  rw [h]

/-! ### Counting an error of a crossing -/

/-- Pending tests change when one ends, and nothing else. -/
theorem State.joinTest_new {s : State} {u : UnitId} {k : Nat} {w : TestWait} (h : s.testOf u = none) :
    ∃ t : Test, (s.joinTest u k w).testOf u = some t ∧ t.joined = 1 ∧ t.moved = false := by
  have hmiss : s.tests.find? (fun t => t.unit = u) = none := h
  unfold State.joinTest
  rw [h]
  simp only [State.testOf, List.find?_append, hmiss, Option.none_or, List.find?_cons_of_pos, decide_true]
  exact ⟨_, rfl, rfl, rfl⟩

/-- A crossing's error that is no lasting one is counted in the tests and transient counts alone (R218, Table 14.2). -/
theorem State.countCrossing_transient (s : State) (k : Nat) (ht : s.testOf (.crossing x) = none)
    (hle : s.transientOf (.crossing x) + 1 ≤ s.allow) :
    (s.countCrossing x k).transientOf (.crossing x) = s.transientOf (.crossing x) + 1 ∧
    s.countCrossing x k = { s with
      tests := (s.countCrossing x k).tests, transients := (s.countCrossing x k).transients } := by
  obtain ⟨t, htest, hjoined, hmoved⟩ := State.joinTest_new (k := k) (w := .free) ht
  have hjoin := s.joinTest_frame (.crossing x) k .free
  unfold State.countCrossing
  generalize s.joinTest (.crossing x) k .free = u at *
  have htrans : u.transientOf (.crossing x) = s.transientOf (.crossing x) := by rw [hjoin]; rfl
  have hallow : u.allow = s.allow := by rw [hjoin]; rfl
  have hclass : u.classify (.crossing x) false =
      (u.dropTest (.crossing x)).setTransient (.crossing x) (s.transientOf (.crossing x) + 1) := by
    unfold State.classify
    rw [htest]
    dsimp only
    rw [if_neg (by decide), htrans, hjoined, hallow, if_neg (by omega), hmoved]
    split <;> rfl
  rw [hclass]
  refine ⟨by simp [State.transientOf, State.setTransient], ?_⟩
  rw [hjoin]; rfl

/-! ### The crossing's own condition -/

/-- The condition of a crossing that was put (R217). -/
theorem State.xing_putXing (s : State) (y : Xing) : (s.putXing y).xing y.xid = y := by
  simp [State.xing, State.putXing]

/-- A crossing's condition names it. -/
theorem State.xing_xid (s : State) (x : BitVec 16) : (s.xing x).xid = x := by
  unfold State.xing
  cases h : s.xings.find? (fun y => y.xid = x) with
  | none => rfl
  | some y => simpa using List.find?_some h

/-- Crossings are what the list of them says. -/
theorem State.xing_congr {s t : State} (h : t.xings = s.xings) (x : BitVec 16) : t.xing x = s.xing x := by
  unfold State.xing; rw [h]

/-- The first timeout of a crossing is noted, told and counted (R218). -/
theorem State.timeoutXing_first (s : State) (hage : (s.xing x).age = 0) (ht : s.testOf (.crossing x) = none)
    (hle : s.transientOf (.crossing x) + 1 ≤ s.allow) :
    ((s.timeoutXing x).xing x).age = 1 ∧ ((s.timeoutXing x).xing x).req = false ∧
    ((s.timeoutXing x).xing x).wait = true ∧ s.toldIn (s.timeoutXing x) (crossingErr 0x0C x none) 0 ∧
    (s.timeoutXing x).transientOf (.crossing x) = s.transientOf (.crossing x) + 1 ∧
    s.timeoutXing x = { s.errorsOf (s.timeoutXing x) with xings := (s.timeoutXing x).xings } := by
  have heq : s.timeoutXing x = ((s.putXing (s.xing x).timeout).errorEvent (crossingErr 0x0C x none) 0 0).countCrossing x 0x0C :=
    if_pos hage
  have hput := s.xing_putXing (s.xing x).timeout
  rw [show (s.xing x).timeout.xid = x from s.xing_xid x] at hput
  have hevent := (s.putXing (s.xing x).timeout).errorEvent_frame (crossingErr 0x0C x none) 0 0
  have htold := (s.putXing (s.xing x).timeout).errorEvent_toldError (crossingErr 0x0C x none) 0 0
  rw [heq]
  generalize (s.putXing (s.xing x).timeout).errorEvent (crossingErr 0x0C x none) 0 0 = u at *
  obtain ⟨hcount, hframe⟩ := u.countCrossing_transient (x := x) 0x0C (by rw [hevent]; exact ht) (by rw [hevent]; exact hle)
  generalize u.countCrossing x 0x0C = t at *
  have hx : t.xing x = (s.xing x).timeout := by
    rw [← hput]
    exact State.xing_congr (by rw [hframe, hevent]; rfl) x
  refine ⟨?_, ?_, ?_, ?_, ?_, ?_⟩
  · rw [hx]; exact congrArg (· + 1) hage
  · rw [hx]; rfl
  · rw [hx]; rfl
  · obtain ⟨e, he, hk⟩ := htold
    exact ⟨e, by rw [hframe]; exact he, hk⟩
  · rw [hcount, hevent]; rfl
  · rw [hframe, hevent]; rfl

/-- What an event that was not delivered leaves of its stage (R218). -/
def Stage.missed (x : BitVec 16) (st : Stage) : Stage :=
  if xidKind x = 4 then { st.modLink (Side.ofCode (xidInst x)) (fun l => { l with usable := false }) with closing := none }
  else if xidKind x = 2 then (if st.st = .lit then { st with stopped := true, seq := { st.seq with done := false } } else st)
  else st

theorem State.modStage_self (s : State) (n : Nat) {f : Stage → Stage} (h : ∀ st, f st = st) : s.modStage n f = s := by
  have hf : f = id := funext h
  subst hf
  simp [State.modStage, modAt]

theorem State.undelivered_eq (s : State) (x : BitVec 16) : s.undelivered x = s.modStage (xidSite x) (Stage.missed x) := by
  unfold State.undelivered Stage.missed
  dsimp only
  by_cases h4 : xidKind x = 4
  · simp [h4]
  · by_cases h2 : xidKind x = 2
    · simp [h2]
    · rw [if_neg h4, if_neg h2, State.modStage_self s _ (fun st => by rw [if_neg h4, if_neg h2])]

/-- Of a stage that missed an event its partition and state stay. -/
theorem Stage.missed_frame (x : BitVec 16) (st : Stage) : (st.missed x).part = st.part ∧ (st.missed x).st = st.st ∧
    (st.missed x).scratch = st.scratch := by
  unfold Stage.missed
  split
  · rw [Stage.modLink_linksOf]; exact ⟨rfl, rfl, rfl⟩
  · split
    · split <;> exact ⟨rfl, rfl, rfl⟩
    · exact ⟨rfl, rfl, rfl⟩

/-- The timeout of a four-phase crossing out of reset (R218). -/
theorem exec_crossingTimeout (hr : s.inReset = false) (hx : xidFour x = true) : exec (.crossingTimeout x) s =
    .next ((s.modStage (xidSite x) (Stage.missed x)).timeoutXing x) :=
  (if_neg (by simp [hr, hx])).trans (by rw [State.undelivered_eq])

/-! ### Splices that no longer agree -/

/-- A stage of which splice ends may have left aligned mode (R208). -/
def Stage.Unaligned (st u : Stage) : Prop :=
  u = st.linksOf u ∧ ∀ d, u.link d = { st.link d with aligned := (u.link d).aligned }

theorem Stage.Unaligned.refl (st : Stage) : st.Unaligned st := ⟨rfl, fun _ => rfl⟩

theorem Stage.Unaligned.trans {a b c : Stage} (h : a.Unaligned b) (k : b.Unaligned c) : a.Unaligned c :=
  ⟨Stage.linksOf_trans h.1 k.1, fun d => by rw [k.2 d, h.2 d]⟩

/-- A splice end that leaves aligned mode. -/
def Link.unaligned (l : Link) : Link := if l.aligned then { l with aligned := false } else l

theorem Link.unaligned_frame (l : Link) : l.unaligned = { l with aligned := l.unaligned.aligned } := by
  unfold Link.unaligned; split <;> rfl

theorem Stage.modLink_unaligned (st : Stage) (d : Side) : st.Unaligned (st.modLink d Link.unaligned) := by
  refine ⟨st.modLink_linksOf d _, fun d' => ?_⟩
  by_cases h : d' = d
  · subst h; rw [Stage.link_modLink]; exact Link.unaligned_frame _
  · rw [st.link_modLink_other _ h]

theorem State.modEnd_unaligned (s : State) (e : End) : s.Each Stage.Unaligned (s.modEnd e Link.unaligned) := by
  unfold State.modEnd
  split
  · split
    · exact .refl Stage.Unaligned.refl s
    · exact .of_stages Stage.Unaligned.refl rfl
  · exact .modStage Stage.Unaligned.refl s _ (fun st => st.modLink_unaligned _)

theorem State.modEnd_frame (s : State) (e : End) (f : Link → Link) :
    s.modEnd e f = { s with stages := (s.modEnd e f).stages, edges := (s.modEnd e f).edges } := by
  unfold State.modEnd; split
  · split <;> rfl
  · rfl

/-- Splices of a stage that no longer agree leave aligned mode, and nothing else changes (R208). -/
theorem State.checkAligned_each (s : State) (n : Nat) : s.Each Stage.Unaligned (s.checkAligned n) :=
  .foldl Stage.Unaligned.refl Stage.Unaligned.trans (fun t d => by
    unfold State.checkSide
    split
    · exact .refl Stage.Unaligned.refl t
    · exact .trans Stage.Unaligned.trans (t.modEnd_unaligned _) (State.modEnd_unaligned _ _)) _ s

/-- A state with the stages and the edge blocks' ends of another: what changing splice ends may change. -/
def State.endsOf (s t : State) : State := { s with stages := t.stages, edges := t.edges }

theorem State.endsOf_trans {t u : State} (h : t = s.endsOf t) (k : u = t.endsOf u) : u = s.endsOf u := by
  rw [k, h]; rfl

theorem State.checkAligned_frame (s : State) (n : Nat) : s.checkAligned n = s.endsOf (s.checkAligned n) :=
  foldl_rel (r := fun s t : State => t = s.endsOf t) (fun _ => rfl) State.endsOf_trans (fun t d => by
    unfold State.checkSide
    split
    · rfl
    · exact State.endsOf_trans (t.modEnd_frame _ Link.unaligned) (State.modEnd_frame _ _ Link.unaligned)) Side.all s

/-- Contexts of stages after splices leave aligned mode. -/
theorem State.checkAligned_ctxOf (s : State) (n m : Nat) : (s.checkAligned n).ctxOf m = s.ctxOf m := by
  have heach := s.checkAligned_each n
  have hframe := s.checkAligned_frame n
  generalize s.checkAligned n = t at *
  have hctx : ∀ p, t.ctx p = s.ctx p := fun p => by rw [hframe]; rfl
  cases h : s.stage m with
  | none =>
    have ht : t.stage m = none := List.getElem?_eq_none (by
      rw [heach.count]
      exact List.getElem?_eq_none_iff.mp h)
    simp only [State.ctxOf, h, ht]
  | some v =>
    obtain ⟨u, hu, hlinks, -⟩ := heach.stage m v h
    have hpart : u.part = v.part := by rw [hlinks]; rfl
    simp only [State.ctxOf, h, hu, hpart, hctx]

/-- What the destination of a double-sampled value keeps (R216). -/
def Stage.keptLast (x : BitVec 16) (st : Stage) : Stage :=
  match xidKind x with
  | 0x7 => { st with clock := { st.clock with supStep := st.clock.supOld } }
  | 0x8 => { st with temps := st.temps.set (xidInst x) (st.tempsOld.getD (xidInst x) 25) }
  | 0x9 => { st with clock := { st.clock with pairLag := st.clock.pairOld } }
  | 0xA => { st with slackTick := none }
  | 0xD => st.modLink (Side.ofCode (xidInst x)) (fun l => { l with partner := l.partOld })
  | _ => st

theorem State.keepLast_eq (s : State) (x : BitVec 16) : s.keepLast x = s.modStage (xidSite x) (Stage.keptLast x) := rfl

theorem Stage.keptLast_frame (x : BitVec 16) (st : Stage) : (st.keptLast x).part = st.part ∧
    (st.keptLast x).scratch = st.scratch ∧ (st.keptLast x).seq = st.seq := by
  unfold Stage.keptLast
  split
  case h_5 => rw [Stage.modLink_linksOf]; exact ⟨rfl, rfl, rfl⟩
  all_goals exact ⟨rfl, rfl, rfl⟩

/-- Settles O14: the timeouts of a crossing, and a value that was not sampled twice alike. -/
theorem crossingFailures : Obligations.CrossingFailures := by
  refine ⟨fun s x hr hx hage ht hle => ?first, fun s x st hr hx hage hsite h hst => ?second,
    fun s x hr hx ht hle => ?double, fun s x => ⟨fun h => if_pos (by simp [h]), fun h => if_pos (by simp [h])⟩⟩
  case first =>
    have hstage := fun st (h : s.stage (xidSite x) = some st) => State.stage_modStage (Stage.missed x) h
    have hother := fun m (hm : m ≠ xidSite x) => State.stage_modStage_other s (Stage.missed x) hm
    have hof := s.ctxOf_modStage (xidSite x) (fun st => (st.missed_frame x).1)
    have hexec := exec_crossingTimeout hr hx
    have hu : s.modStage (xidSite x) (Stage.missed x) = { s with
      stages := (s.modStage (xidSite x) (Stage.missed x)).stages } := rfl
    generalize s.modStage (xidSite x) (Stage.missed x) = u at *
    obtain ⟨h1, h2, h3, ⟨e, he, hk, hp⟩, h5, h6⟩ := u.timeoutXing_first (x := x)
      (by rw [hu]; exact hage) (by rw [hu]; exact ht) (by rw [hu]; exact hle)
    have hsame : ∀ m, (u.timeoutXing x).stage m = u.stage m := fun m => by rw [h6]; rfl
    have htrans : u.transientOf (.crossing x) = s.transientOf (.crossing x) := by rw [hu]; rfl
    generalize u.timeoutXing x = t at *
    refine ⟨t, hexec, h1, h2, h3, ⟨e, he, hk, ?_⟩, h5.trans (by rw [htrans]), fun st h => ⟨st.missed x,
      (hsame _).trans (hstage st h), (st.missed_frame x).2.2, fun h2 hl => ?_, fun h4 => ?_, fun h2 h4 => ?_⟩,
      fun m hm => (hsame m).trans (hother m hm), ?_⟩
    · rw [hp, State.errBody_congr (hof _)]
    · unfold Stage.missed; rw [if_neg (by rw [h2]; decide), if_pos h2, if_pos hl]; exact ⟨rfl, rfl⟩
    · unfold Stage.missed; rw [if_pos h4]
      exact ⟨rfl, congrArg Link.usable (st.link_modLink (Side.ofCode (xidInst x)) _)⟩
    · unfold Stage.missed; rw [if_neg h4, if_neg h2]
    · rw [h6, hu]; rfl
  case second =>
    have hstage := State.stage_modStage (Stage.missed x) h
    have hexec := exec_crossingTimeout hr hx
    have hu : s.modStage (xidSite x) (Stage.missed x) = { s with
      stages := (s.modStage (xidSite x) (Stage.missed x)).stages } := rfl
    generalize s.modStage (xidSite x) (Stage.missed x) = u at *
    have hxing : u.xing x = s.xing x := State.xing_congr (by rw [hu]) x
    have htime : u.timeoutXing x = ((u.putXing { (u.xing x).timeout with failed := true }).errorEvent
        (crossingErr 0x0D x none) 0 0).retireStage (xidSite x) 0x00 0x0D 0x10 :=
      (if_neg (by rw [hxing]; omega)).trans (if_pos hsite)
    have hput := u.xing_putXing { (u.xing x).timeout with failed := true }
    rw [show ({ (u.xing x).timeout with failed := true } : Xing).xid = x from u.xing_xid x] at hput
    rw [htime] at hexec
    have hevent := (u.putXing { (u.xing x).timeout with failed := true }).errorEvent_frame (crossingErr 0x0D x none) 0 0
    generalize (u.putXing { (u.xing x).timeout with failed := true }).errorEvent (crossingErr 0x0D x none) 0 0 = w at *
    obtain ⟨⟨v, hv, -⟩, -⟩ := State.retireStage_stage (s := w) (by rw [hevent]; exact hstage)
      (by rw [(st.missed_frame x).2.1]; exact hst) 0x00 0x0D 0x10
    have hret := w.retireStage_frame (xidSite x) 0x00 0x0D 0x10
    generalize w.retireStage (xidSite x) 0x00 0x0D 0x10 = t at *
    refine ⟨t, _, hexec, ?_, hv, rfl, ?_⟩
    · have hxt : t.xing x = w.xing x := State.xing_congr (by rw [hret]; rfl) x
      have hxw : w.xing x = (u.putXing { (u.xing x).timeout with failed := true }).xing x :=
        State.xing_congr (by rw [hevent]; rfl) x
      rw [hxt, hxw, hput]
    · rw [hret, hevent, hu]; rfl
  case double =>
    have hexec : exec (.doubleSampleFailure x) s = .next ((((s.modStage (xidSite x) (Stage.keptLast x)).checkAligned
        (xidSite x)).errorEvent (crossingErr 0x0F x none) 0 0).countCrossing x 0x0F) := if_neg (by simp [hr, hx])
    have hstage := fun st (h : s.stage (xidSite x) = some st) => State.stage_modStage (Stage.keptLast x) h
    have hof := s.ctxOf_modStage (xidSite x) (fun st => (st.keptLast_frame x).1)
    have hu : s.modStage (xidSite x) (Stage.keptLast x) = { s with
      stages := (s.modStage (xidSite x) (Stage.keptLast x)).stages } := rfl
    generalize s.modStage (xidSite x) (Stage.keptLast x) = u at *
    have heach := u.checkAligned_each (xidSite x)
    have halign := u.checkAligned_frame (xidSite x)
    have hof2 := u.checkAligned_ctxOf (xidSite x)
    generalize u.checkAligned (xidSite x) = v at *
    have hevent := v.errorEvent_frame (crossingErr 0x0F x none) 0 0
    obtain ⟨e, he, hk, hp⟩ := v.errorEvent_toldError (crossingErr 0x0F x none) 0 0
    generalize v.errorEvent (crossingErr 0x0F x none) 0 0 = w at *
    obtain ⟨hcount, hframe⟩ := w.countCrossing_transient (x := x) 0x0F (by rw [hevent, halign, hu]; exact ht)
      (by rw [hevent, halign, hu]; exact hle)
    have htrans : w.transientOf (.crossing x) = s.transientOf (.crossing x) := by rw [hevent, halign, hu]; rfl
    generalize w.countCrossing x 0x0F = t at *
    refine ⟨t, hexec, hcount.trans (by rw [htrans]), ⟨e, by rw [hframe]; exact he, hk, ?_⟩, fun st h => ?_, ?_⟩
    · rw [hp, State.errBody_congr ((hof2 _).trans (hof _))]
    · obtain ⟨y, hy, hlinks, hlink⟩ := heach.stage _ _ (hstage st h)
      have hty : t.stage (xidSite x) = some y := by rw [hframe, hevent]; exact hy
      refine ⟨y, hty, ?_, ?_, fun h7 => ?_, fun h8 => ?_, fun h9 => ?_, fun hA => ?_, fun hD => ?_⟩
      · rw [hlinks]; exact (st.keptLast_frame x).2.1
      · rw [hlinks]; exact (st.keptLast_frame x).2.2
      · rw [hlinks]; unfold Stage.keptLast; rw [h7]; rfl
      · rw [hlinks]; unfold Stage.keptLast; rw [h8]; rfl
      · rw [hlinks]; unfold Stage.keptLast; rw [h9]; rfl
      · rw [hlinks]; unfold Stage.keptLast; rw [hA]; rfl
      · have hkept : st.keptLast x = st.modLink (Side.ofCode (xidInst x)) (fun l => { l with partner := l.partOld }) := by
          unfold Stage.keptLast; rw [hD]; rfl
        rw [hlink, hkept, Stage.link_modLink]
    · rw [hframe, hevent, halign, hu]; rfl

end Sys2Proof.Machine
end

section
/-! The gaffer's update and the choice of the issue limit (R266, R272 to R274, R276, R278, R279, R281, R282). -/

namespace Sys2Proof.Machine

set_option Elab.async false

open Sys2Proof

variable {s : State} {n : Nat} {st : Stage} {l : Nat}

/-! ### The issue limit -/

/-- A search from `n` down to 1 finds the largest value that passes. -/
theorem find?_down_eq_some (P : Nat → Bool) : ∀ n : Nat, ((List.range n).reverse.map (· + 1)).find? P = some l ↔
    (1 ≤ l ∧ l ≤ n ∧ P l = true ∧ ∀ k, l < k → k ≤ n → P k = false)
  | 0 => by simp; omega
  | n + 1 => by
    rw [List.range_succ, List.reverse_append, List.reverse_singleton, List.singleton_append, List.map_cons,
      List.find?_cons]
    cases hp : P (n + 1) with
    | true =>
      constructor
      · rintro ⟨⟩
        exact ⟨by omega, le_refl _, hp, fun k h1 h2 => absurd h1 (by omega)⟩
      · rintro ⟨-, h2, -, h4⟩
        have hl : ¬ l < n + 1 := fun hlt => by simp [h4 (n + 1) hlt le_rfl] at hp
        rw [show l = n + 1 by omega]
    | false =>
      rw [find?_down_eq_some P n]
      constructor
      · rintro ⟨h1, h2, h3, h4⟩
        refine ⟨h1, by omega, h3, fun k hk hk' => ?_⟩
        rcases Nat.lt_or_ge n k with h | h
        · rw [show k = n + 1 by omega]; exact hp
        · exact h4 k hk h
      · rintro ⟨h1, h2, h3, h4⟩
        have hl : l ≠ n + 1 := fun h => by simp [← h, h3] at hp
        exact ⟨h1, by omega, h3, fun k hk hk' => h4 k hk (by omega)⟩

/-- Settles O23: the search of R279 goes from 16 down. -/
theorem issueLimitIsTheLargestThatPasses : Obligations.IssueLimitIsTheLargestThatPasses := by
  unfold Obligations.IssueLimitIsTheLargestThatPasses
  intro bound hist prev cap
  refine ⟨fun l => find?_down_eq_some _ 16, ?_, fun l => ?_⟩
  · rw [chooseLimit, List.find?_eq_none]
    constructor
    · intro h k h1 h2
      exact Bool.eq_false_iff.mpr (h k (List.mem_map.mpr ⟨k - 1, by simp; omega, by omega⟩))
    · intro h k hk
      obtain ⟨j, hj, rfl⟩ := List.mem_map.mp hk
      simp only [List.mem_reverse, List.mem_range] at hj
      simp [h (j + 1) (by omega) (by omega)]
  · have hmax : (if prev < l then l else prev) = max prev l := by split <;> omega
    simp only [limitPasses, lastSum, hmax, List.all_cons, List.all_nil, Bool.and_true, Bool.and_eq_true,
      decide_eq_true_eq, Nat.cast_ofNat]
    tauto

/-! ### The report of a rail -/

/-- An unlit or retired stage adds no activity and no leakage to its rail's report (R272, R273). -/
theorem State.stageReport_still {x : Nat} {r : RailReport} (h : ∀ st, s.stage n = some st → st.st = .unlit ∨ st.st = .retired)
    (hr : r.d = 0 ∧ r.q = 0) : (s.stageReport x n r).d = 0 ∧ (s.stageReport x n r).q = 0 := by
  unfold State.stageReport
  cases hst : s.stage n with
  | none => exact hr
  | some st =>
    have hlit : st.st ≠ .lit := by rcases h st hst with h | h <;> simp [h]
    have hclk : st.clocked = false := by rcases h st hst with h | h <;> simp [Stage.clocked, h]
    simp [hlit, hclk, Stage.leak, hr.1, hr.2, wattsAt]

/-- Stages that are all unlit or retired report nothing. -/
theorem State.railReport_still {x : Nat}
    (h : ∀ n ∈ railStages x, ∀ st, s.stage n = some st → st.st = .unlit ∨ st.st = .retired) :
    (s.railReport x).d = 0 ∧ (s.railReport x).q = 0 :=
  List.foldlRecOn (motive := fun r : RailReport => r.d = 0 ∧ r.q = 0) (railStages x) _ ⟨rfl, rfl⟩
    fun _ hr n hn => State.stageReport_still (h n hn) hr

/-! ### The update -/

/-- The length of the interval that an update ends, in 1/256 ns: 8 µs for the first. -/
def State.intervalUnits (s : State) : Nat :=
  s.gaffer.lastUpdate.elim updateUnits (fun t => s.nextUpdate.toNat - t.toNat)

/-- A stage at an update: its activity counts anew. -/
def Stage.countedAnew (st : Stage) : Stage := { st with work := .zero }

/-- The gaffer after the update that a state makes. -/
def State.nextGaffer (s : State) : Gaffer :=
  s.gaffer.update (railsPower s.rails s.railReports) (powerBound s.rails s.railReports) s.capNow s.intervalUnits s.nextUpdate

/-- A state whose time has moved to an update, with the update's gaffer and rails: every stage's activity counts anew. -/
def State.takeUpdate (u : State) (g : Gaffer) (rails : List Rail) : State :=
  { u with gaffer := g, rails := rails, stages := u.stages.map Stage.countedAnew }

/-- The state after an update. -/
def State.updated (s : State) : State :=
  (s.advance s.nextUpdate).takeUpdate s.nextGaffer (countIntervals s.rails s.railReports)

theorem State.takeUpdate_time (u : State) (g : Gaffer) (rails : List Rail) : (u.takeUpdate g rails).time = u.time := rfl

theorem State.takeUpdate_gaffer (u : State) (g : Gaffer) (rails : List Rail) : (u.takeUpdate g rails).gaffer = g := rfl

theorem State.takeUpdate_frame {u : State} (h : u = { s with time := u.time, stages := u.stages }) (g : Gaffer)
    (rails : List Rail) : u.takeUpdate g rails = { s with
      time := (u.takeUpdate g rails).time, gaffer := (u.takeUpdate g rails).gaffer
      rails := (u.takeUpdate g rails).rails, stages := (u.takeUpdate g rails).stages } := by
  unfold State.takeUpdate
  rw [h]

theorem State.takeUpdate_stage {u : State} (h : u.stage n = some st) (g : Gaffer) (rails : List Rail) :
    (u.takeUpdate g rails).stage n = some st.countedAnew :=
  (List.getElem?_map ..).trans (congrArg (Option.map _) h)

/-- An update runs after boot and out of reset. -/
theorem exec_gafferUpdate (hb : s.pins.bootDone = true) (hr : s.inReset = false) :
    exec .gafferUpdate s = .next s.updated := by
  refine (if_neg (by simp [hb, hr])).trans ?_
  unfold State.updated State.takeUpdate State.nextGaffer State.intervalUnits
  cases s.gaffer.lastUpdate <;> rfl

/-- An update moves wafer time to its instant and changes the gaffer, the rails and the stages besides. -/
theorem State.updated_frame (s : State) :
    s.updated.time = { s.time with
      wafer := s.nextUpdate
      applied := if s.nextUpdate.toNat % 5120 = 0 then divider s.time.corr else s.time.applied } ∧
    s.updated = { s with
      time := s.updated.time, gaffer := s.updated.gaffer, rails := s.updated.rails, stages := s.updated.stages } := by
  obtain ⟨htime, -, hframe⟩ := s.advance_spec s.nextUpdate
  exact ⟨(State.takeUpdate_time ..).trans htime, State.takeUpdate_frame hframe _ _⟩

/-- A stage after an update counts its activity anew, at the instant of the update. -/
theorem State.updated_stage (h : s.stage n = some st) : ∃ u, s.updated.stage n = some u ∧
    u = { st with work := Work.zero, island := s.nextUpdate, clock := u.clock } ∧ u.clock.lag = st.clock.lag := by
  obtain ⟨v, hv, hisl, hfr, hlag⟩ := State.stage_advance s.nextUpdate h
  refine ⟨v.countedAnew, State.takeUpdate_stage hv .., ?_, hlag⟩
  rw [hfr, hisl]
  rfl

/-- The gaffer after an update (R279, R281, R282): history, cap, limits and the infeasible run. -/
theorem Gaffer.update_spec (g : Gaffer) (p : Rat) (bound : Nat → Rat) (cap units : Nat) (now : WaferTime) :
    (g.update p bound cap units now).hist =
      (if cap < g.cap then ((p :: g.hist).take 1250).map (clampTo cap) else (p :: g.hist).take 1250) ∧
    (g.update p bound cap units now).cap = cap ∧ (g.update p bound cap units now).limitOld = g.limit ∧
    (g.update p bound cap units now).limit =
      (chooseLimit bound (g.update p bound cap units now).hist g.limit cap).getD 1 ∧
    (g.update p bound cap units now).infeasRun =
      (if (chooseLimit bound (g.update p bound cap units now).hist g.limit cap).isSome then 0 else g.infeasRun + 1) ∧
    (g.update p bound cap units now).lastUpdate = some now :=
  ⟨rfl, rfl, rfl, rfl, rfl, rfl⟩

/-- What a run of infeasible updates is entered with (R282, Table 15.9): the cap and the largest P of the run, in whole
watts. -/
def Gaffer.infeasBytes (g : Gaffer) : List Byte :=
  leBytes 4 g.cap ++ leBytes 4 (capAt 0xFFFFFFFF g.infeasMax.floor.toNat)

/-- A run of 1,250 infeasible updates is entered once. -/
theorem exec_capUnattainable (h : 1250 ≤ s.gaffer.infeasRun) (ht : s.gaffer.infeasTold = false) :
    exec .capUnattainable s = .next { s.log 0x08 s.gaffer.infeasBytes with
      gaffer := { s.gaffer with infeasTold := true } } :=
  if_pos (by simp [h, ht])

/-- Settles O22: the branches of an update and the sum over a rail's stages. -/
theorem gafferUpdate : Obligations.GafferUpdate := by
  unfold Obligations.GafferUpdate
  refine ⟨fun s p hb hr hp => ?update, fun s x h => State.railReport_still h, fun s h1 h2 => ?told, fun s h => ?quiet,
    fun s n st h => ⟨fun hl => ?lit, fun hl => ?other⟩⟩
  case update =>
    obtain ⟨htime, hframe⟩ := s.updated_frame
    obtain ⟨hhist, hcap, hold, hlimit, hrun, hlast⟩ := s.gaffer.update_spec p (powerBound s.rails s.railReports) s.capNow
      s.intervalUnits s.nextUpdate
    have hg : s.updated.gaffer =
      s.gaffer.update p (powerBound s.rails s.railReports) s.capNow s.intervalUnits s.nextUpdate := by
        rw [hp]; exact State.takeUpdate_gaffer ..
    rw [← hg] at hhist hcap hold hlimit hrun hlast
    refine ⟨_, exec_gafferUpdate hb hr, htime, hhist, hcap, hold, hlimit, fun h => ?_, fun h => ?_, hlast,
      fun n st hst => State.updated_stage hst, hframe⟩
    · exact hrun.trans (if_neg (by rw [h]; exact Bool.false_ne_true))
    · exact hrun.trans (if_pos h)
  case told =>
    obtain ⟨e, he, hk, hb⟩ := s.log_newest 0x08 s.gaffer.infeasBytes
    refine ⟨_, exec_capUnattainable h1 h2, rfl, ⟨e, he, hk, hb⟩, ?_⟩
    rw [State.log_frame]
    rfl
  case quiet =>
    refine if_neg ?_
    rcases h with h | h <;> simp [h]
  case lit =>
    show execIssueLimitReceived n s = _
    simp [execIssueLimitReceived, h, hl]
  case other =>
    show execIssueLimitReceived n s = _
    simp [execIssueLimitReceived, h, hl]

end Sys2Proof.Machine
end

section
/-! Sense sweeps, held gains, rail re-checks and slack-to-volts (R153, R269, R271, R275, R288, R290, R291, R475 to R477). -/

namespace Sys2Proof.Machine

set_option Elab.async false

open Sys2Proof

variable {s t u : State} {n x y : Nat} {st : Stage} {r : Rail}

/-! ### Recovery level 3 -/

/-- Level 3 touches records, stages and contexts alone (R496). -/
theorem State.enterLevel3_contextsOf (s : State) (p k n : Nat) : s.enterLevel3 p k n = s.contextsOf (s.enterLevel3 p k n) := by
  unfold State.enterLevel3
  cases s.ctx p with
  | none => rfl
  | some c =>
    dsimp only
    cases c.level with
    | none => rfl
    | some lv =>
      dsimp only
      split <;> rfl

/-! ### Tests -/

/-- A test that an error starts or joins has the error's kind (R452). -/
theorem State.joinTest_kind (s : State) (v : UnitId) (k : Nat) (w : TestWait) :
    ∃ j : Test, (s.joinTest v k w).testOf v = some j ∧ k ∈ j.kinds := by
  unfold State.joinTest
  cases h : s.testOf v with
  | none =>
    have hmiss : s.tests.find? (fun t => t.unit = v) = none := h
    simp only [State.testOf, List.find?_append, hmiss, Option.none_or, List.find?_cons_of_pos, decide_true]
    exact ⟨_, rfl, List.mem_singleton.mpr rfl⟩
  | some a =>
    have hunit : a.unit = v := of_decide_eq_true (List.find?_some (p := fun t : Test => decide (t.unit = v)) h)
    refine ⟨{ a with kinds := a.kinds ++ [k], joined := a.joined + 1 }, ?_, by simp⟩
    have hcomp : (fun t : Test => decide (t.unit = v)) ∘
        (fun t => if t.unit = v then { t with kinds := t.kinds ++ [k], joined := t.joined + 1 } else t) =
        fun t => decide (t.unit = v) := by
      funext t
      by_cases ht : t.unit = v <;> simp [ht]
    simp only [State.testOf, List.find?_map, hcomp] at h ⊢
    simp [h, hunit]

/-- A unit whose only pending test passes within the allowance counts the joined errors (R452, R454). -/
theorem State.classify_passed {k : Test} {v : UnitId} (ht : s.testOf v = some k) (hle : s.transientOf v + k.joined ≤ s.allow)
    (hv : unitStage v = none) : s.classify v false = (s.dropTest v).setTransient v (s.transientOf v + k.joined) := by
  unfold State.classify
  rw [ht]
  dsimp only
  rw [if_neg (by decide), if_neg (by omega), hv]
  cases v <;> first | rfl | cases hv

/-- An error event names a module's rail whatever its voltage is. -/
theorem State.errBody_modRail (s : State) (x : Nat) (f : Rail → Rail) (e : ErrReport) (a : Nat) (o : BitVec 16) :
    (s.modRail x f).errBody e a o = s.errBody e a o := rfl

/-! ### Rails -/

theorem State.rail_modRail (f : Rail → Rail) (h : x < s.rails.length) : (s.modRail x f).rail x = f (s.rail x) := by
  simp [State.rail, modAt, h]

theorem State.rail_modRail_other (f : Rail → Rail) (h : y ≠ x) : (s.modRail x f).rail y = s.rail y := by
  simp [State.rail, modAt, h.symm]

/-- A change of one rail that keeps what `key` reads keeps it in every rail. -/
theorem map_modAt {α β : Type} {f : α → α} (key : α → β) (h : ∀ a, key (f a) = key a) (l : List α) (n : Nat) :
    (modAt l n f).map key = l.map key := by
  refine List.ext_getElem? fun i => ?_
  simp only [List.getElem?_map, modAt, List.getElem?_modify]
  cases l[i]? with
  | none => rfl
  | some a => simp only [Option.map_some]; split <;> simp [h]

/-- What a rail's offset checks leave of it: its gain and its run of missing senses. -/
def Rail.sensed (r : Rail) : Rat × Nat := (r.gain, r.missRun)

theorem State.sensed_modRail {f : Rail → Rail} (h : ∀ r, (f r).sensed = r.sensed) (s : State) (x : Nat) :
    (s.modRail x f).rails.map Rail.sensed = s.rails.map Rail.sensed := map_modAt _ h _ _

/-! ### The sweep -/

theorem clampGain_bounds (g : Rat) : 1 / 2 ≤ clampGain g ∧ clampGain g ≤ 2 := by
  unfold clampGain
  split
  · norm_num
  · split <;> constructor <;> linarith

/-- A gain between 1/2 and 2 stays there (R275). -/
theorem Rail.newGain_bounds (h1 : 1 / 2 ≤ r.gain) (h2 : r.gain ≤ 2) (mv ma : Nat) :
    1 / 2 ≤ r.newGain mv ma ∧ r.newGain mv ma ≤ 2 := by
  unfold Rail.newGain
  dsimp only
  split
  · exact ⟨h1, h2⟩
  · exact clampGain_bounds _

/-- A rail after a sweep (R275): its gain in its bounds, and its run of missing senses. -/
theorem Rail.sweep_spec (h1 : 1 / 2 ≤ r.gain) (h2 : r.gain ≤ 2) (o : Option (Nat × Nat)) :
    1 / 2 ≤ (r.sweep o).gain ∧ (r.sweep o).gain ≤ 2 ∧
    (o = none → (r.sweep o).gain = r.gain ∧ (r.sweep o).missRun = r.missRun + 1) ∧
    (o.isSome → (r.sweep o).missRun = 0) := by
  cases o with
  | none => exact ⟨h1, h2, fun _ => ⟨rfl, rfl⟩, fun h => absurd h (by simp)⟩
  | some v =>
    have hg : 1 / 2 ≤ (r.sweep (some v)).gain ∧ (r.sweep (some v)).gain ≤ 2 := by
      unfold Rail.sweep
      dsimp only
      split
      · exact ⟨h1, h2⟩
      · exact Rail.newGain_bounds h1 h2 ..
    exact ⟨hg.1, hg.2, fun h => absurd h (by simp), fun _ => rfl⟩

/-- A state with the records, tests, stages, contexts and rails of another: what the offset checks may change. -/
def State.offsetsOf (s t : State) : State :=
  { s.errorsOf t with stages := t.stages, parts := t.parts, rails := t.rails }

/-- What the offset checks keep: all but `offsetsOf`, and each rail's gain and run of missing senses. -/
def State.OffsetsChecked (s t : State) : Prop :=
  t = s.offsetsOf t ∧ t.rails.map Rail.sensed = s.rails.map Rail.sensed

theorem State.OffsetsChecked.refl (s : State) : s.OffsetsChecked s := ⟨rfl, rfl⟩

theorem State.OffsetsChecked.trans (h : s.OffsetsChecked t) (k : t.OffsetsChecked u) : s.OffsetsChecked u := by
  obtain ⟨h1, h2⟩ := h
  obtain ⟨k1, k2⟩ := k
  exact ⟨by rw [k1, h1]; rfl, k2.trans h2⟩

theorem State.OffsetsChecked.modRail {f : Rail → Rail} (s : State) (x : Nat)
    (h : ∀ r, (f r).sensed = r.sensed := by exact fun _ => rfl) :
    s.OffsetsChecked (s.modRail x f) := ⟨rfl, State.sensed_modRail h s x⟩

theorem State.OffsetsChecked.of_contextsOf (h : t = s.contextsOf t) : s.OffsetsChecked t :=
  ⟨by rw [h]; rfl, by rw [h]; rfl⟩

theorem State.OffsetsChecked.of_errorsOf (h : t = s.errorsOf t) : s.OffsetsChecked t := ⟨by rw [h]; rfl, by rw [h]; rfl⟩

theorem State.errorEvent_contextsOf (s : State) (e : ErrReport) (a : Nat) (o : BitVec 16) :
    s.errorEvent e a o = s.contextsOf (s.errorEvent e a o) := State.contextsOf_of_recordsOf (State.errorEvent_frame ..)

theorem State.brokenSense_checked (s : State) (x k : Nat) : s.OffsetsChecked (s.brokenSense x k) := by
  unfold State.brokenSense
  dsimp only
  refine .trans (.trans (.modRail s x) (.of_contextsOf (State.contextsOf_foldl (fun t m => ?_) _ _)))
    (.of_contextsOf (State.errorEvent_contextsOf _ _ _ _))
  split
  · rfl
  · exact State.enterLevel3_contextsOf ..

/-- An error event with a test of its unit changes records and tests alone. -/
theorem State.errorEvent_joinTest_errorsOf (s : State) (e : ErrReport) (a : Nat) (o : BitVec 16) (v : UnitId) (k : Nat)
    (w : TestWait) : (s.errorEvent e a o).joinTest v k w = s.errorsOf ((s.errorEvent e a o).joinTest v k w) := by
  have h1 := s.errorEvent_frame e a o
  have h2 := (s.errorEvent e a o).joinTest_frame v k w
  generalize s.errorEvent e a o = t at *
  generalize t.joinTest v k w = u at *
  rw [h2, h1]; rfl

theorem State.checkSense_checked (s : State) (ms : List Nat) (x : Nat) (o : Option (Nat × Nat)) :
    s.OffsetsChecked (s.checkSense ms x o) := by
  unfold State.checkSense
  cases o with
  | none => exact .modRail s x
  | some v =>
    obtain ⟨mv, ma⟩ := v
    dsimp only
    split
    · split
      · exact .modRail s x
      · split
        · exact .trans (.modRail s x) (State.brokenSense_checked _ _ _)
        · exact .modRail s x
    · split
      · exact .modRail s x
      · split
        · exact .trans (.modRail s x) (.of_errorsOf (State.errorEvent_joinTest_errorsOf _ _ _ _ _ _ _))
        · exact .modRail s x

/-- The state whose rails have taken a sweep's readings. -/
def State.swept (s : State) (rs : List AvsRead) : State :=
  { s with
    gaffer := { s.gaffer with sweeping := false }
    rails := s.rails.zipIdx.map (fun (r, x) => r.sweep (s.avsRead rs x)) }

theorem exec_senseSweepComplete (h : s.gaffer.sweeping = true) (rs : List AvsRead) (ms : List Nat) :
    exec (.senseSweepComplete rs ms) s =
      .next ((List.range 24).foldl (fun t x => t.checkSense ms x (s.avsRead rs x)) (s.swept rs)) :=
  if_neg (by simp [h])

/-- A sweep that is complete keeps gains in their bounds, and touches the time and the control plane not at all. -/
theorem senseSweepComplete_spec (h : s.gaffer.sweeping = true) (rs : List AvsRead) (ms : List Nat) :
    ∃ t, exec (.senseSweepComplete rs ms) s = .next t ∧ t.gaffer = { s.gaffer with sweeping := false } ∧
    t.rails.length = s.rails.length ∧
    (∀ (x : Nat) (r : Rail), s.rails[x]? = some r → 1 / 2 ≤ r.gain → r.gain ≤ 2 → ∃ q, t.rails[x]? = some q ∧
      1 / 2 ≤ q.gain ∧ q.gain ≤ 2 ∧ (s.avsRead rs x = none → q.gain = r.gain ∧ q.missRun = r.missRun + 1) ∧
      ((s.avsRead rs x).isSome → q.missRun = 0)) ∧
    t.straps = s.straps ∧ t.slate = s.slate ∧ t.time = s.time := by
  obtain ⟨hframe, hrails⟩ : (s.swept rs).OffsetsChecked
      ((List.range 24).foldl (fun t x => t.checkSense ms x (s.avsRead rs x)) (s.swept rs)) :=
    foldl_rel State.OffsetsChecked.refl State.OffsetsChecked.trans (fun t x => State.checkSense_checked ..) _ _
  refine ⟨_, exec_senseSweepComplete h rs ms, ?_⟩
  generalize (List.range 24).foldl (fun t x => t.checkSense ms x (s.avsRead rs x)) (s.swept rs) = t at *
  refine ⟨by rw [hframe]; rfl, ?_, fun x r hr h1 h2 => ?_, by rw [hframe]; rfl, by rw [hframe]; rfl, by rw [hframe]; rfl⟩
  · simpa [State.swept] using congrArg List.length hrails
  · have hx : (s.swept rs).rails[x]? = some (r.sweep (s.avsRead rs x)) := getElem?_map_zipIdx _ _ hr
    have hkey := congrArg (·[x]?) hrails
    simp only [List.getElem?_map, hx, Option.map_some, Option.map_eq_some_iff] at hkey
    obtain ⟨q, hq, hsen⟩ := hkey
    obtain ⟨hgain, hmiss⟩ := Prod.mk.inj hsen
    obtain ⟨k1, k2, k3, k4⟩ := Rail.sweep_spec h1 h2 (s.avsRead rs x)
    rw [← hgain] at k1 k2 k3
    rw [← hmiss] at k3 k4
    exact ⟨q, hq, k1, k2, k3, k4⟩

/-! ### Held gains and re-checks -/

theorem exec_gainClampOrSenseMissing (hx : x < 28) (h1 : (s.rail x).gainHeld = false) (h2 : (s.rail x).gainDead = false)
    (h3 : 64 ≤ (s.rail x).clampRun ∨ 8 ≤ (s.rail x).missRun) :
    exec (.gainClampOrSenseMissing x) s =
      .next (((s.errorEvent (moduleErr 0x12 x (some (.rail x))) 0 0).joinTest (.rail x) 0x12 .free).modRail x
        (fun r => { r with gainHeld := true })) :=
  if_pos (by simp [hx, h1, h2, h3])

theorem gainClampOrSenseMissing_spec (hx : x < 28) (hl : s.rails.length = 28) (h1 : (s.rail x).gainHeld = false)
    (h2 : (s.rail x).gainDead = false) (h3 : 64 ≤ (s.rail x).clampRun ∨ 8 ≤ (s.rail x).missRun) :
    ∃ t, exec (.gainClampOrSenseMissing x) s = .next t ∧
    t.rail x = { s.rail x with gainHeld := true } ∧ (∀ y, y ≠ x → t.rail y = s.rail y) ∧
    (∃ k, t.testOf (.rail x) = some k ∧ 0x12 ∈ k.kinds) ∧
    (∃ e, t.dailies.log.getLast? = some e ∧ e.kind = 0x01 ∧
      e.payload = errBytes (s.errBody (moduleErr 0x12 x (some (.rail x))) 0 0)) ∧
    t = { s.errorsOf t with rails := t.rails } := by
  obtain ⟨k, hk, hkind⟩ := (s.errorEvent (moduleErr 0x12 x (some (.rail x))) 0 0).joinTest_kind (.rail x) 0x12 .free
  have htold := s.errorEvent_toldError (moduleErr 0x12 x (some (.rail x))) 0 0
  have hjoin := (s.errorEvent (moduleErr 0x12 x (some (.rail x))) 0 0).joinTest_frame (.rail x) 0x12 .free
  have hframe := s.errorEvent_joinTest_errorsOf (moduleErr 0x12 x (some (.rail x))) 0 0 (.rail x) 0x12 .free
  refine ⟨_, exec_gainClampOrSenseMissing hx h1 h2 h3, ?_⟩
  generalize s.errorEvent (moduleErr 0x12 x (some (.rail x))) 0 0 = v at *
  generalize v.joinTest (.rail x) 0x12 .free = u at *
  have hrail : ∀ y, u.rail y = s.rail y := fun y => by rw [hframe]; rfl
  refine ⟨?_, fun y hy => ?_, ⟨k, hk, hkind⟩, ?_, ?_⟩
  · rw [State.rail_modRail _ (by rw [hframe]; exact hl ▸ hx), hrail]
  · rw [State.rail_modRail_other _ hy, hrail]
  · show ∃ e, u.dailies.log.getLast? = some e ∧ _
    rw [hjoin]
    exact htold
  · rw [hframe]; rfl

/-- The test of a rail waits for the rail's re-check (R475). -/
theorem recheckTest_of_rail {k : Test} (h : k.unit = .rail x) : recheckTest x k = true := by simp [recheckTest, h]

/-- A pending test of a rail after its re-check has begun. -/
def Test.rechecked (x : Nat) (t : Test) : Test := if recheckTest x t then { t with running := true } else t

theorem Test.rechecked_unit (x : Nat) (t : Test) : (t.rechecked x).unit = t.unit := by
  unfold Test.rechecked; split <;> rfl

theorem exec_railRecheck (hx : x < 28) (h : s.tests.any (recheckTest x) = true) :
    exec (.railRecheck x) s = .next (({ s with tests := s.tests.map (Test.rechecked x) } : State).modRail x
      (fun r => { r with recheck := true })) :=
  if_pos (by simp [hx, h])

theorem railRecheck_spec {k : Test} (hx : x < 28) (hl : s.rails.length = 28) (ht : s.testOf (.rail x) = some k) :
    ∃ t j, exec (.railRecheck x) s = .next t ∧ t.rail x = { s.rail x with recheck := true } ∧
    t.testOf (.rail x) = some j ∧ j = { k with running := true } ∧ t = { s with rails := t.rails, tests := t.tests } := by
  have hunit : k.unit = .rail x := of_decide_eq_true (List.find?_some (p := fun t : Test => decide (t.unit = .rail x)) ht)
  have hre := recheckTest_of_rail hunit
  have hany : s.tests.any (recheckTest x) = true := List.any_eq_true.mpr ⟨k, List.mem_of_find?_eq_some ht, hre⟩
  have hcomp : (fun t : Test => decide (t.unit = .rail x)) ∘ Test.rechecked x = fun t => decide (t.unit = .rail x) := by
    funext t; simp [Test.rechecked_unit]
  refine ⟨_, k.rechecked x, exec_railRecheck hx hany, State.rail_modRail _ (hl ▸ hx), ?_, if_pos hre, rfl⟩
  show (s.tests.map (Test.rechecked x)).find? _ = _
  rw [List.find?_map, hcomp, show s.tests.find? _ = some k from ht]
  rfl

/-- A rail after its re-check. -/
def Rail.checkedAgain (r : Rail) : Rail :=
  { r with recheck := false, gainHeld := r.gainHeld && (r.gainDead || decide (r.broken ≠ 0)) }

theorem railRecheckComplete_idle (d : RecheckData) (h : (s.rail x).recheck = true) (hn : ∀ k ∈ s.tests, recheckTest x k = false) :
    exec (.railRecheckComplete x d) s = .next (s.modRail x Rail.checkedAgain) := by
  have hnone : s.tests.filter (recheckTest x) = [] := by simpa [List.filter_eq_nil_iff] using hn
  show execRailRecheckComplete x d s = _
  unfold execRailRecheckComplete
  rw [if_neg (by simp [h]), hnone]
  rfl

theorem exec_railRecheckComplete_segment {d : RecheckData} {k : Test} (hx : 24 ≤ x) (h : (s.rail x).recheck = true)
    (ht : s.tests = [k]) (hu : k.unit = .rail x) (hp : segmentPasses d = true) :
    exec (.railRecheckComplete x d) s = .next ((s.classify (.rail x) false).modRail x Rail.checkedAgain) := by
  show execRailRecheckComplete x d s = _
  unfold execRailRecheckComplete
  rw [if_neg (by simp [h]), ht, List.filter_cons_of_pos (recheckTest_of_rail hu), List.filter_nil]
  dsimp only [List.foldl_cons, List.foldl_nil]
  rw [if_neg (by omega), hp]
  unfold State.settleRecheck
  rw [hu]
  rfl

theorem railRecheckComplete_segment {d : RecheckData} {k : Test} (hx : 24 ≤ x) (hx' : x < 28) (hl : s.rails.length = 28)
    (h : (s.rail x).recheck = true) (ht : s.tests = [k]) (hu : k.unit = .rail x) (hp : segmentPasses d = true)
    (hle : s.transientOf (.rail x) + k.joined ≤ s.allow) :
    ∃ t, exec (.railRecheckComplete x d) s = .next t ∧ t.tests = [] ∧
    t.transientOf (.rail x) = s.transientOf (.rail x) + k.joined ∧ (t.rail x).recheck = false ∧
    (t.rail x).gain = (s.rail x).gain ∧ t = { s with rails := t.rails, tests := t.tests, transients := t.transients } := by
  have htest : s.testOf (.rail x) = some k := by simp [State.testOf, ht, hu]
  have hlen : x < ((s.dropTest (.rail x)).setTransient (.rail x) (s.transientOf (.rail x) + k.joined)).rails.length :=
    hl ▸ hx'
  refine ⟨_, exec_railRecheckComplete_segment hx h ht hu hp, ?_⟩
  rw [State.classify_passed htest hle rfl]
  refine ⟨by simp [State.dropTest, State.setTransient, ht, hu], by simp [State.transientOf, State.setTransient], ?_, ?_, rfl⟩
  · rw [State.rail_modRail _ hlen]; rfl
  · rw [State.rail_modRail _ hlen]; rfl

/-- Settles O24: the sweep, held gains and re-checks. -/
theorem senseAndRechecks : Obligations.SenseAndRechecks := by
  unfold Obligations.SenseAndRechecks
  refine ⟨⟨fun s h => if_pos (by simp [h]), fun s w hb hr hw hm hs => ?sweep,
    fun s rs ms h => senseSweepComplete_spec h rs ms,
    fun s x hx hl h1 h2 h3 => gainClampOrSenseMissing_spec hx hl h1 h2 h3⟩,
    fun s x k hx hl ht => railRecheck_spec hx hl ht, fun s x d h hn => railRecheckComplete_idle d h hn,
    fun s x d k hx hx' hl h ht hu hp hle => railRecheckComplete_segment hx hx' hl h ht hu hp hle⟩
  case sweep =>
    have hdue : s.gaffer.sweepDue = true := by simp [Gaffer.sweepDue, hw, hm, hs]
    refine ⟨_, if_neg (by simp [hb, hr, hdue]), by rw [hw], List.length_map .., fun x r hx => ?_, rfl⟩
    exact (List.getElem?_map ..).trans (congrArg (Option.map _) hx)

end Sys2Proof.Machine
end

section
/-! Slack-to-volts and failed writes (R153, R168, R288, R290, R291). -/

namespace Sys2Proof.Machine

set_option Elab.async false

open Sys2Proof

variable {s t : State} {n x y : Nat} {st : Stage} {r : Rail}

/-! ### What a voltage write leaves of a rail's inputs -/

/-- A stage of two states of equal stage count: none in both, or one in both. -/
theorem State.Each.cases {R : Stage → Stage → Prop} (h : s.Each R t) (n : Nat) :
    (s.stage n = none ∧ t.stage n = none) ∨ ∃ st u, s.stage n = some st ∧ t.stage n = some u ∧ R st u := by
  cases hst : s.stage n with
  | none =>
    refine .inl ⟨rfl, List.getElem?_eq_none ?_⟩
    rw [h.count]
    exact List.getElem?_eq_none_iff.mp hst
  | some st =>
    obtain ⟨u, hu, hr⟩ := h.stage n st hst
    exact .inr ⟨st, u, rfl, hu, hr⟩

/-- What R148 notes of a stage does not move its rail's lowest slack. -/
theorem State.railSlack_noted (h : s.Each Stage.Noted t) (x : Nat) : t.railSlack x = s.railSlack x := by
  refine List.foldl_ext _ _ _ fun m n _ => ?_
  rcases h.cases n with ⟨h1, h2⟩ | ⟨st, u, h1, h2, h3⟩
  · rw [h1, h2]
  · rw [h1, h2]
    dsimp only
    rw [h3]

theorem State.topDriven_noted (h : s.Each Stage.Noted t) (x : Nat) : t.topDriven x = s.topDriven x := by
  refine List.foldl_ext _ _ _ fun m n _ => ?_
  rcases h.cases n with ⟨h1, h2⟩ | ⟨st, u, h1, h2, h3⟩
  · rw [h1, h2]
  · rw [h1, h2]
    dsimp only
    rw [h3]
    rfl

/-- The rail of a state with the same value at its place. -/
theorem State.rail_congr (h : t.rails[x]? = s.rails[x]?) : t.rail x = s.rail x := by
  simp only [State.rail, List.getD_eq_getElem?_getD, h]

theorem State.rail_of (h : s.rails[x]? = some r) : s.rail x = r := by
  simp [State.rail, List.getD_eq_getElem?_getD, h]

/-! ### One evaluation -/

/-- A rail after the write of a voltage (R288, R291). -/
def Rail.written (v : Nat) (r : Rail) : Rail := { r with confirmed := r.volt, volt := v }

theorem State.setVolt_rails (s : State) (x v : Nat) : (s.setVolt x v).rails = modAt s.rails x (Rail.written v) := by
  unfold State.setVolt
  rw [State.modStages_frame]
  rfl

/-- A rail after its evaluation: off the loop or not, with a slack and a highest step driven (R288, R290). -/
def Rail.evaluated (off : Bool) (slack : Option Nat) (top : Nat) (r : Rail) : Rail :=
  { (if off || decide (slackVolt r.volt slack = r.volt) then r else r.written (slackVolt r.volt slack)) with topStep := top }

/-- The write that an evaluation makes, if it makes one. -/
def State.reviewVolt (s : State) (x : Nat) : State :=
  if s.offLoop x || decide (slackVolt (s.rail x).volt (s.railSlack x) = (s.rail x).volt) then s
  else s.setVolt x (slackVolt (s.rail x).volt (s.railSlack x))

theorem State.reviewVolt_each (s : State) (x : Nat) : s.Each Stage.Noted (s.reviewVolt x) := by
  unfold State.reviewVolt
  split
  · exact .refl Stage.Noted.refl s
  · exact State.setVolt_each _ _ _

theorem State.reviewVolt_railedOf (s : State) (x : Nat) : s.reviewVolt x = s.railedOf (s.reviewVolt x) := by
  unfold State.reviewVolt
  split
  · rfl
  · exact State.setVolt_railedOf ..

theorem State.evaluate_eq (s : State) (x : Nat) :
    s.evaluate x = (s.reviewVolt x).modRail x (fun r => { r with topStep := (s.reviewVolt x).topDriven x }) := rfl

/-- An evaluation notes stages, and moves rails. -/
theorem State.evaluate_each (s : State) (x : Nat) : s.Each Stage.Noted (s.evaluate x) := by
  rw [State.evaluate_eq]
  exact .trans Stage.Noted.trans (s.reviewVolt_each x) (.of_stages Stage.Noted.refl rfl)

theorem State.evaluate_railedOf (s : State) (x : Nat) : s.evaluate x = s.railedOf (s.evaluate x) := by
  rw [State.evaluate_eq]
  exact State.railedOf_trans (s.reviewVolt_railedOf x) rfl

/-- The rail evaluated. -/
theorem State.evaluate_self (h : s.rails[x]? = some r) : (s.evaluate x).rails[x]? =
    some (r.evaluated (s.offLoop x) (s.railSlack x) (s.topDriven x)) := by
  have hv := State.rail_of h
  rw [State.evaluate_eq, State.topDriven_noted (s.reviewVolt_each x), State.modRail_rails]
  unfold State.reviewVolt Rail.evaluated
  rw [hv]
  split
  · exact modAt_same _ h
  · rw [State.setVolt_rails]
    exact modAt_same _ (modAt_same _ h)

theorem State.evaluate_other (s : State) (h : y ≠ x) : (s.evaluate x).rails[y]? = s.rails[y]? := by
  rw [State.evaluate_eq, State.modRail_rails, modAt_other _ h]
  unfold State.reviewVolt
  split
  · rfl
  · rw [State.setVolt_rails, modAt_other _ h]

/-- One rail's evaluation leaves the inputs of another's as they were. -/
theorem State.offLoop_evaluate (s : State) (h : y ≠ x) : (s.evaluate x).offLoop y = s.offLoop y := by
  have hrail := State.rail_congr (s.evaluate_other h)
  have htests : (s.evaluate x).tests = s.tests := by rw [State.evaluate_railedOf]; rfl
  simp only [State.offLoop, hrail, htests]

/-! ### The evaluation of every rail -/

theorem State.evaluateAll_each (l : List Nat) (s : State) : s.Each Stage.Noted (l.foldl State.evaluate s) :=
  .foldl Stage.Noted.refl Stage.Noted.trans State.evaluate_each l s

theorem State.evaluateAll_railedOf (l : List Nat) (s : State) :
    l.foldl State.evaluate s = s.railedOf (l.foldl State.evaluate s) :=
  foldl_rel (r := fun s t : State => t = s.railedOf t) (fun _ => rfl) State.railedOf_trans State.evaluate_railedOf l s

theorem State.evaluateAll_other (l : List Nat) (s : State) (h : x ∉ l) :
    (l.foldl State.evaluate s).rails[x]? = s.rails[x]? := by
  induction l generalizing s with
  | nil => rfl
  | cons y l ih =>
    have hne : x ≠ y := fun e => h (e ▸ List.mem_cons_self)
    exact (ih _ fun hm => h (List.mem_cons_of_mem _ hm)).trans (s.evaluate_other hne)

theorem State.evaluateAll_self (l : List Nat) (hl : l.Nodup) (s : State) (hx : x ∈ l) (h : s.rails[x]? = some r) :
    (l.foldl State.evaluate s).rails[x]? = some (r.evaluated (s.offLoop x) (s.railSlack x) (s.topDriven x)) := by
  induction l generalizing s with
  | nil => cases hx
  | cons y l ih =>
    obtain ⟨hy, hl'⟩ := List.nodup_cons.mp hl
    by_cases hxy : x = y
    · subst hxy
      exact (State.evaluateAll_other l _ hy).trans (State.evaluate_self h)
    · have hin : x ∈ l := (List.mem_cons.mp hx).resolve_left hxy
      have hnext := ih hl' (s.evaluate y) hin ((s.evaluate_other hxy).trans h)
      rwa [s.offLoop_evaluate hxy, State.railSlack_noted (s.evaluate_each y), State.topDriven_noted (s.evaluate_each y)]
        at hnext

theorem State.evaluateAll_length (l : List Nat) (s : State) : (l.foldl State.evaluate s).rails.length = s.rails.length :=
  foldl_rel (r := fun s t : State => t.rails.length = s.rails.length) (fun _ => rfl) (fun h k => k.trans h) (fun s x => by
    rw [State.evaluate_eq, State.modRail_rails, length_modAt]
    unfold State.reviewVolt
    split
    · rfl
    · rw [State.setVolt_rails, length_modAt]) l s

/-! ### The voltage of an evaluated rail -/

/-- The voltage after an evaluation: as it was off the loop, or what the slack gives. -/
theorem Rail.evaluated_volt (off : Bool) (slack : Option Nat) (top : Nat) (r : Rail) :
    (r.evaluated off slack top).volt = if off then r.volt else slackVolt r.volt slack := by
  unfold Rail.evaluated
  cases off with
  | true => rfl
  | false =>
    simp only [Bool.false_or, decide_eq_true_eq, Bool.false_eq_true, if_false]
    split
    · next h => exact h.symm
    · rfl

theorem Rail.evaluated_confirmed {off : Bool} {slack : Option Nat} {top : Nat} {r : Rail}
    (h : (r.evaluated off slack top).volt ≠ r.volt) : (r.evaluated off slack top).confirmed = r.volt := by
  unfold Rail.evaluated at h ⊢
  dsimp only at h ⊢
  split
  · next hc => rw [if_pos hc] at h; exact absurd rfl h
  · rfl

/-- The five cases of the loop (R288). -/
theorem slackVolt_spec (v c : Nat) :
    (13 ≤ c → 505 ≤ v → slackVolt v (some c) = v - 5) ∧ (13 ≤ c → v < 505 → slackVolt v (some c) = 500) ∧
    (c ≤ 8 → v ≤ 795 → slackVolt v (some c) = v + 5) ∧ (c ≤ 8 → 795 < v → slackVolt v (some c) = 800) ∧
    (8 < c → c < 13 → slackVolt v (some c) = v) := by
  simp only [slackVolt]
  refine ⟨fun h h' => ?_, fun h h' => ?_, fun h h' => ?_, fun h h' => ?_, fun h h' => ?_⟩
  · rw [if_pos h, if_neg (by omega)]
  · rw [if_pos h, if_pos h']
  · rw [if_neg (by omega), if_pos h, if_neg (by omega)]
  · rw [if_neg (by omega), if_pos h, if_pos h']
  · rw [if_neg (by omega), if_neg (by omega)]

/-! ### The commands -/

/-- A stage at the start of an evaluation interval. -/
def Stage.slackAnew (st : Stage) : Stage := { st with slackTick := none, slackLow := none }

/-- The state after the evaluation of the rails `l`, with a new interval begun. -/
def State.reviewed (l : List Nat) (s : State) : State :=
  { l.foldl State.evaluate s with stages := (l.foldl State.evaluate s).stages.map Stage.slackAnew }

theorem exec_slackToVolts (hb : s.pins.bootDone = true) (hr : s.inReset = false) (ht : s.time.tickCount.toNat % 64 = 0) :
    exec .slackToVolts s = .next (s.reviewed (List.range 24)) :=
  if_neg (by simp [hb, hr, ht])

theorem State.reviewed_rails (l : List Nat) (s : State) : (s.reviewed l).rails = (l.foldl State.evaluate s).rails := rfl

theorem State.reviewed_frame (l : List Nat) (s : State) :
    s.reviewed l = { s with rails := (s.reviewed l).rails, stages := (s.reviewed l).stages } := by
  have h := State.evaluateAll_railedOf l s
  unfold State.reviewed
  generalize l.foldl State.evaluate s = t at *
  rw [h]; rfl

theorem State.reviewed_stage (l : List Nat) (h : s.stage n = some st) : ∃ u, (s.reviewed l).stage n = some u ∧
    u = { st with slackTick := none, slackLow := none, clock := { st.clock with marginOk := u.clock.marginOk } } := by
  obtain ⟨v, hv, hn⟩ := (State.evaluateAll_each l s).stage n st h
  refine ⟨v.slackAnew, (List.getElem?_map ..).trans (congrArg (Option.map _) hv), ?_⟩
  rw [hn]; rfl

/-- An evaluated rail (R288, R290, R291): its new interval's highest step, its confirmed voltage, and what its slack gives. -/
theorem Rail.evaluated_spec (off : Bool) (slack : Option Nat) (top : Nat) (r : Rail) :
    (r.evaluated off slack top).topStep = top ∧
    ((r.evaluated off slack top).volt ≠ r.volt → (r.evaluated off slack top).confirmed = r.volt) ∧
    (off = true → (r.evaluated off slack top).volt = r.volt) ∧
    (off = false → ∀ c, slack = some c →
      (13 ≤ c → 505 ≤ r.volt → (r.evaluated off slack top).volt = r.volt - 5) ∧
      (13 ≤ c → r.volt < 505 → (r.evaluated off slack top).volt = 500) ∧
      (c ≤ 8 → r.volt ≤ 795 → (r.evaluated off slack top).volt = r.volt + 5) ∧
      (c ≤ 8 → 795 < r.volt → (r.evaluated off slack top).volt = 800) ∧
      (8 < c → c < 13 → (r.evaluated off slack top).volt = r.volt)) ∧
    (slack = none → (r.evaluated off slack top).volt = r.volt) := by
  have hv := Rail.evaluated_volt off slack top r
  refine ⟨rfl, Rail.evaluated_confirmed, fun ho => ?_, fun ho c hc => ?_, fun hn => ?_⟩
  · rw [hv, if_pos ho]
  · rw [hv, ho, hc]
    exact slackVolt_spec r.volt c
  · rw [hv, hn]
    exact ite_self _

/-- A rail whose write failed stays at its confirmed voltage (R291). -/
def Rail.unwritten (r : Rail) : Rail := { r with volt := r.confirmed }

theorem exec_avsbusWriteFailed (hx : x < 24) (hb : s.pins.bootDone = true) (hr : s.inReset = false) :
    exec (.avsbusWriteFailed x) s = .next (((s.modRail x Rail.unwritten).errorEvent
      (moduleErr 0x13 x (some (.rail x))) 0x03 0).joinTest (.rail x) 0x13 .free) :=
  if_pos (by simp [hx, hb, hr])

theorem avsbusWriteFailed_spec (hx : x < 24) (hb : s.pins.bootDone = true) (hr : s.inReset = false)
    (h : s.rails[x]? = some r) :
    ∃ t, exec (.avsbusWriteFailed x) s = .next t ∧ t.rails[x]? = some { r with volt := r.confirmed } ∧
    (∃ k, t.testOf (.rail x) = some k ∧ 0x13 ∈ k.kinds) ∧
    (∃ e, t.dailies.log.getLast? = some e ∧ e.kind = 0x01 ∧
      e.payload = errBytes (s.errBody (moduleErr 0x13 x (some (.rail x))) 3 0)) ∧
    t = { s.errorsOf t with rails := t.rails } := by
  have hrail : (s.modRail x Rail.unwritten).rails[x]? = some r.unwritten := modAt_same _ h
  have htold := (s.modRail x Rail.unwritten).errorEvent_toldError (moduleErr 0x13 x (some (.rail x))) 3 0
  rw [State.errBody_modRail] at htold
  have hrails : s.modRail x Rail.unwritten = { s with rails := (s.modRail x Rail.unwritten).rails } := rfl
  refine ⟨_, exec_avsbusWriteFailed hx hb hr, ?_⟩
  generalize s.modRail x Rail.unwritten = v at *
  have hframe := v.errorEvent_joinTest_errorsOf (moduleErr 0x13 x (some (.rail x))) 3 0 (.rail x) 0x13 .free
  have htest := (v.errorEvent (moduleErr 0x13 x (some (.rail x))) 3 0).joinTest_kind (.rail x) 0x13 .free
  have hjoin := (v.errorEvent (moduleErr 0x13 x (some (.rail x))) 3 0).joinTest_frame (.rail x) 0x13 .free
  generalize v.errorEvent (moduleErr 0x13 x (some (.rail x))) 3 0 = w at *
  generalize w.joinTest (.rail x) 0x13 .free = u at *
  refine ⟨?_, htest, ?_, ?_⟩
  · rw [hframe]; exact hrail
  · rw [hjoin]; exact htold
  · rw [hframe, hrails]; rfl

/-- Settles O25: each rail's evaluation is its own. -/
theorem slackToVolts : Obligations.SlackToVolts := by
  unfold Obligations.SlackToVolts
  refine ⟨fun s h => if_pos (by simp [h]), fun s hb hr ht => ?interval,
    fun s x r hx hb hr h => avsbusWriteFailed_spec hx hb hr h⟩
  case interval =>
    have hin : ∀ x, x ∈ List.range 24 ↔ x < 24 := fun x => List.mem_range
    have hnodup : (List.range 24).Nodup := List.nodup_range
    refine ⟨_, exec_slackToVolts hb hr ht, ?_⟩
    generalize List.range 24 = l at *
    refine ⟨s.reviewed_frame l, ?_, fun x r hx h => ?_, fun x hx => ?_, fun n st h => State.reviewed_stage l h⟩
    · rw [State.reviewed_rails]
      exact State.evaluateAll_length l s
    · rw [State.reviewed_rails]
      exact ⟨_, State.evaluateAll_self l hnodup s ((hin x).mpr hx) h, Rail.evaluated_spec ..⟩
    · rw [State.reviewed_rails]
      exact State.evaluateAll_other l s (by rw [hin]; omega)

end Sys2Proof.Machine
end

section
/-! Entering recovery level 3 (R496). -/

namespace Sys2Proof.Machine

set_option Elab.async false

open Sys2Proof

variable {s t : State} {n p k : Nat} {st : Stage} {c : Ctx}

theorem Stage.Stops.refl (st : Stage) : st.Stops st := rfl

theorem Stage.Stops.trans {a b d : Stage} (h : a.Stops b) (j : b.Stops d) : a.Stops d := by
  unfold Stage.Stops at *
  rw [j, h]

/-- A change of every stage of a partition, or of none, changes each stage so. -/
theorem State.Each.modPart {R : Stage → Stage → Prop} (hr : ∀ x, R x x) {f : Stage → Stage} (s : State) (p : Nat)
    (hf : ∀ x, R x (f x)) : s.Each R (s.modPart p f) where
  count := List.length_map ..
  stage n st h := by
    refine ⟨_, (List.getElem?_map ..).trans (congrArg (Option.map _) h), ?_⟩
    dsimp only
    split
    · exact hf st
    · exact hr st

/-- A context at recovery level 3, entered with a trigger and a stage (R496). -/
def Ctx.atThree (c : Ctx) (k n : Nat) (now : Word) : Ctx :=
  { c with
    level := some { level := 3, trigger := k, start := now, stage := n }
    named := c.nameStage n
    epoch := c.epoch + 1
    rollback := none
    cut := c.cut.map (fun k => { k with mask := k.mask ||| 0x20 })
    endDue := if c.ended.isSome || c.endDue.isSome then c.endDue
      else some (c.cut.isSome, 0x22, if n < 96 then (c.offsets n).1 else 0xFF, if n < 96 then (c.offsets n).2 else 0xFF) }

/-- Level 3 of a context that is at no level: the context, its stages and what stays. -/
theorem State.enterLevel3_spec (hc : s.ctx p = some c) (hl : c.level = none) (k n : Nat) :
    (s.enterLevel3 p k n).ctx p = some (c.atThree k n s.stamp) ∧
    s.Each Stage.Stops (s.enterLevel3 p k n) ∧
    s.enterLevel3 p k n = { s with stages := (s.enterLevel3 p k n).stages, parts := (s.enterLevel3 p k n).parts } := by
  unfold State.enterLevel3
  rw [hc]
  dsimp only
  rw [hl]
  refine ⟨State.ctx_modCtx _ hc, ?_, rfl⟩
  exact .trans Stage.Stops.trans (.of_stages (t := s.modCtx p _) Stage.Stops.refl rfl)
    (.modPart Stage.Stops.refl _ _ (by exact fun _ => rfl))

theorem State.enterLevel3_atLevel3 (hc : s.ctx p = some c) (hl : c.level = none) (k n : Nat) :
    (s.enterLevel3 p k n).atLevel3 p c k n :=
  ⟨_, _, (State.enterLevel3_spec hc hl k n).1, rfl, rfl, rfl, rfl, rfl⟩

/-! ### An error that starts no rollback -/

/-- The allowance is 1 at least (R456). -/
theorem State.allow_pos (s : State) : 1 ≤ s.allow := by
  unfold State.allow
  rw [List.getD_eq_getElem?_getD]
  cases h : ([1, 2, 3, 4, 6, 8, 12, 16] : List Nat)[s.strap 8]? with
  | none => decide
  | some v =>
    have hv := List.mem_of_getElem? h
    simp only [List.mem_cons, List.not_mem_nil, or_false] at hv
    show 1 ≤ v
    omega

/-- The first error of a unit starts its test, and is no lasting one yet (R452, R460). -/
theorem State.noteError_new {v : UnitId} (h : s.testOf v = none) (k : Nat) (w : TestWait) :
    s.noteError (some v) k w = s.joinTest v k w := by
  obtain ⟨t, ht, hj, -⟩ := State.joinTest_new (k := k) (w := w) h
  have hallow := s.allow_pos
  unfold State.noteError
  dsimp only
  rw [ht]
  cases (unitStage v).bind (s.joinTest v k w).stage with
  | none => rfl
  | some a => exact if_neg (by simp [hj]; omega)

theorem State.joinTest_pending {v : UnitId} (h : s.testOf v = none) (k : Nat) (w : TestWait) :
    (s.joinTest v k w).pendingTest v k := by
  have hmiss : s.tests.find? (fun t => t.unit = v) = none := h
  unfold State.joinTest State.pendingTest
  rw [h]
  simp only [State.testOf, List.find?_append, hmiss, Option.none_or, List.find?_cons_of_pos, decide_true]
  exact ⟨_, rfl, rfl, rfl⟩

/-- The stage's context named by an event is not moved by records and tests. -/
theorem State.ctxOf_errorsOf (h : t = s.errorsOf t) (n : Nat) : t.ctxOf n = s.ctxOf n := by rw [h]; rfl

end Sys2Proof.Machine
end

section
/-! Droop: stretched and halted cycles, overruns, persistent droop and the notice (R169 to R171, R174, R177 to R180, R207,
R208, R478). -/

namespace Sys2Proof.Machine

set_option Elab.async false

open Sys2Proof

variable {s t : State} {n p d e : Nat} {st : Stage} {c : Ctx} {k : Clock} {limit delta : Nat}

/-! ### Detectors -/

theorem getLsbD_oneHot {d : Nat} (hd : d < 16) (i : Nat) : (BitVec.ofNat 16 (2 ^ d)).getLsbD i = decide (d = i) := by
  rw [BitVec.getLsbD_ofNat, Nat.testBit_two_pow]
  by_cases h : d = i
  · subst h; simp [hd]
  · simp [h]

/-- A detector that trips is tripped. -/
theorem Clock.trip_self (k : Clock) (hd : d < 16) : (k.trip d).tripped.getLsbD d = true := by
  simp only [Clock.trip, BitVec.getLsbD_or, getLsbD_oneHot hd, decide_true, Bool.or_true]

/-- An unmasked detector that is tripped asks for droop. -/
theorem unmasked_ne_zero {t m : BitVec 16} (h : t.getLsbD d = true) (hm : m.getLsbD d = false) : t &&& ~~~m ≠ 0 := by
  intro h0
  have hd : d < 16 := by
    by_contra hge
    rw [BitVec.getLsbD_of_ge _ _ (by omega)] at h
    exact Bool.false_ne_true h
  have hbit := congrArg (·.getLsbD d) h0
  simp [-BitVec.getLsbD_eq_getElem, BitVec.getLsbD_and, BitVec.getLsbD_not, hd, h, hm] at hbit

/-- A masked detector that trips adds nothing to what is asked. -/
theorem masked_trip_zero {t m : BitVec 16} (hd : d < 16) (hm : m.getLsbD d = true) (h : t &&& ~~~m = 0) :
    (t ||| BitVec.ofNat 16 (2 ^ d)) &&& ~~~m = 0 := by
  refine BitVec.eq_of_getLsbD_eq fun i hi => ?_
  have hbit := congrArg (·.getLsbD i) h
  simp only [BitVec.getLsbD_and, BitVec.getLsbD_not, BitVec.getLsbD_or, getLsbD_oneHot hd, BitVec.ofNat_eq_ofNat,
    BitVec.getLsbD_zero] at hbit ⊢
  by_cases hdi : d = i
  · subst hdi; simp only [hm, hi, decide_true, Bool.not_true, Bool.and_false]
  · simpa only [hdi, decide_false, Bool.or_false] using hbit

/-- A detector that clears is not tripped. -/
theorem Clock.untrip_self (k : Clock) (hd : d < 16) : (k.untrip d).tripped.getLsbD d = false := by
  simp only [Clock.untrip, BitVec.getLsbD_and, BitVec.getLsbD_not, getLsbD_oneHot hd, decide_true, Bool.not_true,
    Bool.and_false]

/-- The droop request of a lit stage (R171). -/
theorem Stage.droop_lit (h : st.st = .lit) : st.droop = decide (st.clock.tripped &&& ~~~st.masked ≠ 0) := by
  simp [Stage.droop, h]

/-! ### Edges -/

theorem Clock.dueEdges_halted (limit delta e : Nat) (h : k.halted = true) : Clock.dueEdges limit delta e k = k := by
  induction e with
  | zero => rfl
  | succ e ih => simpa only [Clock.dueEdges, Clock.dueEdge, h, if_true] using ih

/-- A due edge below the run limit is stretched by `delta` core cycles (R178). -/
theorem Clock.dueEdge_stretch (delta : Nat) (hh : k.halted = false) (hr : k.run < limit) : k.dueEdge limit delta =
    { k.lose delta with run := k.run + 1, q := k.q + delta, stretched := k.stretched + 1, notice := true } := by
  unfold Clock.dueEdge
  rw [if_neg (by simp [hh]), if_pos hr]

/-- At the run limit the tree halts (R178). -/
theorem Clock.dueEdge_halt (delta : Nat) (hh : k.halted = false) (hr : k.run = limit) : k.dueEdge limit delta =
    { k with halted := true, heldCores := 0, halts := k.halts + 1, stretched := k.stretched + 1, notice := true } := by
  unfold Clock.dueEdge
  rw [if_neg (by simp [hh]), if_neg (by omega)]

/-- A run of due edges within the run limit: each is stretched, and the counter falls behind by as much (R174, R178). -/
theorem Clock.dueEdges_stretch (limit delta : Nat) : ∀ (e : Nat) (k : Clock), k.halted = false → k.run + e ≤ limit →
    (Clock.dueEdges limit delta e k).tripped = k.tripped ∧
    (Clock.dueEdges limit delta e k).run = k.run + e ∧ (Clock.dueEdges limit delta e k).q = k.q + e * delta ∧
    (Clock.dueEdges limit delta e k).lag = k.lag + ((e * delta : Nat) : Rat) * coreCycle k.drive.step ∧
    (Clock.dueEdges limit delta e k).stretched = k.stretched + e ∧ (Clock.dueEdges limit delta e k).halted = false ∧
    (0 < e ∨ k.notice = true → (Clock.dueEdges limit delta e k).notice = true)
  | 0, k, hh, _ => ⟨rfl, rfl, by simp [Clock.dueEdges], by simp [Clock.dueEdges], rfl, hh, fun h => h.resolve_left (by omega)⟩
  | e + 1, k, hh, hr => by
    have hnext := Clock.dueEdge_stretch delta hh (show k.run < limit by omega)
    obtain ⟨i1, i2, i3, i4, i5, i6, i7⟩ := Clock.dueEdges_stretch limit delta e (k.dueEdge limit delta)
      (by rw [hnext]; exact hh) (by rw [hnext]; show k.run + 1 + e ≤ limit; omega)
    simp only [Clock.dueEdges]
    refine ⟨?_, ?_, ?_, ?_, ?_, i6, fun _ => ?_⟩
    · rw [i1, hnext]; rfl
    · rw [i2, hnext]; show k.run + 1 + e = k.run + (e + 1); omega
    · rw [i3, hnext]; show k.q + delta + e * delta = k.q + (e + 1) * delta; rw [Nat.succ_mul]; omega
    · rw [i4, hnext]
      show k.lag + (delta : Rat) * coreCycle k.drive.step + ((e * delta : Nat) : Rat) * coreCycle k.drive.step = _
      push_cast
      ring
    · rw [i5, hnext]; show k.stretched + 1 + e = k.stretched + (e + 1); omega
    · exact i7 (.inr (by rw [hnext]))

/-- Edges past the run limit: the tree halts at the first, and no further edge is due. -/
theorem Clock.dueEdges_halt (delta : Nat) (hh : k.halted = false) (hr : k.run = limit) (he : 0 < e) :
    (Clock.dueEdges limit delta e k).halted = true ∧ (Clock.dueEdges limit delta e k).halts = k.halts + 1 ∧
    (Clock.dueEdges limit delta e k).run = k.run := by
  obtain ⟨j, rfl⟩ : ∃ j, e = j + 1 := ⟨e - 1, by omega⟩
  have hnext := Clock.dueEdge_halt delta hh hr
  simp only [Clock.dueEdges]
  rw [Clock.dueEdges_halted _ _ _ (by rw [hnext]), hnext]
  exact ⟨rfl, rfl, rfl⟩

/-! ### The notice -/

/-- An end out of aligned mode. -/
def Link.elasticMode (l : Link) : Link := { l with aligned := false }

theorem State.unalign_eq (s : State) (n : Nat) :
    s.unalign n = (s.modStage n (fun st => st.modLinks Link.elasticMode)).modAllAcross n Link.elasticMode := rfl

theorem State.unalign_frame (s : State) (n : Nat) : s.unalign n = s.endsOf (s.unalign n) := by
  rw [State.unalign_eq]
  exact State.endsOf_trans (t := s.modStage n _) rfl (State.modAllAcross_frame ..)

/-- The stage that gives notice: its ends leave aligned mode, and nothing else of it changes. -/
theorem State.unalign_self (h : s.stage n = some st) : (s.unalign n).stage n = some (st.modLinks Link.elasticMode) := by
  rw [State.unalign_eq, State.stage_modAllAcross, State.stage_modStage _ h, Option.map_some, Stage.facingAll_self]

/-- The ends across leave aligned mode too (R208). -/
theorem State.unalign_across {f : Side} {m : Nat} {v : Stage} (hn : neighbour n f = some m)
    (hv : (s.unalign n).stage m = some v) : (v.link f.opposite).aligned = false := by
  rw [State.unalign_eq, State.stage_modAllAcross, State.stage_modStage_other _ _ (neighbour_ne hn)] at hv
  obtain ⟨w, -, rfl⟩ := Option.map_eq_some_iff.mp hv
  rw [Stage.link_facingAll, if_pos hn]
  rfl

/-! ### The edges that pass -/

/-- A stage with another clock. -/
def Stage.withClock (st : Stage) (k : Clock) : Stage := { st with clock := k }

theorem State.passEdges_due (hd : (st.withClock k).droop = true) (he : 0 < e) : s.passEdges n (st.withClock k) e =
    (s.putStage n (st.withClock (Clock.dueEdges s.runLimit s.delta e k))).unalign n := by
  unfold State.passEdges
  rw [if_pos hd, if_neg (by omega)]
  rfl

theorem State.passEdges_clear (hd : (st.withClock k).droop = false) : s.passEdges n (st.withClock k) e =
    s.putStage n (st.withClock (k.clearEdges e)) := by
  unfold State.passEdges
  rw [if_neg (by simp [hd])]
  rfl

/-- A clock after a detector's reading: tripped or not (R169). -/
theorem exec_droopTrip {v r : Nat} (h : s.stage n = some st) (hl : st.st = .lit) (hd : d < 16) (e : Nat) :
    exec (.droopTrip n d v r e) s = .next (s.passEdges n (st.withClock
      (if (st.clock.readDet d v r).tripsAt d s.droopPct then (st.clock.readDet d v r).trip d
        else st.clock.readDet d v r)) e) := by
  show execDroopTrip n d v r e s = _
  unfold execDroopTrip
  rw [h]
  exact if_neg (by simp [Stage.clocked, hl, hd])

/-- A clock with a detector's last delay reading. -/
def Clock.withDelay (k : Clock) (d v : Nat) : Clock := { k with detDelay := k.detDelay.set d v }

theorem exec_droopClear {v : Nat} (h : s.stage n = some st) (hl : st.st = .lit) (hd : d < 16) (e : Nat) :
    exec (.droopClear n d v e) s = .next (s.passEdges n (st.withClock
      (if (st.clock.withDelay d v).clearsAt d s.droopPct then (st.clock.withDelay d v).untrip d
        else st.clock.withDelay d v)) e) := by
  show execDroopClear n d v e s = _
  unfold execDroopClear
  rw [h]
  exact if_neg (by simp [Stage.clocked, hl, hd])

theorem Stage.droop_withClock (hl : st.st = .lit) (k : Clock) :
    (st.withClock k).droop = decide (k.tripped &&& ~~~st.masked ≠ 0) := Stage.droop_lit hl

theorem Stage.tripped_zero (hl : st.st = .lit) (h : st.droop = false) : st.clock.tripped &&& ~~~st.masked = 0 := by
  rw [Stage.droop_lit hl] at h
  simpa using h

/-- DROOP_TRIP of an unmasked detector within the run limit (R177, R178). -/
theorem droopTrip_stretches {v r : Nat} (h : s.stage n = some st) (hl : st.st = .lit) (hd : d < 16)
    (hk : k = st.clock.readDet d v r) (hh : st.clock.halted = false) (ht : k.tripsAt d s.droopPct = true)
    (hm : st.masked.getLsbD d = false) (he : 0 < e) (hr : st.clock.run + e ≤ s.runLimit) :
    ∃ t u, exec (.droopTrip n d v r e) s = .next t ∧ t.stage n = some u ∧ u.clock.tripped.getLsbD d = true ∧
      u.clock.run = st.clock.run + e ∧ u.clock.q = st.clock.q + e * s.delta ∧
      u.clock.lag = st.clock.lag + ((e * s.delta : Nat) : Rat) * coreCycle st.clock.drive.step ∧
      u.clock.stretched = st.clock.stretched + e ∧
      u.clock.halted = false ∧ u.clock.notice = true ∧ (∀ f, (u.link f).aligned = false) ∧
      t = { s with stages := t.stages, edges := t.edges } := by
  subst hk
  have hdroop : (st.withClock ((st.clock.readDet d v r).trip d)).droop = true := by
    rw [Stage.droop_withClock hl]
    exact decide_eq_true (unmasked_ne_zero (Clock.trip_self _ hd) hm)
  obtain ⟨i1, i2, i3, i4, i5, i6, i7⟩ := Clock.dueEdges_stretch s.runLimit s.delta e
    ((st.clock.readDet d v r).trip d) hh hr
  have hexec := exec_droopTrip (v := v) (r := r) h hl hd e
  rw [if_pos ht, State.passEdges_due hdroop he] at hexec
  refine ⟨_, _, hexec, State.unalign_self (State.stage_putStage _ h), ?_, i2, i3, i4, i5, i6, i7 (.inl he), fun f => ?_, ?_⟩
  · exact (congrArg (·.getLsbD d) i1).trans (Clock.trip_self _ hd)
  · rw [Stage.link_modLinks]; rfl
  · exact State.endsOf_trans (t := s.putStage n _) rfl (State.unalign_frame ..)

/-- DROOP_TRIP at the run limit (R178). -/
theorem droopTrip_halts {v r : Nat} (h : s.stage n = some st) (hl : st.st = .lit) (hd : d < 16)
    (hk : k = st.clock.readDet d v r) (hh : st.clock.halted = false) (ht : k.tripsAt d s.droopPct = true)
    (hm : st.masked.getLsbD d = false) (hr : st.clock.run = s.runLimit) (he : 0 < e) :
    ∃ t u, exec (.droopTrip n d v r e) s = .next t ∧ t.stage n = some u ∧ u.clock.halted = true ∧
      u.clock.halts = st.clock.halts + 1 ∧ u.clock.run = st.clock.run := by
  subst hk
  have hdroop : (st.withClock ((st.clock.readDet d v r).trip d)).droop = true := by
    rw [Stage.droop_withClock hl]
    exact decide_eq_true (unmasked_ne_zero (Clock.trip_self _ hd) hm)
  have hhalt := Clock.dueEdges_halt (k := (st.clock.readDet d v r).trip d) s.delta hh hr he
  have hexec := exec_droopTrip (v := v) (r := r) h hl hd e
  rw [if_pos ht, State.passEdges_due hdroop he] at hexec
  exact ⟨_, _, hexec, State.unalign_self (State.stage_putStage _ h), hhalt⟩

/-- Edges that pass with the request clear, and no realignment that waits (R170, R178). -/
theorem Clock.clearEdges_spec (hh : k.halted = false) (hr : k.realign = false) (hf : k.freeze = 16) (e : Nat) :
    k.clearEdges e = { k with
      run := if e = 0 then k.run else 0
      freeze := if k.tripped = 0 then 16 - e else 16 } := by
  unfold Clock.clearEdges Clock.clearEdge
  by_cases he : e = 0
  · subst he
    rw [if_pos (by simp)]
    cases k
    simp_all
  · rw [if_neg (by simp [hh, he]), if_neg (by simp [hr]), if_neg he]
    simp only [hf]

/-- DROOP_CLEAR of the last detector (R171, R178). -/
theorem droopClear_last {v : Nat} (h : s.stage n = some st) (hl : st.st = .lit) (hd : d < 16)
    (hh : st.clock.halted = false) (hr : st.clock.realign = false)
    (hk : k = { st.clock with detDelay := st.clock.detDelay.set d v }) (hc : k.clearsAt d s.droopPct = true)
    (hlast : (st.clock.tripped &&& ~~~BitVec.ofNat 16 (2 ^ d)) &&& ~~~st.masked = 0) : ∃ u,
      exec (.droopClear n d v e) s = .next (s.putStage n u) ∧ u.clock.tripped.getLsbD d = false ∧
      u.clock.run = (if e = 0 then st.clock.run else 0) ∧
      u.clock.freeze = (if u.clock.tripped = 0 then 16 - e else 16) ∧
      u = { st with clock := { k with tripped := u.clock.tripped, run := u.clock.run, freeze := u.clock.freeze } } := by
  subst hk
  have hexec := exec_droopClear (v := v) h hl hd e
  have hclear : (st.withClock ((st.clock.withDelay d v).untrip d)).droop = false := by
    rw [Stage.droop_withClock hl]
    exact decide_eq_false (not_not.mpr hlast)
  have hedges := Clock.clearEdges_spec (k := (st.clock.withDelay d v).untrip d) hh hr rfl e
  rw [if_pos (show (st.clock.withDelay d v).clearsAt d s.droopPct = true from hc), State.passEdges_clear hclear,
    hedges] at hexec
  exact ⟨_, hexec, Clock.untrip_self _ hd, rfl, rfl, rfl⟩

/-! ### The end of a halt -/

/-- A trace entry is the only change of a stage. -/
theorem State.traceAt_spec (h : s.stage n = some st) (m : Bool) (a : Nat) (w : Word) (b : Nat) :
    (∃ u, (s.traceAt n m a w b).stage n = some u ∧ st.Traced u) ∧
    (∀ j, j ≠ n → (s.traceAt n m a w b).stage j = s.stage j) ∧
    s.traceAt n m a w b = { s with stages := (s.traceAt n m a w b).stages } := by
  unfold State.traceAt
  cases s.ctxOf n with
  | none => exact ⟨⟨st, h, .refl st⟩, fun _ _ => rfl, rfl⟩
  | some q => exact ⟨⟨_, State.stage_modStage _ h, Stage.pushTrace_traced ..⟩, fun _ hj => State.stage_modStage_other _ _ hj, rfl⟩

/-- A clock at the end of a halt of `cores` core cycles (R178, R179, R184). -/
def Clock.endHalt (k : Clock) (cores : Nat) : Clock :=
  { k.lose (cores - k.heldCores) with
    halted := false, heldCores := 0, run := 0, q := k.q + cores, freeze := 16
    longest := if k.longest < haltLength cores k.drive.step then haltLength cores k.drive.step else k.longest
    overruns := if decide (haltLength cores k.drive.step ≤ 500) then k.overruns + 1 else k.overruns }

theorem exec_haltEnd {a : Nat} (h : s.stage n = some st) (hc : st.clocked = true) (hh : st.clock.halted = true)
    (hd : st.droop = false) (ha : s.delta ≤ a) (hr : st.clock.realign = false) :
    exec (.haltEnd n a) s = .next (if haltLength a st.clock.drive.step ≤ 500 then
      (s.putStage n (st.withClock (st.clock.endHalt a))).traceAt n false 0x07
        ((s.putStage n (st.withClock (st.clock.endHalt a))).correctedStamp n)
        (capAt 0xFFFF (haltLength a st.clock.drive.step))
      else s.putStage n (st.withClock (st.clock.endHalt a))) := by
  have hclear : (st.clock.endHalt a).clearEdge = st.clock.endHalt a :=
    if_neg (by simp [Clock.endHalt, Clock.lose, Clock.fallBack, hr])
  show execHaltEnd n a s = _
  unfold execHaltEnd
  rw [h]
  dsimp only
  rw [if_neg (by simp [hc, hh, hd, ha])]
  show (if decide (haltLength a st.clock.drive.step ≤ 500) = true then
    Host.Outcome.next ((s.putStage n (st.withClock (st.clock.endHalt a).clearEdge)).traceAt n false 0x07
      ((s.putStage n (st.withClock (st.clock.endHalt a).clearEdge)).correctedStamp n)
      (capAt 0xFFFF (haltLength a st.clock.drive.step)))
    else .next (s.putStage n (st.withClock (st.clock.endHalt a).clearEdge))) = _
  rw [hclear]
  by_cases hs : haltLength a st.clock.drive.step ≤ 500 <;> simp [hs]

theorem haltEnd_spec {a : Nat} (h : s.stage n = some st) (hc : st.clocked = true) (hh : st.clock.halted = true)
    (hd : st.droop = false) (ha : s.delta ≤ a) (hr : st.clock.realign = false) : ∃ t u,
    exec (.haltEnd n a) s = .next t ∧
    t.stage n = some u ∧ u.clock.halted = false ∧ u.clock.run = 0 ∧ u.clock.heldCores = 0 ∧ u.clock.freeze = 16 ∧
    u.clock.lag = st.clock.lag + ((a - st.clock.heldCores : Nat) : Rat) * coreCycle st.clock.drive.step ∧
    u.clock.q = st.clock.q + a ∧ haltLength a st.clock.drive.step ≤ u.clock.longest ∧
    u.clock.overruns = st.clock.overruns + (if haltLength a st.clock.drive.step ≤ 500 then 1 else 0) ∧
    (∀ m, m ≠ n → t.stage m = s.stage m) ∧ t = { s with stages := t.stages } := by
  have hput := State.stage_putStage (st.withClock (st.clock.endHalt a)) h
  have hothers : ∀ m, m ≠ n → (s.putStage n (st.withClock (st.clock.endHalt a))).stage m = s.stage m :=
    fun m hm => State.stage_putStage_other _ _ hm
  obtain ⟨t, ht, u, hu, htr, hoth, hfr⟩ : ∃ t, exec (.haltEnd n a) s = .next t ∧ ∃ u, t.stage n = some u ∧
      (st.withClock (st.clock.endHalt a)).Traced u ∧ (∀ m, m ≠ n → t.stage m = s.stage m) ∧
      t = { s with stages := t.stages } := by
    refine ⟨_, exec_haltEnd h hc hh hd ha hr, ?_⟩
    split
    · obtain ⟨⟨u, hu, htr⟩, hoth, hfr⟩ := State.traceAt_spec hput false 0x07
        ((s.putStage n (st.withClock (st.clock.endHalt a))).correctedStamp n)
        (capAt 0xFFFF (haltLength a st.clock.drive.step))
      exact ⟨u, hu, htr, fun m hm => (hoth m hm).trans (hothers m hm), by rw [hfr]; rfl⟩
    · exact ⟨_, hput, .refl _, hothers, rfl⟩
  have hclock : u.clock = st.clock.endHalt a := by rw [htr]; rfl
  refine ⟨t, u, ht, hu, ?_⟩
  rw [hclock]
  refine ⟨rfl, rfl, rfl, rfl, rfl, rfl, ?_, ?_, hoth, hfr⟩
  · show _ ≤ if _ then _ else _
    split <;> omega
  · show (if decide (haltLength a st.clock.drive.step ≤ 500) = true then _ else _) = _
    by_cases hs : haltLength a st.clock.drive.step ≤ 500
    · rw [if_pos (decide_eq_true hs), if_pos hs]
    · rw [if_neg (by simpa using hs), if_neg hs]; rfl

/-! ### Persistent droop and the overrun limit -/

theorem exec_persistentDroop (h : s.stage n = some st) (hc : st.clocked = true) (hh : st.clock.halted = true) :
    exec (.persistentDroop n) s = .next (s.escalateError (stageErr 0x09 n (some (.clockPath n)))) := by
  show execPersistentDroop n s = _
  unfold execPersistentDroop
  rw [h]
  exact if_pos (by simp [hc, hh])

/-- A first error of a unit, on the stage of a context at no level, takes the partition to level 3 with the unit's test
pending (R459, R496). -/
theorem State.escalateError_spec {v : UnitId} {x : ErrReport} (hx : x.stage = n) (hu : x.unit = some v)
    (hc : s.ctxOf n = some (p, c)) (hl : c.level = none) (ht : s.testOf v = none) :
    (s.escalateError x).ctx p = some (c.atThree x.kind n s.stamp) ∧ (s.escalateError x).pendingTest v x.kind ∧
    (s.escalateError x).toldError (s.errBody x 0x04 0) ∧ s.Each Stage.Stops (s.escalateError x) ∧
    s.escalateError x = { s.errorsOf (s.escalateError x) with
      stages := (s.escalateError x).stages, parts := (s.escalateError x).parts } := by
  have htold := s.errorEvent_toldError x 0x04 0
  have hev := s.errorEvent_frame x 0x04 0
  have hctx : s.ctx p = some c := by
    cases hst : s.stage n with
    | none => simp [State.ctxOf, hst] at hc
    | some st => exact (State.of_ctxOf hst hc).2
  unfold State.escalateError
  rw [hx, hc, hu]
  simp only [Option.isSome_some, if_true]
  generalize s.errorEvent x 0x04 0 = a at *
  have hta : a.testOf v = none := by rw [hev]; exact ht
  rw [State.noteError_new hta]
  have hpend := State.joinTest_pending hta x.kind .tick
  have hjoin := a.joinTest_frame v x.kind .tick
  generalize a.joinTest v x.kind .tick = b at *
  have hbc : b.ctxOf n = some (p, c) := by rw [hjoin, hev]; exact hc
  have hbctx : b.ctx p = some c := by rw [hjoin, hev]; exact hctx
  have hstages : b.stages = s.stages := by rw [hjoin, hev]; rfl
  rw [hbc]
  dsimp only
  obtain ⟨h1, h2, h3⟩ := State.enterLevel3_spec hbctx hl x.kind n
  generalize b.enterLevel3 p x.kind n = t at *
  refine ⟨?_, ?_, ?_, ?_, ?_⟩
  · rw [h1, hjoin, hev]; rfl
  · rw [h3]; exact hpend
  · rw [h3, hjoin]; exact htold
  · exact .trans Stage.Stops.trans (.of_stages Stage.Stops.refl hstages) h2
  · rw [h3, hjoin, hev]; rfl

theorem persistentDroop_spec (h : s.stage n = some st) (hc : s.ctxOf n = some (p, c)) (hk : st.clocked = true)
    (hh : st.clock.halted = true) (hl : c.level = none) (ht : s.testOf (.clockPath n) = none) : ∃ t d l,
    exec (.persistentDroop n) s = .next t ∧ t.ctx p = some d ∧ d.level = some l ∧ l.level = 3 ∧ l.trigger = 0x09 ∧
    l.stage = n ∧ d.epoch = c.epoch + 1 ∧ (∃ k, t.testOf (.clockPath n) = some k ∧ k.kinds = [0x09]) ∧
    (∃ e ∈ t.dailies.log, e.kind = 0x01 ∧
      e.payload = errBytes (s.errBody (stageErr 0x09 n (some (.clockPath n))) 0x04 0)) := by
  obtain ⟨h1, ⟨j, hj, hkinds, -⟩, ⟨e, he, hek, hep⟩, -, -⟩ :=
    State.escalateError_spec (x := stageErr 0x09 n (some (.clockPath n))) rfl rfl hc hl ht
  exact ⟨_, _, _, exec_persistentDroop h hk hh, h1, rfl, rfl, rfl, rfl, rfl, ⟨j, hj, hkinds⟩,
    ⟨e, List.mem_of_getLast? he, hek, hep⟩⟩

/-- A test that starts with no error joined (R478): there is one, and one of that kind. -/
theorem State.startTest_frame (s : State) (v : UnitId) (a : Nat) :
    s.startTest v a = { s with tests := (s.startTest v a).tests } := by
  unfold State.startTest
  cases s.testOf v with
  | some _ => rfl
  | none =>
    have h := s.joinTest_frame v a .tick
    dsimp only
    generalize s.joinTest v a .tick = u at *
    rw [h]

theorem State.startTest_new {v : UnitId} (h : s.testOf v = none) (a : Nat) :
    ∃ j, (s.startTest v a).testOf v = some j ∧ j.joined = 0 := by
  obtain ⟨j, hj, -, -⟩ := State.joinTest_new (k := a) (w := .tick) h
  have hunit : j.unit = v := of_decide_eq_true (List.find?_some (p := fun t : Test => decide (t.unit = v)) hj)
  have hcomp : (fun t : Test => decide (t.unit = v)) ∘ (fun t => if t.unit = v then { t with joined := 0 } else t) =
      fun t => decide (t.unit = v) := by
    funext t
    by_cases ht : t.unit = v <;> simp [ht]
  refine ⟨{ j with joined := 0 }, ?_, rfl⟩
  unfold State.startTest
  rw [h]
  simp only [State.testOf, List.find?_map, hcomp] at hj ⊢
  simp [hj, hunit]

/-- The start of a test leaves the pending test of another unit. -/
theorem State.startTest_other {v w : UnitId} (hw : w ≠ v) (s : State) (a : Nat) :
    (s.startTest v a).testOf w = s.testOf w := by
  unfold State.startTest
  cases hv : s.testOf v with
  | some _ => rfl
  | none =>
    have hcomp : (fun t : Test => decide (t.unit = w)) ∘ (fun t => if t.unit = v then { t with joined := 0 } else t) =
        fun t => decide (t.unit = w) := by
      funext t
      by_cases ht : t.unit = v <;> simp [ht]
    unfold State.joinTest
    rw [hv]
    simp only [State.testOf, List.find?_map, hcomp, List.find?_append]
    have hlast : ∀ (b : Test), b.unit = v → [b].find? (fun t => decide (t.unit = w)) = none := fun b hb =>
      List.find?_cons_of_neg (by simp [hb, Ne.symm hw])
    rw [hlast _ rfl, Option.or_none]
    cases hf : s.tests.find? (fun t => decide (t.unit = w)) with
    | none => rfl
    | some b =>
      have hb : b.unit = w := of_decide_eq_true (List.find?_some (p := fun t : Test => decide (t.unit = w)) hf)
      simp [hb, hw]

/-- A stage whose overrun limit has been reached. -/
def Stage.overLimit (st : Stage) : Stage := st.withClock { st.clock with overruns := 0, limitHit := true }

theorem exec_droopOverrunLimit (h : s.stage n = some st) (hst : st.st ≠ .retired) (ho : 256 ≤ st.clock.overruns) :
    ∃ b : Bool, exec (.droopOverrunLimit n) s = .next (if b then
      ((s.putStage n st.overLimit).startTest (.clockPath n) 0x09).startTest (.rail (railOf n)) 0x09
      else (s.putStage n st.overLimit).startTest (.clockPath n) 0x09) := by
  show ∃ b : Bool, execDroopOverrunLimit n s = _
  unfold execDroopOverrunLimit
  rw [h]
  dsimp only
  rw [if_neg (by simp [hst, ho])]
  exact ⟨_, rfl⟩

theorem droopOverrunLimit_spec (h : s.stage n = some st) (hst : st.st ≠ .retired) (ho : 256 ≤ st.clock.overruns)
    (ht : s.testOf (.clockPath n) = none) : ∃ t, exec (.droopOverrunLimit n) s = .next t ∧
    t.stage n = some { st with clock := { st.clock with overruns := 0, limitHit := true } } ∧
    (∃ k, t.testOf (.clockPath n) = some k ∧ k.joined = 0) ∧ t = { s with stages := t.stages, tests := t.tests } := by
  obtain ⟨b, hb⟩ := exec_droopOverrunLimit h hst ho
  have hput := State.stage_putStage st.overLimit h
  have hframe : s.putStage n st.overLimit = { s with stages := (s.putStage n st.overLimit).stages } := rfl
  have htest : (s.putStage n st.overLimit).testOf (.clockPath n) = none := ht
  refine ⟨_, hb, ?_⟩
  generalize s.putStage n st.overLimit = a at *
  have hnew := State.startTest_new htest 0x09
  have hst1 := a.startTest_frame (.clockPath n) 0x09
  generalize a.startTest (.clockPath n) 0x09 = u at *
  have hu : u.stage n = some st.overLimit := by rw [hst1]; exact hput
  cases b with
  | false => exact ⟨hu, hnew, by rw [if_neg (by decide), hst1, hframe]⟩
  | true =>
    rw [if_pos rfl]
    have hst2 := u.startTest_frame (.rail (railOf n)) 0x09
    have hkeep := State.startTest_other (v := .rail (railOf n)) (w := .clockPath n) (by simp) u 0x09
    generalize u.startTest (.rail (railOf n)) 0x09 = w at *
    exact ⟨by rw [hst2]; exact hu, by rw [hkeep]; exact hnew, by rw [hst2, hst1, hframe]⟩

/-- Settles O26: detectors, edges, halts and the notice. -/
theorem droopHaltsAndNotices : Obligations.DroopHaltsAndNotices := by
  unfold Obligations.DroopHaltsAndNotices
  refine ⟨⟨fun s n d v r e st k h hl hd hk hh =>
    ⟨fun ht hm he hr => droopTrip_stretches h hl hd hk hh ht hm he hr,
      fun ht hm hr he => droopTrip_halts h hl hd hk hh ht hm hr he,
      fun ht hm hdr => ?masked, fun ht hdr => ?quiet, fun hf hs => ?frozen⟩,
    fun s n d v e st k h hl hd hh hr hk => ⟨fun hc hlast => droopClear_last h hl hd hh hr hk hc hlast, fun hc hdr => ?kept⟩⟩,
    fun s n k st h hc hh hd ha hr => haltEnd_spec h hc hh hd ha hr,
    fun s n p st c h hc hk hh hl ht => persistentDroop_spec h hc hk hh hl ht,
    fun s n st h hst ho ht => droopOverrunLimit_spec h hst ho ht, fun s n st h hc => ?notice⟩
  case masked =>
    subst hk
    have hzero := masked_trip_zero hd hm (Stage.tripped_zero hl hdr)
    have hclear : (st.withClock ((st.clock.readDet d v r).trip d)).droop = false := by
      rw [Stage.droop_withClock hl]
      exact decide_eq_false (not_not.mpr hzero)
    rw [exec_droopTrip h hl hd, if_pos ht, State.passEdges_clear hclear]
    rfl
  case quiet =>
    subst hk
    have hclear : (st.withClock (st.clock.readDet d v r)).droop = false := by
      rw [Stage.droop_withClock hl]
      exact decide_eq_false (not_not.mpr (Stage.tripped_zero hl hdr))
    rw [exec_droopTrip h hl hd, if_neg (by simp [ht]), State.passEdges_clear hclear]
    rfl
  case frozen =>
    subst hk
    have hfrozen : st.clock.frozen = true := by
      unfold Clock.frozen
      rcases hf with h1 | h1
      · rw [decide_eq_true h1]; rfl
      · rw [decide_eq_true h1, Bool.or_true]
    exact if_pos (by rw [hfrozen, hs]; rfl)
  case kept =>
    subst hk
    have hclear : (st.withClock (st.clock.withDelay d v)).droop = false := by
      rw [Stage.droop_withClock hl]
      exact decide_eq_false (not_not.mpr (Stage.tripped_zero hl hdr))
    have hno : ¬ (st.clock.withDelay d v).clearsAt d s.droopPct = true := by
      rw [show (st.clock.withDelay d v).clearsAt d s.droopPct = false from hc]
      exact Bool.false_ne_true
    rw [exec_droopClear h hl hd, if_neg hno, State.passEdges_clear hclear]
    rfl
  case notice =>
    have hexec : exec (.noticeAssert n) s =
        .next ((s.putStage n (st.withClock { st.clock with notice := true })).unalign n) := by
      show execNoticeAssert n s = _
      unfold execNoticeAssert
      rw [h]
      exact if_pos hc
    refine ⟨_, _, hexec, State.unalign_self (State.stage_putStage _ h), rfl, fun d => ?_, fun d m v hn hv => ?_, ?_⟩
    · rw [Stage.link_modLinks]; rfl
    · exact State.unalign_across hn hv
    · exact State.endsOf_trans (t := s.putStage n _) rfl (State.unalign_frame ..)

end Sys2Proof.Machine
end

section
/-! Detected errors: the rollback that begins, its event and its test (R121, R122, R451, R452). -/

namespace Sys2Proof.Machine

set_option Elab.async false

open Sys2Proof

variable {s t : State} {n p k : Nat} {st : Stage} {c : Ctx} {e : ErrReport} {next both : Bool}

theorem State.ctx_of_ctxOf (h : s.ctxOf n = some (p, c)) : s.ctx p = some c := by
  cases hst : s.stage n with
  | none => simp [State.ctxOf, hst] at h
  | some st => exact (State.of_ctxOf hst h).2

/-- Raising crossings changes crossings alone. -/
theorem State.raiseXings_frame (s : State) (k : Nat) (ns : List Nat) :
    s.raiseXings k ns = { s with xings := (s.raiseXings k ns).xings } :=
  foldl_rel (r := fun s t : State => t = { s with xings := t.xings }) (fun _ => rfl)
    (fun h k => by rw [k, h]) (fun _ _ => rfl) ns s

/-- A context whose rollback has begun: of both epochs, or of run-ahead work alone (R121, R124, R132). -/
def Ctx.rolling (c : Ctx) (both : Bool) (wait : List Nat) (k n : Nat) : Ctx :=
  if both then { c with
    rollback := some { both := true, wait := wait, aborted := [], kind := k, stage := n }
    retakes := c.retakes + 1, rolledRun := c.rolledRun + 1, stepReq := none }
  else { c with
    rollback := if wait.isEmpty then none else some { both := false, wait := wait, aborted := [], kind := k, stage := n } }

/-- A rollback that begins on a frame in progress, or joins none: the context and what stays. -/
theorem State.startRollback_fresh (hc : s.ctx p = some c) (hr : c.rollback = none) (hf : c.inFrame = true) (both : Bool)
    (k n : Nat) : (s.startRollback p both k n).ctx p = some (c.rolling both (s.rollStages c) k n) := by
  have hp : p < s.parts.length := by
    by_contra hge
    rw [State.ctx, List.getElem?_eq_none (by omega)] at hc
    exact nomatch hc
  have hput := State.ctx_putCtx (s := s) (some (c.rolling both (s.rollStages c) k n)) hp
  have hxs := (s.putCtx p (some (c.rolling both (s.rollStages c) k n))).raiseXings_frame 3 (s.rollStages c)
  have hstart : s.startRollback p both k n =
      (s.putCtx p (some (c.rolling both (s.rollStages c) k n))).raiseXings 3 (s.rollStages c) := by
    unfold State.startRollback
    rw [hc]
    dsimp only
    rw [hr, show (both && c.inFrame) = both by rw [hf, Bool.and_true]]
    cases both <;> rfl
  rw [hstart, hxs]
  exact hput

theorem State.startRollback_frame (s : State) (p : Nat) (both : Bool) (k n : Nat) : s.startRollback p both k n =
    { s with parts := (s.startRollback p both k n).parts, xings := (s.startRollback p both k n).xings } := by
  have hbegun : ∀ (o : Option Ctx) (ns : List Nat), (s.putCtx p o).raiseXings 3 ns =
      { s with parts := ((s.putCtx p o).raiseXings 3 ns).parts, xings := ((s.putCtx p o).raiseXings 3 ns).xings } :=
    fun o ns => by
      have h := (s.putCtx p o).raiseXings_frame 3 ns
      generalize (s.putCtx p o).raiseXings 3 ns = u at *
      rw [h]; rfl
  unfold State.startRollback
  cases s.ctx p with
  | none => rfl
  | some c =>
    dsimp only
    cases c.rollback with
    | none => exact hbegun ..
    | some rb =>
      dsimp only
      split
      · rfl
      · exact hbegun ..

/-- What an event names of a context does not depend on a rollback that begins. -/
theorem Ctx.rolling_names (c : Ctx) (both : Bool) (wait : List Nat) (k n : Nat) :
    (c.rolling both wait k n).inFrame = c.inFrame ∧ (c.rolling both wait k n).frame = c.frame ∧
    (c.rolling both wait k n).take = c.take := by
  unfold Ctx.rolling
  split <;> exact ⟨rfl, rfl, rfl⟩

/-- A state with the records, tests, contexts and crossings of another: what a detected error may change. -/
def State.detectedOf (s t : State) : State := { s.errorsOf t with parts := t.parts, xings := t.xings }

theorem State.detectedOf_trans {u : State} (h : t = s.detectedOf t) (k : u = t.detectedOf u) : u = s.detectedOf u := by
  rw [k, h]; rfl

/-- The unit of a report, if it has one, has no test pending. -/
def State.untested (s : State) (e : ErrReport) : Prop := ∀ v, e.unit = some v → s.testOf v = none

/-- A first error of a unit, or an error of none, notes it in the tests alone. -/
theorem State.noteError_untested (h : s.untested e) (k : Nat) (w : TestWait) :
    s.noteError e.unit k w = { s with tests := (s.noteError e.unit k w).tests } ∧
    (∀ v, e.unit = some v → (s.noteError e.unit k w).pendingTest v k) ∧
    (e.unit = none → s.noteError e.unit k w = s) := by
  cases hu : e.unit with
  | none => exact ⟨rfl, fun _ h => absurd h (by simp), fun _ => rfl⟩
  | some v =>
    rw [State.noteError_new (h v hu)]
    refine ⟨State.joinTest_frame .., fun w' hw => ?_, fun h => nomatch h⟩
    obtain rfl : v = w' := Option.some.inj hw
    exact State.joinTest_pending (h v hu) ..

/-- The action of a rollback's event (R454, Table 12.13). -/
def Ctx.rollCode (c : Ctx) (both : Bool) : Nat := if both then (if c.rolledRun < 3 then 0x01 else 0x04) else 0x02

theorem State.rollAction_rolling {wait : List Nat} (h : s.ctx p = some (c.rolling both wait k n)) :
    s.rollAction p = c.rollCode both := by
  unfold State.rollAction
  rw [h]
  dsimp only
  cases both with
  | true =>
    show (if 4 ≤ c.rolledRun + 1 then 4 else 1) = if c.rolledRun < 3 then 1 else 4
    split <;> split <;> omega
  | false =>
    show (match (if wait.isEmpty then none else some _ : Option Rollback) with | none => 2 | some rb => _) = 2
    cases wait.isEmpty <;> rfl

/-- A detected error of whatever epoch changes records, tests, contexts and crossings, and starts its unit's test. -/
theorem State.detectIn_frame (hu : s.untested e) (next : Bool) :
    s.detectIn e next = s.detectedOf (s.detectIn e next) ∧
    (∀ v, e.unit = some v → (s.detectIn e next).pendingTest v e.kind) ∧
    (e.unit = none → (s.detectIn e next).tests = s.tests ∧ (s.detectIn e next).transients = s.transients) := by
  unfold State.detectIn
  cases s.rollCtx e.stage with
  | none =>
    have hev := s.errorEvent_frame e 0 0
    dsimp only
    generalize s.errorEvent e 0 0 = a at *
    have hua : a.untested e := fun v hv => by rw [hev]; exact hu v hv
    obtain ⟨h1, h2, h3⟩ := State.noteError_untested hua e.kind .tick
    refine ⟨?_, h2, fun hn => ?_⟩
    · generalize a.noteError e.unit e.kind .tick = b at *
      rw [h1, hev]; rfl
    · rw [h3 hn, hev]; exact ⟨rfl, rfl⟩
  | some x =>
    obtain ⟨p, c⟩ := x
    have hroll := s.startRollback_frame p (!next) e.kind e.stage
    dsimp only
    generalize s.startRollback p (!next) e.kind e.stage = r at *
    have hev := r.errorEvent_frame { e with ahead := next && c.inFrame } (r.rollAction p) 0
    generalize r.errorEvent { e with ahead := next && c.inFrame } (r.rollAction p) 0 = a at *
    have hua : a.untested e := fun v hv => by rw [hev, hroll]; exact hu v hv
    obtain ⟨h1, h2, h3⟩ := State.noteError_untested hua e.kind (.retake p)
    refine ⟨?_, h2, fun hn => ?_⟩
    · generalize a.noteError e.unit e.kind (.retake p) = b at *
      rw [h1, hev, hroll]; rfl
    · rw [h3 hn, hev, hroll]; exact ⟨rfl, rfl⟩

/-- A detected error of either epoch of a frame in progress begins a rollback, which its event tells (R121, R451). -/
theorem State.detectIn_rolls (hr : s.rollCtx e.stage = some (p, c)) (hc : s.ctxOf e.stage = some (p, c))
    (hb : c.rollback = none) (hf : c.inFrame = true) (hu : s.untested e) (next : Bool) :
    (s.detectIn e next).ctx p = some (c.rolling (!next) (s.rollStages c) e.kind e.stage) ∧
    (s.detectIn e next).toldError (s.errBody { e with ahead := next } (c.rollCode (!next)) 0) := by
  have hctx := State.startRollback_fresh (State.ctx_of_ctxOf hc) hb hf (!next) e.kind e.stage
  have hroll := s.startRollback_frame p (!next) e.kind e.stage
  unfold State.detectIn
  rw [hr]
  dsimp only
  rw [hf, Bool.and_true]
  generalize s.startRollback p (!next) e.kind e.stage = r at *
  rw [State.rollAction_rolling hctx]
  have htold := r.errorEvent_toldError { e with ahead := next } (c.rollCode (!next)) 0
  have hev := r.errorEvent_frame { e with ahead := next } (c.rollCode (!next)) 0
  have hbody : r.errBody { e with ahead := next } (c.rollCode (!next)) 0 =
      s.errBody { e with ahead := next } (c.rollCode (!next)) 0 := by
    have hof : r.ctxOf e.stage = some (p, c.rolling (!next) (s.rollStages c) e.kind e.stage) := by
      unfold State.ctxOf at hc ⊢
      have hst : r.stage e.stage = s.stage e.stage := by rw [hroll]; rfl
      rw [hst]
      cases hs : s.stage e.stage with
      | none => rw [hs] at hc; exact nomatch hc
      | some st =>
        rw [hs] at hc
        have hp : st.part = some p := (State.of_ctxOf hs (show s.ctxOf e.stage = _ by rw [State.ctxOf, hs]; exact hc)).1
        simp only [hp, hctx, Option.map_some]
    unfold State.errBody
    obtain ⟨h1, h2, h3⟩ := c.rolling_names (!next) (s.rollStages c) e.kind e.stage
    simp only [hof, hc, h1, h2, h3]
  rw [hbody] at htold
  generalize r.errorEvent { e with ahead := next } (c.rollCode (!next)) 0 = a at *
  have hua : a.untested e := fun v hv => by rw [hev, hroll]; exact hu v hv
  obtain ⟨h1, -, -⟩ := State.noteError_untested hua e.kind (.retake p)
  generalize a.noteError e.unit e.kind (.retake p) = b at *
  refine ⟨?_, ?_⟩
  · rw [h1, hev]; exact hctx
  · rw [h1]; exact htold

end Sys2Proof.Machine
end

section
/-! Detected errors by command (R120, R121, R310, R332, R451, R452, R467, R469). -/

namespace Sys2Proof.Machine

set_option Elab.async false

open Sys2Proof

variable {s t : State} {n p k word bits phys line : Nat} {st : Stage} {c : Ctx} {e : ErrReport}

/-- A crossing that completes changes crossings alone. -/
theorem State.xingOk_frame (s : State) (x : BitVec 16) : s.xingOk x = { s with xings := (s.xingOk x).xings } := by
  unfold State.xingOk
  split <;> rfl

theorem State.rollCtx_working (h : s.working n p st c) : s.rollCtx n = some (p, c) := by
  obtain ⟨-, hc, -, -, -, hend, hdue, -⟩ := h
  unfold State.rollCtx
  rw [hc]
  exact if_neg (by simp [hend, hdue])

/-- An error of a frame in progress that no commit has taken belongs to the epoch it names (R120). -/
theorem State.detect_working (h : s.working e.stage p st c) (hc : c.committing = false) : s.detect e = s.detectIn e e.ahead := by
  unfold State.detect
  rw [State.rollCtx_working h]
  dsimp only
  rw [hc, Bool.or_false]

/-- A detected error of the frame in progress of a working stage begins a rollback of both epochs, tells it, and starts its
unit's test. -/
theorem State.detectIn_working (h : s.working e.stage p st c) (hu : s.untested e) (next : Bool) :
    (s.detectIn e next).ctx p = some (c.rolling (!next) (s.rollStages c) e.kind e.stage) ∧
    (s.detectIn e next).toldError (s.errBody { e with ahead := next } (c.rollCode (!next)) 0) ∧
    (∀ v, e.unit = some v → (s.detectIn e next).pendingTest v e.kind) ∧
    s.detectIn e next = s.detectedOf (s.detectIn e next) := by
  have hr := State.rollCtx_working h
  obtain ⟨-, hctx, -, hf, hb, -, -, -⟩ := h
  obtain ⟨h1, h2⟩ := State.detectIn_rolls hr hctx hb hf hu next
  obtain ⟨h3, h4, -⟩ := State.detectIn_frame hu next
  exact ⟨h1, h2, h4, h3⟩

/-! ### Script words -/

theorem exec_scriptStore (h : s.stage n = some st) (hl : st.st = .lit) (hlive : s.live = true) (hp : st.part = some p) :
    exec (.scriptStoreUncorrectable n word bits) s = .next (if 2 ≤ bits then s.scriptError n word
      else s.putStage n { st with scriptCorrected := st.scriptCorrected + bits }) := by
  show execScriptStoreUncorrectable n word bits s = _
  unfold execScriptStoreUncorrectable
  rw [h]
  exact if_pos (by simp [hl, hlive, hp])

/-- The report of an uncorrectable script word. -/
def Stage.scriptReport (st : Stage) (n word : Nat) : ErrReport :=
  { stageErr 0x02 n (some (.scriptRow n (word / 32))) with shot := st.seq.shotAt word, ahead := st.seq.ahead }

theorem State.scriptError_eq (h : s.stage n = some st) (word : Nat) : s.scriptError n word =
    (s.detect (st.scriptReport n word)).modStage n (fun t => { t with reload := some (word / 512) }) := by
  unfold State.scriptError
  rw [h]
  rfl

theorem scriptStore_rolls (h : s.working n p st c) (hlive : s.live = true) (ha : st.seq.ahead = false)
    (hc : c.committing = false) (hb : 2 ≤ bits) (ht : s.testOf (.scriptRow n (word / 32)) = none) : ∃ t d,
    exec (.scriptStoreUncorrectable n word bits) s = .next t ∧ t.ctx p = some d ∧
    d.rollback = some { both := true, wait := s.rollStages c, aborted := [], kind := 0x02, stage := n } ∧
    d.retakes = c.retakes + 1 ∧ d.rolledRun = c.rolledRun + 1 ∧ d.stepReq = none ∧
    t.stage n = some { st with reload := some (word / 512) } ∧
    t.toldError (s.errBody { stageErr 0x02 n (some (.scriptRow n (word / 32))) with shot := st.seq.shotAt word }
      (if c.rolledRun < 3 then 0x01 else 0x04) 0) ∧
    t.pendingTest (.scriptRow n (word / 32)) 0x02 ∧
    t = { s.errorsOf t with parts := t.parts, stages := t.stages, xings := t.xings } := by
  have hu : s.untested (st.scriptReport n word) := fun v hv => by
    obtain rfl : UnitId.scriptRow n (word / 32) = v := Option.some.inj hv
    exact ht
  have hdet : s.detect (st.scriptReport n word) = s.detectIn (st.scriptReport n word) false :=
    (State.detect_working (e := st.scriptReport n word) h hc).trans (congrArg (s.detectIn _) ha)
  obtain ⟨h1, h2, h3, h4⟩ := State.detectIn_working (e := st.scriptReport n word) h hu false
  obtain ⟨hst, hctx, hl, -⟩ := h
  have hexec := exec_scriptStore (word := word) (bits := bits) hst hl hlive (State.of_ctxOf hst hctx).1
  rw [if_pos hb, State.scriptError_eq hst, hdet] at hexec
  have h5 := h3 _ rfl
  generalize s.detectIn (st.scriptReport n word) false = u at *
  have hus : u.stage n = some st := by rw [h4]; exact hst
  refine ⟨_, _, hexec, h1, rfl, rfl, rfl, rfl, State.stage_modStage _ hus, h2, h5, ?_⟩
  rw [h4]; rfl

/-! ### Bank lines -/

/-- The report of an uncorrectable line names its stage, its row and the epoch it arose in. -/
theorem Stage.bankReport_names (st : Stage) (n phys line : Nat) (ahead restore : Bool) :
    (st.bankReport n phys line ahead restore).kind = 0x03 ∧ (st.bankReport n phys line ahead restore).stage = n ∧
    (st.bankReport n phys line ahead restore).unit = some (rowUnit n phys line) ∧
    { st.bankReport n phys line ahead restore with ahead := ahead } = st.bankReport n phys line ahead restore := by
  unfold Stage.bankReport
  split <;> exact ⟨rfl, rfl, rfl, rfl⟩

theorem exec_bankUncorrectable (h : s.stage n = some st) (hc : st.clocked = true) (ahead restore : Bool) :
    exec (.bankUncorrectable n phys line ahead restore) s = .next (s.bankError n phys line ahead restore) := by
  show execBankUncorrectable n phys line ahead restore s = _
  unfold execBankUncorrectable
  rw [h]
  exact if_pos hc

theorem Stage.clocked_of_lit (h : st.st = .lit) : st.clocked = true := by simp [Stage.clocked, h]

/-- Where the good content of an erring line lies decides (R467). -/
theorem State.bankError_working (h : s.working n p st c) (hc : c.committing = false) (ahead restore : Bool) :
    s.bankError n phys line ahead restore =
      if restore then s.escalateError (st.bankReport n phys line ahead restore)
      else if ahead then
        if st.journaled phys line true then s.detectIn (st.bankReport n phys line ahead restore) true
        else if st.journaled phys line false then s.detectIn (st.bankReport n phys line ahead restore) false
        else s.escalateError (st.bankReport n phys line ahead restore)
      else if st.journaled phys line true || st.journaled phys line false then
        s.detectIn (st.bankReport n phys line ahead restore) false
      else s.escalateError (st.bankReport n phys line ahead restore) := by
  have hr := State.rollCtx_working h
  obtain ⟨hst, -⟩ := h
  unfold State.bankError
  rw [hst]
  dsimp only
  rw [hr]
  dsimp only
  rw [hc]
  simp only [Bool.or_false, Bool.not_false, Bool.and_true]

theorem bankUncorrectable_spec (h : s.working n p st c) (hc : c.committing = false)
    (ht : s.testOf (rowUnit n phys line) = none) :
    (st.journaled phys line true = true ∨ st.journaled phys line false = true → ∃ t d,
      exec (.bankUncorrectable n phys line false false) s = .next t ∧ t.ctx p = some d ∧
      d.rollback = some { both := true, wait := s.rollStages c, aborted := [], kind := 0x03, stage := n } ∧
      d.retakes = c.retakes + 1 ∧ t.pendingTest (rowUnit n phys line) 0x03 ∧
      t = { s.errorsOf t with parts := t.parts, xings := t.xings }) ∧
    (st.journaled phys line true = true → s.rollStages c ≠ [] → ∃ t d,
      exec (.bankUncorrectable n phys line true false) s = .next t ∧ t.ctx p = some d ∧
      d.rollback = some { both := false, wait := s.rollStages c, aborted := [], kind := 0x03, stage := n } ∧
      d.retakes = c.retakes ∧ d.rolledRun = c.rolledRun ∧ d.stepReq = c.stepReq ∧
      t.toldError (s.errBody (st.bankReport n phys line true false) 0x02 0) ∧
      t = { s.errorsOf t with parts := t.parts, xings := t.xings }) ∧
    (st.journaled phys line true = false → st.journaled phys line false = false → ∃ t,
      exec (.bankUncorrectable n phys line false false) s = .next t ∧ t.atLevel3 p c 0x03 n ∧
      t.toldError (s.errBody (st.bankReport n phys line false false) 0x04 0) ∧
      t = { s.errorsOf t with parts := t.parts, stages := t.stages }) ∧
    (∃ t, exec (.bankUncorrectable n phys line false true) s = .next t ∧ t.atLevel3 p c 0x03 n) := by
  have hexec := fun ahead restore => exec_bankUncorrectable (phys := phys) (line := line) h.1
    (Stage.clocked_of_lit h.2.2.1) ahead restore
  simp only [State.bankError_working h hc] at hexec
  have hworks := h
  obtain ⟨hst, hctx, -, -, -, -, -, hlevel⟩ := hworks
  have hrolls : ∀ ahead, _ := fun ahead => State.detectIn_working (e := st.bankReport n phys line ahead false)
    (by rw [(st.bankReport_names n phys line ahead false).2.1]; exact h)
    (fun v hv => by
      obtain rfl := Option.some.inj ((st.bankReport_names n phys line ahead false).2.2.1.symm.trans hv)
      exact ht) ahead
  have hthree : ∀ restore, _ := fun restore => State.escalateError_spec (x := st.bankReport n phys line false restore)
    (st.bankReport_names n phys line false restore).2.1 (st.bankReport_names n phys line false restore).2.2.1 hctx hlevel ht
  refine ⟨fun hj => ?both, fun hj hw => ?ahead, fun h1 h2 => ?lost, ?restore⟩
  case both =>
    obtain ⟨hk, hs, hv, -⟩ := st.bankReport_names n phys line false false
    obtain ⟨h1, -, h3, h4⟩ := hrolls false
    have h5 := h3 _ hv
    rw [hk] at h1 h5
    rw [hs] at h1
    have hrun := hexec false false
    rw [if_neg (by decide), if_neg (by decide), if_pos (by simpa using hj)] at hrun
    exact ⟨_, _, hrun, h1, rfl, rfl, h5, h4⟩
  case ahead =>
    obtain ⟨hk, hs, hv, he⟩ := st.bankReport_names n phys line true false
    obtain ⟨h1, h2, -, h4⟩ := hrolls true
    rw [hk, hs] at h1
    rw [he] at h2
    have hrun := hexec true false
    rw [if_neg (by decide), if_pos rfl, if_pos hj] at hrun
    refine ⟨_, _, hrun, h1, if_neg ?_, rfl, rfl, rfl, h2, h4⟩
    simpa using hw
  case lost =>
    obtain ⟨h3, h4, h5, -, h7⟩ := hthree false
    have hrun := hexec false false
    rw [if_neg (by decide), if_neg (by decide), if_neg (by simp [h1, h2])] at hrun
    rw [(st.bankReport_names n phys line false false).1] at h3
    exact ⟨_, hrun, ⟨_, _, h3, rfl, rfl, rfl, rfl, rfl⟩, h5, h7⟩
  case restore =>
    obtain ⟨h3, -⟩ := hthree true
    have hrun := hexec false true
    rw [if_pos rfl] at hrun
    rw [(st.bankReport_names n phys line false true).1] at h3
    exact ⟨_, hrun, _, _, h3, rfl, rfl, rfl, rfl, rfl⟩

/-- A squashed prefetch is told, and its row tested (R332). -/
theorem prefetchSquashError_spec (h : s.stage n = some st) (hc : st.clocked = true)
    (ht : s.testOf (rowUnit n phys line) = none) : ∃ t, exec (.prefetchSquashError n phys line) s = .next t ∧
    t.toldError (s.errBody (stageErr 0x04 n (some (rowUnit n phys line))) 0 0) ∧
    t.pendingTest (rowUnit n phys line) 0x04 ∧ t = s.errorsOf t := by
  have hexec : exec (.prefetchSquashError n phys line) s =
      .next ((s.errorEvent (stageErr 0x04 n (some (rowUnit n phys line))) 0 0).noteError
        (some (rowUnit n phys line)) 0x04 .tick) := by
    show execPrefetchSquashError n phys line s = _
    unfold execPrefetchSquashError
    rw [h]
    exact if_pos hc
  have htold := s.errorEvent_toldError (stageErr 0x04 n (some (rowUnit n phys line))) 0 0
  have hev := s.errorEvent_frame (stageErr 0x04 n (some (rowUnit n phys line))) 0 0
  refine ⟨_, hexec, ?_⟩
  generalize s.errorEvent (stageErr 0x04 n (some (rowUnit n phys line))) 0 0 = a at *
  have hta : a.testOf (rowUnit n phys line) = none := by rw [hev]; exact ht
  rw [State.noteError_new hta]
  have hpend := State.joinTest_pending hta 0x04 .tick
  have hjoin := a.joinTest_frame (rowUnit n phys line) 0x04 .tick
  generalize a.joinTest (rowUnit n phys line) 0x04 .tick = b at *
  exact ⟨by rw [hjoin]; exact htold, hpend, by rw [hjoin, hev]; rfl⟩

/-! ### Reports that reach the supervisor -/

/-- The state in which a report is taken: a stage's has crossed to its island. -/
def State.heard (s : State) (e : ErrReport) : State := if e.stage < 96 then s.xingOk (stageXid e.stage 5 0) else s

theorem State.heard_frame (s : State) (e : ErrReport) : s.heard e = { s with xings := (s.heard e).xings } := by
  unfold State.heard
  split
  · exact State.xingOk_frame ..
  · rfl

theorem exec_errorEventReceived (h1 : 1 ≤ e.kind) (h2 : e.kind ≤ 0x1B) (hr : s.inReset = false) :
    exec (.errorEventReceived e) s = .next ((s.heard e).takeError e) :=
  if_pos ⟨h1, h2, by simp [hr]⟩

/-- A report of a kind that is told alone (Table 14.1). -/
theorem State.takeError_told (h : e.kind = 0x10 ∨ e.kind = 0x17 ∨ e.kind = 0x18 ∨ e.kind = 0x19 ∨ e.kind = 0x1A) :
    s.takeError e = s.errorEvent e (if e.kind = 0x10 then 0x03 else 0x00) 0 := by
  unfold State.takeError
  rcases h with h | h | h | h | h <;> rw [h] <;> rfl

/-- A report of a kind that rolls back (Table 14.1). -/
theorem State.takeError_rolls (h : e.kind = 0x01 ∨ e.kind = 0x06 ∨ e.kind = 0x07) : s.takeError e = s.detect e := by
  unfold State.takeError
  rcases h with h | h | h <;> rw [h] <;> rfl

theorem errorEventReceived_told (hr : s.inReset = false)
    (h : e.kind = 0x10 ∨ e.kind = 0x17 ∨ e.kind = 0x18 ∨ e.kind = 0x19 ∨ e.kind = 0x1A) : ∃ t,
      exec (.errorEventReceived e) s = .next t ∧
      t.toldError (s.errBody e (if e.kind = 0x10 then 0x03 else 0x00) 0) ∧
      t = { s.recordsOf t with xings := t.xings } := by
  have hheard := s.heard_frame e
  refine ⟨_, exec_errorEventReceived (by omega) (by omega) hr, ?_⟩
  rw [State.takeError_told h]
  generalize s.heard e = u at *
  have htold := u.errorEvent_toldError e (if e.kind = 0x10 then 0x03 else 0x00) 0
  have hev := u.errorEvent_frame e (if e.kind = 0x10 then 0x03 else 0x00) 0
  generalize u.errorEvent e (if e.kind = 0x10 then 0x03 else 0x00) 0 = t at *
  have hbody : u.errBody e (if e.kind = 0x10 then 0x03 else 0x00) 0 = s.errBody e (if e.kind = 0x10 then 0x03 else 0x00) 0 :=
    State.errBody_congr (by rw [hheard]; rfl) ..
  exact ⟨hbody ▸ htold, by rw [hev, hheard]; rfl⟩

theorem errorEventReceived_rolls (hr : s.inReset = false) (hk : e.kind = 0x01 ∨ e.kind = 0x06 ∨ e.kind = 0x07)
    (h : s.working e.stage p st c) (hc : c.committing = false) (ha : e.ahead = false) (hu : e.unit = none) : ∃ t d,
      exec (.errorEventReceived e) s = .next t ∧ t.ctx p = some d ∧
      d.rollback = some { both := true, wait := s.rollStages c, aborted := [], kind := e.kind, stage := e.stage } ∧
      d.retakes = c.retakes + 1 ∧ t = { s.recordsOf t with parts := t.parts, xings := t.xings } := by
  have hheard := s.heard_frame e
  have hexec := exec_errorEventReceived (e := e) (by omega) (by omega) hr
  rw [State.takeError_rolls hk] at hexec
  generalize s.heard e = u at *
  have hw : u.working e.stage p st c := by rw [hheard]; exact h
  have hun : u.untested e := fun v hv => absurd (hu.symm.trans hv) (by simp)
  rw [State.detect_working hw hc, ha] at hexec
  obtain ⟨h1, -, -, h4⟩ := State.detectIn_working hw hun false
  obtain ⟨ht, htr⟩ := (State.detectIn_frame hun false).2.2 hu
  generalize u.detectIn e false = t at *
  refine ⟨_, _, hexec, h1, ?_, rfl, h4.trans ?_⟩
  · rw [hheard]; rfl
  · unfold State.detectedOf State.errorsOf
    rw [ht, htr, hheard]
    rfl

/-- Settles O41: each report by where its good content lies, and the rollback that it begins. -/
theorem detectedErrorsRollBack : Obligations.DetectedErrorsRollBack := by
  unfold Obligations.DetectedErrorsRollBack
  refine ⟨fun s n word bits p st c h hlive ha hc hb ht => scriptStore_rolls h hlive ha hc hb ht,
    fun s n word bits p st c h hlive hb => ?corrected, fun s n word bits st h hp => ?unassigned,
    fun s n phys line p st c h hc ht => bankUncorrectable_spec h hc ht,
    fun s n phys line st h hc ht => prefetchSquashError_spec h hc ht,
    fun s e hr => ⟨fun hk => if_neg (by omega), fun hk => errorEventReceived_told hr hk,
      fun p st c hk h hc ha hu => errorEventReceived_rolls hr hk h hc ha hu⟩⟩
  case corrected =>
    obtain ⟨hst, hctx, hl, -⟩ := h
    rw [exec_scriptStore hst hl hlive (State.of_ctxOf hst hctx).1, if_neg (by omega)]
  case unassigned =>
    show execScriptStoreUncorrectable n word bits s = _
    unfold execScriptStoreUncorrectable
    rw [h]
    exact if_neg (by simp [hp])

end Sys2Proof.Machine
end

section
/-! What the abort restores (R116, R122). -/

namespace Sys2Proof.Machine

set_option Elab.async false

open Sys2Proof

variable {b l i : Nat} {m : Cells 8}

/-! ### Line keys -/

/-- Two lines of banks share no byte. -/
theorem lineKey_disjoint {b' l' : Nat} (hl : l < 65536) (hl' : l' < 65536) (hi : i < 64)
    (h : ¬ (b' = b ∧ l' = l)) : ¬ (lineKey b' l' ≤ lineKey b l + i ∧ lineKey b l + i < lineKey b' l' + 64) := by
  unfold lineKey
  rintro ⟨h1, h2⟩
  apply h
  omega

theorem lineBytes_length (x : Line) : (lineBytes x).length = 64 := leBytes_length ..

/-- A line written reads as its bytes, and every other line as it was. -/
theorem cellGet_writeLine {x : Line} {b' l' : Nat} (hm : Memory.wf m = true) (hl : l < 65536) (hl' : l' < 65536) (hi : i < 64) :
    cellGet (cellSetList m (lineKey b' l') (lineBytes x)) (lineKey b l + i) =
      if b' = b ∧ l' = l then (lineBytes x).getD i 0 else cellGet m (lineKey b l + i) := by
  rw [cellGet_cellSetList hm, lineBytes_length]
  split
  · next h =>
    rw [if_pos (by by_contra hne; exact lineKey_disjoint hl hl' hi hne h)]
    by_contra hne
    apply hne
    have heq : b' = b ∧ l' = l := by by_contra hn; exact lineKey_disjoint hl hl' hi hn h
    rw [heq.1, heq.2]
    congr 1
    omega
  · next h =>
    rw [if_neg]
    rintro ⟨rfl, rfl⟩
    exact h ⟨by omega, by omega⟩

/-! ### Restored entries -/

/-- An entry of a line. -/
def JEntry.of (b l : Nat) (j : JEntry) : Bool := j.bank = b && j.line = l

theorem JEntry.of_iff (j : JEntry) : j.of b l = true ↔ j.bank = b ∧ j.line = l := by simp [JEntry.of]

/-- Of the entries of a line that are written back in order, the last decides what it holds. -/
theorem cellGet_restoreEntries (hl : l < 65536) (hi : i < 64) : ∀ (es : List JEntry) (m : Cells 8), Memory.wf m = true →
    (∀ j ∈ es, j.line < 65536) → cellGet (restoreEntries m es) (lineKey b l + i) =
      (es.reverse.find? (JEntry.of b l)).elim (cellGet m (lineKey b l + i)) (fun j => (lineBytes j.old).getD i 0)
  | [], _, _, _ => rfl
  | e :: es, m, hm, hes => by
    rw [restoreEntries, cellGet_restoreEntries hl hi es _ (cellSetList_wf hm) (fun j hj => hes j (List.mem_cons_of_mem _ hj)),
      cellGet_writeLine hm hl (hes e List.mem_cons_self) hi, List.reverse_cons, List.find?_append]
    cases es.reverse.find? (JEntry.of b l) with
    | some j => rfl
    | none =>
      by_cases he : e.bank = b ∧ e.line = l
      · rw [if_pos he, List.find?_cons_of_pos (JEntry.of_iff e |>.mpr he)]; rfl
      · rw [if_neg he, List.find?_cons_of_neg (fun h => he ((JEntry.of_iff e).mp h))]; rfl

variable {st : Stage}

/-- The entries of an epoch are searched as the journal is, for that epoch. -/
theorem find?_epoch (js : List JEntry) (q : JEntry → Bool) : (js.filter q).find? (JEntry.of b l) =
    js.find? (fun j => j.bank = b && j.line = l && q j) := by
  rw [List.find?_filter]
  congr 1
  funext j
  rw [Bool.eq_iff_iff]
  simp [JEntry.of, and_comm]

/-- What a line holds after both epochs are restored: the oldest pre-image of the current epoch, or else of the run-ahead
epoch. -/
theorem Stage.restore_true_line (hm : Memory.wf st.scratch = true) (hj : ∀ j ∈ st.journal, j.line < 65536) (hl : l < 65536)
    (hi : i < 64) : cellGet (st.restore true).scratch (lineKey b l + i) =
      ((st.journal.find? (fun j => j.bank = b && j.line = l && !j.ahead)).or
        (st.journal.find? (fun j => j.bank = b && j.line = l && j.ahead))).elim (cellGet st.scratch (lineKey b l + i))
          (fun j => (lineBytes j.old).getD i 0) := by
  show cellGet (restoreEntries st.scratch ((st.journal.filter JEntry.ahead).reverse ++
    (st.journal.filter (fun j => !j.ahead)).reverse)) _ = _
  rw [cellGet_restoreEntries hl hi _ _ hm, List.reverse_append, List.reverse_reverse, List.reverse_reverse,
    List.find?_append, find?_epoch, find?_epoch]
  intro j hmem
  rcases List.mem_append.mp hmem with h | h
  · exact hj j (List.mem_filter.mp (List.mem_reverse.mp h)).1
  · exact hj j (List.mem_filter.mp (List.mem_reverse.mp h)).1

/-- What a line holds after the run-ahead epoch alone is restored. -/
theorem Stage.restore_false_line (hm : Memory.wf st.scratch = true) (hj : ∀ j ∈ st.journal, j.line < 65536) (hl : l < 65536)
    (hi : i < 64) : cellGet (st.restore false).scratch (lineKey b l + i) =
      (st.journal.find? (fun j => j.bank = b && j.line = l && j.ahead)).elim (cellGet st.scratch (lineKey b l + i))
        (fun j => (lineBytes j.old).getD i 0) := by
  show cellGet (restoreEntries st.scratch ((st.journal.filter JEntry.ahead).reverse ++ [])) _ = _
  rw [List.append_nil, cellGet_restoreEntries hl hi _ _ hm, List.reverse_reverse, find?_epoch]
  intro j hmem
  exact hj j (List.mem_filter.mp (List.mem_reverse.mp hmem)).1

/-- Settles O42: of the entries of a line the last written back is the oldest of the current epoch. -/
theorem rollbackRestoresPreImages : Obligations.RollbackRestoresPreImages := by
  unfold Obligations.RollbackRestoresPreImages
  intro st b l i hm hj hl hi
  refine ⟨fun j h => ?_, fun j h h' => ?_, fun h => ?_, rfl, fun j h => ?_, fun h => ?_, rfl⟩
  · rw [Stage.restore_true_line hm hj hl hi, h]; rfl
  · rw [Stage.restore_true_line hm hj hl hi, h, h']; rfl
  · have hnone : ∀ q : JEntry → Bool, st.journal.find? (fun j => j.bank = b && j.line = l && q j) = none := fun q =>
      List.find?_eq_none.mpr fun j hmem hp => h j hmem (by simp at hp; exact hp.1)
    rw [Stage.restore_true_line hm hj hl hi, hnone, hnone]; rfl
  · rw [Stage.restore_false_line hm hj hl hi, h]; rfl
  · have hnone : st.journal.find? (fun j => j.bank = b && j.line = l && j.ahead) = none :=
      List.find?_eq_none.mpr fun j hmem hp => by
        simp at hp
        exact h j hmem hp.2 hp.1
    rw [Stage.restore_false_line hm hj hl hi, hnone]; rfl

end Sys2Proof.Machine
end

section
/-! The abort of a stage, its completion and the retake limit (R122, R124, R132, R454). -/

namespace Sys2Proof.Machine

set_option Elab.async false

open Sys2Proof

variable {s : State} {n p : Nat} {st : Stage} {c : Ctx} {rb : Rollback}

/-- Ends changed side by side: those of the sides named, each once, and nothing else of the stage. -/
theorem Stage.modLink_sides (f : Link → Link) (l : List Side) (hl : l.Nodup) (st : Stage) :
    l.foldl (fun t d => t.modLink d f) st = st.linksOf (l.foldl (fun t d => t.modLink d f) st) ∧
    ∀ d, (l.foldl (fun t d => t.modLink d f) st).link d = if d ∈ l then f (st.link d) else st.link d := by
  induction l generalizing st with
  | nil => exact ⟨rfl, fun _ => rfl⟩
  | cons a l ih =>
    obtain ⟨ha, hl'⟩ := List.nodup_cons.mp hl
    obtain ⟨hframe, hlink⟩ := ih hl' (st.modLink a f)
    refine ⟨Stage.linksOf_trans (st.modLink_linksOf a f) hframe, fun d => ?_⟩
    rw [List.foldl_cons, hlink d]
    by_cases hd : d = a
    · subst hd; simp [ha]
    · simp [hd, Stage.link_modLink_other st _ hd]

theorem State.innerSides_nodup (s : State) (n p : Nat) : (s.innerSides n p).Nodup :=
  List.Nodup.filter _ (by decide)

/-- The stage after its abort. -/
def State.abortStage (s : State) (n p : Nat) (c : Ctx) (rb : Rollback) (st : Stage) : Stage :=
  if rb.both then (s.innerSides n p).foldl (fun t d => t.modLink d Link.restart) (st.abortBoth c.reel.floor)
  else st.abortAhead (!c.inFrame)

theorem exec_rollbackAbort (h : s.stage n = some st) (hc : s.ctxOf n = some (p, c)) (hr : c.rollback = some rb)
    (hw : n ∈ rb.wait) (ha : n ∉ rb.aborted) : exec (.rollbackAbort n) s = .next
      (((s.putStage n (s.abortStage n p c rb st)).modCtx p (fun c => { c with
        rollback := some { rb with aborted := n :: rb.aborted } })).xingOk (stageXid n 3 0)) := by
  show execRollbackAbort n s = _
  unfold execRollbackAbort
  rw [h, hc]
  dsimp only
  rw [hr]
  dsimp only
  rw [if_neg (by simp [hw, ha])]
  rfl

/-- What the command leaves: the stage aborted, its context told, and crossings. -/
theorem rollbackAbort_spec (h : s.stage n = some st) (hc : s.ctxOf n = some (p, c)) (hr : c.rollback = some rb)
    (hw : n ∈ rb.wait) (ha : n ∉ rb.aborted) : ∃ t, exec (.rollbackAbort n) s = .next t ∧
      t.stage n = some (s.abortStage n p c rb st) ∧
      t.ctx p = some { c with rollback := some { rb with aborted := n :: rb.aborted } } ∧
      (∀ m, m ≠ n → t.stage m = s.stage m) ∧ t = { s with stages := t.stages, parts := t.parts, xings := t.xings } := by
  have hx := ((s.putStage n (s.abortStage n p c rb st)).modCtx p (fun c => { c with
    rollback := some { rb with aborted := n :: rb.aborted } })).xingOk_frame (stageXid n 3 0)
  refine ⟨_, exec_rollbackAbort h hc hr hw ha, ?_⟩
  generalize State.xingOk _ _ = t at *
  refine ⟨?_, ?_, fun m hm => ?_, ?_⟩
  · rw [hx]; exact State.stage_putStage _ h
  · rw [hx]
    exact State.ctx_modCtx (s := s.putStage n _) _ (show s.ctx p = some c from State.ctx_of_ctxOf hc)
  · rw [hx]; exact State.stage_putStage_other _ _ hm
  · rw [hx]; rfl

/-- The abort of both epochs on a stage: its inner splices restart, and the rest is as `abortBoth` leaves it. -/
theorem State.abortStage_both (hb : rb.both = true) :
    s.abortStage n p c rb st = (st.abortBoth c.reel.floor).linksOf (s.abortStage n p c rb st) ∧
    ∀ d, (s.abortStage n p c rb st).link d = if d ∈ s.innerSides n p then (st.link d).restart else st.link d := by
  have h := Stage.modLink_sides Link.restart _ (s.innerSides_nodup n p) (st.abortBoth c.reel.floor)
  have hlink : ∀ d, (st.abortBoth c.reel.floor).link d = st.link d := fun d => by cases d <;> rfl
  unfold State.abortStage
  rw [if_pos hb]
  exact ⟨h.1, fun d => by rw [h.2 d, hlink]⟩

/-- What the abort of both epochs clears on a stage, and what it keeps (R122, R119, R132). -/
theorem Stage.abortBoth_fields (st : Stage) (floor : Nat) :
    (st.abortBoth floor).scratch = (st.restore true).scratch ∧ (st.abortBoth floor).journal = [] ∧
    (st.abortBoth floor).flights = [] ∧ (st.abortBoth floor).staged = [] ∧ (st.abortBoth floor).acc = [] ∧
    (st.abortBoth floor).resid = [] ∧ (st.abortBoth floor).cnt = .zero ∧ (st.abortBoth floor).cntAhead = .zero ∧
    (∀ d, (st.abortBoth floor).land d = []) ∧ (st.abortBoth floor).clock = st.clock.discard floor ∧
    (st.abortBoth floor).slackNow = none ∧ (st.abortBoth floor).slackEof = none ∧
    (st.abortBoth floor).seq = { Seq.start with kind := st.seq.kind, nextKind := st.seq.kind, held := st.seq.held } ∧
    (st.abortBoth floor).script = st.script ∧ (st.abortBoth floor).traceBuf = st.traceBuf := by
  have hland : ∀ d, (st.abortBoth floor).land d = [] := fun d => by cases d <;> rfl
  unfold Stage.abortBoth at *
  dsimp only at *
  exact ⟨rfl, rfl, rfl, rfl, rfl, rfl, rfl, rfl, hland, rfl, rfl, rfl, rfl, rfl, rfl⟩

/-- A stage with other ends is the same stage besides. -/
theorem Stage.linksOf_fields (st u : Stage) :
    (st.linksOf u).scratch = st.scratch ∧ (st.linksOf u).journal = st.journal ∧ (st.linksOf u).flights = st.flights ∧
    (st.linksOf u).staged = st.staged ∧ (st.linksOf u).acc = st.acc ∧ (st.linksOf u).resid = st.resid ∧
    (st.linksOf u).cnt = st.cnt ∧ (st.linksOf u).cntAhead = st.cntAhead ∧ (∀ d, (st.linksOf u).land d = st.land d) ∧
    (st.linksOf u).clock = st.clock ∧ (st.linksOf u).slackNow = st.slackNow ∧ (st.linksOf u).slackEof = st.slackEof ∧
    (st.linksOf u).seq = st.seq ∧ (st.linksOf u).script = st.script ∧ (st.linksOf u).traceBuf = st.traceBuf :=
  ⟨rfl, rfl, rfl, rfl, rfl, rfl, rfl, rfl, fun d => by cases d <;> rfl, rfl, rfl, rfl, rfl, rfl, rfl⟩

theorem rollbackAbort_both (h : s.stage n = some st) (hc : s.ctxOf n = some (p, c)) (hr : c.rollback = some rb)
    (hw : n ∈ rb.wait) (ha : n ∉ rb.aborted) (hb : rb.both = true) :
    ∃ t u, exec (.rollbackAbort n) s = .next t ∧ t.stage n = some u ∧
      u.scratch = (st.restore true).scratch ∧ u.journal = [] ∧ u.flights = [] ∧ u.staged = [] ∧ u.acc = [] ∧
      u.resid = [] ∧ u.cnt = .zero ∧ u.cntAhead = .zero ∧ (∀ d, u.land d = []) ∧
      u.clock = st.clock.discard c.reel.floor ∧ u.slackNow = none ∧ u.slackEof = none ∧
      u.seq = { Seq.start with kind := st.seq.kind, nextKind := st.seq.kind, held := st.seq.held } ∧
      (∀ d ∈ s.innerSides n p, u.link d = (st.link d).restart) ∧
      (∀ d, d ∉ s.innerSides n p → u.link d = st.link d) ∧ u.script = st.script ∧ u.traceBuf = st.traceBuf ∧
      t.ctx p = some { c with rollback := some { rb with aborted := n :: rb.aborted } } ∧
      (∀ m, m ≠ n → t.stage m = s.stage m) ∧ t = { s with stages := t.stages, parts := t.parts, xings := t.xings } := by
  obtain ⟨t, ht, hst, hctx, hoth, hfr⟩ := rollbackAbort_spec h hc hr hw ha
  obtain ⟨hu, hlink⟩ := State.abortStage_both (s := s) (n := n) (p := p) (c := c) (st := st) hb
  obtain ⟨a1, a2, a3, a4, a5, a6, a7, a8, a9, a10, a11, a12, a13, a14, a15⟩ := st.abortBoth_fields c.reel.floor
  generalize s.abortStage n p c rb st = u at *
  generalize st.abortBoth c.reel.floor = v at *
  obtain ⟨b1, b2, b3, b4, b5, b6, b7, b8, b9, b10, b11, b12, b13, b14, b15⟩ := v.linksOf_fields u
  rw [← hu] at b1 b2 b3 b4 b5 b6 b7 b8 b9 b10 b11 b12 b13 b14 b15
  refine ⟨t, u, ht, hst, b1.trans a1, b2.trans a2, b3.trans a3, b4.trans a4, b5.trans a5, b6.trans a6, b7.trans a7,
    b8.trans a8, fun d => (b9 d).trans (a9 d), b10.trans a10, b11.trans a11, b12.trans a12, b13.trans a13, fun d hd => ?_,
    fun d hd => ?_, b14.trans a14, b15.trans a15, hctx, hoth, hfr⟩
  · rw [hlink d, if_pos hd]
  · rw [hlink d, if_neg hd]

/-- The abort of run-ahead work on a stage that ran ahead in a frame in progress. -/
theorem Stage.abortAhead_false (h : st.seq.ahead = true) : st.abortAhead false =
    { st.restore false with
      cntAhead := .zero, slackNow := none, flights := st.flights.filter (fun f => !f.ahead), acc := [], resid := []
      seq := { Seq.start with
        kind := st.seq.kind, nextKind := st.seq.nextKind, held := st.seq.held, eof := true, done := true
        final := st.seq.final, worked := st.seq.worked, spliced := st.seq.spliced, noAhead := true } } := by
  unfold Stage.abortAhead
  dsimp only
  rw [if_pos h]
  rfl

theorem exec_rollbackComplete (hc : s.ctxOf n = some (p, c)) (hr : c.rollback = some rb) :
    exec (.rollbackComplete n) s = if !rb.aborted.contains n then .next s
      else .next (s.modCtx p (fun c => { c with
        rollback := if (rb.wait.filter (fun m => m ≠ n)).isEmpty && !rb.both then none
          else some { rb with wait := rb.wait.filter (fun m => m ≠ n) } })) := by
  show execRollbackComplete n s = _
  unfold execRollbackComplete
  rw [hc]
  dsimp only
  rw [hr]

theorem exec_retakeLimit (hc : s.ctx p = some c) (hr : c.rollback = some rb) :
    exec (.retakeLimit p) s = if rb.both && decide (4 ≤ c.rolledRun) then .next (s.enterLevel3 p rb.kind rb.stage)
      else .next s := by
  show execRetakeLimit p s = _
  unfold execRetakeLimit
  rw [hc]
  dsimp only
  rw [hr]
  rfl

/-- Settles O43: the abort by its epochs, and the limit of takes. -/
theorem abortCompleteAndRetakeLimit : Obligations.AbortCompleteAndRetakeLimit := by
  unfold Obligations.AbortCompleteAndRetakeLimit
  refine ⟨fun s n p st c rb h hc hr hw ha => ⟨fun hb => rollbackAbort_both h hc hr hw ha hb, fun hb hf hah => ?ahead⟩,
    fun s n p c rb hc hr => ⟨fun ha hb => ?wait, fun ha hb hall => ?last, fun ha => ?early⟩,
    fun s p c rb hc hr hl => ⟨fun hb h4 => ?limit, fun h => ?below⟩⟩
  case ahead =>
    obtain ⟨t, ht, hst, -, hoth, hfr⟩ := rollbackAbort_spec h hc hr hw ha
    have hu : s.abortStage n p c rb st = st.abortAhead (!c.inFrame) := if_neg (by simp [hb])
    rw [hf, Bool.not_true, Stage.abortAhead_false hah] at hu
    generalize s.abortStage n p c rb st = u at *
    refine ⟨t, u, ht, hst, by rw [hu], by rw [hu]; rfl, by rw [hu]; rfl, by rw [hu], by rw [hu], by rw [hu]; rfl,
      by rw [hu], by rw [hu], fun d => ?_, fun d => ?_, by rw [hu]; rfl, by rw [hu], hoth, hfr⟩
    · rw [hu]; cases d <;> rfl
    · rw [hu]; cases d <;> rfl
  case wait =>
    rw [exec_rollbackComplete hc hr, if_neg (by simp [ha])]
    simp [hb]
  case last =>
    have hempty : (rb.wait.filter (fun m => m ≠ n)).isEmpty = true := by
      simpa [List.isEmpty_iff, List.filter_eq_nil_iff] using hall
    rw [exec_rollbackComplete hc hr, if_neg (by simp [ha])]
    rw [hempty, hb]
    rfl
  case early =>
    rw [exec_rollbackComplete hc hr, if_pos (by simp [ha])]
  case limit =>
    obtain ⟨h1, -, h3⟩ := State.enterLevel3_spec hc hl rb.kind rb.stage
    exact ⟨_, (exec_retakeLimit hc hr).trans (if_pos (by simp [hb, h4])), State.enterLevel3_atLevel3 hc hl .., h3⟩
  case below =>
    rw [exec_retakeLimit hc hr]
    refine if_neg ?_
    rcases h with h | h <;> simp [h]

end Sys2Proof.Machine
end

section
/-! Cores, step-downs of one stage and synchronised step changes (R130, R155, R156, R158, R160, R163, R167, R290). -/

namespace Sys2Proof.Machine

set_option Elab.async false

open Sys2Proof

variable {s t : State} {n p i : Nat} {st : Stage} {c : Ctx} {k : Clock} {e : ErrReport}

/-! ### The output switch -/

theorem Clock.putSpare_drive (k : Clock) (a : Core) : (k.putSpare a).drive1 = k.drive1 ∧ (k.putSpare a).drive = k.drive ∧
    (k.putSpare a).spare = a := by
  unfold Clock.putSpare
  cases h : k.drive1 <;> simp [Clock.drive, Clock.spare, h]

/-- The switch moves to the other core, and each core stays what it is. -/
theorem Clock.swap_cores (k : Clock) (gap : BitVec 16) : (k.swap gap).drive1 = (!k.drive1) ∧ (k.swap gap).drive = k.spare := by
  unfold Clock.swap
  dsimp only
  rw [Clock.report_frame]
  refine ⟨rfl, ?_⟩
  cases h : k.drive1 <;> simp [Clock.drive, Clock.spare, Clock.fallBack, h]

/-- A move of the output switch drives from what was the spare core (R158). -/
theorem Clock.switchTo_drive (k : Clock) (target : Nat) (droop : Bool) (delta : Nat) (gap : BitVec 16) :
    (k.switchTo target droop delta gap).drive1 = (!k.drive1) ∧ (k.switchTo target droop delta gap).drive = k.spare := by
  obtain ⟨h1, h2⟩ := Clock.swap_cores { k with realign := false } gap
  unfold Clock.switchTo
  dsimp only
  generalize Clock.swap { k with realign := false } gap = a at *
  obtain ⟨h3, h4, -⟩ := a.putSpare_drive (a.spare.retune target)
  generalize a.putSpare (a.spare.retune target) = b at *
  split
  · exact ⟨h3.trans h1, h4.trans h2⟩
  · exact ⟨h3.trans h1, h4.trans h2⟩

/-- A clock whose driving core is locked is not rescued. -/
theorem Clock.rescue_locked (h : k.drive.locked = true) (floor delta : Nat) (droop : Bool) (gap : BitVec 16) :
    k.rescue floor delta droop gap = k := if_neg (by simp [h])

/-- A clock whose driving core has lost lock goes on with a spare core locked at or below its step (R167). -/
theorem Clock.rescue_spare {floor : Nat} (h : k.drive.locked = false) (hs : k.spare.locked = true)
    (hle : k.spare.step ≤ k.drive.step) (hf : floor ≤ k.spare.step) (delta : Nat) (droop : Bool) (gap : BitVec 16) :
    (k.rescue floor delta droop gap).drive = k.spare ∧ (k.rescue floor delta droop gap).drive1 = (!k.drive1) ∧
    (k.rescue floor delta droop gap).downTo = none := by
  obtain ⟨h1, h2⟩ := k.switchTo_drive k.home droop delta gap
  unfold Clock.rescue
  rw [if_pos (by simp [h, hs, hle, hf])]
  exact ⟨h2, h1, rfl⟩

/-! ### What a switch does outside its stage -/

theorem State.switched_frame (s : State) (n : Nat) : s.switched n = s.endsOf (s.switched n) := by
  unfold State.switched
  exact State.endsOf_trans (s.unalign_frame n) ((s.unalign n).tellStep_spec n).2.1

theorem State.switched_self (h : s.stage n = some st) : ∃ u, (s.switched n).stage n = some u ∧ u = st.linksOf u :=
  ⟨_, ((s.unalign n).tellStep_spec n).2.2.trans (State.unalign_self h), by rw [Stage.modLinks_eq]; rfl⟩

theorem State.readyFor_frame (s : State) (n : Nat) : s.readyFor n = { s with parts := (s.readyFor n).parts } := by
  unfold State.readyFor
  split <;> rfl

theorem State.checkReady_frame (s : State) (n : Nat) : s.checkReady n = { s with parts := (s.checkReady n).parts } := by
  unfold State.checkReady
  cases s.stage n with
  | none => rfl
  | some st =>
    dsimp only
    cases st.clock.newTau with
    | none => rfl
    | some t =>
      dsimp only
      split
      · exact State.readyFor_frame ..
      · rfl

/-- A stage with another clock, other ends and other trace entries. -/
def Stage.Stepped (k : Clock) (st u : Stage) : Prop := ∃ v, v = (st.withClock k).linksOf v ∧ v.Traced u

theorem Stage.Stepped.fields {u : Stage} (h : st.Stepped k u) :
    u.clock = k ∧ u.slackNow = st.slackNow ∧ u.scratch = st.scratch := by
  obtain ⟨v, hv, hu⟩ := h
  rw [hu]
  exact ⟨by rw [hv]; rfl, by rw [hv]; rfl, by rw [hv]; rfl⟩

/-- The clock of a stage that steps down (R155). -/
def Stage.downClock (st : Stage) (delta : Nat) (gap : BitVec 16) : Clock :=
  { st.clock.switchTo st.clock.home st.droop delta gap with
    downTo := none, downFrame := true, downs := st.clock.downs + 1 }

theorem State.stepDown_eq (s : State) (n : Nat) (v : Stage) : s.stepDown n v =
    (((s.putStage n (v.withClock (v.downClock s.delta (Config.freeGap s.freeCtr)))).switched n).traceAt n false 0x06
      (((s.putStage n (v.withClock (v.downClock s.delta (Config.freeGap s.freeCtr)))).switched n).correctedStamp n)
      (v.clock.drive.step + 16 * (v.clock.drive.step - 1))).draw := rfl

theorem State.stepDown_spec (h : s.stage n = some st) (v : Stage) :
    (∃ u, (s.stepDown n v).stage n = some u ∧ v.Stepped (v.downClock s.delta (Config.freeGap s.freeCtr)) u) ∧
    s.stepDown n v = { s with
      stages := (s.stepDown n v).stages, edges := (s.stepDown n v).edges, freeCtr := (s.stepDown n v).freeCtr } := by
  have hput := State.stage_putStage (v.withClock (v.downClock s.delta (Config.freeGap s.freeCtr))) h
  have hpf : s.putStage n (v.withClock (v.downClock s.delta (Config.freeGap s.freeCtr))) =
    { s with stages := (s.putStage n (v.withClock (v.downClock s.delta (Config.freeGap s.freeCtr)))).stages } := rfl
  rw [State.stepDown_eq]
  generalize s.putStage n (v.withClock (v.downClock s.delta (Config.freeGap s.freeCtr))) = a at *
  obtain ⟨w, hw, hlinks⟩ := State.switched_self hput
  have hsw := a.switched_frame n
  generalize a.switched n = b at *
  obtain ⟨⟨u, hu, htr⟩, -, hfr⟩ := State.traceAt_spec hw false 0x06 (b.correctedStamp n)
    (v.clock.drive.step + 16 * (v.clock.drive.step - 1))
  generalize b.traceAt n false 0x06 (b.correctedStamp n) (v.clock.drive.step + 16 * (v.clock.drive.step - 1)) = d at *
  refine ⟨⟨u, hu, w, hlinks, htr⟩, ?_⟩
  rw [hfr, hsw, hpf]
  rfl

/-! ### CORE_RETUNE_LOCK -/

/-- The state after a core has locked, its clock rescued or not: a waiting step-down is made, or the switch has moved. -/
def State.locked (s : State) (n : Nat) (st : Stage) (k k1 : Clock) : State :=
  k1.downTo.elim
    (if k1.drive1 = k.drive1 then s.putStage n (st.withClock k1) else ((s.putStage n (st.withClock k1)).switched n).draw)
    (fun d => if k1.spare.locked && decide (k1.spare.step = d) && decide (d + 1 = k1.drive.step) then
      (s.putStage n (st.withClock k1)).stepDown n (st.withClock k1) else s.putStage n (st.withClock k1))

theorem exec_coreRetuneLock (h : s.stage n = some st) (hc : st.clocked = true) (hi : i ≤ 1)
    (hl : (st.clock.core i).locked = false) (hk : k = st.clock.putCore i { st.clock.core i with locked := true }) :
    exec (.coreRetuneLock n i) s = .next ((s.locked n st k
      (k.rescue (s.floorOf n) s.delta st.droop (Config.freeGap s.freeCtr))).checkReady n) := by
  subst hk
  show execCoreRetuneLock n i s = _
  unfold execCoreRetuneLock
  rw [h]
  dsimp only
  rw [if_neg (by simp [hc, hl, hi])]
  unfold State.locked
  generalize Clock.rescue _ _ _ _ _ = k1
  cases k1.downTo <;> rfl

/-! ### CORE_LOCK_LOST -/

theorem exec_coreLockLost_spare (h : s.stage n = some st) (hc : st.clocked = true) (hd : st.clock.drive1 = false)
    (hl : st.clock.core1.locked = true) : exec (.coreLockLost n 1) s = .next
      (((s.putStage n { st with clock := { st.clock with core1 := { st.clock.core1 with locked := false } } }).errorEvent
        (stageErr 0x08 n (some (.clockPath n))) 0x00 0).noteError (some (.clockPath n)) 0x08 .tick) := by
  show execCoreLockLost n 1 s = _
  unfold execCoreLockLost
  rw [h]
  dsimp only
  rw [if_neg (by simp [hc, hl, Clock.core]), if_neg (by rw [hd]; decide)]
  rfl

theorem coreLockLost_spare (h : s.stage n = some st) (hc : st.clocked = true) (hd : st.clock.drive1 = false)
    (hl : st.clock.core1.locked = true) (ht : s.testOf (.clockPath n) = none) : ∃ t, exec (.coreLockLost n 1) s = .next t ∧
    t.stage n = some { st with clock := { st.clock with core1 := { st.clock.core1 with locked := false } } } ∧
    (∃ k, t.testOf (.clockPath n) = some k ∧ k.kinds = [0x08]) ∧ t = { s.errorsOf t with stages := t.stages } := by
  have hput := State.stage_putStage
    { st with clock := { st.clock with core1 := { st.clock.core1 with locked := false } } } h
  have hpf : s.putStage n { st with clock := { st.clock with core1 := { st.clock.core1 with locked := false } } } =
    { s with stages := (s.putStage n
      { st with clock := { st.clock with core1 := { st.clock.core1 with locked := false } } }).stages } := rfl
  refine ⟨_, exec_coreLockLost_spare h hc hd hl, ?_⟩
  generalize s.putStage n { st with clock := { st.clock with core1 := { st.clock.core1 with locked := false } } } = a at *
  have hev := a.errorEvent_frame (stageErr 0x08 n (some (.clockPath n))) 0x00 0
  generalize a.errorEvent (stageErr 0x08 n (some (.clockPath n))) 0x00 0 = b at *
  have htb : b.testOf (.clockPath n) = none := by rw [hev, hpf]; exact ht
  rw [State.noteError_new htb]
  obtain ⟨j, hj, hkinds, -⟩ := State.joinTest_pending htb 0x08 .tick
  have hjoin := b.joinTest_frame (.clockPath n) 0x08 .tick
  generalize b.joinTest (.clockPath n) 0x08 .tick = t at *
  exact ⟨by rw [hjoin, hev]; exact hput, ⟨j, hj, hkinds⟩, by rw [hjoin, hev, hpf]; rfl⟩

theorem State.detect_eq (s : State) (e : ErrReport) : ∃ b, s.detect e = s.detectIn e b := by
  unfold State.detect
  split <;> exact ⟨_, rfl⟩

/-- The report of a driving core's loss of lock. -/
def Stage.lockReport (st : Stage) (n : Nat) : ErrReport :=
  { stageErr 0x07 n (some (.clockPath n)) with ahead := st.seq.ahead }

/-- A stage that can run takes a clock. -/
def Stage.takeClock (k : Clock) (st : Stage) : Stage := if st.clocked then st.withClock k else st

theorem exec_coreLockLost_drive (h : s.stage n = some st) (hc : st.clocked = true) (hd : st.clock.drive1 = false)
    (hl : st.clock.core0.locked = true) : ∃ gap, exec (.coreLockLost n 0) s = .next
      (((s.detect (st.lockReport n)).modStage n (Stage.takeClock
        (Clock.rescue { st.clock with core0 := { st.clock.core0 with locked := false } } (s.floorOf n) s.delta st.droop gap))
        ).switched n).draw := by
  refine ⟨Config.freeGap (s.detect (st.lockReport n)).freeCtr, ?_⟩
  show execCoreLockLost n 0 s = _
  unfold execCoreLockLost
  rw [h]
  dsimp only
  rw [if_neg (by simp [hc, hl, Clock.core]), if_pos (by rw [hd]; rfl)]
  rfl

theorem coreLockLost_drive (h : s.stage n = some st) (hc : st.clocked = true) (hd : st.clock.drive1 = false)
    (hl : st.clock.core0.locked = true) (hl1 : st.clock.core1.locked = true)
    (hle : st.clock.core1.step ≤ st.clock.core0.step) (hf : s.floorOf n ≤ st.clock.core1.step)
    (ht : s.testOf (.clockPath n) = none) : ∃ t u, exec (.coreLockLost n 0) s = .next t ∧ t.stage n = some u ∧
    u.clock.drive1 = true ∧ u.clock.drive.locked = true ∧ (∃ k, t.testOf (.clockPath n) = some k ∧ k.kinds = [0x07]) := by
  obtain ⟨gap, hexec⟩ := exec_coreLockLost_drive h hc hd hl
  obtain ⟨b, hb⟩ := s.detect_eq (st.lockReport n)
  have hu : s.untested (st.lockReport n) := fun v hv => by
    obtain rfl : UnitId.clockPath n = v := Option.some.inj hv
    exact ht
  obtain ⟨hframe, hpend, -⟩ := State.detectIn_frame hu b
  obtain ⟨j, hj, hkinds, -⟩ := hpend _ rfl
  obtain ⟨r1, r2, -⟩ := Clock.rescue_spare
    (k := { st.clock with core0 := { st.clock.core0 with locked := false } }) (floor := s.floorOf n)
    (by simp [Clock.drive, hd]) (by simpa [Clock.spare, hd] using hl1) (by simpa [Clock.spare, Clock.drive, hd] using hle)
    (by simpa [Clock.spare, hd] using hf) s.delta st.droop gap
  rw [hb] at hexec
  generalize s.detectIn (st.lockReport n) b = a at *
  generalize Clock.rescue _ _ _ _ _ = k1 at *
  have hst : a.stage n = some st := by rw [hframe]; exact h
  have hmod : (a.modStage n (Stage.takeClock k1)).stage n = some (st.withClock k1) :=
    (State.stage_modStage _ hst).trans (congrArg some (if_pos hc))
  have hmf : a.modStage n (Stage.takeClock k1) = { a with stages := (a.modStage n (Stage.takeClock k1)).stages } := rfl
  generalize a.modStage n (Stage.takeClock k1) = d at *
  obtain ⟨u, hu', hlinks⟩ := State.switched_self hmod
  have hsw := d.switched_frame n
  generalize d.switched n = w at *
  have hclock : u.clock = k1 := by rw [hlinks]; rfl
  refine ⟨_, u, hexec, hu', ?_, ?_, j, ?_, hkinds⟩
  · rw [hclock, r2]
    show (!st.clock.drive1) = true
    rw [hd]; rfl
  · rw [hclock, r1]
    simpa [Clock.spare, hd] using hl1
  · show w.testOf (.clockPath n) = some j
    rw [hsw, hmf]
    exact hj

/-! ### Step changes -/

theorem exec_stepBroadcast {r : StepReq} {g : Nat} (h : s.stage n = some st) (hc : s.ctxOf n = some (p, c))
    (hq : c.stepReq = some r) (hk : st.clocked = true) (ha : r.accepted = false) (hw : r.waiting.contains n = true)
    (hn : st.clock.newTau = none) (hd : st.clock.downTo = none) (hg : g = min r.code (st.fmaxDue.getD st.usable))
    (hk' : k = { st.clock with newTau := some g }) :
    exec (.stepBroadcastReceived n) s = .next
      (if st.clock.drive.step = g then
        (s.putStage n (st.withClock (if st.clock.tau ≤ g then k else k.putSpare (k.spare.retune g)))).readyFor n
      else (s.putStage n (st.withClock (k.putSpare (k.spare.retune g)))).checkReady n) := by
  have hmin : (if r.code ≤ st.fmaxDue.getD st.usable then r.code else st.fmaxDue.getD st.usable) = g := by
    rw [hg, Nat.min_def]
  subst hk'
  show execStepBroadcastReceived n s = _
  unfold execStepBroadcastReceived
  rw [h, hc]
  dsimp only
  rw [hq]
  dsimp only
  rw [if_neg (by simp [hk, ha, hn, List.contains_iff_mem.mp hw]), hmin]
  simp only [hd, Option.isSome_none, Option.isNone_none, Bool.false_or, Bool.and_true, Bool.and_eq_true, decide_eq_true_eq]
  by_cases he : st.clock.drive.step = g
  · rw [if_pos he]
    refine congrArg Host.Outcome.next ((if_pos he).trans ?_)
    by_cases ht : st.clock.tau ≤ g
    · rw [if_pos ht]
      exact congrArg (fun k => (s.putStage n (st.withClock k)).readyFor n) (if_pos ⟨he, ht⟩)
    · rw [if_neg ht]
      exact congrArg (fun k => (s.putStage n (st.withClock k)).readyFor n) (if_neg fun h => ht h.2)
  · rw [if_neg he]
    refine congrArg Host.Outcome.next ((if_neg he).trans ?_)
    exact congrArg (fun k => (s.putStage n (st.withClock k)).checkReady n) (if_neg fun h => he h.1)

theorem stepBroadcast_retunes {r : StepReq} {g : Nat} (h : s.stage n = some st) (hc : s.ctxOf n = some (p, c))
    (hq : c.stepReq = some r) (hk : st.clocked = true) (ha : r.accepted = false) (hw : r.waiting.contains n = true)
    (hn : st.clock.newTau = none) (hd : st.clock.downTo = none) (hg : g = min r.code (st.fmaxDue.getD st.usable))
    (hdr : st.clock.drive.step ≠ g) (hsp : st.clock.spare.step ≠ g) : ∃ t u,
      exec (.stepBroadcastReceived n) s = .next t ∧ t.stage n = some u ∧ u.clock.newTau = some g ∧
      u.clock.spare = { step := g, locked := false } ∧ u.clock.drive = st.clock.drive ∧
      t = { s with stages := t.stages } := by
  have hexec := exec_stepBroadcast h hc hq hk ha hw hn hd hg rfl
  rw [if_neg hdr] at hexec
  obtain ⟨-, h2, h3⟩ := Clock.putSpare_drive { st.clock with newTau := some g }
    ((Clock.spare { st.clock with newTau := some g }).retune g)
  have hnew : (Clock.putSpare { st.clock with newTau := some g }
      ((Clock.spare { st.clock with newTau := some g }).retune g)).newTau = some g := by
    unfold Clock.putSpare; split <;> rfl
  have hret : (Clock.spare { st.clock with newTau := some g }).retune g = { step := g, locked := false } := if_neg hsp
  replace h3 := h3.trans hret
  generalize Clock.putSpare { st.clock with newTau := some g }
      ((Clock.spare { st.clock with newTau := some g }).retune g) = k at *
  have hput := State.stage_putStage (st.withClock k) h
  have hready : (s.putStage n (st.withClock k)).checkReady n = s.putStage n (st.withClock k) := by
    unfold State.checkReady
    rw [hput]
    show (match k.newTau with | none => _ | some t => _) = _
    rw [hnew]
    exact if_neg (by simp [Stage.withClock, h3])
  rw [hready] at hexec
  exact ⟨_, _, hexec, hput, hnew, h3, h2, rfl⟩

theorem stepBroadcast_ready {r : StepReq} {g : Nat} (h : s.stage n = some st) (hc : s.ctxOf n = some (p, c))
    (hq : c.stepReq = some r) (hk : st.clocked = true) (ha : r.accepted = false) (hw : r.waiting.contains n = true)
    (hn : st.clock.newTau = none) (hd : st.clock.downTo = none) (hg : g = min r.code (st.fmaxDue.getD st.usable))
    (hdr : st.clock.drive.step = g) (ht : st.clock.tau ≤ g) : exec (.stepBroadcastReceived n) s = .next
      ((s.putStage n { st with clock := { st.clock with newTau := some g } }).readyFor n) := by
  rw [exec_stepBroadcast h hc hq hk ha hw hn hd hg rfl, if_pos hdr, if_pos ht]
  rfl

/-- What accepting a step leaves of a stage: what R148 notes of its frame aside, the STEP shot that waited (R130). -/
def Stage.unwait (st : Stage) : Stage := { st with seq := { st.seq with stepWait := false } }

/-- The rails of the stages that are about to drive at a higher step (R290). -/
def State.raiseAll (ns : List Nat) (s : State) : State :=
  ns.foldl (fun t n => match t.stage n with
    | none => t
    | some st => match st.clock.newTau with
      | none => t
      | some k => t.raiseFor n k) s

theorem State.raiseAll_spec (ns : List Nat) (s : State) :
    s.Each Stage.Noted (s.raiseAll ns) ∧ s.raiseAll ns = s.railedOf (s.raiseAll ns) := by
  constructor
  · refine .foldl Stage.Noted.refl Stage.Noted.trans (fun t n => ?_) ns s
    split
    · exact .refl Stage.Noted.refl t
    · split
      · exact .refl Stage.Noted.refl t
      · exact State.raiseFor_each _ _ _
  · refine foldl_rel (r := fun s t : State => t = s.railedOf t) (fun _ => rfl) State.railedOf_trans (fun t n => ?_) ns s
    split
    · rfl
    · split
      · rfl
      · exact State.raiseFor_railedOf ..

theorem exec_stepAccepted {r : StepReq} (hc : s.ctx p = some c) (hq : c.stepReq = some r) (ha : r.accepted = false)
    (hw : r.waiting = []) : exec (.stepAccepted p) s = .next (((s.modCtx p (fun c => { c with
      stepReq := some { r with accepted := true } })).modPart p Stage.unwait).raiseAll c.stages) := by
  show execStepAccepted p s = _
  unfold execStepAccepted
  rw [hc]
  dsimp only
  rw [hq]
  dsimp only
  rw [if_neg (by simp [ha, hw])]
  rfl

theorem stepAccepted_spec {r : StepReq} (hc : s.ctx p = some c) (hq : c.stepReq = some r) (ha : r.accepted = false)
    (hw : r.waiting = []) : ∃ t d, exec (.stepAccepted p) s = .next t ∧ t.ctx p = some d ∧
    d.stepReq = some { r with accepted := true } ∧
    (∀ n st, s.stage n = some st → st.part = some p → ∃ u, t.stage n = some u ∧ u.seq.stepWait = false ∧
      u.clock = { st.clock with marginOk := u.clock.marginOk }) ∧
    (∀ n st, s.stage n = some st → st.part ≠ some p → ∃ u, t.stage n = some u ∧ u = st.besideOf u) ∧
    t = { s with stages := t.stages, parts := t.parts, rails := t.rails } := by
  have hctx : ((s.modCtx p (fun c => { c with stepReq := some { r with accepted := true } })).modPart p Stage.unwait).ctx p =
    some { c with stepReq := some { r with accepted := true } } := State.ctx_modCtx _ hc
  have hst : ∀ n st, s.stage n = some st → ((s.modCtx p (fun c => { c with
      stepReq := some { r with accepted := true } })).modPart p Stage.unwait).stage n =
      some (if st.part = some p then st.unwait else st) := fun n st h =>
    (List.getElem?_map ..).trans (congrArg (Option.map _) h)
  have hbase : (s.modCtx p (fun c => { c with stepReq := some { r with accepted := true } })).modPart p Stage.unwait =
    { s with
      stages := ((s.modCtx p (fun c => { c with stepReq := some { r with accepted := true } })).modPart p Stage.unwait).stages
      parts := ((s.modCtx p (fun c => { c with stepReq := some { r with accepted := true } })).modPart p Stage.unwait).parts
      } := rfl
  have hexec := exec_stepAccepted hc hq ha hw
  generalize (s.modCtx p (fun c => { c with stepReq := some { r with accepted := true } })).modPart p Stage.unwait = a at *
  obtain ⟨heach, hframe⟩ := a.raiseAll_spec c.stages
  generalize a.raiseAll c.stages = t at *
  refine ⟨t, _, hexec, by rw [hframe]; exact hctx, rfl, fun n st h hp => ?_, fun n st h hp => ?_, ?_⟩
  · have hn := hst n st h
    rw [if_pos hp] at hn
    obtain ⟨u, hu, hnoted⟩ := heach.stage n _ hn
    exact ⟨u, hu, by rw [hnoted]; rfl, by rw [hnoted]; rfl⟩
  · have hn := hst n st h
    rw [if_neg hp] at hn
    obtain ⟨u, hu, hnoted⟩ := heach.stage n _ hn
    exact ⟨u, hu, by rw [hnoted]; rfl⟩
  · rw [hframe, hbase]; rfl

/-- Settles O27: cores lock and lose lock, and a step change is broadcast and accepted. -/
theorem coresAndOperatingSteps : Obligations.CoresAndOperatingSteps := by
  unfold Obligations.CoresAndOperatingSteps
  refine ⟨⟨fun s n i st k h hc hi hl hk => ⟨fun hd hn => ?stays, fun d hd hdt hs hstep => ?down, fun hd hs hle hf hn => ?rescued⟩,
    fun s n st h hc hd hl ht => coreLockLost_spare h hc hd hl ht,
    fun s n st h hc hd hl hl1 hle hf ht => coreLockLost_drive h hc hd hl hl1 hle hf ht⟩,
    fun s n p g st c r h hc hq hk ha hw hn hd hg =>
      ⟨fun hdr hsp => stepBroadcast_retunes h hc hq hk ha hw hn hd hg hdr hsp,
        fun hdr ht => stepBroadcast_ready h hc hq hk ha hw hn hd hg hdr ht⟩,
    fun s p c r hc hq ha hw => stepAccepted_spec hc hq ha hw⟩
  case stays =>
    rw [exec_coreRetuneLock h hc hi hl hk, Clock.rescue_locked hd]
    unfold State.locked
    rw [hn, Option.elim_none, if_pos rfl]
    rfl
  case down =>
    have hexec := exec_coreRetuneLock h hc hi hl hk
    rw [Clock.rescue_locked hd] at hexec
    unfold State.locked at hexec
    rw [hdt, Option.elim_some, if_pos (by simp [hs, hstep])] at hexec
    obtain ⟨⟨u, hu, hst⟩, -⟩ := State.stepDown_spec (State.stage_putStage (st.withClock k) h) (st.withClock k)
    obtain ⟨hclock, -, -⟩ := hst.fields
    have hready := ((s.putStage n (st.withClock k)).stepDown n (st.withClock k)).checkReady_frame n
    obtain ⟨h1, h2⟩ := k.switchTo_drive k.home (st.withClock k).droop (s.putStage n (st.withClock k)).delta
      (Config.freeGap (s.putStage n (st.withClock k)).freeCtr)
    refine ⟨_, u, hexec, by rw [hready]; exact hu, ?_⟩
    rw [hclock]
    exact ⟨h2, h1, rfl, rfl, rfl⟩
  case rescued =>
    have hexec := exec_coreRetuneLock h hc hi hl hk
    obtain ⟨h1, h2, h3⟩ := Clock.rescue_spare hd hs hle hf s.delta st.droop (Config.freeGap s.freeCtr)
    generalize k.rescue (s.floorOf n) s.delta st.droop (Config.freeGap s.freeCtr) = k1 at *
    unfold State.locked at hexec
    rw [h3, Option.elim_none, if_neg (by rw [h2]; cases k.drive1 <;> decide)] at hexec
    obtain ⟨u, hu, hlinks⟩ := State.switched_self (State.stage_putStage (st.withClock k1) h)
    have hready := ((s.putStage n (st.withClock k1)).switched n).draw.checkReady_frame n
    have hclock : u.clock = k1 := by rw [hlinks]; rfl
    refine ⟨_, u, hexec, by rw [hready]; exact hu, ?_, ?_⟩
    · rw [hclock, h1]
    · rw [hclock, h2]

end Sys2Proof.Machine
end

section
/-! Thin margin, derates and the ledger (R145, R146, R148, R149, R152, R153, R155, R156, R159). -/

namespace Sys2Proof.Machine

set_option Elab.async false

open Sys2Proof

variable {s : State} {n p f : Nat} {st v : Stage} {c : Ctx} {codes : List Nat}

/-! ### A stage put -/

theorem modAt_congr {α : Type} {l : List α} {n : Nat} {a : α} {f g : α → α} (h : l[n]? = some a) (hfg : f a = g a) :
    modAt l n f = modAt l n g := by
  refine List.ext_getElem? fun i => ?_
  by_cases hi : n = i
  · subst hi; rw [modAt_same f h, modAt_same g h, hfg]
  · rw [modAt_other f (Ne.symm hi), modAt_other g (Ne.symm hi)]

/-- A change of a stage is the stage it gives, put. -/
theorem State.modStage_put (h : s.stage n = some st) (g : Stage → Stage) : s.modStage n g = s.putStage n (g st) := by
  unfold State.putStage State.modStage
  rw [modAt_congr (g := fun _ => g st) h rfl]

theorem State.putStage_putStage (h : s.stage n = some st) (x y : Stage) : (s.putStage n x).putStage n y = s.putStage n y := by
  refine congrArg (fun l => { s with stages := l }) (List.ext_getElem? fun i => ?_)
  show (modAt (modAt s.stages n fun _ => x) n fun _ => y)[i]? = _
  by_cases hi : i = n
  · subst hi; rw [modAt_same _ (modAt_same _ h), modAt_same _ h]
  · rw [modAt_other _ hi, modAt_other _ hi, modAt_other _ hi]

/-! ### Thin margin -/

/-- The state in which the slack codes of a lit stage are judged. -/
theorem exec_thinMargin (h : s.stage n = some st) (hc : s.ctxOf n = some (p, c)) (hl : st.st = .lit)
    (hv : v = { st with slackNow := minCode st.slackNow (lowCode codes) }) : exec (.thinMargin n codes) s =
      if st.clock.halted || !thin codes then .next (s.putStage n v)
      else if st.clock.drive.step ≤ c.reel.floor then
        .next ((s.putStage n v).detect { stageErr 0x06 n (some (.clockPath n)) with ahead := st.seq.ahead })
      else if st.clock.spare.locked && decide (st.clock.spare.step + 1 = st.clock.drive.step) then
        .next (((s.putStage n v).stepDown n v).checkReady n)
      else .next ((s.putStage n v).putStage n { v with clock :=
        { st.clock.putSpare (st.clock.spare.retune (st.clock.drive.step - 1)) with
          downTo := some (st.clock.drive.step - 1) } }) := by
  have hmod : s.modStage n (fun st =>
      if st.st = .lit then { st with slackNow := minCode st.slackNow (lowCode codes) } else st) = s.putStage n v := by
    rw [State.modStage_put h, if_pos hl, hv]
  have hput := State.stage_putStage v h
  have hctx : (s.putStage n v).ctxOf n = some (p, c) := by
    rw [State.ctxOf_eq hput (by rw [hv]; exact (State.of_ctxOf h hc).1)]
    exact (State.of_ctxOf h hc).2
  show execThinMargin n codes s = _
  unfold execThinMargin
  rw [hmod]
  dsimp only
  rw [hput, hctx]
  dsimp only
  have hst : v.st = .lit := by rw [hv]; exact hl
  have hclock : v.clock = st.clock := by rw [hv]
  have hseq : v.seq = st.seq := by rw [hv]
  rw [hst, hclock, hseq]
  rfl

/-- Thin margin (R152) somewhere in the codes. -/
theorem thin_iff : ∀ codes : List Nat,
    thin codes = true ↔ ∃ i, 2 ≤ ((codes.drop i).take 8).countP (fun c => decide (c < 4))
  | [] => by simp [thin]
  | a :: codes => by
    rw [thin, Bool.or_eq_true, decide_eq_true_iff, thin_iff codes]
    constructor
    · rintro (h | ⟨i, h⟩)
      · exact ⟨0, h⟩
      · exact ⟨i + 1, h⟩
    · rintro ⟨_ | i, h⟩
      · exact .inl h
      · exact .inr ⟨i, h⟩

/-- A step-down of a lit stage on thin margin (R155). -/
theorem thinMargin_down (h : s.stage n = some st) (hc : s.ctxOf n = some (p, c)) (hl : st.st = .lit)
    (hv : v = { st with slackNow := minCode st.slackNow (lowCode codes) }) (ht : thin codes = true)
    (hh : st.clock.halted = false) (hf : c.reel.floor < st.clock.drive.step) (hs : st.clock.spare.locked = true)
    (hd : st.clock.spare.step + 1 = st.clock.drive.step) : ∃ t u, exec (.thinMargin n codes) s = .next t ∧
      t.stage n = some u ∧ u.clock.drive = st.clock.spare ∧ u.clock.downs = st.clock.downs + 1 ∧
      u.clock.downFrame = true ∧ u.clock.drive1 = !st.clock.drive1 ∧ u.slackNow = v.slackNow ∧
      u.scratch = st.scratch ∧
      t = { s with stages := t.stages, edges := t.edges, parts := t.parts, freeCtr := t.freeCtr } := by
  have hexec := exec_thinMargin h hc hl hv
  rw [if_neg (by simp [hh, ht]), if_neg (by omega), if_pos (by simp [hs, hd])] at hexec
  obtain ⟨⟨u, hu, hst⟩, hfr⟩ := State.stepDown_spec (State.stage_putStage v h) v
  obtain ⟨hclock, hslack, hscratch⟩ := hst.fields
  obtain ⟨h1, h2⟩ := v.clock.switchTo_drive v.clock.home v.droop (s.putStage n v).delta
    (Config.freeGap (s.putStage n v).freeCtr)
  have hvc : v.clock = st.clock := by rw [hv]
  have hvs : v.scratch = st.scratch := by rw [hv]
  have hpf : s.putStage n v = { s with stages := (s.putStage n v).stages } := rfl
  have hdown := v.downClock (s.putStage n v).delta (Config.freeGap (s.putStage n v).freeCtr)
  generalize (s.putStage n v).stepDown n v = a at *
  have hready := a.checkReady_frame n
  generalize a.checkReady n = t at *
  refine ⟨t, u, hexec, by rw [hready]; exact hu, ?_, ?_, ?_, ?_, hslack, hscratch.trans hvs, ?_⟩
  · rw [hclock]; exact h2.trans (by rw [hvc])
  · rw [hclock]; show v.clock.downs + 1 = _; rw [hvc]
  · rw [hclock]; rfl
  · rw [hclock]; exact h1.trans (by rw [hvc])
  · rw [hready, hfr, hpf]

theorem thinMargin_retunes (h : s.stage n = some st) (hc : s.ctxOf n = some (p, c)) (hl : st.st = .lit)
    (hv : v = { st with slackNow := minCode st.slackNow (lowCode codes) }) (ht : thin codes = true)
    (hh : st.clock.halted = false) (hf : c.reel.floor < st.clock.drive.step)
    (hd : st.clock.spare.step + 1 ≠ st.clock.drive.step) : exec (.thinMargin n codes) s = .next (s.putStage n { v with clock :=
      { st.clock.putSpare { step := st.clock.drive.step - 1, locked := false } with
        downTo := some (st.clock.drive.step - 1) } }) := by
  have hret : st.clock.spare.retune (st.clock.drive.step - 1) = { step := st.clock.drive.step - 1, locked := false } :=
    if_neg (by omega)
  rw [exec_thinMargin h hc hl hv, if_neg (by simp [hh, ht]), if_neg (by omega), if_neg (by simp [hd]), hret,
    State.putStage_putStage h]

/-! ### Derates -/

/-- A stage whose derate is noted (R148). -/
def Stage.derated (st : Stage) (day : Nat) : Stage :=
  { st with
    derates := capAt 255 (st.derates + 1), lastDerate := day, fmaxDue := some (st.usable - 1)
    clock := { st.clock with marginRun := [] }.limitTarget (st.usable - 1) }

theorem Clock.limitTarget_marginRun (k : Clock) (f : Nat) : (k.limitTarget f).marginRun = k.marginRun := by
  unfold Clock.limitTarget
  cases k.newTau with
  | none => rfl
  | some t => dsimp only; repeat' split
              all_goals rfl

theorem exec_fmaxDerate (h : s.stage n = some st) (hst : st.st ≠ .retired) (hr : 32 ≤ st.clock.marginRun.count true) :
    exec (.fmaxDerate n) s = if st.usable = 0 then .next (s.retireStage n 0x04 0x00 0x10)
      else .next (s.putStage n (st.derated s.time.dayCount.toNat)) := by
  show execFmaxDerate n s = _
  unfold execFmaxDerate
  rw [h]
  exact if_neg (by simp [hst, hr])

/-- A stage whose derate is no longer due. -/
def Stage.undue (st : Stage) : Stage := { st with fmaxDue := none }

/-- A stage whose usable fmax is no higher than `f`. -/
def Stage.lowered (f : Nat) (st : Stage) : Stage :=
  { st with
    usable := if f < st.usable then f else st.usable
    clock := st.clock.limitTarget (if f < st.usable then f else st.usable) }

/-- A lower usable fmax takes effect at a tick, and is never higher than before (R148, R149). -/
theorem State.derateTick_stage (h : s.stage n = some st) (hf : st.fmaxDue = some f) : ∃ u,
    (s.derateTick n).stage n = some u ∧ u.usable = min f st.usable ∧ u.fmaxDue = none := by
  have hmin : (if f < st.usable then f else st.usable) = min f st.usable := by
    rw [Nat.min_def]; split <;> split <;> omega
  have hstage := State.stage_modStage (Stage.lowered f) (State.stage_modStage Stage.undue h)
  unfold State.derateTick State.lowerFmax
  rw [h, Option.bind_some, hf]
  show ∃ u, State.stage (match ((s.modStage n Stage.undue).modStage n (Stage.lowered f)).ctxOf n with
    | none => (s.modStage n Stage.undue).modStage n (Stage.lowered f)
    | some (_, c) => if f < c.reel.floor then
        ((s.modStage n Stage.undue).modStage n (Stage.lowered f)).failStageCtx n 0x12
      else (s.modStage n Stage.undue).modStage n (Stage.lowered f)) n = some u ∧ _
  generalize (s.modStage n Stage.undue).modStage n (Stage.lowered f) = a at *
  have hlow : (st.undue.lowered f).usable = min f st.usable ∧ (st.undue.lowered f).fmaxDue = none := ⟨hmin, rfl⟩
  split
  · exact ⟨_, hstage, hlow⟩
  · split
    · obtain ⟨u, hu, hstop⟩ := State.failStageCtx_stage _ n 0x12 hstage
      exact ⟨u, hu, by rw [hstop]; exact hlow.1, by rw [hstop]; exact hlow.2⟩
    · exact ⟨_, hstage, hlow⟩

/-! ### The ledger -/

theorem exec_ledgerWrite (hr : s.inReset = false) (hl : s.ledgerRead = true) : exec (.ledgerWrite true) s = .next s.saveLedger :=
  if_neg (by simp [hr, hl])

/-- The ledger that a write stores next. -/
def State.nextLedger (s : State) (seq : Nat) : Ledger := { seq := seq, days := s.time.dayCount, entries := s.ledgerEntries }

theorem State.saveLedger_first {a : Ledger} (h0 : ledgerOf s.flash.ledger0 = some a)
    (h1 : ∀ b, ledgerOf s.flash.ledger1 = some b → b.seq < a.seq) :
    s.saveLedger = { s with flash := { s.flash with ledger1 := (s.nextLedger (a.seq + 1)).bytes } } := by
  have huse : ledgerInUse s.flash = some (a, false) := by
    unfold ledgerInUse
    rw [h0]
    cases hb : ledgerOf s.flash.ledger1 with
    | none => rfl
    | some b => exact if_neg (by have := h1 b hb; omega)
  unfold State.saveLedger
  rw [huse]
  rfl

theorem State.saveLedger_second {b : Ledger} (h1 : ledgerOf s.flash.ledger1 = some b)
    (h0 : ∀ a, ledgerOf s.flash.ledger0 = some a → a.seq < b.seq) :
    s.saveLedger = { s with flash := { s.flash with ledger0 := (s.nextLedger (b.seq + 1)).bytes } } := by
  have huse : ledgerInUse s.flash = some (b, true) := by
    unfold ledgerInUse
    rw [h1]
    cases ha : ledgerOf s.flash.ledger0 with
    | none => rfl
    | some a => exact if_pos (h0 a ha)
  unfold State.saveLedger
  rw [huse]
  rfl

/-- Rows of one width, read back by number. -/
theorem take_drop_flatMap {α β : Type} {g : α → List β} {w : Nat} (hg : ∀ a, (g a).length = w) :
    ∀ (xs : List α) (i : Nat) (a : α), xs[i]? = some a → ((xs.flatMap g).drop (w * i)).take w = g a
  | [], _, _, h => nomatch h
  | x :: xs, 0, a, h => by
    obtain rfl : x = a := Option.some.inj h
    rw [List.flatMap_cons, Nat.mul_zero, List.drop_zero, List.take_left' (hg x)]
  | x :: xs, i + 1, a, h => by
    rw [List.flatMap_cons, Nat.mul_succ, Nat.add_comm, ← List.drop_drop, List.drop_left' (hg x)]
    exact take_drop_flatMap hg xs i a h

theorem LedgerEntry.word_bound (e : LedgerEntry) : e.word < 2 ^ 64 := by
  unfold LedgerEntry.word
  omega

/-- A stage entry reads back from its number (Table 4.3). -/
theorem ledgerEntryOf_word {e : LedgerEntry} (h : e.fused < 16 ∧ e.usable < 16 ∧ e.derates < 256 ∧ e.fmTrans < 256 ∧
    e.reserved < 256 ∧ e.lastDay < 2 ^ 32) : ledgerEntryOf e.word = e := by
  obtain ⟨fused, usable, derates, fmTrans, reserved, lastDay⟩ := e
  obtain ⟨h1, h2, h3, h4, h5, h6⟩ := h
  simp only [LedgerEntry.word, ledgerEntryOf, bitsOf, LedgerEntry.mk.injEq] at *
  omega

/-- The 8 bytes of stage `n` in a copy. -/
def Ledger.row (l : Ledger) (n : Nat) : List Byte := leBytes 8 ((l.entries[n]?).map LedgerEntry.word |>.getD 0)

theorem Ledger.bytes_eq (l : Ledger) : l.bytes = leBytes 4 0x4C444746 ++ (leBytes 4 1 ++ (leBytes 4 l.seq ++
    (leBytes 4 l.days.toNat ++ ((List.range 96).flatMap l.row ++ (zeros 236 ++ leBytes 4 (crc32 l.body).toNat))))) := by
  show (leBytes 4 0x4C444746 ++ leBytes 4 1 ++ leBytes 4 l.seq ++ leBytes 4 l.days.toNat ++
    (List.range 96).flatMap l.row ++ zeros 236) ++ leBytes 4 (crc32 l.body).toNat = _
  simp only [List.append_assoc]

theorem Ledger.body_length (l : Ledger) : l.body.length = 1020 := by
  simp [Ledger.body, List.length_flatMap]

/-- A field past leading bytes of known length. -/
theorem fieldAt_shift (pre post : List Byte) (off w : Nat) : fieldAt (pre ++ post) (pre.length + off) w = fieldAt post off w := by
  rw [fieldAt, fieldAt, List.drop_append, List.drop_of_length_le (by omega), List.nil_append, Nat.add_sub_cancel_left]

/-- A leading field reads back as its number modulo its width. -/
theorem fieldAt_head (w v : Nat) (post : List Byte) : fieldAt (leBytes w v ++ post) 0 w = v % 256 ^ w := by
  rw [fieldAt, List.drop_zero, List.take_left' (leBytes_length w v), leNat_leBytes]

theorem Ledger.fields (l : Ledger) : fieldAt l.bytes 0 4 = 0x4C444746 ∧ fieldAt l.bytes 4 4 = 1 ∧
    fieldAt l.bytes 8 4 = l.seq % 2 ^ 32 ∧ fieldAt l.bytes 12 4 = l.days.toNat := by
  have hdays := l.days.isLt
  rw [l.bytes_eq]
  have shift := fun (w v : Nat) (post : List Byte) off => fieldAt_shift (leBytes w v) post off 4
  simp only [leBytes_length] at shift
  refine ⟨(fieldAt_head ..).trans (by decide), (shift 4 _ _ 0).trans ((fieldAt_head ..).trans (by decide)), ?_, ?_⟩
  · exact (shift 4 _ _ 4).trans ((shift 4 _ _ 0).trans (fieldAt_head ..))
  · refine (shift 4 _ _ 8).trans ((shift 4 _ _ 4).trans ((shift 4 _ _ 0).trans ((fieldAt_head ..).trans ?_)))
    exact Nat.mod_eq_of_lt hdays

/-- The number of stage `n` in a copy. -/
theorem Ledger.entry (l : Ledger) {e : LedgerEntry} (hn : n < 96) (h : l.entries[n]? = some e) :
    fieldAt l.bytes (16 + 8 * n) 8 = e.word := by
  have hrow : ∀ i, (l.row i).length = 8 := fun i => leBytes_length ..
  have hlen : ((List.range 96).flatMap l.row).length = 768 := by simp [List.length_flatMap, hrow]
  have hread : (((List.range 96).flatMap l.row).drop (8 * n)).take 8 = l.row n :=
    take_drop_flatMap hrow _ n n (by simp [hn])
  have hfield : ∀ post, fieldAt ((List.range 96).flatMap l.row ++ post) (8 * n) 8 = e.word := fun post => by
    rw [fieldAt, List.drop_append_of_le_length (by omega), List.take_append_of_le_length (by simp [hlen]; omega), hread,
      Ledger.row, h, Option.map_some, Option.getD_some, leNat_leBytes]
    exact Nat.mod_eq_of_lt e.word_bound
  rw [l.bytes_eq]
  have shift := fun (v : Nat) (post : List Byte) off => fieldAt_shift (leBytes 4 v) post off 8
  simp only [leBytes_length] at shift
  rw [show 16 + 8 * n = 4 + (4 + (4 + (4 + 8 * n))) by omega, shift, shift, shift, shift]
  exact hfield _

/-- A ledger whose fields fit reads back as it was written (R146). -/
theorem ledgerOf_bytes {l : Ledger} (hs : l.seq < 2 ^ 32) (hl : l.entries.length = 96) (he : ∀ e ∈ l.entries, e.fused < 16 ∧
    e.usable < 16 ∧ e.derates < 256 ∧ e.fmTrans < 256 ∧ e.reserved < 256 ∧ e.lastDay < 2 ^ 32) :
    ledgerOf l.bytes = some l := by
  obtain ⟨h1, h2, h3, h4⟩ := l.fields
  have hseal : sealOk 1024 l.bytes = true := sealOk_sealed 1024 l.body (by rw [l.body_length])
  have hentries : (List.range 96).map (fun n => ledgerEntryOf (fieldAt l.bytes (16 + 8 * n) 8)) = l.entries := by
    refine List.ext_getElem (by simp [hl]) fun i hi hi' => ?_
    have hget := List.getElem?_eq_getElem hi'
    rw [List.getElem_map, List.getElem_range, l.entry (by simpa using hi) hget, ledgerEntryOf_word (he _ (List.getElem_mem hi'))]
  unfold ledgerOf
  rw [if_pos ⟨h1, h2, hseal⟩, hentries, h3, h4, Nat.mod_eq_of_lt hs, BitVec.ofNat_toNat, BitVec.setWidth_eq]

/-- Settles O28: thin margin, derates, and the ledger's bytes. -/
theorem marginsDeratesAndLedger : Obligations.MarginsDeratesAndLedger := by
  unfold Obligations.MarginsDeratesAndLedger
  refine ⟨fun s n p codes st v c h hc hl hv => ⟨fun hq => ?quiet, fun ht hh =>
    ⟨fun hf hs hd => thinMargin_down h hc hl hv ht hh hf hs hd, fun hf hd => thinMargin_retunes h hc hl hv ht hh hf hd,
      fun hf => ?floor⟩⟩, thin_iff, fun s n st h hst hr hu => ?derate, fun s n f st h hf => State.derateTick_stage h hf,
    fun s n st h hst hr hu => ?retired, fun s => rfl,
    fun s hr hl => ⟨fun a h0 h1 => ?first, fun b h1 h0 => ?second⟩, fun l hs hl he => ledgerOf_bytes hs hl he⟩
  case quiet =>
    rw [exec_thinMargin h hc hl hv]
    exact if_pos (by rcases hq with hq | hq <;> simp [hq])
  case floor =>
    rw [exec_thinMargin h hc hl hv, if_neg (by simp [hh, ht]), if_pos hf]
  case derate =>
    refine ⟨_, (exec_fmaxDerate h hst hr).trans (if_neg hu), rfl, rfl, rfl, rfl, ?_, rfl⟩
    exact Clock.limitTarget_marginRun ..
  case retired =>
    obtain ⟨⟨v, hv, -⟩, -⟩ := State.retireStage_stage h hst 0x04 0x00 0x10
    exact ⟨_, _, (exec_fmaxDerate h hst hr).trans (if_pos hu), hv, rfl⟩
  case first => rw [exec_ledgerWrite hr hl, State.saveLedger_first h0 h1]; rfl
  case second => rw [exec_ledgerWrite hr hl, State.saveLedger_second h1 h0]; rfl

end Sys2Proof.Machine
end

section
/-! A write through the journal (R116, R118). -/

namespace Sys2Proof.Machine

set_option Elab.async false

open Sys2Proof

variable {st : Stage} {phys line : Nat} {l : Line}

/-- A stage with a line written in its banks. -/
def Stage.withLine (st : Stage) (phys line : Nat) (l : Line) : Stage :=
  { st with scratch := cellSetList st.scratch (lineKey phys line) (lineBytes l) }

/-- A stage with a line's content journaled. -/
def Stage.journaling (st : Stage) (ahead : Bool) (phys line : Nat) : Stage :=
  { st with journal := st.journal ++ [{ bank := phys, line := line, ahead := ahead, old := st.bankLine phys line }] }

/-- The three ways of a write through the journal (R116, R118). -/
theorem Stage.writeLine_eq (st : Stage) (ahead : Bool) (phys line : Nat) (l : Line) :
    st.writeLine ahead phys line l =
      if st.journaled phys line ahead then some (st.withLine phys line l)
      else if 4096 ≤ st.journal.countP (fun j => j.bank = phys) then none
      else some ((st.journaling ahead phys line).withLine phys line l) := rfl

/-- What bytes written from an address on read as, and every other address. -/
theorem cellGet_written {m : Cells 8} {vs : List Byte} {n a : Nat} (hm : Memory.wf m = true) (hn : vs.length = n) :
    (∀ i, i < n → cellGet (cellSetList m a vs) (a + i) = vs.getD i 0) ∧
    (∀ k, k < a ∨ a + n ≤ k → cellGet (cellSetList m a vs) k = cellGet m k) := by
  refine ⟨fun i hi => ?_, fun k hk => ?_⟩
  · rw [cellGet_cellSetList hm, if_pos (by omega), Nat.add_sub_cancel_left]
  · rw [cellGet_cellSetList hm, if_neg (by omega)]

theorem Stage.withLine_scratch (st : Stage) (phys line : Nat) (l : Line) :
    (st.withLine phys line l).scratch = cellSetList st.scratch (lineKey phys line) (lineBytes l) := by
  unfold Stage.withLine
  dsimp only

theorem Stage.withLine_frame (st : Stage) (phys line : Nat) (l : Line) :
    (st.withLine phys line l).journal = st.journal ∧ (st.withLine phys line l).acc = st.acc ∧
    (st.withLine phys line l).seq = st.seq ∧ (st.withLine phys line l).flights = st.flights := by
  unfold Stage.withLine
  exact ⟨rfl, rfl, rfl, rfl⟩

theorem Stage.journaling_frame (st : Stage) (ahead : Bool) (phys line : Nat) :
    (st.journaling ahead phys line).scratch = st.scratch ∧
    (st.journaling ahead phys line).journal =
      st.journal ++ [{ bank := phys, line := line, ahead := ahead, old := st.bankLine phys line }] ∧
    (st.journaling ahead phys line).acc = st.acc ∧ (st.journaling ahead phys line).seq = st.seq ∧
    (st.journaling ahead phys line).flights = st.flights := by
  unfold Stage.journaling
  exact ⟨rfl, rfl, rfl, rfl, rfl⟩

/-- Settles O36, by the three ways of a write: journaled already, no journal line left, or journaled now. -/
theorem journaledWrite : Obligations.JournaledWrite := by
  intro st ahead phys line l hm
  obtain ⟨hin, hout⟩ := cellGet_written (a := lineKey phys line) hm (lineBytes_length l)
  rw [Stage.writeLine_eq]
  cases hj : st.journaled phys line ahead with
  | true =>
    rw [if_pos rfl]
    refine ⟨⟨nofun, nofun⟩, fun x hx => ?_⟩
    obtain ⟨hjour, hacc, hseq, hfl⟩ := st.withLine_frame phys line l
    rw [← Option.some.inj hx, Stage.withLine_scratch]
    exact ⟨hin, hout, fun _ => hjour, nofun, hacc, hseq, hfl⟩
  | false =>
    rw [if_neg (by decide)]
    by_cases hfull : 4096 ≤ st.journal.countP (fun j => j.bank = phys)
    · rw [if_pos hfull]
      exact ⟨⟨fun _ => ⟨rfl, hfull⟩, fun _ => rfl⟩, fun _ hx => absurd hx (Option.some_ne_none _).symm⟩
    · rw [if_neg hfull]
      refine ⟨⟨nofun, fun h => absurd h.2 hfull⟩, fun x hx => ?_⟩
      obtain ⟨hjour, hacc, hseq, hfl⟩ := (st.journaling ahead phys line).withLine_frame phys line l
      obtain ⟨hscr, hjour', hacc', hseq', hfl'⟩ := st.journaling_frame ahead phys line
      rw [← Option.some.inj hx, Stage.withLine_scratch, hscr]
      rw [hjour, hjour', hacc, hacc', hseq, hseq', hfl, hfl']
      exact ⟨hin, hout, nofun, fun _ => rfl, rfl, rfl, rfl⟩

end Sys2Proof.Machine
end

section
/-! Hangs, accepted cuts and the cut tick (R485, R486, R488, R490, R492). -/

namespace Sys2Proof.Machine

set_option Elab.async false

open Sys2Proof

variable {s t : State} {n p : Nat} {st : Stage} {c : Ctx} {k : Cut} {src : CutSource}

/-! ### The crossings raised for a notice -/

/-- A crossing whose source has an event raised or held. -/
def State.raised (s : State) (xid : BitVec 16) : Prop := ∃ x ∈ s.xings, x.xid = xid ∧ (x.req = true ∨ x.pending = true)

theorem Xing.raise_raised (x : Xing) : x.raise.req = true ∨ x.raise.pending = true := by
  unfold Xing.raise
  split
  · split
    · next h => exact Or.inr h
    · exact Or.inr rfl
  · exact Or.inl rfl

theorem Xing.raise_xid (x : Xing) : x.raise.xid = x.xid := by
  unfold Xing.raise
  split
  · split <;> rfl
  · rfl

/-- Raising one crossing raises it and leaves raised ones raised. -/
theorem State.raised_putXing (s : State) (y : BitVec 16) {x : BitVec 16} (h : s.raised x ∨ x = y) :
    (s.putXing (s.xing y).raise).raised x := by
  have hid : (s.xing y).raise.xid = y := (Xing.raise_xid _).trans (s.xing_xid y)
  by_cases hxy : x = y
  · exact ⟨_, List.mem_cons_self, hid.trans hxy.symm, Xing.raise_raised _⟩
  · obtain ⟨z, hz, hzx, hr⟩ := h.resolve_right hxy
    refine ⟨z, List.mem_cons_of_mem _ (List.mem_filter.mpr ⟨hz, ?_⟩), hzx, hr⟩
    simpa [hid, hzx] using hxy

/-- Every crossing of a list is raised by raising the list. -/
theorem State.raiseXings_raised (kind : Nat) : ∀ (ns : List Nat) (s : State) {x : BitVec 16},
    s.raised x ∨ (∃ n ∈ ns, x = BitVec.ofNat 16 (n * 256 + kind * 16)) → (s.raiseXings kind ns).raised x
  | [], _, _, h => h.resolve_right (by simp)
  | m :: ns, s, x, h => by
    refine State.raiseXings_raised kind ns (s.putXing (s.xing (BitVec.ofNat 16 (m * 256 + kind * 16))).raise) ?_
    rcases h with h | ⟨n, hn, rfl⟩
    · exact Or.inl (s.raised_putXing _ (Or.inl h))
    · rcases List.mem_cons.mp hn with rfl | hn
      · exact Or.inl (s.raised_putXing _ (Or.inr rfl))
      · exact Or.inr ⟨n, hn, rfl⟩

/-! ### Hangs and accepted cuts -/

/-- A context's change depends on the context that stands there alone. -/
theorem State.modCtx_congr {f g : Ctx → Ctx} (h : s.ctx p = some c) (hfg : f c = g c) : s.modCtx p f = s.modCtx p g :=
  congrArg (fun l => { s with parts := l }) (modAt_congr (Option.join_eq_some_iff.mp h) (congrArg some hfg))

/-- A context that changes nothing stays as it is. -/
theorem Ctx.acceptCut_refused (h : c.cuttable = false) (src : CutSource) : c.acceptCut src = c :=
  if_neg (by simp [h])

/-- A request joins the cut in progress (R488). -/
theorem Ctx.acceptCut_joins (hk : c.cut = some k) (src : CutSource) :
    c.acceptCut src = { c with cut := some { k with mask := k.mask ||| cutBit src } } := by
  unfold Ctx.acceptCut Ctx.cuttable
  rw [hk]
  rfl

/-- A cut as its first request begins it (R488). -/
def Cut.begun (src : CutSource) : Cut :=
  { mask := cutBit src, fixed := false, noticed := false, told := [], stopped := [], resumed := false }

/-- The first request of a context that can be cut begins a cut (R488). -/
theorem Ctx.acceptCut_begins (hk : c.cut = none) (h : c.cuttable = true) (src : CutSource) :
    c.acceptCut src = { c with cut := some (Cut.begun src) } := by
  unfold Ctx.acceptCut
  rw [hk]
  exact if_pos h

theorem exec_cutAccept (s : State) (p : Nat) (src : CutSource) :
    exec (.cutAccept p src) s = .next (s.modCtx p (fun c => c.acceptCut src)) := rfl

theorem cutAccept_spec (hc : s.ctx p = some c) (src : CutSource) {d : Ctx} (hd : c.acceptCut src = d) :
    ∃ t, exec (.cutAccept p src) s = .next t ∧ t.ctx p = some d ∧ t = { s with parts := t.parts } :=
  ⟨_, exec_cutAccept s p src, hd ▸ State.ctx_modCtx _ hc, rfl⟩

/-- A context as a hang leaves it: named, its cut fixed, at level 1 (R486, R494). -/
def Ctx.hung (nm : Named) (now : Word) (c : Ctx) : Ctx :=
  { c with
    action := none, named := some nm, cut := c.cut.map (fun k => { k with fixed := true })
    level := some { level := 1, trigger := 0x15, start := now, stage := nm.stage } }

/-- The error event of a hang. -/
def Named.report (nm : Named) : ErrReport := { stageErr 0x15 nm.stage none with engine := nm.engine, shot := nm.shot }

theorem exec_hang (hc : s.ctx p = some c) (hcut : c.cut = none) (hable : c.cuttable = true) (hn : s.counts c = true)
    (ha : c.action.getD (s.tickActionOf c) = .wait) (hw : c.noProg + 1 = s.window) :
    exec (.hang p) s = .next (((s.errorEvent (s.nameHang c).report 0x04 0).acceptCut p .monitor).modCtx p
      (Ctx.hung (s.nameHang c) (s.errorEvent (s.nameHang c).report 0x04 0).stamp)) := by
  show execHang p s = _
  unfold execHang
  rw [hc]
  dsimp only
  exact if_pos (by simp [hcut, hable, hn, ha, hw])

theorem exec_hang_progress (hc : s.ctx p = some c) (hw : c.noProg + 1 ≠ s.window) : exec (.hang p) s = .next s := by
  show execHang p s = _
  unfold execHang
  rw [hc]
  dsimp only
  exact if_neg (by simp [hw])

/-- What a hang leaves. -/
theorem hang_spec (hc : s.ctx p = some c) (nm : Named) {u : State} (hu : u = s.recordsOf u) :
    ((u.acceptCut p .monitor).modCtx p (Ctx.hung nm u.stamp)).ctx p = some (Ctx.hung nm s.stamp (c.acceptCut .monitor)) ∧
    ((u.acceptCut p .monitor).modCtx p (Ctx.hung nm u.stamp)).dailies = u.dailies ∧
    (u.acceptCut p .monitor).modCtx p (Ctx.hung nm u.stamp) =
      { s.recordsOf ((u.acceptCut p .monitor).modCtx p (Ctx.hung nm u.stamp)) with
        parts := ((u.acceptCut p .monitor).modCtx p (Ctx.hung nm u.stamp)).parts } := by
  have hc' : u.ctx p = some c := by rw [hu]; exact hc
  have hstamp : u.stamp = s.stamp := by rw [hu]; rfl
  refine ⟨?_, rfl, ?_⟩
  · rw [hstamp]
    exact State.ctx_modCtx _ (State.ctx_modCtx _ hc')
  · rw [hu]; rfl

/-! ### The cut tick -/

/-- A context whose cut notices are sent (R490 step 2, R492). -/
def Ctx.cutNoticed (q : Port → HostPort) (p : Nat) (k : Cut) (c : Ctx) : Ctx :=
  { c with
    epoch := c.epoch + 1, cut := some { k with noticed := true }
    outs := c.outs.filter (fun o => !(q o.2.1).holds p c.id o.2.2) }

/-- A state whose ports have dropped the lines of a context that they hold (R492). -/
def State.dropLines (s : State) (p : Nat) (id : BitVec 8) : State :=
  { s with portA := s.portA.discardLines p id, portB := s.portB.discardLines p id }

theorem State.dropLines_port (s : State) (p : Nat) (id : BitVec 8) (q : Port) :
    (s.dropLines p id).port q = (s.port q).discardLines p id := by cases q <;> rfl

/-- The lit stages of a context. -/
def State.litOf (s : State) (c : Ctx) : List Nat :=
  c.stages.filter (fun n => (s.stage n).elim false (fun st => decide (st.st = .lit)))

theorem State.mem_litOf (hn : n ∈ c.stages) (h : s.stage n = some st) (hl : st.st = .lit) : n ∈ s.litOf c :=
  List.mem_filter.mpr ⟨hn, by simp [h, hl]⟩

theorem exec_cutTick {e : Ended} (hc : s.ctx p = some c) (he : c.ended = some e) (hcut : e.cut = true)
    (hk : c.cut = some k) (hno : k.noticed = false) :
    exec (.cutTick p) s = .next (((s.modCtx p (Ctx.cutNoticed s.port p k)).raiseXings 6 (s.litOf c)).dropLines p c.id) := by
  show execCutTick p s = _
  unfold execCutTick
  rw [hc]
  dsimp only
  rw [he, hk]
  dsimp only
  refine (if_neg (by simp [hcut, hno])).trans ?_
  have hlit : c.stages.filter (fun n => match s.stage n with
      | none => false
      | some st => decide (st.st = .lit)) = s.litOf c :=
    List.filter_congr fun n _ => by cases s.stage n <;> rfl
  rw [← hlit]
  rfl

theorem exec_cutTick_sent {e : Ended} (hc : s.ctx p = some c) (he : c.ended = some e) (hk : c.cut = some k)
    (hno : k.noticed = true) : exec (.cutTick p) s = .next s := by
  show execCutTick p s = _
  unfold execCutTick
  rw [hc]
  dsimp only
  rw [he, hk]
  dsimp only
  exact if_pos (by simp [hno])

/-- What the cut tick leaves. -/
theorem cutTick_spec (hc : s.ctx p = some c) (k : Cut) {u t : State}
    (hu : u = (s.modCtx p (Ctx.cutNoticed s.port p k)).raiseXings 6 (s.litOf c)) (ht : t = u.dropLines p c.id) :
    t.ctx p = some (c.cutNoticed s.port p k) ∧
    (∀ q : Port, t.port q = (s.port q).discardLines p c.id) ∧
    (∀ n ∈ c.stages, ∀ st, s.stage n = some st → st.st = .lit → t.raised (stageXid n 6 0)) ∧
    t = { s with parts := t.parts, portA := t.portA, portB := t.portB, xings := t.xings } := by
  have hframe : u = { s with parts := u.parts, xings := u.xings } := by
    rw [hu, State.raiseXings_frame]; rfl
  have hctx : u.ctx p = some (c.cutNoticed s.port p k) := by
    rw [hu, State.raiseXings_frame]
    exact State.ctx_modCtx _ hc
  have hraised : ∀ n ∈ c.stages, ∀ st, s.stage n = some st → st.st = .lit → u.raised (stageXid n 6 0) :=
    fun n hn st h hl => hu ▸ State.raiseXings_raised 6 _ _ (Or.inr ⟨n, State.mem_litOf hn h hl, rfl⟩)
  subst ht
  refine ⟨hctx, fun q => ?_, hraised, ?_⟩
  · rw [State.dropLines_port, hframe]
    cases q <;> rfl
  · unfold State.dropLines
    rw [hframe]

/-- Settles O45, by the conditions of a hang, of a request and of a cut tick in turn. -/
theorem hangAndCutTick : Obligations.HangAndCutTick := by
  refine ⟨fun s p c hc hcut => ⟨fun hable hn ha hw => ?_, exec_hang_progress hc, fun src hable => ?_⟩,
    fun s p c src hc => ⟨fun k hk => cutAccept_spec hc src (Ctx.acceptCut_joins hk src),
      fun hno => cutAccept_spec hc src (Ctx.acceptCut_refused hno src)⟩,
    fun s p c e k hc he hcut hk => ⟨fun hno => ?_, exec_cutTick_sent hc he hk⟩⟩
  · obtain ⟨hctx, hlog, hframe⟩ := hang_spec hc (s.nameHang c) (s.errorEvent_frame (s.nameHang c).report 0x04 0)
    refine ⟨_, exec_hang hc hcut hable hn ha hw, hctx.trans ?_, ?_, hframe⟩
    · rw [Ctx.acceptCut_begins hcut hable]; rfl
    · unfold State.toldError
      rw [hlog]
      exact s.errorEvent_toldError (s.nameHang c).report 0x04 0
  · exact congrArg Host.Outcome.next (State.modCtx_congr hc (Ctx.acceptCut_begins hcut hable src))
  · obtain ⟨hctx, hport, hraised, hframe⟩ := cutTick_spec hc k rfl rfl
    exact ⟨_, exec_cutTick hc he hcut hk hno, hctx, hport, hraised, hframe⟩

end Sys2Proof.Machine
end

section
/-! The bounds of the recovery levels (R495 to R498, R503). -/

namespace Sys2Proof.Machine

set_option Elab.async false

open Sys2Proof

variable {s t : State} {n p : Nat} {st : Stage} {c : Ctx} {k : Cut} {v : Level}

/-- A context at level 3 from the level below: its trigger and stage stay (R496). -/
def Ctx.raisedToThree (v : Level) (now : Word) (c : Ctx) : Ctx :=
  { c with
    level := some { level := 3, trigger := v.trigger, start := now, stage := v.stage }
    epoch := c.epoch + 1
    rollback := none
    cut := c.cut.map (fun k => { k with mask := k.mask ||| 0x20 })
    endDue := if c.ended.isSome || c.endDue.isSome then c.endDue
      else some (c.cut.isSome, 0x22, 0xFF, 0xFF) }

/-- Level 3 of a context at a lower level. -/
theorem State.enterLevel3_of_level (hc : s.ctx p = some c) (hl : c.level = some v) (hv : v.level < 3) (a m : Nat) :
    (s.enterLevel3 p a m).ctx p = some (c.raisedToThree v s.stamp) ∧
    s.enterLevel3 p a m = s.contextsOf (s.enterLevel3 p a m) := by
  unfold State.enterLevel3
  rw [hc]
  dsimp only
  rw [hl]
  dsimp only
  rw [if_neg (by omega)]
  exact ⟨State.ctx_modCtx (s := s.recovery v 1 (partMask p)) _ hc, rfl⟩

theorem Ctx.raisedToThree_atLevel3 (h : t.ctx p = some (c.raisedToThree v s.stamp)) : t.atLevel3 p c v.trigger v.stage :=
  ⟨_, _, h, rfl, rfl, rfl, rfl, rfl⟩

/-- A draw of a free byte changes its counter alone. -/
theorem State.draw_frame (s : State) : s.draw = s.contextsOf s.draw ∧ ∀ p, s.draw.ctx p = s.ctx p := ⟨rfl, fun _ => rfl⟩

/-- The stage that a context names, or 0xFF. -/
def Ctx.namedStage (c : Ctx) : Nat := match c.named with | none => 0xFF | some nm => nm.stage

/-- A context that level 1 has raised to level 2 (R495). -/
def Ctx.raisedToTwo (k : Cut) (a m : Nat) (now : Word) (c : Ctx) : Ctx :=
  { c with
    level := some { level := 2, trigger := a, start := now, stage := m }
    cut := some { k with mask := k.mask ||| 0x20 } }

/-- Level 1 with a stage that has not stopped becomes level 2. -/
theorem State.expireCut_two (hl : c.level = some v) (hres : k.resumed = false) (h : s.unstopped p c k ≠ []) :
    s.expireCut p c k =
      ((s.recovery v 1 (partMask p)).modCtx p (Ctx.raisedToTwo k v.trigger c.namedStage s.stamp)).draw := by
  unfold State.expireCut State.triggerOf
  dsimp only
  rw [hl]
  exact if_pos (by simp [h, hres])

/-- Level 1 with every stage stopped becomes level 3. -/
theorem State.expireCut_three (hl : c.level = some v) (hres : k.resumed = false) (h : s.unstopped p c k = []) :
    s.expireCut p c k = (s.enterLevel3 p v.trigger c.namedStage).draw := by
  unfold State.expireCut State.triggerOf
  dsimp only
  rw [hl, hres, h]
  rfl

theorem exec_escalation_one (hc : s.ctx p = some c) (hk : c.cut = some k) (hl : c.level = some v) (hv : v.level = 1)
    (hend : c.ended.isSome) (hn : k.noticed = true) (hrec : c.recorded = false) :
    exec (.escalationBoundExpiry 1 p) s = .next (s.expireCut p c k) := by
  show execEscalationBoundExpiry 1 p s = _
  unfold execEscalationBoundExpiry
  rw [hc]
  dsimp only
  rw [hk, hl]
  dsimp only
  exact if_pos (by simp [hv, hend, hn, hrec])

theorem exec_escalation_two (hc : s.ctx p = some c) (hk : c.cut = some k) (hl : c.level = some v) (hv : v.level = 2)
    (hres : k.resumed = false) : exec (.escalationBoundExpiry 2 p) s = .next (s.enterLevel3 p v.trigger v.stage) := by
  show execEscalationBoundExpiry 2 p s = _
  unfold execEscalationBoundExpiry
  rw [hc]
  dsimp only
  rw [hl, hk]
  dsimp only
  exact (if_neg (by simp [hv])).trans (if_neg (by simp [hres]))

theorem exec_escalation_three (hc : s.ctx p = some c) (hl : c.level = some v) (hv : v.level = 3) :
    exec (.escalationBoundExpiry 3 p) s = .next (s.enterLevel4 v.trigger v.stage) := by
  show execEscalationBoundExpiry 3 p s = _
  unfold execEscalationBoundExpiry
  rw [hc, Option.bind_some, hl]
  exact if_pos hv

theorem exec_escalation_four (h : s.level4 = some v) : exec (.escalationBoundExpiry 4 p) s = .next (s.enterLevel5 v) := by
  show execEscalationBoundExpiry 4 p s = _
  unfold execEscalationBoundExpiry
  rw [h]
  rfl

theorem exec_escalation_no_four (h : s.level4 = none) : exec (.escalationBoundExpiry 4 p) s = .next s := by
  show execEscalationBoundExpiry 4 p s = _
  unfold execEscalationBoundExpiry
  rw [h]
  rfl

theorem exec_escalation_no_level (hc : s.ctx p = some c) (hl : c.level = none) :
    exec (.escalationBoundExpiry 2 p) s = .next s ∧ exec (.escalationBoundExpiry 3 p) s = .next s := by
  refine ⟨?_, ?_⟩
  · show execEscalationBoundExpiry 2 p s = _
    unfold execEscalationBoundExpiry
    rw [hc]
    dsimp only
    rw [hl]
    rfl
  · show execEscalationBoundExpiry 3 p s = _
    unfold execEscalationBoundExpiry
    rw [hc, Option.bind_some, hl]
    rfl

/-- Level 4 stops every stage that a partition holds (R498). -/
theorem State.enterLevel4_stopped (h4 : s.level4 = none) (h5 : s.level5 = none) (a m : Nat) :
    ∀ st ∈ (s.enterLevel4 a m).stages, st.part.isSome → st.stopped = true := by
  have h : s.enterLevel4 a m = { s.supersede.stopContexts 0x23 with
      level4 := some { level := 4, trigger := a, start := s.stamp, stage := m } } := if_neg (by simp [h4, h5])
  rw [h]
  intro st hst hp
  obtain ⟨x, -, rfl⟩ := List.mem_map.mp hst
  by_cases hx : x.part.isSome
  · rw [if_pos hx]
  · rw [if_neg hx] at hp
    exact absurd hp hx

/-- Settles O47, level by level. -/
theorem levelsEscalate : Obligations.LevelsEscalate := by
  refine ⟨fun s p c k v hc hk hl => ⟨fun hv hend hn hrec hres => ⟨fun hne => ?_, fun he => ?_⟩, fun hv hres => ?_,
      fun hv h4 h5 => ?_⟩, fun s p v h => ⟨_, exec_escalation_four h, rfl, rfl, rfl, rfl⟩,
    fun s p h => exec_escalation_no_four h, fun s p c hc hl => exec_escalation_no_level hc hl⟩
  · refine ⟨_, (exec_escalation_one hc hk hl hv hend hn hrec).trans (congrArg _ (State.expireCut_two hl hres hne)), ?_, rfl⟩
    exact State.ctx_modCtx (s := s.recovery v 1 (partMask p)) _ hc
  · obtain ⟨hctx, hframe⟩ := State.enterLevel3_of_level hc hl (by omega) v.trigger c.namedStage
    refine ⟨_, (exec_escalation_one hc hk hl hv hend hn hrec).trans (congrArg _ (State.expireCut_three hl hres he)), ?_, ?_⟩
    · exact Ctx.raisedToThree_atLevel3 hctx
    · exact State.contextsOf_trans hframe (State.draw_frame _).1
  · obtain ⟨hctx, hframe⟩ := State.enterLevel3_of_level hc hl (by omega) v.trigger v.stage
    exact ⟨_, exec_escalation_two hc hk hl hv hres, Ctx.raisedToThree_atLevel3 hctx, hframe⟩
  · obtain ⟨h, hframe⟩ := State.enterLevel4_spec s v.trigger v.stage h4 h5
    exact ⟨_, exec_escalation_three hc hl hv, h, State.enterLevel4_stopped h4 h5 _ _, hframe⟩

end Sys2Proof.Machine
end

section
/-! A cut that runs to its end (R490, R492, R498, R507). -/

namespace Sys2Proof.Machine

set_option Elab.async false

open Sys2Proof

variable {s t u : State} {n p : Nat} {st : Stage} {c : Ctx} {k : Cut} {nm : Named}

/-! ### Dumps -/

/-- A dump put in the dailies, or dropped where it has no room (R507). -/
def State.putDump (s : State) (c : Ctx) (d : Dump) : State :=
  if 7335936 < s.dailies.used + d.size then
    ({ s with dailies := { s.dailies with droppedN := s.dailies.droppedN + 1 } }).logEntry 0x0C c.id c.epoch
      (leBytes 4 0xFFFFFFFF ++ leBytes 1 3)
  else
    ({ s with dailies := { s.dailies with
        used := s.dailies.used + d.size, written := s.dailies.written + 1, dumps := s.dailies.dumps ++ [d] } }).logEntry
      0x0C c.id c.epoch (leBytes 4 s.dailies.used ++ leBytes 1 d.status)

theorem State.takeDump_put (hc : s.ctx p = some c) (hnm : c.named = some nm) (hlines : s.dumpLines ≠ 0)
    (h : s.stage nm.stage = some st) (reads : DumpReads) (level : Nat) :
    ∃ d, s.takeDump p reads level = s.putDump c d := by
  unfold State.takeDump
  rw [hc]
  dsimp only
  rw [hnm]
  dsimp only
  rw [if_neg hlines, h]
  exact ⟨_, rfl⟩

/-- A dailies entry leaves the counts of dumps. -/
theorem State.logEntry_dumpCounts (s : State) (a : Nat) (b e : BitVec 8) (l : List Byte) :
    (s.logEntry a b e l).dailies.written = s.dailies.written ∧
    (s.logEntry a b e l).dailies.droppedN = s.dailies.droppedN := ⟨rfl, rfl⟩

/-- A dump is counted as written or dropped, and leaves an entry. -/
theorem State.takeDump_spec (hc : s.ctx p = some c) (hnm : c.named = some nm) (hlines : s.dumpLines ≠ 0)
    (h : s.stage nm.stage = some st) (reads : DumpReads) (level : Nat) :
    ((s.takeDump p reads level).dailies.written = s.dailies.written + 1 ∨
      (s.takeDump p reads level).dailies.droppedN = s.dailies.droppedN + 1) ∧
    (∃ e, (s.takeDump p reads level).dailies.log.getLast? = some e ∧ e.kind = 0x0C) ∧
    s.takeDump p reads level = { s with dailies := (s.takeDump p reads level).dailies } := by
  have hlog : ∀ (v : State) (b : List Byte), ∃ e, (v.logEntry 0x0C c.id c.epoch b).dailies.log.getLast? = some e ∧
      e.kind = 0x0C := fun v b => (v.logEntry_newest 0x0C c.id c.epoch b).imp fun _ h => ⟨h.1, h.2.1⟩
  obtain ⟨d, hd⟩ := State.takeDump_put hc hnm hlines h reads level
  rw [hd]
  unfold State.putDump
  by_cases hroom : 7335936 < s.dailies.used + d.size
  · rw [if_pos hroom]
    exact ⟨Or.inr (State.logEntry_dumpCounts ..).2, hlog _ _, rfl⟩
  · rw [if_neg hroom]
    exact ⟨Or.inl (State.logEntry_dumpCounts ..).1, hlog _ _, rfl⟩

/-! ### Notices and stops -/

theorem State.noticedCut_of (hc : s.ctxOf n = some (p, c)) (hk : c.cut = some k) (hno : k.noticed = true) :
    s.noticedCut n = some (p, c, k) := by
  unfold State.noticedCut
  rw [hc]
  dsimp only
  rw [hk]
  exact if_pos hno

theorem Stage.dropUnsent_link (st : Stage) (d : Side) :
    (st.dropUnsent.link d).unacked = (st.link d).unacked.take (st.link d).sent := by
  unfold Stage.dropUnsent
  rw [Stage.link_modLinks]

/-- What a stage that takes a cut notice keeps and empties (R490 step 3). -/
theorem Stage.cutStop_spec (st : Stage) : st.cutStop.flights = [] ∧ st.cutStop.staged = [] ∧
    (∀ d, st.cutStop.land d = [] ∧ (st.cutStop.link d).unacked = (st.link d).unacked.take (st.link d).sent) ∧
    st.cutStop.stopped = true ∧ st.cutStop.journal = st.journal ∧ st.cutStop.scratch = st.scratch ∧
    st.cutStop.acc = st.acc := by
  have hempty : ∀ d, st.emptyLand.link d = st.link d := fun d => by cases d <;> rfl
  unfold Stage.cutStop
  refine ⟨rfl, rfl, fun d => ⟨?_, ?_⟩, rfl, ?_⟩
  · cases d <;> simp only [Stage.dropUnsent, Stage.modLinks_eq, Stage.emptyLand, Stage.land]
  · rw [← hempty d, ← Stage.dropUnsent_link]
    cases d <;> simp only [Stage.link]
  · simp only [Stage.dropUnsent, Stage.modLinks_eq, Stage.emptyLand, and_self]

/-- A context with a stage told of its cut. -/
def Ctx.withCut (k : Cut) (c : Ctx) : Ctx := { c with cut := some k }

theorem exec_cutNotice (h : s.stage n = some st) (hc : s.ctxOf n = some (p, c)) (hk : c.cut = some k)
    (hno : k.noticed = true) (hnew : n ∉ k.told) (hl : st.st = .lit) : exec (.cutNotice n) s = .next
      (((s.putStage n st.cutStop).modCtx p (Ctx.withCut { k with told := n :: k.told })).xingOk (stageXid n 6 0)) := by
  show execCutNotice n s = _
  unfold execCutNotice
  rw [h, State.noticedCut_of hc hk hno]
  exact if_neg (by simp [hl, hnew])

theorem exec_cutNotice_ignored (h : s.stage n = some st) (hc : s.ctxOf n = some (p, c)) (hk : c.cut = some k)
    (hno : k.noticed = true) (hold : n ∈ k.told ∨ st.st ≠ .lit) : exec (.cutNotice n) s = .next s := by
  show execCutNotice n s = _
  unfold execCutNotice
  rw [h, State.noticedCut_of hc hk hno]
  exact if_pos (by rcases hold with h | h <;> simp [h])

theorem exec_cutStopped (hc : s.ctxOf n = some (p, c)) (hk : c.cut = some k) (hno : k.noticed = true)
    (htold : n ∈ k.told) (hnew : n ∉ k.stopped) (hdump : s.dumpDue c n = false) : exec (.cutStopped n) s = .next
      ((s.modStage n (fun st => { st with releasing := true })).modCtx p
        (Ctx.withCut { k with stopped := n :: k.stopped })) := by
  show execCutStopped n s = _
  unfold execCutStopped
  rw [State.noticedCut_of hc hk hno]
  exact if_neg (by simp [htold, hnew, hdump])

theorem exec_cutStopped_dumps (hc : s.ctxOf n = some (p, c)) (hk : c.cut = some k) (hno : k.noticed = true)
    (hdump : s.dumpDue c n = true) : exec (.cutStopped n) s = .next s := by
  show execCutStopped n s = _
  unfold execCutStopped
  rw [State.noticedCut_of hc hk hno]
  exact if_pos (by simp [hdump])

theorem State.dumpDue_of (hnm : c.named = some nm) (hn : nm.stage = n) (hd : nm.dumped = false) (hl : s.dumpLines ≠ 0) :
    s.dumpDue c n = true := by
  unfold State.dumpDue
  rw [hnm]
  simp [hn, hd, hl]

/-- A context whose named stage is dumped. -/
def Ctx.dumpTaken (c : Ctx) : Ctx := { c with named := c.named.map (fun nm => { nm with dumped := true }) }

theorem exec_stageDump (hc : s.ctxOf n = some (p, c)) (hk : c.cut = some k) (hno : k.noticed = true)
    (hdump : s.dumpDue c n = true) (reads : DumpReads) :
    exec (.stageDump n reads) s = .next ((s.takeDump p reads 1).modCtx p Ctx.dumpTaken) := by
  show execStageDump n reads s = _
  unfold execStageDump
  rw [State.noticedCut_of hc hk hno]
  exact if_pos hdump

/-! ### The last records -/

/-- The end of a context's records adds one of the chain, and touches no context and no stage. -/
theorem State.endRecords_frame (s : State) (p : Nat) (c : Ctx) (e : Ended) (ok : Bool) :
    s.endRecords p c e ok = { s.recordsOf (s.endRecords p c e ok) with
      flash := (s.endRecords p c e ok).flash, chain := (s.endRecords p c e ok).chain } := by
  have h := s.endRecord_frame p c e
  unfold State.endRecords
  generalize s.endRecord p c e = u at *
  rw [h]; rfl

theorem State.keepLate_recordsOf (s : State) (p : Nat) : s.keepLate p = s.recordsOf (s.keepLate p) := by
  unfold State.keepLate
  split
  · rfl
  · exact foldl_rel (r := fun s t : State => t = s.recordsOf t) (fun _ => rfl) (fun h k => by rw [k, h]; rfl)
      (fun t q => t.modPort_recordsOf ..) _ s

/-- A freed partition leaves the other contexts. -/
theorem State.freePart_ctx_other (s : State) {q : Nat} (hq : q ≠ p) : (s.freePart p).ctx q = s.ctx q := by
  have h := s.keepLate_recordsOf p
  unfold State.freePart
  generalize s.keepLate p = u at *
  rw [State.ctx_putCtx_other _ hq, h]
  rfl

/-- The recovery record of a cut that level 1 made (R498). -/
def State.levelOneDone (s : State) (p : Nat) (o : Option Level) : State :=
  o.elim s (fun v => if v.level = 1 then s.recovery v 0 (partMask p) else s)

theorem State.levelOneDone_frame (s : State) (p : Nat) (o : Option Level) :
    s.levelOneDone p o = s.recordsOf (s.levelOneDone p o) := by
  cases o with
  | none => rfl
  | some v => unfold State.levelOneDone; dsimp only [Option.elim]; split <;> rfl

theorem exec_cutComplete {e : Ended} {ok : Bool} (hc : s.ctx p = some c) (he : c.ended = some e) (hcut : e.cut = true)
    (hk : c.cut = some k) (hno : k.noticed = true) (hrec : c.recorded = false) (hr : s.allReleased p c = true)
    (hf : s.fencesCrossed p c = true) (hs : s.spinesClear c = true) : exec (.cutComplete p ok) s = .next
      (((s.endRecords p c e ok).levelOneDone p c.level).freePart p) := by
  show execCutComplete p ok s = _
  unfold execCutComplete
  rw [hc]
  dsimp only
  rw [he, hk]
  dsimp only
  refine (if_neg (by simp [hcut, hno, hrec, hr, hf, hs])).trans ?_
  cases c.level <;> rfl

theorem exec_cutComplete_waits {e : Ended} {ok : Bool} (hc : s.ctx p = some c) (he : c.ended = some e)
    (hk : c.cut = some k)
    (h : s.allReleased p c = false ∨ s.fencesCrossed p c = false ∨ s.spinesClear c = false) :
    exec (.cutComplete p ok) s = .next s := by
  show execCutComplete p ok s = _
  unfold execCutComplete
  rw [hc]
  dsimp only
  rw [he, hk]
  exact if_pos (by rcases h with h | h | h <;> simp [h])

/-- What the end of a cut leaves. -/
theorem cutComplete_spec (s : State) (p : Nat) (c : Ctx) (e : Ended) (ok : Bool) (o : Option Level)
    (ht : t = ((s.endRecords p c e ok).levelOneDone p o).freePart p) :
    t.ctx p = none ∧ (∀ u ∈ t.stages, u.part ≠ some p) ∧ (∀ q, q ≠ p → t.ctx q = s.ctx q) ∧
    t.chain.next = s.chain.next + 1 ∧
    t = { s.recordsOf t with stages := t.stages, parts := t.parts, flash := t.flash, chain := t.chain } := by
  have hrec := s.endRecords_frame p c e ok
  have hnext := s.endRecords_next p c e ok
  generalize s.endRecords p c e ok = a at *
  have hlev := a.levelOneDone_frame p o
  generalize a.levelOneDone p o = b at *
  obtain ⟨hnone, hparts, hfree⟩ := b.freePart_spec p
  have hother := fun q (hq : q ≠ p) => b.freePart_ctx_other hq
  rw [← ht] at *
  have hba : ∀ q, b.ctx q = s.ctx q := fun q => by rw [hlev, hrec]; rfl
  refine ⟨hnone, hparts, fun q hq => (hother q hq).trans (hba q), ?_, ?_⟩
  · rw [hfree, hlev]; exact hnext
  · rw [hfree, hlev, hrec]; rfl

/-- What a taken notice leaves. -/
theorem cutNotice_spec (h : s.stage n = some st) (hc : s.ctx p = some c) (k : Cut)
    (hu : u = (s.putStage n st.cutStop).modCtx p (Ctx.withCut { k with told := n :: k.told }))
    (ht : t = u.xingOk (stageXid n 6 0)) :
    t.stage n = some st.cutStop ∧ t.ctx p = some (c.withCut { k with told := n :: k.told }) ∧
    (∀ m, m ≠ n → t.stage m = s.stage m) ∧
    t = { s with stages := t.stages, parts := t.parts, xings := t.xings } := by
  have hx := u.xingOk_frame (stageXid n 6 0)
  rw [← ht] at hx
  have hself : u.stage n = some st.cutStop := hu ▸ State.stage_putStage _ h
  have hother : ∀ m, m ≠ n → u.stage m = s.stage m := fun m hm => hu ▸ State.stage_putStage_other _ _ hm
  have hctx : u.ctx p = some (c.withCut { k with told := n :: k.told }) :=
    hu ▸ State.ctx_modCtx (s := s.putStage n st.cutStop) _ hc
  have hframe : u = { s with stages := u.stages, parts := u.parts } := by rw [hu]; rfl
  exact ⟨by rw [hx]; exact hself, by rw [hx]; exact hctx, fun m hm => by rw [hx]; exact hother m hm, by rw [hx, hframe]⟩

/-- Settles O46: notices, stops and dumps of a stage, and the end of the cut. -/
theorem cutRunsToItsEnd : Obligations.CutRunsToItsEnd := by
  refine ⟨fun s n p st c k h hc hk hno => ⟨fun hnew hl => ?_, exec_cutNotice_ignored h hc hk hno,
      fun htold hnew hdump => exec_cutStopped hc hk hno htold hnew hdump, fun nm reads hnm hn hd hlines => ?_⟩,
    fun s p c e k ok hc he hcut hk hno hrec => ⟨fun hr hf hs =>
        ⟨_, exec_cutComplete hc he hcut hk hno hrec hr hf hs, cutComplete_spec s p c e ok c.level rfl⟩,
      exec_cutComplete_waits hc he hk⟩⟩
  · obtain ⟨-, hctx⟩ := State.of_ctxOf h hc
    obtain ⟨hself, hput, hother, hframe⟩ := cutNotice_spec h hctx k rfl rfl
    obtain ⟨hfl, hst, hland, hstop, hj, hscr, hacc⟩ := st.cutStop_spec
    exact ⟨_, _, exec_cutNotice h hc hk hno hnew hl, hself, hfl, hst, hland, hstop, hj, hscr, hacc, hput, hother, hframe⟩
  · obtain ⟨-, hctx⟩ := State.of_ctxOf h hc
    have hdue := State.dumpDue_of (c := c) hnm hn hd hlines
    refine ⟨exec_cutStopped_dumps hc hk hno hdue, _, exec_stageDump hc hk hno hdue reads, ?_⟩
    obtain ⟨hroom, hlog, hframe⟩ := State.takeDump_spec hctx hnm hlines (hn ▸ h) reads 1
    generalize s.takeDump p reads 1 = u at *
    have hctx' : u.ctx p = some c := by rw [hframe]; exact hctx
    refine ⟨(State.ctx_modCtx _ hctx').trans ?_, hroom, hlog, ?_⟩
    · unfold Ctx.dumpTaken
      rw [hnm]
      rfl
    · rw [hframe]; rfl

end Sys2Proof.Machine
end

section
/-! The resets of the recovery ladder (R43, R419, R496, R498, R500 to R503). -/

namespace Sys2Proof.Machine

set_option Elab.async false

open Sys2Proof

variable {s t u : State} {n p : Nat} {st : Stage} {c : Ctx} {k : Cut} {v : Level}

/-! ### The engine reset -/

/-- A link without the beats that it has not sent. -/
def Link.dropUnsent (l : Link) : Link := { l with unacked := l.unacked.take l.sent }

theorem Link.dropUnsent_twice (l : Link) : l.dropUnsent.dropUnsent = l.dropUnsent := by
  simp only [Link.dropUnsent, List.take_take, Nat.min_self]

theorem Stage.engineReset_eq (st : Stage) : st.engineReset = { st with
    linkN := st.linkN.dropUnsent, linkE := st.linkE.dropUnsent, linkS := st.linkS.dropUnsent, linkW := st.linkW.dropUnsent
    flights := [], staged := [], acc := [], resid := [], seq := .start, stopped := true, releasing := true } := by
  unfold Stage.engineReset Stage.dropUnsent
  rw [Stage.modLinks_eq]
  dsimp only [Link.dropUnsent]

theorem Stage.engineReset_twice (st : Stage) : st.engineReset.engineReset = st.engineReset := by
  rw [Stage.engineReset_eq st.engineReset, Stage.engineReset_eq st]
  simp only [Link.dropUnsent_twice]

/-- A change that nothing adds to is made once by a list that names the stage. -/
theorem State.stage_modStages_once {f : Stage → Stage} (hf : ∀ x, f (f x) = f x) {ns : List Nat} (hn : n ∈ ns)
    (h : s.stage n = some st) : (s.modStages ns f).stage n = some (f st) := by
  induction ns generalizing s st with
  | nil => exact absurd hn List.not_mem_nil
  | cons m ns ih =>
    rw [State.modStages, List.foldl_cons, ← State.modStages]
    by_cases hm : n = m
    · subst hm
      have h' := State.stage_modStage f h
      by_cases hin : n ∈ ns
      · rw [ih hin h', hf]
      · rw [State.stage_modStages_other hin, h']
    · exact ih ((List.mem_cons.mp hn).resolve_left hm) ((State.stage_modStage_other _ _ hm).trans h)

/-- A context after an engine reset of its stages that had not stopped. -/
def Ctx.resumed (k : Cut) (ns : List Nat) (c : Ctx) : Ctx :=
  { c with cut := some { k with stopped := ns ++ k.stopped, told := ns ++ k.told, resumed := true } }

theorem exec_engineReset (hc : s.ctx p = some c) (hk : c.cut = some k) (hl : c.level = some v) (hv : v.level = 2)
    (hres : k.resumed = false) : exec (.engineReset p) s = .next
      (((s.modStages (s.unstopped p c k) Stage.engineReset).modCtx p (Ctx.resumed k (s.unstopped p c k))).recovery
        v 0 (partMask p)) := by
  show execEngineReset p s = _
  unfold execEngineReset
  rw [hc]
  dsimp only
  rw [hl, hk]
  exact if_neg (by simp [hv, hres])

theorem exec_engineReset_level (hc : s.ctx p = some c) (hk : c.cut = some k) (hl : c.level = some v) (hv : v.level ≠ 2) :
    exec (.engineReset p) s = .next s := by
  show execEngineReset p s = _
  unfold execEngineReset
  rw [hc]
  dsimp only
  rw [hl, hk]
  exact if_pos (by simp [hv])

/-! ### What a partition reset may change besides its context -/

/-- Everything but stages, links, records, tests, carrier flash and the floor pin is as it was. -/
def State.bodyOf (s t : State) : State :=
  { s.errorsOf t with stages := t.stages, edges := t.edges, pins := t.pins, flash := t.flash }

theorem State.bodyOf_refl (s : State) : s = s.bodyOf s := rfl

theorem State.bodyOf_trans (h : t = s.bodyOf t) (j : u = t.bodyOf u) : u = s.bodyOf u := by
  rw [j, h]; rfl

theorem State.bodyOf_foldl {α : Type} {f : State → α → State} (hf : ∀ t x, f t x = t.bodyOf (f t x)) (l : List α)
    (s : State) : l.foldl f s = s.bodyOf (l.foldl f s) :=
  foldl_rel (r := fun s t => t = s.bodyOf t) State.bodyOf_refl State.bodyOf_trans hf l s

theorem State.modStage_bodyOf (s : State) (n : Nat) (f : Stage → Stage) : s.modStage n f = s.bodyOf (s.modStage n f) := rfl

theorem State.modAllAcross_bodyOf (s : State) (n : Nat) (f : Link → Link) :
    s.modAllAcross n f = s.bodyOf (s.modAllAcross n f) := by
  rw [State.modAllAcross_frame]; rfl

theorem State.restartSplices_bodyOf (s : State) (n : Nat) : s.restartSplices n = s.bodyOf (s.restartSplices n) := by
  have htell : ∀ t : State, t.tellStep n = t.bodyOf (t.tellStep n) := fun t => by
    unfold State.tellStep
    split
    · rfl
    · exact t.modAllAcross_bodyOf ..
  exact State.bodyOf_trans (s.modStage_bodyOf n (fun u => u.modLinks Link.restart))
    (State.bodyOf_trans (State.modAllAcross_bodyOf _ n _) (htell _))

theorem State.putDump_frame (s : State) (c : Ctx) (d : Dump) :
    s.putDump c d = { s with dailies := (s.putDump c d).dailies } := by
  unfold State.putDump
  split <;> rfl

theorem State.takeDump_dailies (s : State) (p : Nat) (r : DumpReads) (l : Nat) :
    s.takeDump p r l = { s with dailies := (s.takeDump p r l).dailies } := by
  have hself : s.takeDump p r l = s → s.takeDump p r l = { s with dailies := (s.takeDump p r l).dailies } := fun h => by
    rw [h]
  cases hc : s.ctx p with
  | none => exact hself (by unfold State.takeDump; rw [hc])
  | some c =>
    cases hn : c.named with
    | none => exact hself (by unfold State.takeDump; rw [hc]; dsimp only; rw [hn])
    | some nm =>
      by_cases hl : s.dumpLines = 0
      · exact hself (by unfold State.takeDump; rw [hc]; dsimp only; rw [hn]; exact if_pos hl)
      · cases h : s.stage nm.stage with
        | none => exact hself (by unfold State.takeDump; rw [hc]; dsimp only; rw [hn]; dsimp only; rw [if_neg hl, h])
        | some st =>
          obtain ⟨d, hd⟩ := State.takeDump_put hc hn hl h r l
          rw [hd]
          exact s.putDump_frame c d

theorem State.hangTest_frame (s : State) (c : Ctx) : s.hangTest c = { s with tests := (s.hangTest c).tests } := by
  unfold State.hangTest
  split
  · rfl
  · split
    · rfl
    · split
      · exact s.startTest_frame ..
      · rfl

theorem State.retirement_bodyOf (s : State) (b : RetBody) : (s.retirement b).checkFloor = s.bodyOf (s.retirement b).checkFloor := by
  have h := s.retirement_frame b
  unfold State.checkFloor
  generalize s.retirement b = u at *
  rw [h]; rfl

theorem State.holdStage_bodyOf (s : State) (n k : Nat) : s.holdStage n k = s.bodyOf (s.holdStage n k) := by
  unfold State.holdStage
  split
  · rfl
  · split
    · rfl
    · exact State.bodyOf_trans (s.modStage_bodyOf n _) (State.bodyOf_trans (State.modAllAcross_bodyOf _ n Link.mark)
        (State.retirement_bodyOf ..))

theorem State.holdBroken_bodyOf (s : State) (o : Option Nat) : s.holdBroken o = s.bodyOf (s.holdBroken o) := by
  refine State.bodyOf_foldl (fun t x => ?_) _ s
  dsimp only
  split
  · rfl
  · refine State.bodyOf_foldl (fun t n => ?_) _ t
    split
    · rfl
    · split
      · exact t.holdStage_bodyOf ..
      · rfl

theorem State.flushTrace_bodyOf (fuel : Nat) (s : State) (n : Nat) : s.flushTrace n fuel = s.bodyOf (s.flushTrace n fuel) := by
  induction fuel generalizing s with
  | zero => rfl
  | succ fuel ih =>
    rw [State.flushTrace]
    split
    · split
      · rfl
      · exact State.bodyOf_trans rfl (ih _)
    · rfl

theorem State.releaseNow_bodyOf (s : State) (n : Nat) : s.releaseNow n = s.bodyOf (s.releaseNow n) := by
  have hlit : ∀ o : Option Stage, (match o with
      | none => s
      | some st => if st.st = .dark then s.makeLit n else s) = s.bodyOf (match o with
      | none => s
      | some st => if st.st = .dark then s.makeLit n else s) := fun o => by
    have h := (s.makeLit_frame n).1
    cases o with
    | none => rfl
    | some st =>
      dsimp only
      split
      · rw [h]; rfl
      · rfl
  unfold State.releaseNow
  exact State.bodyOf_trans (hlit _) (State.bodyOf_trans (State.flushTrace_bodyOf ..) (State.modStage_bodyOf ..))

/-! ### The partition reset -/

/-- A partition's stages after its logic reset, before its last records (R500). -/
def State.partReset (s : State) (p : Nat) (c : Ctx) (reads : DumpReads) : State :=
  let own := c.stages.filter (fun n => !s.gone p c n)
  own.foldl State.releaseNow ((own.foldl (fun t n =>
    (t.modStage n (fun st => st.logicReset (c.tau st) c.reel.floor)).restartSplices n)
      ((s.takeDump p reads 3).hangTest c)).holdBroken (some p))

theorem State.partReset_bodyOf (s : State) (p : Nat) (c : Ctx) (r : DumpReads) : s.partReset p c r = s.bodyOf (s.partReset p c r) := by
  have hd : s.takeDump p r 3 = s.bodyOf (s.takeDump p r 3) := by rw [State.takeDump_dailies]; rfl
  have ht : ∀ t : State, t.hangTest c = t.bodyOf (t.hangTest c) := fun t => by rw [State.hangTest_frame]; rfl
  exact State.bodyOf_trans hd (State.bodyOf_trans (ht _) (State.bodyOf_trans
    (State.bodyOf_foldl (fun t n => State.bodyOf_trans (t.modStage_bodyOf n _) (State.restartSplices_bodyOf _ n)) _ _)
    (State.bodyOf_trans (State.holdBroken_bodyOf ..) (State.bodyOf_foldl (fun t n => t.releaseNow_bodyOf n) _ _))))

/-- The last records of a reset partition, unless they have been given (R419). -/
def State.partRecords (s : State) (p : Nat) (c : Ctx) (ok : Bool) : State :=
  if c.recorded then s else s.endRecords p (c.noteTick s.numCtx) (s.endedOf c 0x22) ok

theorem State.partRecords_frame (s : State) (p : Nat) (c : Ctx) (ok : Bool) :
    s.partRecords p c ok = { s.recordsOf (s.partRecords p c ok) with
      flash := (s.partRecords p c ok).flash, chain := (s.partRecords p c ok).chain } := by
  unfold State.partRecords
  split
  · rfl
  · exact s.endRecords_frame ..

theorem exec_partitionReset (hc : s.ctx p = some c) (hl : c.level = some v) (hv : v.level = 3) (ok : Bool) :
    ∃ r, exec (.partitionReset p ok) s = .next
      (((((s.partReset p c r).partRecords p c ok).freePart p).recovery v 0 (partMask p)).freeWaits p) := by
  have h : exec (.partitionReset p ok) s = execPartitionReset p ok s := rfl
  unfold execPartitionReset at h
  rw [hc] at h
  dsimp only at h
  rw [hl] at h
  dsimp only at h
  rw [if_neg (by simp [hv])] at h
  exact ⟨_, h⟩

theorem exec_partitionReset_level (hc : s.ctx p = some c) (hl : c.level = some v) (hv : v.level ≠ 3) (ok : Bool) :
    exec (.partitionReset p ok) s = .next s := by
  show execPartitionReset p ok s = _
  unfold execPartitionReset
  rw [hc]
  dsimp only
  rw [hl]
  exact if_pos hv

theorem partitionReset_spec (s : State) (p : Nat) (c : Ctx) (r : DumpReads) (v : Level) (ok : Bool)
    (ht : t = ((((s.partReset p c r).partRecords p c ok).freePart p).recovery v 0 (partMask p)).freeWaits p) :
    t.ctx p = none ∧ (∀ u ∈ t.stages, u.part ≠ some p) ∧ (∀ q, q ≠ p → t.ctx q = s.ctx q) ∧
    (c.recorded = false → t.chain.next = s.chain.next + 1) ∧ t.level4 = s.level4 ∧
    t = { s.retirementOf t with chain := t.chain } := by
  have hbody := s.partReset_bodyOf p c r
  generalize s.partReset p c r = a at *
  have hrec := a.partRecords_frame p c ok
  have hnext : c.recorded = false → (a.partRecords p c ok).chain.next = a.chain.next + 1 := fun h => by
    unfold State.partRecords
    rw [if_neg (by simp [h])]
    exact a.endRecords_next ..
  generalize a.partRecords p c ok = b at *
  obtain ⟨hnone, hparts, hfree⟩ := b.freePart_spec p
  have hother := fun q (hq : q ≠ p) => b.freePart_ctx_other hq
  generalize b.freePart p = d at *
  have hend : t = { d.recordsOf t with tests := t.tests } := by rw [ht]; rfl
  have hctx : ∀ q, t.ctx q = d.ctx q := fun q => by rw [hend]; rfl
  have hb : ∀ q, b.ctx q = s.ctx q := fun q => by rw [hrec, hbody]; rfl
  refine ⟨(hctx p).trans hnone, by rw [hend]; exact hparts, fun q hq => (hctx q).trans ((hother q hq).trans (hb q)),
    fun h => ?_, by rw [hend, hfree, hrec, hbody]; rfl, ?_⟩
  · have hta : t.chain = b.chain := by rw [hend, hfree]; rfl
    have has : a.chain = s.chain := by rw [hbody]; rfl
    rw [hta, hnext h, has]
  · rw [hend, hfree, hrec, hbody]; rfl

/-! ### The chip compute reset -/

/-- Every stage at the logic reset of a chip compute reset (R501). -/
def State.chipReset (s : State) : State :=
  (List.range numStages).foldl (fun t n =>
    let u : State := t.modStage n (fun st => st.logicReset st.clock.tau (t.floorOf n))
    match t.stage n with
    | none => u
    | some st => if st.clocked then u.restartSplices n else u) (s.dumpLevels 4)

/-- Every partition's stages released at once. -/
def State.releaseParts (s : State) : State :=
  (List.range numStages).foldl (fun t n => match t.stage n with
    | none => t
    | some st => if st.part.isSome then t.releaseNow n else t) s

/-- The end of a chip compute reset: every context's records, its waits and its partition. -/
def State.endChip (s : State) (ok : Bool) : State := (partNumbers.foldl State.freeWaits (s.recordContexts ok)).freeAll

theorem State.chipReset_frame (s : State) : s.chipReset = s.retirementOf s.chipReset := by
  have hb : ∀ {t u : State}, u = t.bodyOf u → u = t.retirementOf u := fun h => by rw [h]; rfl
  have hd := s.dumpLevels_contextsOf 4
  unfold State.chipReset
  generalize s.dumpLevels 4 = a at *
  have ha : a = s.retirementOf a := by rw [hd]; rfl
  refine State.retirementOf_trans ha (hb (State.bodyOf_foldl (fun t n => ?_) _ _))
  dsimp only
  split
  · rfl
  · split
    · exact State.bodyOf_trans (t.modStage_bodyOf n _) (State.restartSplices_bodyOf _ n)
    · rfl

theorem State.releaseParts_bodyOf (s : State) : s.releaseParts = s.bodyOf s.releaseParts := by
  unfold State.releaseParts
  refine State.bodyOf_foldl (fun t n => ?_) _ _
  split
  · rfl
  · split
    · exact t.releaseNow_bodyOf n
    · rfl

theorem State.endChip_frame (s : State) (ok : Bool) :
    s.endChip ok = { s.retirementOf (s.endChip ok) with chain := (s.endChip ok).chain } := by
  have hrec := s.recordContexts_endingOf ok
  unfold State.endChip
  generalize s.recordContexts ok = a at *
  have hwait : partNumbers.foldl State.freeWaits a = { a with tests := (partNumbers.foldl State.freeWaits a).tests } :=
    foldl_rel (r := fun s t : State => t = { s with tests := t.tests }) (fun _ => rfl) (fun h k => by rw [k, h])
      (fun _ _ => rfl) _ _
  generalize partNumbers.foldl State.freeWaits a = b at *
  have hfree := b.freeAll_contextsOf
  generalize b.freeAll = d at *
  rw [hfree, hwait, hrec]; rfl

/-- The state of a chip compute reset before level 4 ends. -/
def State.chipEnded (s : State) (kind : Nat) (us : List UnitId) (ok : Bool) : State :=
  ((us.foldl (fun t u => t.resetFails kind u) s.chipReset).releaseParts).endChip ok

/-- Level 4 over, with its record. -/
def State.levelFourDone (s : State) (v : Level) (m : BitVec 8) : State :=
  { s with level4 := none, spineOut := [] }.recovery v 0 m

theorem exec_chipComputeReset (h : s.level4 = some v) (us : List UnitId) (ok : Bool) :
    ∃ kind, exec (.chipComputeReset us ok) s = .next ((s.chipEnded kind us ok).levelFourDone v s.allMask) := by
  have hx : exec (.chipComputeReset us ok) s = execChipComputeReset us ok s := rfl
  unfold execChipComputeReset at hx
  rw [h] at hx
  dsimp only at hx
  unfold State.chipEnded State.chipReset State.releaseParts State.endChip State.levelFourDone
  exact ⟨_, hx⟩

theorem exec_chipComputeReset_none (h : s.level4 = none) (us : List UnitId) (ok : Bool) :
    exec (.chipComputeReset us ok) s = .next s := by
  show execChipComputeReset us ok s = _
  unfold execChipComputeReset
  rw [h]

theorem State.levelFourDone_spec (s : State) (v : Level) (m : BitVec 8) :
    (s.levelFourDone v m).level4 = none ∧ (s.levelFourDone v m).spineOut = [] ∧
    (s.levelFourDone v m).parts = s.parts ∧
    (∃ e, (s.levelFourDone v m).dailies.log.getLast? = some e ∧ e.kind = 0x0B) ∧
    s.levelFourDone v m = { s.recordsOf (s.levelFourDone v m) with level4 := none, spineOut := [] } := by
  refine ⟨rfl, rfl, rfl, ?_, rfl⟩
  obtain ⟨e, he, hk, -⟩ := State.log_newest ({ s with level4 := none, spineOut := [] }.emit 0 0 (.recovery
    { level := v.level, outcome := 0, trigger := v.trigger, parts := m, stage := v.stage
      start := v.start, stop := s.stamp })) 0x0B (recovBytes
    { level := v.level, outcome := 0, trigger := v.trigger, parts := m, stage := v.stage
      start := v.start, stop := s.stamp })
  exact ⟨e, he, hk⟩

theorem chipComputeReset_frame (kind : Nat) (m : BitVec 8) (ok : Bool) (ht : t = (s.chipEnded kind [] ok).levelFourDone v m) :
    t = { s.retirementOf t with chain := t.chain, level4 := none, spineOut := [] } := by
  have hreset := s.chipReset_frame
  have hended : s.chipEnded kind [] ok = (s.chipReset.releaseParts).endChip ok := by
    unfold State.chipEnded
    rw [List.foldl_nil]
  rw [hended] at ht
  generalize s.chipReset = a at *
  have hrel := a.releaseParts_bodyOf
  generalize a.releaseParts = b at *
  have hend := b.endChip_frame ok
  generalize b.endChip ok = d at *
  obtain ⟨-, -, -, -, hdone⟩ := d.levelFourDone_spec v m
  rw [← ht] at hdone
  rw [hdone, hend, hrel, hreset]; rfl

/-! ### The power-cycle request -/

/-- A ledger write's copy holds the stages' entries and the day (R146). -/
theorem State.saveLedger_holds (s : State) : ∃ l : Ledger,
    (s.saveLedger.flash.ledger0 = l.bytes ∨ s.saveLedger.flash.ledger1 = l.bytes) ∧ l.entries = s.ledgerEntries ∧
    l.days = s.time.dayCount := by
  unfold State.saveLedger
  split
  · next l one _ =>
    refine ⟨{ seq := l.seq + 1, days := s.time.dayCount, entries := s.ledgerEntries }, ?_, rfl, rfl⟩
    cases one
    · exact Or.inr rfl
    · exact Or.inl rfl
  · exact ⟨{ seq := 1, days := s.time.dayCount, entries := s.ledgerEntries }, Or.inl rfl, rfl, rfl⟩

/-- A ledger write leaves the dailies sets. -/
theorem State.saveLedger_newestSet (s : State) : s.saveLedger.newestSet = s.newestSet := by
  unfold State.saveLedger
  split
  · next one _ => cases one <;> rfl
  · rfl

/-- A module with a dailies set has a newest one. -/
theorem State.newestSet_some (h : s.flash.dailies0.isSome ∨ s.flash.dailies1.isSome) : ∃ d, s.newestSet = some d := by
  unfold State.newestSet
  cases h0 : s.flash.dailies0 <;> cases h1 : s.flash.dailies1
  case none.none => simp [h0, h1] at h
  case none.some b => exact ⟨b, rfl⟩
  case some.none a => exact ⟨a, rfl⟩
  case some.some a b => dsimp only; split <;> exact ⟨_, rfl⟩

/-- A dailies copy that is made leaves a set (R508). -/
theorem State.copyDailies_set (s : State) : ∃ d, (s.copyDailies true).newestSet = some d := by
  refine State.newestSet_some ?_
  unfold State.copyDailies
  rw [if_neg (by decide)]
  dsimp only
  split
  · exact Or.inr rfl
  · exact Or.inl rfl

/-- The request of a power cycle, its ledger and its dailies sets (R148, R503). -/
theorem State.powerCycleReq_holds (s : State) (a n : Nat) (w : Word) (m : BitVec 8) :
    (s.powerCycleReq a n w m).newestSet = s.newestSet ∧
    (s.ledgerRead = true → ∃ l : Ledger, ((s.powerCycleReq a n w m).flash.ledger0 = l.bytes ∨
      (s.powerCycleReq a n w m).flash.ledger1 = l.bytes) ∧ l.entries = (s.powerCycleReq a n w m).ledgerEntries ∧
      l.days = (s.powerCycleReq a n w m).time.dayCount) := by
  unfold State.powerCycleReq
  by_cases h : s.ledgerRead = true
  · rw [if_pos h]
    refine ⟨s.saveLedger_newestSet, fun _ => ?_⟩
    obtain ⟨l, hl, he, hd⟩ := s.saveLedger_holds
    have hframe := s.saveLedger_frame
    generalize s.saveLedger = u at *
    exact ⟨l, hl, by rw [he, hframe]; rfl, by rw [hd, hframe]; rfl⟩
  · rw [if_neg h]
    exact ⟨rfl, fun h' => absurd h' h⟩

/-- Level 5 ends in the dailies copy and the request. -/
theorem State.runLevel5_ends (s : State) (a n : Nat) (w : Word) (b c : Bool) : ∃ v m,
    s.runLevel5 a n w b c = (State.copyDailies v c).powerCycleReq a n w m ∧ v.ledgerRead = s.ledgerRead := by
  unfold State.runLevel5
  dsimp only
  have hd := State.dumpAll_contextsOf { s with pins := { s.pins with issueStopped := true } } 5 s.allMask
  generalize (State.dumpLevels { s with pins := { s.pins with issueStopped := true } } 5).supersede.giveWay s.allMask = u at *
  have he := State.endAll_endingOf { u with level4 := none } 0x23 b
  generalize ((State.stopContexts { u with level4 := none } 0x23).recordContexts b).freeAll = v at *
  exact ⟨v, _, rfl, by rw [he, hd]; rfl⟩

theorem exec_powerCycleRequest (h : s.level5 = some v) (hp : s.pins.pwrCycleReq = false) (ok ok2 : Bool) :
    exec (.powerCycleRequest ok ok2) s = .next (s.runLevel5 v.trigger v.stage v.start ok ok2) := by
  show execPowerCycleRequest ok ok2 s = _
  unfold execPowerCycleRequest
  rw [h]
  exact if_neg (by simp [hp])

theorem exec_powerCycleRequest_not (h : s.level5 = none ∨ s.pins.pwrCycleReq = true) (ok ok2 : Bool) :
    exec (.powerCycleRequest ok ok2) s = .next s := by
  show execPowerCycleRequest ok ok2 s = _
  unfold execPowerCycleRequest
  cases h5 : s.level5 with
  | none => rfl
  | some v => exact if_pos (h.resolve_left (by simp [h5]))

theorem powerCycleRequest_spec (s : State) (v : Level) (ok ok2 : Bool)
    (ht : t = s.runLevel5 v.trigger v.stage v.start ok ok2) :
    t.pins = { s.pins with issueStopped := true, pwrCycleReq := true } ∧ (∀ c ∈ t.parts, c = none) ∧
    (ok2 = true → ∃ d, t.newestSet = some d) ∧
    (s.ledgerRead = true → ∃ l : Ledger, (t.flash.ledger0 = l.bytes ∨ t.flash.ledger1 = l.bytes) ∧
      l.entries = t.ledgerEntries ∧ l.days = t.time.dayCount) ∧
    t = { s.recordsOf t with
      pins := t.pins, parts := t.parts, stages := t.stages, flash := t.flash, chain := t.chain, level4 := none } := by
  obtain ⟨hframe, hparts⟩ := s.runLevel5_spec v.trigger v.stage v.start ok ok2
  obtain ⟨a, m, hend, hread⟩ := s.runLevel5_ends v.trigger v.stage v.start ok ok2
  rw [← ht] at hframe hparts hend
  obtain ⟨hset, hledger⟩ := (a.copyDailies ok2).powerCycleReq_holds v.trigger v.stage v.start m
  rw [← hend] at hset hledger
  have hcopy : (a.copyDailies ok2).ledgerRead = a.ledgerRead := by rw [State.copyDailies_frame]; rfl
  refine ⟨by rw [hframe], hparts, fun hok => ?_, fun hl => hledger ((hcopy.trans hread).trans hl), by rw [hframe]; rfl⟩
  subst hok
  rw [hset]
  exact a.copyDailies_set

/-- Settles O48, reset by reset up the ladder. -/
theorem resetsOfTheLadder : Obligations.ResetsOfTheLadder := by
  refine ⟨fun s p c k v hc hk hl => ⟨fun hv hres => ?_, exec_engineReset_level hc hk hl⟩,
    fun s p c v ok hc hl => ⟨fun hv => ?_, fun hv => exec_partitionReset_level hc hl hv ok⟩,
    fun s v ok h => ⟨fun us => ?_, ?_⟩, fun s us ok h => exec_chipComputeReset_none h us ok,
    fun s v ok ok2 h hp => ⟨_, exec_powerCycleRequest h hp ok ok2, powerCycleRequest_spec s v ok ok2 rfl⟩,
    fun s ok ok2 h => exec_powerCycleRequest_not h ok ok2⟩
  · refine ⟨_, exec_engineReset hc hk hl hv hres, ?_, fun n hn st h => ?_, fun n hn => ?_, ?_⟩
    · have hctx : (s.modStages (s.unstopped p c k) Stage.engineReset).ctx p = some c := by
        rw [State.modStages_frame]; exact hc
      exact State.ctx_modCtx _ hctx
    · exact State.stage_modStages_once Stage.engineReset_twice hn h
    · exact State.stage_modStages_other (s := s) hn
    · have hframe := s.modStages_frame (s.unstopped p c k) Stage.engineReset
      generalize s.modStages (s.unstopped p c k) Stage.engineReset = a at *
      rw [hframe]; rfl
  · obtain ⟨r, h⟩ := exec_partitionReset hc hl hv ok
    exact ⟨_, h, partitionReset_spec s p c r v ok rfl⟩
  · obtain ⟨kind, hx⟩ := exec_chipComputeReset h us ok
    obtain ⟨h4, hspine, hparts, -, -⟩ := (s.chipEnded kind us ok).levelFourDone_spec v s.allMask
    exact ⟨_, hx, h4, hspine, by rw [hparts]; exact State.freeAll_parts _⟩
  · obtain ⟨kind, hx⟩ := exec_chipComputeReset h [] ok
    obtain ⟨-, -, -, hlog, -⟩ := (s.chipEnded kind [] ok).levelFourDone_spec v s.allMask
    exact ⟨_, hx, hlog, chipComputeReset_frame kind s.allMask ok rfl⟩

end Sys2Proof.Machine
end

section
/-! Vector shots of every type (R302, R322, R334, R339, R350). -/

namespace Sys2Proof.Machine

set_option Elab.async false

open Sys2Proof

variable {s : State} {n : Nat} {i : Instr} {f : VecFields} {st : Stage} {c : Ctx} {d a b : Nat}

/-- A counted shot of two sources. -/
theorem exec_zip_shot {checked : Bool} {g : Nat → Nat → Nat → ElemRes} (h : s.vecReady n i f st c d a b)
    (hexec : exec i s = .next (s.vector n i f checked true (zipOp g))) : exec i s = .next (s.vecDone n f st c d
      checked true (List.zipWith (g (accCode f.ty)) (st.vecIn f a) (st.vecIn f b))) :=
  exec_vector_ready h hexec rfl

/-- A shot of one source. -/
theorem exec_map_shot {checked counts : Bool} {g : Nat → Nat → ElemRes} (h : s.vecReady n i f st c d a b)
    (hexec : exec i s = .next (s.vector n i f checked counts (mapOp g))) : exec i s = .next (s.vecDone n f st c d
      checked counts ((st.vecIn f a).map (g (accCode f.ty)))) :=
  exec_vector_ready h hexec rfl

/-- A shot of a tile's sums. -/
theorem exec_sum_shot (op : TileOp) (h : s.vecReady n i f st c d a b)
    (hexec : exec i s = .next (s.vector n i f false true op)) : exec i s = .next (s.vecDone n f st c d false true
      (op (accCode f.ty) (st.vecIn f d) (st.vecIn f a) (st.vecIn f b))) :=
  exec_vector_ready h hexec rfl

/-- Column sums, written out (Table 9.6). -/
theorem colSums_eq (code : Nat) (d a b : List Nat) : colSums code d a b =
    (List.range 32).map (fun k => treeRes code ((List.range 16).map (fun r => a.getD (32 * r + k) 0)))
      ++ List.replicate 480 (.plain 0) := by
  delta colSums
  exact Eq.refl _

/-- The shots of two sources, and the fused one. -/
theorem exec_two_sources (s : State) (n : Nat) (f : VecFields) (st : Stage) (c : Ctx) (d a b : Nat) :
    (s.vecReady n (.vadd n f) f st c d a b → exec (.vadd n f) s = .next (s.vecDone n f st c d
      false true (List.zipWith (addRes (accCode f.ty)) (st.vecIn f a) (st.vecIn f b)))) ∧
    (s.vecReady n (.vsub n f) f st c d a b → exec (.vsub n f) s = .next (s.vecDone n f st c d
      false true (List.zipWith (subRes (accCode f.ty)) (st.vecIn f a) (st.vecIn f b)))) ∧
    (s.vecReady n (.vdiv n f) f st c d a b → exec (.vdiv n f) s = .next (s.vecDone n f st c d
      false true (List.zipWith (divRes (accCode f.ty)) (st.vecIn f a) (st.vecIn f b)))) ∧
    (s.vecReady n (.vmul n f) f st c d a b → exec (.vmul n f) s = .next (s.vecDone n f st c d
      (decide (f.ty ≠ 1)) true (List.zipWith (mulRes (accCode f.ty)) (st.vecIn f a) (st.vecIn f b)))) ∧
    (s.vecReady n (.vfma n f) f st c d a b → exec (.vfma n f) s = .next (s.vecDone n f st c d
      (decide (f.ty ≠ 1)) true (List.zipWith (fun x z => fmaRes (accCode f.ty) x.1 x.2 z)
        ((st.vecIn f a).zip (st.vecIn f b)) (st.vecIn f d)))) :=
  ⟨fun h => exec_zip_shot h rfl, fun h => exec_zip_shot h rfl, fun h => exec_zip_shot h rfl, fun h => exec_zip_shot h rfl,
    fun h => exec_vector_ready (op := fmaOp) h rfl rfl⟩

/-- Settles O37: the shots of two sources, of one source, the sums, and the immediate shots. -/
theorem vectorShots : Obligations.VectorShots := by
  refine ⟨fun s n f st c d a b => ?_, fun s n f st c d a b =>
    ⟨fun h => exec_map_shot (f := immVec f) (g := fun k x => mulRes k x (immBits k f.imm.toNat)) h rfl,
      fun h => exec_map_shot (f := immVec f) (g := fun k x => addRes k x (immBits k f.imm.toNat)) h rfl,
      fun h => exec_map_shot (f := immVec f) (g := fun k _ => .plain (immBits k f.imm.toNat)) h rfl⟩⟩
  obtain ⟨hadd, hsub, hdiv, hmul, hfma⟩ := exec_two_sources s n f st c d a b
  refine ⟨hadd, hsub, hdiv, hmul, hfma, fun h => exec_map_shot h rfl,
    fun h => exec_zip_shot (g := fun k x y => maxMinRes k x y true) h rfl,
    fun h => exec_zip_shot (g := fun k x y => maxMinRes k x y false) h rfl,
    fun h => exec_map_shot h rfl, fun h => exec_map_shot h rfl,
    fun h => exec_map_shot (g := fun k x => maxMinRes k x 0 true) h rfl,
    fun h => exec_map_shot (g := fun _ x => .plain x) h rfl,
    fun h => exec_sum_shot rowSums h rfl, fun h => ?_⟩
  have hsums := exec_sum_shot colSums h rfl
  rw [colSums_eq] at hsums
  exact hsums

end Sys2Proof.Machine
end

section
/-! Sequencer shots, the end of a frame's shots and run-ahead (R103, R112, R130, R305, R308, R312, R313, R315 to R318, R327). -/

namespace Sys2Proof.Machine

set_option Elab.async false

open Sys2Proof

variable {s : State} {n p : Nat} {st : Stage} {c : Ctx} {i : Instr}

/-! ### Sequencer shots -/

/-- A sequencer shot at the head of issue acts. -/
theorem exec_sequence (h : s.atHead n i st p c) {act : Stage → Nat → Ctx → State}
    (hexec : exec i s = .next (s.sequence n i act)) : exec i s = .next (act st p c) :=
  hexec.trans (congrArg Host.Outcome.next (sequence_head h act))

theorem State.atHead.stage (h : s.atHead n i st p c) : s.stage n = some st := (issuer_ctx h.1).1

theorem State.atHead.ctxOf (h : s.atHead n i st p c) : s.ctxOf n = some (p, c) := (issuer_ctx h.1).2

theorem exec_inca {r : BitVec 4} {d : BitVec 16} (h : s.atHead n (.inca n r d) st p c) :
    (0 ≤ st.seq.lineOf r false + d.toInt → st.seq.lineOf r false + d.toInt ≤ 65535 →
      exec (.inca n r d) s = .next (s.modStage n (fun u => { u with seq := { u.seq.step with
        ar := setAt u.seq.ar r.toNat (BitVec.ofNat 22 (65536 * st.seq.bankOf r +
          (st.seq.lineOf r false + d.toInt).toNat)) } }))) ∧
    (st.seq.lineOf r false + d.toInt < 0 ∨ 65535 < st.seq.lineOf r false + d.toInt →
      exec (.inca n r d) s = .next (s.failStageCtx n 0x15)) := by
  refine ⟨fun h0 h1 => (exec_sequence h rfl).trans (congrArg Host.Outcome.next ?_),
    fun ho => (exec_sequence h rfl).trans (congrArg Host.Outcome.next (if_pos ho))⟩
  refine (if_neg (by omega)).trans ?_
  unfold State.sequenced
  simp only [Seq.step_ar]

theorem exec_repeat {b : BitVec 8} {k : BitVec 12} {d : BitVec 16} (h : s.atHead n (.repeat_ n b k d) st p c) :
    (st.seq.loop = none → exec (.repeat_ n b k d) s = .next (s.modStage n (fun u => { u with seq := { u.seq.step with
      loop := some { start := st.seq.pc + 1, len := b.toNat, count := k.toNat + 1, stride := d.toInt
                     iter := 0 } } }))) ∧
    (st.seq.loop.isSome → exec (.repeat_ n b k d) s = .next (s.scriptError n st.seq.pc)) :=
  ⟨fun hl => (exec_sequence h rfl).trans (congrArg Host.Outcome.next (if_neg (by simp [hl]))),
    fun hl => (exec_sequence h rfl).trans (congrArg Host.Outcome.next (if_pos hl))⟩

theorem exec_waitt {t : BitVec 5} {k : BitVec 16} (h : s.atHead n (.waitt n t k) st p c) :
    (st.seq.ahead = false → k.toNat ≤ st.seq.tokens.getD t.toNat 0 →
      exec (.waitt n t k) s = .next (s.modStage n (fun u => { u with seq := { u.seq.step with
        tokens := setAt u.seq.tokens t.toNat (st.seq.tokens.getD t.toNat 0 - k.toNat) } }))) ∧
    (st.seq.ahead = true ∨ st.seq.tokens.getD t.toNat 0 < k.toNat → exec (.waitt n t k) s = .next s) := by
  refine ⟨fun ha hk => (exec_sequence h rfl).trans (congrArg Host.Outcome.next ?_),
    fun hw => (exec_sequence h rfl).trans (congrArg Host.Outcome.next (if_pos ?_))⟩
  · refine (if_neg ?_).trans ?_
    · simp only [ha, Bool.false_or, decide_eq_true_eq]; omega
    · unfold State.sequenced
      simp only [Seq.step_tokens]
  · simpa using hw

/-! ### TRACE and STEP -/

/-- A trace entry is kept while 2,046 or fewer stand before it, and counted as dropped beyond (R318). -/
theorem Stage.pushTrace_counts (st : Stage) (e : TraceEntry) :
    (st.traceBuf.length < 2046 → (st.pushTrace false e).traceBuf.length = st.traceBuf.length + 1) ∧
    (2046 ≤ st.traceBuf.length → (st.pushTrace false e).traceBuf = st.traceBuf ∧
      (st.pushTrace false e).traceDrop = st.traceDrop + 1) := by
  unfold Stage.pushTrace
  refine ⟨fun h => ?_, fun h => ?_⟩
  · rw [if_pos (by simp [h])]
    exact List.length_append
  · rw [if_neg (by simp [h])]
    exact ⟨rfl, rfl⟩

/-- A stage whose sequencer has stepped past a TRACE. -/
def Stage.traced (st : Stage) (e : TraceEntry) : Stage := { st.pushTrace false e with seq := st.seq.step }

theorem exec_trace {j : BitVec 16} (h : s.atHead n (.trace n j) st p c) : ∃ e t, exec (.trace n j) s = .next t ∧
    t.stage n = some (st.traced e) ∧ (∀ m, m ≠ n → t.stage m = s.stage m) ∧ t = { s with stages := t.stages } := by
  have hx := exec_sequence h (act := fun st _ _ =>
    (s.traceAt n false 0x05 (s.correctedStamp n) (j.toNat + 2 ^ 16 * st.seq.shot.toNat)).sequenced n id) rfl
  unfold State.traceAt at hx
  rw [h.ctxOf] at hx
  dsimp only at hx
  refine ⟨{ kind := 0x05, take := c.workTake st, frame := c.workFrame st, stamp := s.correctedStamp n
            payload := BitVec.ofNat 128 (j.toNat + 2 ^ 16 * st.seq.shot.toNat) }, _, hx, ?_, fun m hm => ?_, rfl⟩
  · refine (State.stage_modStage _ (State.stage_modStage _ h.stage)).trans (congrArg some ?_)
    unfold Stage.traced
    rw [show (Stage.pushTrace st false _).seq = st.seq by rw [Stage.pushTrace_traced]]
    rfl
  · exact (State.stage_modStage_other _ _ hm).trans (State.stage_modStage_other _ _ hm)

theorem exec_trace_spec {j : BitVec 16} (h : s.atHead n (.trace n j) st p c) : ∃ t u,
    exec (.trace n j) s = .next t ∧ t.stage n = some u ∧
    u.seq = st.seq.step ∧ u.scratch = st.scratch ∧ u.acc = st.acc ∧
    (st.traceBuf.length < 2046 → u.traceBuf.length = st.traceBuf.length + 1) ∧
    (2046 ≤ st.traceBuf.length → u.traceBuf = st.traceBuf ∧ u.traceDrop = st.traceDrop + 1) ∧
    (∀ m, m ≠ n → t.stage m = s.stage m) ∧ t = { s with stages := t.stages, freeCtr := t.freeCtr } := by
  obtain ⟨e, t, ht, hu, hother, hframe⟩ := exec_trace h
  obtain ⟨hfew, hmany⟩ := st.pushTrace_counts e
  have htr := st.pushTrace_traced false e
  refine ⟨t, _, ht, hu, rfl, ?_, ?_, hfew, hmany, hother, by rw [hframe]⟩
  · show (st.pushTrace false e).scratch = st.scratch
    rw [htr]
  · show (st.pushTrace false e).acc = st.acc
    rw [htr]

/-- The stages that a STEP asks (R130). -/
def State.asked (s : State) (c : Ctx) : List Nat :=
  c.stages.filter (fun m => (s.stage m).elim false Stage.clocked)

/-- The same stages, as the model finds them. -/
theorem State.asked_eq (s : State) (c : Ctx) : s.asked c = c.stages.filter (fun m => match s.stage m with
    | none => false
    | some v => v.clocked) :=
  List.filter_congr fun m _ => by cases s.stage m <;> rfl

/-- A context with a step request. -/
def Ctx.asking (k : Nat) (ms : List Nat) (c : Ctx) : Ctx :=
  { c with stepReq := some { code := k, waiting := ms, accepted := false } }

/-- A state with a STEP's request made (R130). -/
def State.requestStep (s : State) (n p k : Nat) (c : Ctx) : State :=
  (s.modCtx p (Ctx.asking k (s.asked c))).sequenced n (fun q => { q with stepWait := true })

theorem exec_step {k : BitVec 4} (h : s.atHead n (.step n k) st p c) (ha : st.seq.ahead = false)
    (hk : c.reel.floor ≤ k.toNat) (hl : st.seq.loop = none) : exec (.step n k) s = .next
      (if c.stepReq.isSome then s.failStageCtx n 0x1C else s.requestStep n p k.toNat c) := by
  refine (exec_sequence h rfl).trans (congrArg Host.Outcome.next ?_)
  refine (if_neg (by simp [ha])).trans ((if_neg ?_).trans ?_)
  · rw [hl]
    simpa using hk
  · unfold State.requestStep
    rw [State.asked_eq]
    rfl

theorem State.requestStep_spec (h : s.stage n = some st) (hc : s.ctx p = some c) (k : Nat) {t : State}
    (ht : t = s.requestStep n p k c) :
    t.ctx p = some (c.asking k (s.asked c)) ∧ t.stage n = some { st with seq := { st.seq.step with stepWait := true } } ∧
    t = { s with stages := t.stages, parts := t.parts } := by
  subst ht
  exact ⟨State.ctx_modCtx _ hc, State.stage_modStage (s := s.modCtx p (Ctx.asking k (s.asked c))) _ h, rfl⟩

/-- Settles O31, shot by shot. -/
theorem sequencerShots : Obligations.SequencerShots := by
  refine fun s n p st c => ⟨fun h => exec_sequence h rfl, fun h => exec_sequence h rfl, fun r b l h => ?_,
    fun r d h => exec_inca h, fun b k d h => exec_repeat h, fun t k h => exec_waitt h, fun j h => exec_trace_spec h,
    fun k h ha hk hl => ⟨fun hn => ?_, fun hs => ?_⟩⟩
  · refine (exec_sequence h rfl).trans (congrArg Host.Outcome.next ?_)
    unfold State.sequenced
    simp only [Seq.step_ar]
  · obtain ⟨-, hctx⟩ := State.of_ctxOf h.stage h.ctxOf
    obtain ⟨hask, hstep, hframe⟩ := State.requestStep_spec h.stage hctx k.toNat rfl
    have hexec := exec_step h ha hk hl
    rw [if_neg (by simp [hn])] at hexec
    exact ⟨_, _, _, hexec, hask, hstep, by rw [State.asked_eq]; rfl, rfl, rfl, rfl, hframe⟩
  · exact (exec_step h ha hk hl).trans (congrArg Host.Outcome.next (if_pos hs))

/-! ### The end of a frame's shots -/

/-- A stage whose end-of-frame shot has issued (R103, R153, R313). -/
def Stage.ended (st : Stage) (f : EofFields) (c : Ctx) (x : Option Nat) : Stage :=
  { st with
    idle := f.idle.toNat, slackNow := none, slackEof := minCode st.slackNow (x.map (capAt 63))
    seq := { st.seq with
      pc := st.seq.pc + 1, eof := true, done := true, final := eofFinal f c.frame c.reel.last
      nextKind := eofKind f c.frame } }

theorem exec_eof {f : EofFields} {x : Option Nat} (h : s.atHead n (.eof n f x) st p c) :
    (st.seq.ahead = false → st.drained = true → st.seq.loop = none → eofOk n f c = true →
      exec (.eof n f x) s = .next (s.putStage n (st.ended f c x))) ∧
    (st.seq.ahead = true ∨ st.drained = false → exec (.eof n f x) s = .next s) := by
  refine ⟨fun ha hd hl hok => ?_, fun hw => ?_⟩ <;>
    refine (exec_sequence h rfl).trans (congrArg Host.Outcome.next ?_)
  · refine (if_neg (by simp [ha, hd])).trans (if_neg ?_)
    rw [hl, hok]
    decide
  · exact if_pos (by rcases hw with h | h <;> simp [h])

/-- The kind of the next working frame (R313). -/
theorem eofKind_spec (f : EofFields) (k : BitVec 48) :
    (f.p ≠ 0 → (k.toNat + 1 + f.idle.toNat) % 2 ^ f.p.toNat = 0 → eofKind f k = f.kindB.toNat) ∧
    (f.p = 0 ∨ (k.toNat + 1 + f.idle.toNat) % 2 ^ f.p.toNat ≠ 0 → eofKind f k = f.kindA.toNat) :=
  ⟨fun hp hm => if_pos ⟨hp, hm⟩, fun h => if_neg (by tauto)⟩

theorem eofFinal_iff (f : EofFields) (k l : BitVec 48) : eofFinal f k l = true ↔ f.final = 1 ∨ f.final = 2 ∧ k = l := by
  simp [eofFinal]

/-- A stage with a shot in a queue, or a STEP that waits, has not drained (R308). -/
theorem Stage.drained_false (h : st.flights ≠ [] ∨ st.seq.stepWait = true) : st.drained = false := by
  unfold Stage.drained
  rcases h with h | h <;> simp [h]

/-! ### Run-ahead -/

/-- A stage as its run-ahead begins (R112, R119). -/
def Stage.aheadAt (st : Stage) (r : StageRec) : Stage :=
  { st with acc := [], resid := [], cntAhead := .zero, seq := st.seq.beginAhead r }

theorem exec_runaheadStart {r : StageRec} (h : s.stage n = some st) (hc : s.ctxOf n = some (p, c))
    (hr : c.stageRec n = some r) (hok : s.canRunAhead st c r = true) :
    exec (.runaheadStart n) s = .next (s.putStage n (st.aheadAt r)) := by
  show execRunaheadStart n s = _
  unfold execRunaheadStart
  rw [h, hc]
  dsimp only
  rw [hr]
  exact if_pos hok

/-- A stage that may run ahead is done, and its frame is not final (R112). -/
theorem State.canRunAhead_done {r : StageRec} (h : s.canRunAhead st c r = true) :
    st.seq.done = true ∧ st.seq.final = false := by
  unfold State.canRunAhead at h
  simp only [Bool.and_eq_true, Bool.not_eq_true'] at h
  tauto

/-- Settles O32: the end-of-frame shot, and the run-ahead of a done stage. -/
theorem endOfFrameAndRunahead : Obligations.EndOfFrameAndRunahead := by
  refine ⟨fun s n p st c f x h => ⟨fun ha hd hl hok => ?_, fun hw => (exec_eof h).2 ?_⟩,
    fun s n p st c r h hc hr hok => ?_⟩
  · obtain ⟨hB, hA⟩ := eofKind_spec f c.frame
    exact ⟨_, _, (exec_eof h).1 ha hd hl hok, State.stage_putStage _ h.stage, rfl, rfl, rfl, rfl, rfl, rfl,
      eofFinal_iff .., hB, hA, rfl, rfl, rfl, rfl, fun m hm => State.stage_putStage_other _ _ hm, rfl⟩
  · exact hw.imp_right Stage.drained_false
  · obtain ⟨hdone, hfinal⟩ := State.canRunAhead_done hok
    exact ⟨_, _, exec_runaheadStart h hc hr hok, State.stage_putStage _ h, rfl, rfl, rfl, hdone, hfinal, rfl, rfl, rfl,
      rfl, rfl, rfl, rfl⟩

end Sys2Proof.Machine
end

section
/-! Queued shots: matrix and accumulator shots, bank moves, and shots that do not issue (R116, R118, R188, R299 to R301, R305,
R307, R311, R316, R319 to R323, R344, R349). -/

namespace Sys2Proof.Machine

set_option Elab.async false

open Sys2Proof

variable {s t : State} {n p : Nat} {st u x : Stage} {c : Ctx} {i : Instr}

/-! ### What the effect of a shot may change -/

/-- A stage that differs from another in tiles, residues and counts at most. -/
def Stage.tileOf (st u : Stage) : Stage := { st with acc := u.acc, resid := u.resid, cnt := u.cnt, cntAhead := u.cntAhead }

/-- A stage that differs from another in bank lines, journal and counts at most. -/
def Stage.bankOf (st u : Stage) : Stage :=
  { st with scratch := u.scratch, journal := u.journal, cnt := u.cnt, cntAhead := u.cntAhead }

theorem Stage.tileOf_trans {a b d : Stage} (h : b = a.tileOf b) (j : d = b.tileOf d) : d = a.tileOf d := by rw [j, h]; rfl

theorem Stage.bankOf_trans {a b d : Stage} (h : b = a.bankOf b) (j : d = b.bankOf d) : d = a.bankOf d := by rw [j, h]; rfl

theorem Stage.putTile_tileOf (st : Stage) (e d : Nat) (wide : Bool) (xs : List Nat) :
    st.putTile e d wide xs = st.tileOf (st.putTile e d wide xs) := by
  unfold Stage.putTile Stage.putHalf
  cases wide <;> rfl

theorem Stage.count_tileOf (st : Stage) (ahead : Bool) (rs : List ElemRes) : st.count ahead rs = st.tileOf (st.count ahead rs) := by
  cases ahead <;> rfl

theorem Stage.count_bankOf (st : Stage) (ahead : Bool) (rs : List ElemRes) : st.count ahead rs = st.bankOf (st.count ahead rs) := by
  cases ahead <;> rfl

theorem Stage.withLine_bankOf (st : Stage) (b k : Nat) (l : Line) : st.withLine b k l = st.bankOf (st.withLine b k l) := by
  unfold Stage.withLine
  generalize cellSetList st.scratch (lineKey b k) (lineBytes l) = m
  rfl

theorem Stage.journaling_bankOf (st : Stage) (ahead : Bool) (b k : Nat) :
    st.journaling ahead b k = st.bankOf (st.journaling ahead b k) := by
  unfold Stage.journaling
  generalize st.journal ++ _ = m
  rfl

theorem Stage.writeLine_bankOf {ahead : Bool} {b k : Nat} {l : Line} (h : st.writeLine ahead b k l = some u) :
    u = st.bankOf u := by
  rw [Stage.writeLine_eq] at h
  split at h
  · rw [← Option.some.inj h]
    exact st.withLine_bankOf b k l
  · split at h
    · exact absurd h (Option.some_ne_none _).symm
    · rw [← Option.some.inj h]
      exact Stage.bankOf_trans (st.journaling_bankOf ahead b k) (Stage.withLine_bankOf _ b k l)

theorem Stage.writeLines_bankOf {ahead : Bool} {b : Nat} : ∀ {ls : List Line} {k : Nat} {st : Stage},
    st.writeLines ahead b k ls = some u → u = st.bankOf u
  | [], _, _, h => by rw [← Option.some.inj h]; rfl
  | _ :: _, _, _, h => by
    obtain ⟨a, ha, hu⟩ := Option.bind_eq_some_iff.mp h
    exact Stage.bankOf_trans (Stage.writeLine_bankOf ha) (Stage.writeLines_bankOf hu)

theorem Stage.writeRange_bankOf {ahead : Bool} {r : LineRange} {ls : List Line} (h : st.writeRange ahead r ls = some u) :
    u = st.bankOf u := Stage.writeLines_bankOf h

/-! ### The issue of a queued shot -/

/-- A queued shot that is ready takes its effect and enters its queue. -/
theorem exec_queued {plan : Seq → Nat → Option Plan} {effect : Seq → Ctx → ShotEffect} {q : Plan}
    (h : s.atHead n i st p c) (hexec : exec i s = .next (s.issueTo n i plan effect))
    (hp : plan st.seq (c.stagingOf n) = some q) (hw : st.waits q = false)
    (hu : effect st.seq c st (c.aheadWork st) = some u) : ∃ v k, exec i s = .next v ∧
      v.stage n = some (u.launch q st.seq k) ∧ (∀ m, m ≠ n → v.stage m = s.stage m) ∧ v = { s with stages := v.stages } := by
  have hput := (((issueTo_head h plan effect).2 q hp).2 hw).2 u hu
  exact ⟨_, _, hexec.trans (congrArg Host.Outcome.next hput), State.stage_putStage _ h.stage,
    fun m hm => State.stage_putStage_other _ _ hm, rfl⟩

@[simp] theorem launch_flights_length (u : Stage) (q : Plan) (w : Seq) (k : Nat) :
    (u.launch q w k).flights.length = u.flights.length + 1 := List.length_append

/-- A shot whose effect is on tiles. -/
theorem exec_tile_shot {plan : Seq → Nat → Option Plan} {effect : Seq → Ctx → ShotEffect} {q : Plan}
    (h : s.atHead n i st p c) (hexec : exec i s = .next (s.issueTo n i plan effect))
    (hp : plan st.seq (c.stagingOf n) = some q) (hw : st.waits q = false)
    (hu : effect st.seq c st (c.aheadWork st) = some u) (ht : u = st.tileOf u) : ∃ v x, exec i s = .next v ∧
      v.stage n = some x ∧ x.acc = u.acc ∧ x.scratch = st.scratch ∧ x.journal = st.journal ∧ x.cnt = u.cnt ∧
      x.seq = st.seq.step ∧ x.flights.length = st.flights.length + 1 ∧
      (∀ m, m ≠ n → v.stage m = s.stage m) ∧ v = { s with stages := v.stages } := by
  obtain ⟨v, k, hv, hst, hother, hframe⟩ := exec_queued h hexec hp hw hu
  refine ⟨v, _, hv, hst, launch_acc .., ?_, ?_, launch_cnt .., ?_, ?_, hother, hframe⟩
  · rw [launch_scratch, ht]; rfl
  · rw [launch_journal, ht]; rfl
  · rw [launch_seq, ht]; rfl
  · rw [launch_flights_length, ht]; rfl

/-- A shot whose effect is on bank lines. -/
theorem exec_bank_shot {plan : Seq → Nat → Option Plan} {effect : Seq → Ctx → ShotEffect} {q : Plan}
    (h : s.atHead n i st p c) (hexec : exec i s = .next (s.issueTo n i plan effect))
    (hp : plan st.seq (c.stagingOf n) = some q) (hw : st.waits q = false)
    (hu : effect st.seq c st (c.aheadWork st) = some u) (ht : u = st.bankOf u) : ∃ v x, exec i s = .next v ∧
      v.stage n = some x ∧ x.scratch = u.scratch ∧ x.journal = u.journal ∧ x.acc = st.acc ∧ x.seq = st.seq.step ∧
      (∀ m, m ≠ n → v.stage m = s.stage m) ∧ v = { s with stages := v.stages } := by
  obtain ⟨v, k, hv, hst, hother, hframe⟩ := exec_queued h hexec hp hw hu
  refine ⟨v, _, hv, hst, launch_scratch .., launch_journal .., ?_, ?_, hother, hframe⟩
  · rw [launch_acc, ht]; rfl
  · rw [launch_seq, ht]; rfl

/-! ### Bank moves -/

/-- Settles O35: MOVB, FILLB and CVTB each write one range of lines. -/
theorem bankMoves : Obligations.BankMoves := by
  refine ⟨fun s n p st x c e r d k xa xb a b hi hh ha hb hw hx => ?_,
    fun s n p st x c e d k w b hi hh hb hw hx => ?_, fun s n p st x c f a b hi hh ha hb hw hx => ?_⟩
  · exact exec_bank_shot ⟨hi, hh⟩ rfl (by rw [ha, hb]; rfl) hw (by rw [ha, hb]; exact hx) (Stage.writeRange_bankOf hx)
  · exact exec_bank_shot ⟨hi, hh⟩ rfl (by rw [hb]; rfl) hw (by rw [hb]; exact hx) (Stage.writeRange_bankOf hx)
  · obtain ⟨v, y, hv, hst, hs, hj, hacc, hseq, hother, hframe⟩ := exec_bank_shot (c := c) (i := .cvtb n f) (st := st)
      (u := x.count (c.aheadWork st) (cvtStream f
        (c.roundSel n st f.engine.toNat f.r f.sfmt.toNat f.dfmt.toNat) (st.readRange a)).2)
      ⟨hi, hh⟩ rfl (by rw [ha, hb]; rfl) hw
      (by unfold cvtEffect; rw [ha, hb]; dsimp only; rw [hx]; rfl)
      (Stage.bankOf_trans (Stage.writeRange_bankOf hx) (Stage.count_bankOf ..))
    refine ⟨v, y, hv, hst, ?_, ?_, hacc, hseq, hother, hframe⟩
    · rw [hs, count_scratch]
    · rw [hj]; cases c.aheadWork st <;> rfl

end Sys2Proof.Machine
end

section
/-! Matrix and accumulator shots (R299 to R301, R319 to R321, R344, R349). -/

namespace Sys2Proof.Machine

set_option Elab.async false

open Sys2Proof

variable {s t : State} {n p : Nat} {st u x : Stage} {c : Ctx} {i : Instr}

/-! ### What each effect leaves -/

theorem Stage.withResid_tileOf (st : Stage) (m : Cells 3) : { st with resid := m } = st.tileOf { st with resid := m } := rfl

theorem Stage.putHalf_tileOf (st : Stage) (e t : Nat) (xs : List (BitVec 32)) :
    st.putHalf e t xs = st.tileOf (st.putHalf e t xs) := rfl

theorem Stage.zeroTiles_tileOf (st : Stage) (e t k : Nat) : st.zeroTiles e t k = st.tileOf (st.zeroTiles e t k) :=
  foldl_rel (r := fun a b : Stage => b = a.tileOf b) (fun _ => rfl) Stage.tileOf_trans
    (fun a _ => a.putHalf_tileOf ..) _ _

/-- A shot's results in a tile, with the residues that it makes of them, counted. -/
def Stage.tileResults (st : Stage) (e t : Nat) (wide ahead : Bool) (rs : List ElemRes) (o : Option (List (BitVec 3))) :
    Stage :=
  let st1 := st.putTile e t wide (rs.map ElemRes.bits)
  (match o with | none => st1 | some xs => { st1 with resid := cellSetList st1.resid (accKey e t 0) xs }).count ahead rs

theorem Stage.tileResults_spec (st : Stage) (e t : Nat) (wide ahead : Bool) (rs : List ElemRes)
    (o : Option (List (BitVec 3))) :
    (st.tileResults e t wide ahead rs o).acc = (st.putTile e t wide (rs.map ElemRes.bits)).acc ∧
    st.tileResults e t wide ahead rs o = st.tileOf (st.tileResults e t wide ahead rs o) := by
  unfold Stage.tileResults
  have hput := st.putTile_tileOf e t wide (rs.map ElemRes.bits)
  generalize st.putTile e t wide (rs.map ElemRes.bits) = a at *
  refine ⟨(count_acc ..).trans (by cases o <;> rfl), Stage.tileOf_trans ?_ (Stage.count_tileOf ..)⟩
  cases o with
  | none => exact hput
  | some xs => exact Stage.tileOf_trans hput (a.withResid_tileOf _)

theorem mmaEffect_eq {f : MmaFields} {q : Seq} {g t : Nat} {a b : LineRange}
    (ht : q.tile f.tile (mmaWide f) f.xc = some t)
    (ha : q.range g f.areg f.xa (16 * lineCount (rowBytes f.format.toNat (mmaK f))) = some a)
    (hb : q.range g f.breg f.xb (32 * lineCount (rowBytes f.format.toNat (mmaK f))) = some b) (ahead : Bool) :
    ∃ o, mmaEffect f q g st ahead = some (st.tileResults f.engine.toNat t (mmaWide f) ahead
      (mmaTile f.format.toNat f.z (st.tileElems f.engine.toNat t (mmaWide f))
        (operandRows f.format.toNat (mmaK f) 16 (st.readRange a))
        (operandRows f.format.toNat (mmaK f) 32 (st.readRange b))) o) := by
  unfold mmaEffect
  dsimp only
  rw [ht, ha, hb]
  dsimp only
  by_cases hint : isInt f.format.toNat = true
  · rw [if_pos hint]
    exact ⟨some _, rfl⟩
  · rw [if_neg hint]
    exact ⟨none, rfl⟩

theorem addEffect_eq {f : AccFields} {q : Seq} {g t : Nat} {a : LineRange}
    (ht : q.tile f.tile (isWide f.ty) f.xc = some t)
    (ha : q.range g f.reg f.xa (16 * lineCount (accRowBytes (isWide f.ty))) = some a) (ahead : Bool) :
    ∃ o, addEffect f q g st ahead = some (st.tileResults f.engine.toNat t (isWide f.ty) ahead
      (List.zipWith (fun c v => addRes (accCode f.ty) c v) (st.tileElems f.engine.toNat t (isWide f.ty))
        (storeElems (isWide f.ty) (st.readRange a))) o) := by
  unfold addEffect
  dsimp only
  rw [ht, ha]
  dsimp only
  by_cases hint : f.ty = 1
  · rw [if_pos hint]
    exact ⟨some _, rfl⟩
  · rw [if_neg hint]
    exact ⟨none, rfl⟩

/-- A store writes one range of lines, and counts. -/
theorem storeEffect_bankOf {f : AccFields} {o : BitVec 4} {r k ahead : Bool} {q : Seq}
    (h : storeEffect f n o r k q c st ahead = some x) : x = st.bankOf x := by
  unfold storeEffect at h
  dsimp only at h
  split at h
  · obtain ⟨y, hy, rfl⟩ := Option.map_eq_some_iff.mp h
    exact Stage.bankOf_trans (Stage.writeRange_bankOf hy) (Stage.count_bankOf ..)
  · cases h

/-! ### The shots -/

/-- Settles O34, shot by shot: three that write a tile, one that writes bank lines, one that writes zero. -/
theorem matrixAndAccumulatorShots : Obligations.MatrixAndAccumulatorShots := by
  refine ⟨fun s n p st c f t a b hi hh ht ha hb hw => ?_,
    fun s n p st c f t a hi ht ha => ⟨fun hh hw => ?_, fun hh hw => ?_⟩,
    fun s n p st x c f o r k a t hi hh ht ha hw hx => ?_, fun s n p st c e t k hi hh hw => ?_⟩
  · obtain ⟨o, ho⟩ := mmaEffect_eq (st := st) ht ha hb (c.aheadWork st)
    obtain ⟨hacc, hres⟩ := st.tileResults_spec f.engine.toNat t (mmaWide f) (c.aheadWork st) (mmaTile f.format.toNat f.z
      (st.tileElems f.engine.toNat t (mmaWide f)) (operandRows f.format.toNat (mmaK f) 16 (st.readRange a))
      (operandRows f.format.toNat (mmaK f) 32 (st.readRange b))) o
    obtain ⟨v, y, hv, hy, h1, h2, h3, -, h4, h5, h6, h7⟩ :=
      exec_tile_shot (q := { tilePlan f.engine true with
        reads := [a, b], mat := some (f.format.toNat, arrayCycles f.format.toNat (mmaK f)) })
        ⟨hi, hh⟩ rfl (by unfold mmaPlan; dsimp only; rw [ht, ha, hb]; rfl) hw ho hres
    exact ⟨v, y, hv, hy, h1.trans hacc, h2, h3, h4, h5, h6, h7⟩
  · have hput := st.putTile_tileOf f.engine.toNat t (isWide f.ty) (storeElems (isWide f.ty) (st.readRange a))
    obtain ⟨v, y, hv, hy, h1, h2, h3, h4, h5, -, h6, h7⟩ :=
      exec_tile_shot ⟨hi, hh⟩ rfl (by unfold loadPlan; rw [ht, ha]) hw
        (by unfold loadEffect; dsimp only; rw [ht, ha]) hput
    exact ⟨v, y, hv, hy, h1, h2, h3, by rw [h4, putTile_cnt], h5, h6, h7⟩
  · obtain ⟨o, ho⟩ := addEffect_eq (st := st) ht ha (c.aheadWork st)
    obtain ⟨hacc, hres⟩ := st.tileResults_spec f.engine.toNat t (isWide f.ty) (c.aheadWork st)
      (List.zipWith (fun c v => addRes (accCode f.ty) c v) (st.tileElems f.engine.toNat t (isWide f.ty))
        (storeElems (isWide f.ty) (st.readRange a))) o
    obtain ⟨v, y, hv, hy, h1, h2, h3, -, h4, -, h5, h6⟩ :=
      exec_tile_shot ⟨hi, hh⟩ rfl (by unfold loadPlan; rw [ht, ha]) hw ho hres
    exact ⟨v, y, hv, hy, h1.trans hacc, h2, h3, h4, h5, h6⟩
  · exact exec_bank_shot ⟨hi, hh⟩ rfl (by unfold storePlan; rw [ht, ha]) hw hx (storeEffect_bankOf hx)
  · obtain ⟨v, y, hv, hy, h1, h2, h3, -, h4, -, h5, h6⟩ :=
      exec_tile_shot ⟨hi, hh⟩ rfl rfl hw rfl (st.zeroTiles_tileOf e.toNat t.toNat (k.toNat + 1))
    exact ⟨v, y, hv, hy, h1, h2, h3, h4, h5, h6⟩

end Sys2Proof.Machine
end

section
/-! Shots that do not issue (R118, R188, R305, R307, R311, R316). -/

namespace Sys2Proof.Machine

set_option Elab.async false

open Sys2Proof

variable {s t : State} {n p : Nat} {st : Stage} {c : Ctx} {i : Instr}

/-! ### No stage, another shot, or no shot -/

section Issue

variable (act : Stage → Nat → Ctx → State) (plan : Seq → Nat → Option Plan) (effect : Seq → Ctx → ShotEffect)

theorem sequence_no_issuer (h : s.issuer n = none) : s.sequence n i act = s := by
  unfold State.sequence
  rw [h]

theorem issueTo_no_issuer (h : s.issuer n = none) : s.issueTo n i plan effect = s := by
  unfold State.issueTo
  rw [h]

theorem sequence_other (h : s.issuer n = some (st, p, c)) (hh : st.head n i = .other) : s.sequence n i act = s := by
  unfold State.sequence
  rw [h]
  dsimp only
  rw [hh]

theorem issueTo_other (h : s.issuer n = some (st, p, c)) (hh : st.head n i = .other) : s.issueTo n i plan effect = s := by
  unfold State.issueTo
  rw [h]
  dsimp only
  rw [hh]

theorem sequence_malformed (h : s.issuer n = some (st, p, c)) (hh : st.head n i = .malformed) :
    s.sequence n i act = s.scriptError n st.seq.pc := by
  unfold State.sequence
  rw [h]
  dsimp only
  rw [hh]

theorem issueTo_malformed (h : s.issuer n = some (st, p, c)) (hh : st.head n i = .malformed) :
    s.issueTo n i plan effect = s.scriptError n st.seq.pc := by
  unfold State.issueTo
  rw [h]
  dsimp only
  rw [hh]

end Issue

/-- An instruction that issues a shot: by the sequencer or to a queue. -/
def State.issuesShot (s : State) (n : Nat) (i : Instr) : Prop :=
  (∃ act, exec i s = .next (s.sequence n i act)) ∨ (∃ plan effect, exec i s = .next (s.issueTo n i plan effect))

theorem exec_no_issuer (hx : s.issuesShot n i) (h : s.issuer n = none) : exec i s = .next s := by
  rcases hx with ⟨act, hx⟩ | ⟨plan, effect, hx⟩
  · rw [hx, sequence_no_issuer act h]
  · rw [hx, issueTo_no_issuer plan effect h]

theorem exec_other (hx : s.issuesShot n i) (h : s.issuer n = some (st, p, c)) (hh : st.head n i = .other) :
    exec i s = .next s := by
  rcases hx with ⟨act, hx⟩ | ⟨plan, effect, hx⟩
  · rw [hx, sequence_other act h hh]
  · rw [hx, issueTo_other plan effect h hh]

theorem exec_malformed (hx : s.issuesShot n i) (h : s.issuer n = some (st, p, c)) (hh : st.head n i = .malformed) :
    exec i s = .next (s.scriptError n st.seq.pc) := by
  rcases hx with ⟨act, hx⟩ | ⟨plan, effect, hx⟩
  · rw [hx, sequence_malformed act h hh]
  · rw [hx, issueTo_malformed plan effect h hh]

/-- A script word that encodes another shot (R188). -/
theorem Stage.head_other {j : Instr} (hw : shotOf n (cellGet st.script st.seq.pc).toNat = some j) (hj : j ≠ bareShot i) :
    st.head n i = .other := by
  unfold Stage.head
  rw [hw]
  exact if_neg hj

/-- A script word that encodes no shot, or a field that chapter 9 does not allow (R311). -/
theorem Stage.head_malformed (h : shotOf n (cellGet st.script st.seq.pc).toNat = none ∨
    shotOf n (cellGet st.script st.seq.pc).toNat = some (bareShot i) ∧ shotFieldsOk i = false) :
    st.head n i = .malformed := by
  unfold Stage.head
  rcases h with hw | ⟨hw, hf⟩
  · rw [hw]
  · rw [hw]
    exact (if_pos rfl).trans (if_neg (by simp [hf]))

/-! ### Operands, queues and the interlock -/

theorem vecPlan_none {f : VecFields} {checked : Bool} {q : Seq} (h : q.tile f.d (isWide f.ty) f.x = none) :
    vecPlan f checked q = none := by
  unfold vecPlan
  dsimp only
  rw [h]

theorem vecPlan_some {f : VecFields} {checked : Bool} {q : Seq} {d a b : Nat} (hd : q.tile f.d (isWide f.ty) f.x = some d)
    (ha : q.tile f.a (isWide f.ty) f.x = some a) (hb : q.tile f.b (isWide f.ty) f.x = some b) :
    vecPlan f checked q = some { tilePlan f.engine checked with vector := some f.ty.toNat } := by
  unfold vecPlan
  dsimp only
  rw [hd, ha, hb]

/-- A full queue makes a shot wait (R305). -/
theorem Stage.waits_full {q : Plan} (h : 4 ≤ st.flights.countP (fun x => x.dest = q.dest)) : st.waits q = true := by
  unfold Stage.waits Stage.queueFull
  rw [decide_eq_true h, Bool.true_or]

/-- A shot that writes what an earlier one reads waits for it (R307). -/
theorem Stage.waits_interlock {q : Plan} {x : Flight} {r b : LineRange} (hx : x ∈ st.flights) (hr : r ∈ x.reads)
    (hb : b ∈ q.writes) (hbank : r.bank = b.bank) (h1 : r.first < b.first + b.count) (h2 : b.first < r.first + r.count) :
    st.waits q = true := by
  have hmeets : b.meets r = true := by simp [LineRange.meets, hbank, h1, h2]
  have hblocks : x.blocks q.reads q.writes = true := by
    unfold Flight.blocks
    rw [Bool.or_eq_true]
    exact Or.inr (List.any_eq_true.mpr ⟨b, hb, List.any_eq_true.mpr ⟨r, hr, hmeets⟩⟩)
  unfold Stage.waits
  rw [Bool.or_eq_true]
  exact Or.inr (List.any_eq_true.mpr ⟨x, hx, hblocks⟩)

/-- A vector shot at the head of issue whose destination is out of range, or whose queue is full. -/
theorem vector_not_ready {f : VecFields} {checked counts : Bool} {op : TileOp} (h : s.atHead n i st p c)
    (hexec : exec i s = .next (s.vector n i f checked counts op)) :
    (st.seq.tile f.d (isWide f.ty) f.x = none → exec i s = .next (s.failStageCtx n 0x15)) ∧
    ((∃ d a b, st.seq.tile f.d (isWide f.ty) f.x = some d ∧
        st.seq.tile f.a (isWide f.ty) f.x = some a ∧ st.seq.tile f.b (isWide f.ty) f.x = some b) →
      4 ≤ st.flights.countP (fun x => x.dest = .engine f.engine.toNat) → exec i s = .next s) := by
  obtain ⟨hnone, hsome⟩ := issueTo_head h (fun q _ => vecPlan f checked q) (fun q _ => vecEffect f counts op q)
  refine ⟨fun hd => hexec.trans (congrArg _ (hnone (vecPlan_none hd))), fun ⟨d, a, b, hd, ha, hb⟩ hfull => ?_⟩
  exact hexec.trans (congrArg _ ((hsome _ (vecPlan_some hd ha hb)).1 (Stage.waits_full hfull)))

/-- Settles O39: no stage, another shot or none, operands and queues, the interlock, and a full journal. -/
theorem shotsThatDoNotIssue : Obligations.ShotsThatDoNotIssue := by
  refine ⟨fun s n h f m x => ⟨exec_no_issuer (Or.inl ⟨_, rfl⟩) h, exec_no_issuer (Or.inr ⟨_, _, rfl⟩) h,
      exec_no_issuer (Or.inr ⟨_, _, rfl⟩) h, exec_no_issuer (Or.inr ⟨_, _, rfl⟩) h⟩,
    fun s n p st c f h => ⟨fun i w hi hw => ?word, fun i hi hh => ?ready⟩,
    fun s n p st c e d k w b r x h hb hx hr hbank h1 h2 => ?interlock,
    fun s n p st c e d k w b h hb hw hfull => ?journal⟩
  case word =>
    have hissues : s.issuesShot n i ∧ bareShot i = i := by
      rcases hi with rfl | rfl | rfl
      · exact ⟨Or.inl ⟨_, rfl⟩, rfl⟩
      · exact ⟨Or.inr ⟨_, _, rfl⟩, rfl⟩
      · exact ⟨Or.inr ⟨_, _, rfl⟩, rfl⟩
    subst hw
    exact ⟨fun j hj hne => exec_other hissues.1 h (Stage.head_other hj (hissues.2.symm ▸ hne)),
      fun hbad => exec_malformed hissues.1 h (Stage.head_malformed (hissues.2.symm ▸ hbad))⟩
  case ready =>
    rcases hi with rfl | rfl
    · exact vector_not_ready ⟨h, hh⟩ rfl
    · exact vector_not_ready ⟨h, hh⟩ rfl
  case interlock =>
    refine (show exec (.fillb n e d k w) s = .next (s.issueTo n (.fillb n e d k w) _ _) from rfl).trans (congrArg _ ?_)
    refine ((issueTo_head h _ _).2 { tilePlan e false with writes := [b] } (by rw [hb]; rfl)).1 ?_
    exact Stage.waits_interlock hx hr List.mem_cons_self hbank h1 h2
  case journal =>
    refine (show exec (.fillb n e d k w) s = .next (s.issueTo n (.fillb n e d k w) _ _) from rfl).trans (congrArg _ ?_)
    exact (((issueTo_head h _ _).2 { tilePlan e false with writes := [b] } (by rw [hb]; rfl)).2 hw).1 (by rw [hb]; exact hfull)

end Sys2Proof.Machine
end

section
/-! SEND, RECV, COMMIT and the retiring of shots (R111, R305, R308, R324, R329, R333 to R335, R379). -/

namespace Sys2Proof.Machine

set_option Elab.async false

open Sys2Proof

variable {s t : State} {n p k : Nat} {st u : Stage} {c : Ctx} {i : Instr}

/-! ### Splice shots -/

/-- A sequencer that has issued a splice shot. -/
def Seq.withSplice (q : Seq) : Seq := { q with spliced := true }

theorem Seq.withSplice_step (q : Seq) : q.withSplice.step.pc = q.step.pc ∧ q.withSplice.step.spliced = true := by
  unfold Seq.step Seq.advance Seq.withSplice
  dsimp only
  split
  · exact ⟨rfl, rfl⟩
  · split
    · exact ⟨rfl, rfl⟩
    · split <;> exact ⟨rfl, rfl⟩

theorem State.runsAhead_false (h : s.stage n = some st) (ha : st.seq.ahead = false) : s.runsAhead n = false := by
  unfold State.runsAhead
  rw [h]
  exact ha

/-- A stage with beats queued for a side (R324). -/
def Stage.sending (st : Stage) (d : Side) (bs : List (BitVec 2048)) : Stage :=
  { (st.modLink d (fun l => { l with unacked := l.unacked ++ bs })) with seq := st.seq.withSplice }

theorem Stage.sending_link (st : Stage) (d : Side) (bs : List (BitVec 2048)) :
    ((st.sending d bs).link d).unacked = (st.link d).unacked ++ bs := by cases d <;> rfl

theorem Stage.sending_frame (st : Stage) (d : Side) (bs : List (BitVec 2048)) :
    (st.sending d bs).scratch = st.scratch ∧ (st.sending d bs).flights = st.flights ∧
    (st.sending d bs).seq = st.seq.withSplice := by cases d <;> exact ⟨rfl, rfl, rfl⟩

theorem exec_send {f : SpliceFields} (h : s.stage n = some st) (ha : st.seq.ahead = false)
    (hok : s.spliceShotOk n f = true) : exec (.send n f) s = .next (s.issueTo n (.send n f) (splicePlan f true)
      (fun q c st _ => (q.range (c.stagingOf n) f.reg f.xa (4 * f.beats.toNat)).map (fun r =>
        st.sending (Side.ofCode f.side.toNat) (beatsOf f.beats.toNat (st.readRange r))))) :=
  if_neg (by simp [State.runsAhead_false h ha, hok])

theorem exec_recv {f : SpliceFields} (h : s.stage n = some st) (ha : st.seq.ahead = false)
    (hok : s.spliceShotOk n f = true) : exec (.recv n f) s = .next ((s.issueTo n (.recv n f) (splicePlan f false)
      (fun _ _ st _ => some { st with seq := st.seq.withSplice })).drainRecv n (Side.ofCode f.side.toNat)) :=
  if_neg (by simp [State.runsAhead_false h ha, hok])

/-- A stage with an empty landing buffer has nothing to drain. -/
theorem State.drainRecv_empty {d : Side} (h : s.stage n = some st) (hl : st.land d = []) : s.drainRecv n d = s := by
  unfold State.drainRecv
  rw [h]
  dsimp only
  rw [hl]
  rfl

/-- SEND's plan: its range is read, and its beats move. -/
theorem splicePlan_send {f : SpliceFields} {q : Seq} {g : Nat} {r : LineRange}
    (h : q.range g f.reg f.xa (4 * f.beats.toNat) = some r) : splicePlan f true q g = some
      { dest := .splice (Side.ofCode f.side.toNat), reads := [r], writes := [], checked := false, beats := f.beats.toNat } := by
  unfold splicePlan
  rw [h]
  rfl

/-- RECV's plan: its range is written. -/
theorem splicePlan_recv {f : SpliceFields} {q : Seq} {g : Nat} {r : LineRange}
    (h : q.range g f.reg f.xa (4 * f.beats.toNat) = some r) : splicePlan f false q g = some
      { dest := .splice (Side.ofCode f.side.toNat), reads := [], writes := [r], checked := false, beats := f.beats.toNat } := by
  unfold splicePlan
  rw [h]
  rfl

/-- The entry that a launch adds to the queues. -/
def Plan.flight (q : Plan) (w : Seq) : Flight :=
  { no := w.issued, index := w.shot, dest := q.dest, ahead := w.ahead, checked := q.checked
    reads := q.reads, writes := q.writes, left := q.beats, slot := q.slot }

theorem launch_flights (u : Stage) (q : Plan) (w : Seq) (j : Nat) :
    (u.launch q w j).flights = u.flights ++ [q.flight w] := rfl

theorem send_spec {f : SpliceFields} {r : LineRange} (h : s.atHead n (.send n f) st p c) (ha : st.seq.ahead = false)
    (hok : s.spliceShotOk n f = true) (hr : st.seq.range (c.stagingOf n) f.reg f.xa (4 * f.beats.toNat) = some r)
    (hw : st.waits { dest := .splice (Side.ofCode f.side.toNat), reads := [r], writes := [], checked := false
                     beats := f.beats.toNat } = false) : ∃ t u, exec (.send n f) s = .next t ∧ t.stage n = some u ∧
      (u.link (Side.ofCode f.side.toNat)).unacked = (st.link (Side.ofCode f.side.toNat)).unacked ++
        beatsOf f.beats.toNat (st.readRange r) ∧ u.seq.pc = st.seq.step.pc ∧ u.seq.spliced = true ∧
      u.scratch = st.scratch ∧ u.flights.length = st.flights.length + 1 ∧ (∀ m, m ≠ n → t.stage m = s.stage m) ∧
      t = { s with stages := t.stages } := by
  obtain ⟨v, j, hv, hst, hother, hframe⟩ := exec_queued h (exec_send h.stage ha hok) (splicePlan_send hr) hw
    (by rw [hr]; rfl)
  obtain ⟨hscr, hfl, hseq⟩ := st.sending_frame (Side.ofCode f.side.toNat) (beatsOf f.beats.toNat (st.readRange r))
  obtain ⟨hpc, hspl⟩ := st.seq.withSplice_step
  refine ⟨v, _, hv, hst, ?_, ?_, ?_, ?_, ?_, hother, hframe⟩
  · rw [launch_link, Stage.sending_link]
  · rw [launch_seq, hseq, hpc]
  · rw [launch_seq, hseq, hspl]
  · rw [launch_scratch, hscr]
  · rw [launch_flights_length, hfl]

theorem recv_spec {f : SpliceFields} {r : LineRange} (h : s.atHead n (.recv n f) st p c) (ha : st.seq.ahead = false)
    (hok : s.spliceShotOk n f = true) (hr : st.seq.range (c.stagingOf n) f.reg f.xa (4 * f.beats.toNat) = some r)
    (hw : st.waits { dest := .splice (Side.ofCode f.side.toNat), reads := [], writes := [r], checked := false
                     beats := f.beats.toNat } = false) (hl : st.land (Side.ofCode f.side.toNat) = []) : ∃ t u,
      exec (.recv n f) s = .next t ∧ t.stage n = some u ∧ u.seq.pc = st.seq.step.pc ∧ u.seq.spliced = true ∧
      u.scratch = st.scratch ∧ (∃ x, u.flights = st.flights ++ [x] ∧ x.writes = [r] ∧ x.left = f.beats.toNat) ∧
      (∀ m, m ≠ n → t.stage m = s.stage m) ∧ t = { s with stages := t.stages } := by
  have hput := (((issueTo_head h (splicePlan f false)
    (fun _ _ st _ => some { st with seq := st.seq.withSplice })).2 _ (splicePlan_recv hr)).2 hw).2 _ rfl
  have hexec := exec_recv h.stage ha hok
  rw [hput, State.drainRecv_empty (State.stage_putStage _ h.stage)
    (by rw [launch_land, ← hl]; cases Side.ofCode f.side.toNat <;> rfl)] at hexec
  obtain ⟨hpc, hspl⟩ := st.seq.withSplice_step
  exact ⟨_, _, hexec, State.stage_putStage _ h.stage, hpc, hspl, rfl, ⟨_, launch_flights .., rfl, rfl⟩,
    fun m hm => State.stage_putStage_other _ _ hm, rfl⟩

/-! ### COMMIT -/

theorem exec_commit {j : BitVec 12} {g : BitVec 4} {xa xe : Bool} {e : Nat} {o : OutEntry}
    (h : s.issuer n = some (st, p, c)) (ha : st.seq.ahead = false) (he : commitEntry n j xe st.seq c = some (e, o)) :
    exec (.commit n j g xa xe) s = .next (s.issueTo n (.commit n j g xa xe)
      (fun q m => (q.range m g xa o.lines).map (fun r =>
        { dest := .commit, reads := [r], writes := [], checked := false, beats := 0, slot := some (e, c.outPort o) }))
      (fun _ _ st _ => some st)) := by
  show execCommit n j g xa xe s = _
  unfold execCommit
  rw [h]
  dsimp only
  rw [he]
  exact if_neg (by simp [ha])

/-! ### Retiring -/

theorem exec_shotRetire_busy {f : Flight} (h : s.stage n = some st)
    (hf : st.flights.find? (fun x => x.no = k) = some f) (ok : Bool) (hb : s.slotBusy n f = true) : exec (.shotRetire n k ok) s = .next s := by
  show execShotRetire n k ok s = _
  unfold execShotRetire
  rw [h]
  dsimp only
  rw [hf]
  exact if_pos (by simp [hb])

section Retire

variable {f : Flight} {ok : Bool} (h : s.stage n = some st) (hf : st.flights.find? (fun x => x.no = k) = some f)
  (hlive : s.live = true) (hcl : st.clocked = true) (hold : st.oldest f = true) (hleft : f.left = 0)

include h hf hlive hcl hold hleft

theorem exec_shotRetire_error (hb : s.slotBusy n f = false) (hch : f.checked = true) : exec (.shotRetire n k false) s =
    .next (s.detect { stageErr 0x01 n (some (.engine n (st.engineMap.getD f.dest.engineCode f.dest.engineCode))) with
      engine := f.dest.engineCode, shot := f.index, ahead := f.ahead }) := by
  show execShotRetire n k false s = _
  unfold execShotRetire
  rw [h]
  dsimp only
  rw [hf]
  exact (if_neg (by simp [hlive, hcl, hold, hleft, hb])).trans (if_pos (by simp [hch]))

theorem exec_shotRetire (hb : s.slotBusy n f = false) (hch : f.checked = false ∨ ok = true) :
    exec (.shotRetire n k ok) s =
      .next (s.putStage n (((s.ctxOf n).elim st (fun q => st.copyOut n q.2 f)).retireShot f)) := by
  show execShotRetire n k ok s = _
  unfold execShotRetire
  rw [h]
  dsimp only
  rw [hf]
  dsimp only
  refine (if_neg (by simp [hlive, hcl, hold, hleft, hb])).trans ((if_neg (by rcases hch with h | h <;> simp [h])).trans ?_)
  cases s.ctxOf n <;> rfl

end Retire

/-- A shot that is no COMMIT copies nothing. -/
theorem Stage.copyOut_none {f : Flight} (h : f.slot = none) (n : Nat) (c : Ctx) : st.copyOut n c f = st := by
  unfold Stage.copyOut
  rw [h]

/-- A COMMIT copies its lines to the slot of the frame's parity (R111, R329). -/
theorem Stage.copyOut_commit {f : Flight} {e : Nat} {q : Port} {r : LineRange} {o : OutEntry} (hs : f.slot = some (e, q))
    (hr : f.reads = [r]) (ho : c.outEntry e = some o) : st.copyOut n c f =
      st.stageOutput (c.stagingOf n) e o (parityOf c.frame) (linesOf o.lines (st.readRange r)) := by
  unfold Stage.copyOut
  rw [hs, hr]
  dsimp only
  rw [ho]

theorem Stage.stageOutput_fields (st : Stage) (g e : Nat) (o : OutEntry) (a : Nat) (ls : List Line) (f : Flight) :
    ((st.stageOutput g e o a ls).retireShot f).flights = st.flights.filter (fun x => x.no ≠ f.no) ∧
    ((st.stageOutput g e o a ls).retireShot f).staged =
      st.staged.filter (fun x => x.entry ≠ e) ++ [{ entry := e, parity := a, lines := ls }] ∧
    ((st.stageOutput g e o a ls).retireShot f).journal = st.journal ∧
    ((st.stageOutput g e o a ls).retireShot f).acc = st.acc ∧
    ((st.stageOutput g e o a ls).retireShot f).seq = st.seq := by
  unfold Stage.stageOutput
  generalize cellSetList st.scratch (lineKey (st.physBank 47) (slotLine g a + o.offset)) (ls.flatMap lineBytes) = m
  exact ⟨rfl, rfl, rfl, rfl, rfl⟩

/-- Settles O40: the two splice shots, COMMIT, and the retiring of a shot. -/
theorem spliceShotsCommitAndRetire : Obligations.SpliceShotsCommitAndRetire := by
  refine ⟨fun s n p st c f r h ha hok hr => ⟨fun hh hw => send_spec ⟨h, hh⟩ ha hok hr hw,
      fun hh hw hl => recv_spec ⟨h, hh⟩ ha hok hr hw hl⟩,
    fun s n p st c j g xa xe e o r h ha he hr hw => ?_,
    fun s n k st f ok h hf hlive hcl hold hleft => ⟨exec_shotRetire_busy h hf ok,
      fun hb hch hs => ?_, fun p e c o q r hb hch hc hs hr ho => ?_,
      exec_shotRetire_error h hf hlive hcl hold hleft⟩⟩
  · obtain ⟨v, a, hv, hst, hother, hframe⟩ := exec_queued h (exec_commit h.1 ha he) (by rw [hr]; rfl) hw rfl
    exact ⟨v, _, hv, hst, ⟨_, launch_flights .., rfl, rfl, rfl⟩, rfl, rfl, rfl, rfl, hother, hframe⟩
  · refine (exec_shotRetire h hf hlive hcl hold hleft hb hch).trans ?_
    cases s.ctxOf n with
    | none => rfl
    | some q => rw [Option.elim_some, Stage.copyOut_none hs]
  · have hexec := exec_shotRetire h hf hlive hcl hold hleft hb hch
    rw [hc, Option.elim_some, Stage.copyOut_commit hs hr ho] at hexec
    have hno : f.no = k := by simpa using List.find?_some hf
    obtain ⟨hfl, hstg, hj, hacc, hseq⟩ := st.stageOutput_fields (c.stagingOf n) e o (parityOf c.frame)
      (linesOf o.lines (st.readRange r)) f
    exact ⟨_, _, hexec, State.stage_putStage _ h, hno ▸ hfl, hstg, hj, hacc, hseq,
      fun m hm => State.stage_putStage_other _ _ hm, rfl⟩

end Sys2Proof.Machine
end

section
/-! Token signals (R326, R328, R432). -/

namespace Sys2Proof.Machine

set_option Elab.async false

open Sys2Proof

variable {s : State} {n p : Nat} {st : Stage} {c : Ctx}

/-! ### SIGT -/

/-- A counter inside its range takes an addition as it is (R326). -/
theorem Seq.addToken_fits {q : Seq} {j k : Nat} (h : q.tokens.getD j 0 + k ≤ 0xFFFF) :
    q.addToken j k = ({ q with tokens := setAt q.tokens j (q.tokens.getD j 0 + k) }, false) := by
  unfold Seq.addToken capAt
  dsimp only
  rw [if_pos h, decide_eq_false (by omega)]

theorem Seq.addToken_overflows {q : Seq} {j k : Nat} (h : 0xFFFF < q.tokens.getD j 0 + k) : (q.addToken j k).2 = true :=
  decide_eq_true h

section Sigt

variable {row : BitVec 3} {col : BitVec 4} {t : BitVec 5} {k : BitVec 16} (h : s.atHead n (.sigt n row col t k) st p c)
  (hd : st.drained = true) (hrow : row.toNat < c.reel.h) (hcol : col.toNat < c.reel.w)

include h hd hrow hcol

/-- A signal to the own stage (R326). -/
theorem exec_sigt_self (hself : c.offsets n = (row.toNat, col.toNat)) : exec (.sigt n row col t k) s = .next
    (if (st.seq.addToken t.toNat k.toNat).2 then s.failStageCtx n 0x16
      else s.sequenced n (fun q => (q.addToken t.toNat k.toNat).1)) := by
  refine (exec_sequence h rfl).trans (congrArg Host.Outcome.next ?_)
  dsimp only
  rw [decide_eq_true hself]
  exact (if_neg (by omega)).trans ((if_neg (by simp [hd])).trans (if_neg (by decide)))

/-- A signal to another stage (R432). -/
theorem exec_sigt_other (hother : c.offsets n ≠ (row.toNat, col.toNat)) (ha : st.seq.ahead = false) :
    exec (.sigt n row col t k) s = .next ((s.sendFlit (colOf n) false
      (tokenFlit n (c.origin + 12 * row.toNat + col.toNat) c t k)).sequenced n id) := by
  refine (exec_sequence h rfl).trans (congrArg Host.Outcome.next ?_)
  dsimp only
  rw [decide_eq_false hother]
  exact (if_neg (by omega)).trans ((if_neg (by simp [hd, ha])).trans (if_pos rfl))

theorem exec_sigt_fits (hself : c.offsets n = (row.toNat, col.toNat)) (hfit : st.seq.tokens.getD t.toNat 0 + k.toNat ≤ 0xFFFF) :
    exec (.sigt n row col t k) s = .next (s.modStage n (fun u => { u with seq := { u.seq.step with
      tokens := setAt u.seq.step.tokens t.toNat (u.seq.step.tokens.getD t.toNat 0 + k.toNat) } })) := by
  refine (exec_sigt_self h hd hrow hcol hself).trans (congrArg Host.Outcome.next ?_)
  rw [if_neg (by rw [Seq.addToken_fits hfit]; exact Bool.false_ne_true)]
  unfold State.sequenced
  rw [State.modStage_put h.stage, State.modStage_put h.stage]
  dsimp only
  rw [Seq.addToken_fits (by rw [Seq.step_tokens]; exact hfit)]

end Sigt

/-- A flit without data as it enters a spine. -/
def bareFlit (col : Nat) (header : BitVec 128) : SpineOut :=
  { col := col, north := false, header := header, data := none, crc := flitCrc header none }

theorem bareFlit_fields (col : Nat) (header : BitVec 128) : (bareFlit col header).col = col ∧
    (bareFlit col header).north = false ∧ (bareFlit col header).data = none ∧ (bareFlit col header).header = header ∧
    (bareFlit col header).crc = flitCrc (bareFlit col header).header none := by
  unfold bareFlit
  dsimp only
  simp only [and_self]

theorem State.sendFlit_eq (s : State) (col : Nat) (f : FlitHeader) :
    s.sendFlit col false f = { s with spineOut := s.spineOut ++ [bareFlit col (flitBits f)] } := by
  unfold State.sendFlit State.putFlit bareFlit
  exact Eq.refl _

/-! ### Arrivals -/

/-- What a stage that works in the current frame does with a signal (R328). -/
theorem signalUse_working {fr : BitVec 16} {take : BitVec 4} (hf : c.inFrame = true) (hs : st.skipping = false)
    (ha : st.seq.ahead = false) :
    signalUse st c fr take =
      if fr = c.frame.truncate 16 ∧ take = c.take then .apply
      else if fr = c.frame.truncate 16 ∧ take = c.take + 1 then .hold
      else if fr = (c.frame + 1).truncate 16 ∧ take = 0 then .hold
      else .discard := by
  unfold signalUse
  dsimp only
  rw [hf, hs, ha]
  simp only [Bool.true_and, if_true, Bool.and_eq_true, decide_eq_true_eq, Bool.false_eq_true, if_false]

/-- The low bits of the next frame's number are not those of the current one. -/
theorem truncate_succ_ne (f : BitVec 48) : (f + 1).truncate 16 ≠ f.truncate 16 := by
  intro h
  have h' := congrArg BitVec.toNat h
  simp only [BitVec.truncate_eq_setWidth, BitVec.toNat_setWidth, BitVec.toNat_add, show (1 : BitVec 48).toNat = 1 from rfl] at h'
  omega

theorem take_succ_ne (x : BitVec 4) : x + 1 ≠ x := by
  intro h
  have h' := congrArg BitVec.toNat h
  simp only [BitVec.toNat_add, show (1 : BitVec 4).toNat = 1 from rfl] at h'
  omega

theorem takeSignal_eq (h : s.stage n = some st) (hc : s.ctxOf n = some (p, c)) (hcl : st.clocked = true)
    (he : c.ended = none) (hdue : c.endDue = none) (t : BitVec 5) (k fr : BitVec 16) (take : BitVec 4) :
    s.takeSignal n t k fr take = match signalUse st c fr take with
      | .discard => s
      | .hold => s.putStage n { st with seq := { st.seq with
          held := st.seq.held ++ [{ token := t.toNat, inc := k.toNat, frame := fr, take := take }] } }
      | .apply => if (st.seq.addToken t.toNat k.toNat).2 then s.failStageCtx n 0x16
          else s.putStage n { st with seq := (st.seq.addToken t.toNat k.toNat).1 } := by
  unfold State.takeSignal
  rw [h, hc]
  dsimp only
  refine (if_neg (by simp [hcl, he, hdue])).trans ?_
  cases signalUse st c fr take <;> rfl

section Arrival

variable {t : BitVec 5} {k fr : BitVec 16} {take : BitVec 4} {g : FlitHeader} {rest : List SpineOut}

theorem exec_tokenArrival_none (h : takeFlit (colOf n) true n (fun f => f.cls = 0 && f.op = 2 && f.arg = tokenArg t k fr take)
    [] s.spineOut = none) : exec (.tokenSignalArrival n t k fr take) s = .next s := by
  show execTokenSignalArrival n t k fr take s = _
  unfold execTokenSignalArrival
  rw [h]

theorem exec_tokenArrival (h : takeFlit (colOf n) true n (fun f => f.cls = 0 && f.op = 2 && f.arg = tokenArg t k fr take)
    [] s.spineOut = some (g, rest)) : exec (.tokenSignalArrival n t k fr take) s =
      .next (if s.staleFlit g then { s with spineOut := rest }
        else ({ s with spineOut := rest } : State).takeSignal n t k fr take) := by
  show execTokenSignalArrival n t k fr take s = _
  unfold execTokenSignalArrival
  rw [h]
  dsimp only
  have hs : ({ s with spineOut := rest } : State).staleFlit g = s.staleFlit g := rfl
  rw [hs]
  split <;> rfl

end Arrival

/-- Settles O33: signals sent, by their target, and signals that arrive, by their frame and take. -/
theorem tokenSignals : Obligations.TokenSignals := by
  refine ⟨fun s n p st c row col t k h hd hrow hcol => ⟨exec_sigt_fits h hd hrow hcol, fun hself hover => ?overflow,
      fun hother ha => ?other⟩, fun s n t k fr take => ⟨exec_tokenArrival_none, fun g rest hg => ⟨fun hst => ?stale,
      fun p st c hst h hc hcl he hdue hf hs ha => ?arrive⟩⟩⟩
  case overflow =>
    exact (exec_sigt_self h hd hrow hcol hself).trans (congrArg _ (if_pos (Seq.addToken_overflows hover)))
  case other =>
    have hexec := exec_sigt_other h hd hrow hcol hother ha
    rw [State.sendFlit_eq] at hexec
    generalize htok : tokenFlit n (c.origin + 12 * row.toNat + col.toNat) c t k = f at *
    obtain ⟨hcolx, hnorth, hdata, hheader, hcrc⟩ := bareFlit_fields (colOf n) (flitBits f)
    generalize bareFlit (colOf n) (flitBits f) = x at *
    exact ⟨_, _, x, hexec, State.stage_modStage (s := { s with spineOut := s.spineOut ++ [x] }) _ h.stage, rfl, rfl,
      hcolx, hnorth, hdata, hheader, hcrc, rfl⟩
  case stale => exact (exec_tokenArrival hg).trans (congrArg _ (if_pos hst))
  case arrive =>
    have hexec : exec (.tokenSignalArrival n t k fr take) s = _ :=
      (exec_tokenArrival hg).trans (congrArg _ ((if_neg (by simp [hst])).trans
        (takeSignal_eq (s := { s with spineOut := rest }) h hc hcl he hdue t k fr take)))
    rw [signalUse_working hf hs ha] at hexec
    refine ⟨fun h1 h2 hfit => ?_, fun h1 h2 hover => ?_, fun hnext => ?_, fun h1 h2 => ?_⟩
    · rw [if_pos ⟨h1, h2⟩] at hexec
      refine hexec.trans (congrArg _ ?_)
      dsimp only
      rw [Seq.addToken_fits hfit]
      rfl
    · rw [if_pos ⟨h1, h2⟩] at hexec
      exact hexec.trans (congrArg _ (if_pos (Seq.addToken_overflows hover)))
    · rcases hnext with ⟨h1, h2⟩ | ⟨h1, h2⟩
      · rw [if_neg (by rw [h2]; exact fun h => take_succ_ne _ h.2), if_pos ⟨h1, h2⟩] at hexec
        exact hexec
      · have hne : fr ≠ c.frame.truncate 16 := h1 ▸ truncate_succ_ne _
        rw [if_neg (fun h => hne h.1), if_neg (fun h => hne h.1), if_pos ⟨h1, h2⟩] at hexec
        exact hexec
    · rw [if_neg (fun h => h1 h.1), if_neg (fun h => h1 h.1), if_neg (fun h => h2 h.1)] at hexec
      exact hexec

end Sys2Proof.Machine
end

section
/-! The header of a spine flit and its fields (Table 13.2). -/

namespace Sys2Proof.Machine

set_option Elab.async false

open Sys2Proof

variable {f : FlitHeader} {h : BitVec 128}

/-- The bits that an event's argument, or line, bank and status, fill. -/
def FlitHeader.high (f : FlitHeader) : Nat := if f.cls = 0 then f.arg else f.line + f.bank * 2 ^ 16 + f.status * 2 ^ 22

/-- The low 56 bits of a header. -/
def FlitHeader.low (f : FlitHeader) : Nat :=
  f.cls + f.data.toNat * 2 ^ 2 + f.src * 2 ^ 4 + f.dst * 2 ^ 12 + f.ctx.toNat * 2 ^ 20
    + f.epoch.toNat * 2 ^ 28 + f.op * 2 ^ 36 + f.tag.toNat * 2 ^ 40

theorem FlitHeader.low_lt (hcls : f.cls < 4) (hsrc : f.src < 256) (hdst : f.dst < 256) (hop : f.op < 16) :
    f.low < 2 ^ 56 := by
  have hd := f.data.toNat_le
  have hc := f.ctx.isLt
  have he := f.epoch.isLt
  have ht := f.tag.isLt
  unfold FlitHeader.low
  omega

theorem flitBits_toNat (hlow : f.low < 2 ^ 56) (hhigh : f.high < 2 ^ 72) :
    (flitBits f).toNat = f.low + f.high * 2 ^ 56 := by
  have hbits : flitBits f = BitVec.ofNat 128 (f.low + f.high * 2 ^ 56) := by
    simp only [flitBits, FlitHeader.low, FlitHeader.high]
  rw [hbits, BitVec.toNat_ofNat]
  exact Nat.mod_eq_of_lt (by omega)

/-- A field of a header, as a number. -/
theorem extract_flit (start w : Nat) : (h.extractLsb' start w).toNat = h.toNat / 2 ^ start % 2 ^ w := by
  rw [BitVec.extractLsb'_toNat, Nat.shiftRight_eq_div_pow]

/-- The low fields of a header's bits are the header's. -/
theorem flitFields_low (hcls : f.cls < 4) (hsrc : f.src < 256) (hdst : f.dst < 256) (hop : f.op < 16)
    (hhigh : f.high < 2 ^ 72) :
    (flitFields (flitBits f)).cls = f.cls ∧ (flitFields (flitBits f)).data = f.data ∧
    (flitFields (flitBits f)).src = f.src ∧ (flitFields (flitBits f)).dst = f.dst ∧
    (flitFields (flitBits f)).ctx = f.ctx ∧ (flitFields (flitBits f)).epoch = f.epoch ∧
    (flitFields (flitBits f)).op = f.op ∧ (flitFields (flitBits f)).tag = f.tag := by
  have hn := flitBits_toNat (FlitHeader.low_lt hcls hsrc hdst hop) hhigh
  have hd := f.data.toNat_le
  have hc := f.ctx.isLt
  have he := f.epoch.isLt
  have ht := f.tag.isLt
  unfold FlitHeader.low at hn
  unfold flitFields
  dsimp only
  refine ⟨?_, ?_, ?_, ?_, BitVec.eq_of_toNat_eq ?_, BitVec.eq_of_toNat_eq ?_, ?_, BitVec.eq_of_toNat_eq ?_⟩
  case refine_2 =>
    rw [BitVec.getLsbD, Nat.testBit_eq_decide_div_mod_eq, hn]
    cases hf : f.data <;> simp only [hf, Bool.toNat_true, Bool.toNat_false, decide_eq_true_eq, decide_eq_false_iff_not] at * <;>
      omega
  all_goals
    rw [extract_flit, hn]
    omega

/-- The high fields of a header's bits are the header's. -/
theorem flitFields_high (hlow : f.low < 2 ^ 56) (hhigh : f.high < 2 ^ 72) :
    (flitFields (flitBits f)).line = f.high % 2 ^ 16 ∧ (flitFields (flitBits f)).bank = f.high / 2 ^ 16 % 2 ^ 6 ∧
    (flitFields (flitBits f)).status = f.high / 2 ^ 22 % 2 ^ 2 ∧ (flitFields (flitBits f)).arg = f.high := by
  have hn := flitBits_toNat hlow hhigh
  unfold flitFields
  dsimp only
  refine ⟨?_, ?_, ?_, ?_⟩ <;> rw [extract_flit, hn] <;> omega

/-- The fields of a header's bits, the argument of a class without one being what the other fields make. -/
theorem flitFields_flitBits (hcls : f.cls < 4) (hsrc : f.src < 256) (hdst : f.dst < 256) (hop : f.op < 16)
    (hline : f.line < 65536) (hbank : f.bank < 64) (hstatus : f.status < 4) (harg : f.arg < 2 ^ 72)
    (hsame : f.arg % 2 ^ 24 = f.line + f.bank * 2 ^ 16 + f.status * 2 ^ 22) (hshort : f.cls ≠ 0 → f.arg < 2 ^ 24) :
    flitFields (flitBits f) = f := by
  have hhigh : f.high = f.arg := by
    unfold FlitHeader.high
    split
    · rfl
    · next hc => have := hshort hc; omega
  have hlow := FlitHeader.low_lt hcls hsrc hdst hop
  obtain ⟨h1, h2, h3, h4, h5, h6, h7, h8⟩ := flitFields_low hcls hsrc hdst hop (hhigh ▸ harg)
  obtain ⟨h9, h10, h11, h12⟩ := flitFields_high hlow (hhigh ▸ harg)
  generalize flitFields (flitBits f) = g at *
  cases g
  cases f
  simp only [FlitHeader.mk.injEq] at *
  refine ⟨h1, h2, h3, h4, h5, h6, h7, h8, ?_, ?_, ?_, h12.trans hhigh⟩ <;> omega

/-- The low fields of a header make its low bits, bit 3 being zero. -/
theorem low_flitFields (h3 : h.getLsbD 3 = false) : (flitFields h).low = h.toNat % 2 ^ 56 := by
  rw [BitVec.getLsbD, Nat.testBit_eq_decide_div_mod_eq, decide_eq_false_iff_not] at h3
  have hdata : (h.getLsbD 2).toNat = h.toNat / 2 ^ 2 % 2 := by
    rw [BitVec.getLsbD, Nat.testBit_eq_decide_div_mod_eq]
    have := Nat.mod_lt (h.toNat / 2 ^ 2) (show 0 < 2 by decide)
    by_cases hb : h.toNat / 2 ^ 2 % 2 = 1
    · rw [decide_eq_true hb, hb]; rfl
    · rw [decide_eq_false hb]
      exact (show (0 : Nat) = _ by omega)
  simp only [FlitHeader.low, flitFields, hdata, extract_flit]
  omega

/-- The high fields of a header make its high bits, all of them in an event, 24 of them in the other classes. -/
theorem high_flitFields (hres : (flitFields h).cls = 0 ∨ h.toNat < 2 ^ 80) : (flitFields h).high = h.toNat / 2 ^ 56 := by
  have hlt := h.isLt
  unfold FlitHeader.high
  split
  · simp only [flitFields, extract_flit]
    omega
  · next hc =>
    have := hres.resolve_left hc
    simp only [flitFields, extract_flit]
    omega

/-- A header whose reserved bits are zero is the bits of its fields. -/
theorem flitBits_flitFields (h3 : h.getLsbD 3 = false) (hres : (flitFields h).cls = 0 ∨ h.toNat < 2 ^ 80) :
    flitBits (flitFields h) = h := by
  have hlow := low_flitFields h3
  have hhigh := high_flitFields hres
  have hlt := h.isLt
  refine BitVec.eq_of_toNat_eq ?_
  rw [flitBits_toNat (by omega) (by omega), hlow, hhigh]
  omega

/-- Settles O56, by the low and the high fields of a header's number. -/
theorem flitHeaderRoundTrip : Obligations.FlitHeaderRoundTrip :=
  ⟨fun _ hcls hsrc hdst hop hline hbank hstatus harg hsame hshort =>
    flitFields_flitBits hcls hsrc hdst hop hline hbank hstatus harg hsame hshort, fun _ => flitBits_flitFields⟩

end Sys2Proof.Machine
end

section
/-! Hours, calibration collections and armed measurements (R234, R236, R256 to R259, R261, R262, R453, R478). -/

namespace Sys2Proof.Machine

set_option Elab.async false

open Sys2Proof

variable {s t : State}

/-! ### The days-in-service record (Table 7.2) -/

theorem Days.bytes_eq (d : Days) : d.bytes = leBytes 4 0x53444953 ++ (leBytes 4 d.seq ++ (leBytes 4 d.day.toNat ++
    (leBytes 1 d.hour ++ (zeros 3 ++ (leBytes 4 d.boot.toNat ++ (zeros 8 ++ leBytes 4 (crc32 d.body).toNat)))))) := by
  show (leBytes 4 0x53444953 ++ leBytes 4 d.seq ++ leBytes 4 d.day.toNat ++ leBytes 1 d.hour ++ zeros 3
    ++ leBytes 4 d.boot.toNat ++ zeros 8) ++ leBytes 4 (crc32 d.body).toNat = _
  simp only [List.append_assoc]

theorem Days.body_length (d : Days) : d.body.length = 28 := by
  simp [Days.body]

theorem Days.fields (d : Days) : fieldAt d.bytes 0 4 = 0x53444953 ∧ fieldAt d.bytes 4 4 = d.seq % 2 ^ 32 ∧
    fieldAt d.bytes 8 4 = d.day.toNat ∧ fieldAt d.bytes 12 1 = d.hour % 256 ∧ fieldAt d.bytes 16 4 = d.boot.toNat := by
  have hday := d.day.isLt
  have hboot := d.boot.isLt
  rw [d.bytes_eq]
  have shift := fun (w v : Nat) (post : List Byte) off k => fieldAt_shift (leBytes w v) post off k
  have shift0 := fun (post : List Byte) off k => fieldAt_shift (zeros 3) post off k
  simp only [leBytes_length, show (zeros 3).length = 3 from rfl] at shift shift0
  refine ⟨(fieldAt_head ..).trans (by decide), (shift 4 _ _ 0 4).trans (fieldAt_head ..), ?_, ?_, ?_⟩
  · refine (shift 4 _ _ 4 4).trans ((shift 4 _ _ 0 4).trans ((fieldAt_head ..).trans ?_))
    exact Nat.mod_eq_of_lt hday
  · refine (shift 4 _ _ 8 1).trans ((shift 4 _ _ 4 1).trans ((shift 4 _ _ 0 1).trans (fieldAt_head ..)))
  · refine (shift 4 _ _ 12 4).trans ((shift 4 _ _ 8 4).trans ((shift 4 _ _ 4 4).trans ((shift 1 _ _ 3 4).trans
      ((shift0 _ 0 4).trans ((fieldAt_head ..).trans ?_)))))
    exact Nat.mod_eq_of_lt hboot

/-- A days-in-service record whose fields fit reads back as it was written (R234). -/
theorem daysOf_bytes {d : Days} (hs : d.seq < 2 ^ 32) (hh : d.hour < 24) : daysOf d.bytes = some d := by
  obtain ⟨h1, h2, h3, h4, h5⟩ := d.fields
  have hseal : sealOk 32 d.bytes = true := sealOk_sealed 32 d.body (by rw [d.body_length])
  have hhour : d.hour % 256 = d.hour := Nat.mod_eq_of_lt (by omega)
  unfold daysOf
  rw [if_pos ⟨h1, by rw [h4, hhour]; exact hh, hseal⟩, h2, h3, h4, h5, Nat.mod_eq_of_lt hs, hhour]
  simp only [BitVec.ofNat_toNat, BitVec.setWidth_eq]

/-- A saved count stands in one of the two copies (R234). -/
theorem Flash.saveDays_holds (f : Flash) (day : BitVec 32) (hour : Nat) (boot : BitVec 32) : ∃ d : Days,
    ((f.saveDays day hour boot).days0 = d.bytes ∨ (f.saveDays day hour boot).days1 = d.bytes) ∧ d.day = day ∧
    d.hour = hour ∧ d.boot = boot := by
  unfold Flash.saveDays
  split
  · next d one _ =>
    refine ⟨{ seq := d.seq + 1, day := day, hour := hour, boot := boot }, ?_, rfl, rfl, rfl⟩
    cases one
    · exact Or.inr rfl
    · exact Or.inl rfl
  · exact ⟨{ seq := 1, day := day, hour := hour, boot := boot }, Or.inl rfl, rfl, rfl, rfl⟩

/-! ### The hour count -/

/-- The state with its hour counted (R234). -/
def State.hourOn (s : State) : State := { s with time := { s.time with
  hourCount := if s.time.hourCount = 23 then 0 else s.time.hourCount + 1
  dayCount := if s.time.hourCount = 23 then s.time.dayCount + 1 else s.time.dayCount } }

/-- The state after an hour (R234, R236, R262, R453, R478). -/
def State.hourDone (s : State) : State := { s with
  time := { s.hourOn.time with corr := s.hourOn.hourCorr }
  flash := s.flash.saveDays s.hourOn.time.dayCount s.hourOn.time.hourCount s.time.bootCount
  transients := []
  stages := s.stages.map (fun st => { st with clock := { st.clock with overruns := 0, limitHit := false } })
  iu := if s.strap 18 = 1 then { s.iu with collecting := some 1 } else s.iu }

theorem exec_hourCount (hb : s.pins.bootDone = true) (hr : s.inReset = false) : exec .hourCount s = .next s.hourDone :=
  if_neg (by simp [hb, hr])

theorem exec_hourCount_not (h : s.pins.bootDone = false ∨ s.inReset = true) : exec .hourCount s = .next s :=
  if_pos (by rcases h with h | h <;> simp [h])

/-- The correction after an hour (R236, R241). -/
theorem State.hourDone_corr (s : State) :
    (s.time.holdover = false → s.hasSource = false → s.hourDone.time.corr = s.hourDone.yAge) ∧
    (s.time.holdover = false → s.hasSource = true → s.hourDone.time.corr = s.time.corr) ∧
    (s.time.holdover = true → s.hourDone.time.corr = clampPpb (s.time.corr - s.ageing / 24)) := by
  have hcorr : s.hourDone.time.corr =
      if s.time.holdover then clampPpb (s.time.corr - s.ageing / 24)
      else if s.hasSource then s.time.corr else s.hourOn.yAge := rfl
  rw [hcorr]
  refine ⟨fun h1 h2 => ?_, fun h1 h2 => ?_, fun h => if_pos h⟩
  · rw [if_neg (by simp [h1]), if_neg (by simp [h2])]
    rfl
  · rw [if_neg (by simp [h1]), if_pos h2]

theorem hourCount_spec (s : State) :
    (∃ d : Days, (s.hourDone.flash.days0 = d.bytes ∨ s.hourDone.flash.days1 = d.bytes) ∧
      d.day = s.hourDone.time.dayCount ∧ d.hour = s.hourDone.time.hourCount ∧ d.boot = s.time.bootCount) ∧
    (∀ n st, s.stage n = some st → s.hourDone.stage n = some { st with
      clock := { st.clock with overruns := 0, limitHit := false } }) ∧
    (s.strap 18 = 1 → s.hourDone.iu = { s.iu with collecting := some 1 }) ∧
    (s.strap 18 ≠ 1 → s.hourDone.iu = s.iu) :=
  ⟨s.flash.saveDays_holds .., fun _ _ h => (List.getElem?_map ..).trans (congrArg (Option.map _) h), fun h => if_pos h,
    fun h => if_neg h⟩

/-! ### Calibration -/

/-- A table of a channel after a collection (R261, R262). -/
theorem calibrated_table (tables : List (CalTable × Int)) (hits : List (Nat × List Nat)) {i : Nat} {x : CalTable × Int}
    (h : tables[i]? = some x) :
    (hits.find? (fun h => h.1 = i) = none → (calibrated tables hits)[i]? = some x) ∧
    (∀ h, hits.find? (fun h => h.1 = i) = some h → hitsValid h.2 = true →
      (calibrated tables hits)[i]? = some (.statistical h.2, x.2)) ∧
    (∀ h, hits.find? (fun h => h.1 = i) = some h → hitsValid h.2 = false → (calibrated tables hits)[i]? = some x) := by
  have hat : (tables.zipIdx)[i]? = some (x, i) := by
    rw [List.getElem?_zipIdx, h, Option.map_some, Nat.zero_add]
  unfold calibrated
  rw [List.getElem?_map, hat, Option.map_some]
  dsimp only
  refine ⟨fun hn => by rw [hn], fun y hy hv => ?_, fun y hy hv => ?_⟩
  · rw [hy]
    exact congrArg some (if_pos hv)
  · rw [hy]
    exact congrArg some (if_neg (by simp [hv]))

theorem exec_bootCalibration {hits : List (Nat × List Nat)} (hb : s.pins.booting = true) (hp : 4 ≤ s.pins.bootPhase)
    (hs : s.strap 18 ≠ 2) : exec (.bootCalibrationComplete hits) s =
      .next (({ s with iu := { s.iu with tables := calibrated s.iu.tables hits } }).calRecord 0 hits) :=
  if_pos (by simp [hb, hp, hs])

theorem exec_collection {hits : List (Nat × List Nat)} {g : Nat} (h : s.iu.collecting = some g) :
    exec (.calibrationCollectionComplete hits) s = .next (({ s with iu := { s.iu with
      collecting := none, shadow := some (calibrated s.iu.tables hits) } }).calRecord g hits) ∧
    exec .calibrationAbandon s = .next (({ s with iu := { s.iu with collecting := none } }).calRecord g []) := by
  refine ⟨?_, ?_⟩
  · show execCalibrationCollectionComplete hits s = _
    unfold execCalibrationCollectionComplete
    rw [h]
  · show execCalibrationAbandon s = _
    unfold execCalibrationAbandon
    rw [h]

theorem exec_no_collection {hits : List (Nat × List Nat)} (h : s.iu.collecting = none) :
    exec (.calibrationCollectionComplete hits) s = .next s ∧ exec .calibrationAbandon s = .next s := by
  refine ⟨?_, ?_⟩
  · show execCalibrationCollectionComplete hits s = _
    unfold execCalibrationCollectionComplete
    rw [h]
  · show execCalibrationAbandon s = _
    unfold execCalibrationAbandon
    rw [h]

/-- A calibration record is a record (R262). -/
theorem State.calRecord_frame (s : State) (g : Nat) (hits : List (Nat × List Nat)) :
    s.calRecord g hits = s.recordsOf (s.calRecord g hits) := s.emit_frame ..

theorem calRecord_iu (s : State) (x : Iu) (g : Nat) (hits : List (Nat × List Nat)) {t : State}
    (ht : t = ({ s with iu := x } : State).calRecord g hits) : t.iu = x ∧ t = { s.recordsOf t with iu := t.iu } := by
  have h := State.calRecord_frame { s with iu := x } g hits
  rw [← ht] at h
  exact ⟨by rw [h]; rfl, by rw [h]; rfl⟩

/-- Settles O49: the hour, the collections and their tables, and the record of days in service. -/
theorem hoursAndCalibration : Obligations.HoursAndCalibration := by
  refine ⟨fun s hb hr => ?_, fun s h => exec_hourCount_not h, fun s hits hb hp hs => ?_, fun s g hits h => ⟨?_, ?_⟩,
    fun s hits h => exec_no_collection h, fun d hs hh => daysOf_bytes hs hh⟩
  · obtain ⟨hdays, hstages, hyes, hno⟩ := hourCount_spec s
    obtain ⟨hfree, hsource, hhold⟩ := s.hourDone_corr
    exact ⟨_, exec_hourCount hb hr, rfl, rfl, rfl, hdays, hfree, hsource, hhold, hstages, hyes, hno, rfl⟩
  · obtain ⟨hiu, hframe⟩ := calRecord_iu s { s.iu with tables := calibrated s.iu.tables hits } 0 hits rfl
    refine ⟨_, exec_bootCalibration hb hp hs, ?_, fun i x hx => ?_, ?_, hframe⟩
    · rw [hiu]
      simp [calibrated]
    · rw [hiu]
      exact calibrated_table s.iu.tables hits hx
    · rw [hiu]
  · exact ⟨_, (exec_collection h).1, calRecord_iu s _ g hits rfl⟩
  · exact ⟨_, (exec_collection (hits := hits) h).2, calRecord_iu s _ g [] rfl⟩

end Sys2Proof.Machine
end

section
/-! Armed measurements (R256 to R259). -/

namespace Sys2Proof.Machine

set_option Elab.async false

open Sys2Proof

variable {s : State} {input tap v v0 : Nat} {m : Meas}

/-! ### The fate of an edge -/

theorem State.edgeFate_first (h : s.iu.lastIn.getD input none = none) (v : Nat) : s.edgeFate input v = .taken := by
  unfold State.edgeFate
  rw [h]

theorem State.edgeFate_ignored (h : s.iu.lastIn.getD input none = some v0) (hv : v - v0 < s.holdOff) :
    s.edgeFate input v = .ignored := by
  unfold State.edgeFate
  rw [h]
  exact if_pos (by omega)

theorem State.edgeFate_lost (h : s.iu.lastIn.getD input none = some v0) (h1 : s.holdOff ≤ v - v0) (h2 : v - v0 < 1024) :
    s.edgeFate input v = .lost := by
  unfold State.edgeFate
  rw [h]
  have hh : 512 ≤ s.holdOff := by
    unfold State.holdOff
    rw [List.getD_eq_getElem?_getD]
    cases hk : ([512, 1024, 2048, 4096, 8192, 16384] : List Nat)[s.strap 16]? with
    | none => decide
    | some x =>
      have hmem := List.mem_of_getElem? hk
      simp only [List.mem_cons, List.not_mem_nil, or_false] at hmem
      show 512 ≤ x
      omega
  exact (if_neg (by omega)).trans (if_pos (by omega))

/-- The state after an edge is taken, before it is measured. -/
def State.edgeTaken (s : State) (input v : Nat) : State :=
  { s with iu := { s.iu with lastIn := setAt s.iu.lastIn input (some v) } }

/-- The state after an edge is lost (R256). -/
def State.edgeLost (s : State) (input : Nat) : State :=
  { s with iu := { s.iu with
    lost := s.iu.lost + 1
    meas := s.iu.meas.map (fun m => { m with
      lost := m.lost || (decide (input = s.startInput) || s.stopInputs.contains input) }) } }

theorem State.inputEdge_ignored (h : s.edgeFate input v = .ignored) : s.inputEdge input v = s := by
  unfold State.inputEdge
  rw [h]

theorem State.inputEdge_lost (h : s.edgeFate input v = .lost) : s.inputEdge input v = s.edgeLost input := by
  unfold State.inputEdge
  rw [h]
  rfl

theorem State.inputEdge_taken (h : s.edgeFate input v = .taken) :
    s.inputEdge input v = (s.edgeTaken input v).measure input v (s.iu.table input).1.uncal := by
  unfold State.inputEdge
  rw [h]
  rfl

theorem State.measure_closed (h : s.iu.meas = none) (b : Bool) : s.measure input v b = s := by
  unfold State.measure
  rw [h]

/-- The first edge of the start input after the arm stamp starts the measurement (R258). -/
theorem State.measure_starts (h : s.iu.meas = some m) (hm : m.start = none) (hi : input = s.startInput) (hv : m.armAt ≤ v)
    (b : Bool) : s.measure input v b = { s with iu := { s.iu with
      meas := some { m with start := some v, uncal := m.uncal || b } } } := by
  have htake : m.take s.startInput s.stopInputs input v b = { m with start := some v, uncal := m.uncal || b } := by
    unfold Meas.take
    rw [hm]
    exact if_pos ⟨hi, hv⟩
  unfold State.measure
  rw [h]
  dsimp only
  rw [htake]

/-! ### Arms and edges -/

section Ready

variable (hb : s.pins.bootDone = true) (hr : s.inReset = false)

include hb hr

theorem exec_gateArm (h : s.iu.meas = none) : exec .gateArm s = .next { s with iu := { s.iu with
    number := s.iu.number + 1
    meas := some { number := s.iu.number, armAt := s.time.wafer.toNat, start := none, stops := [], lost := false
                   uncal := false } } } :=
  if_neg (by simp [hb, hr, h])

theorem exec_inputEdge (hi : input ≤ 8) (ht : tap ≤ 255) (hv : v = s.inputStamp input tap) :
    exec (.intervalInputEdge input tap) s = .next (s.inputEdge input v) := by
  subst hv
  exact if_neg (by simp [hb, hr]; omega)

end Ready

theorem exec_gateArm_open (h : s.iu.meas.isSome) : exec .gateArm s = .next s :=
  if_pos (by simp [h])

/-! ### Closes -/

/-- A record that finds room joins a port's queue (R406). -/
theorem HostPort.enqueue_room (q : HostPort) (r : Record) (h : queueBytes q.queue + 16 * r.body.units ≤ 262144) :
    (q.enqueue r).queue = q.queue ++ [.item r] := by
  unfold HostPort.enqueue
  rw [if_pos h]

theorem State.closeMeasure_open (h : s.iu.meas = some m) (b : Bool) : s.closeMeasure b =
    ({ s with iu := { s.iu with meas := none } }).emit 0 0 (.interval (s.measureBytes m b)) := by
  unfold State.closeMeasure
  rw [h]

theorem State.closeMeasure_closed (h : s.iu.meas = none) (b : Bool) : s.closeMeasure b = s := by
  unfold State.closeMeasure
  rw [h]

/-- What the close of a measurement leaves (R259). -/
theorem closeMeasure_spec (h : s.iu.meas = some m) (b : Bool) {t : State} (ht : t = s.closeMeasure b) :
    t.iu = { s.iu with meas := none } ∧
    (∀ q : Port, queueBytes (s.port q).queue + 176 ≤ 262144 → (t.port q).queue = (s.port q).queue ++
      [.item { ctx := 0, epoch := 0, time := s.stamp, body := .interval (s.measureBytes m b) }]) ∧
    t = { s.recordsOf t with iu := t.iu } := by
  rw [State.closeMeasure_open h] at ht
  generalize s.measureBytes m b = bytes at *
  subst ht
  refine ⟨rfl, fun q hq => ?_, rfl⟩
  cases q
  · exact HostPort.enqueue_room s.portA { ctx := 0, epoch := 0, time := s.stamp, body := .interval bytes } hq
  · exact HostPort.enqueue_room s.portB { ctx := 0, epoch := 0, time := s.stamp, body := .interval bytes } hq

/-- Settles O50: the arm, an edge by its fate, and the close. -/
theorem armedMeasurements : Obligations.ArmedMeasurements := by
  refine ⟨fun s hb hr => ⟨exec_gateArm hb hr, exec_gateArm_open, fun input tap v hi ht hv =>
      ⟨fun v0 h0 hlt => ?_, fun v0 h0 hge hlt => ?_, fun h0 hm => ?_, fun m h0 hm hs hin harm => ?_⟩⟩,
    fun s m h => ⟨⟨_, rfl, closeMeasure_spec h false rfl⟩, ⟨_, rfl, closeMeasure_spec h true rfl⟩⟩,
    fun s h => ⟨congrArg _ (State.closeMeasure_closed h false), congrArg _ (State.closeMeasure_closed h true)⟩⟩
  · rw [exec_inputEdge hb hr hi ht hv, State.inputEdge_ignored (State.edgeFate_ignored h0 hlt)]
  · exact ⟨_, (exec_inputEdge hb hr hi ht hv).trans (congrArg _ (State.inputEdge_lost (State.edgeFate_lost h0 hge hlt))),
      rfl, rfl, rfl⟩
  · rw [exec_inputEdge hb hr hi ht hv, State.inputEdge_taken (State.edgeFate_first h0 v)]
    exact congrArg _ (State.measure_closed (s := s.edgeTaken input v) hm _)
  · rw [exec_inputEdge hb hr hi ht hv, State.inputEdge_taken (State.edgeFate_first h0 v)]
    exact congrArg _ (State.measure_starts (s := s.edgeTaken input v) hm hs hin harm _)

end Sys2Proof.Machine
end

section
/-! PPS discipline (R237 to R242, R255, R256). -/

namespace Sys2Proof.Machine

set_option Elab.async false

open Sys2Proof

variable {s u t : State} {w back tap : Nat}

/-! ### The edge that the discipline takes -/

/-- An input edge changes the interval unit alone. -/
theorem State.inputEdge_frame (s : State) (input v : Nat) : s.inputEdge input v = { s with iu := (s.inputEdge input v).iu } := by
  unfold State.inputEdge State.measure
  split
  · rfl
  · rfl
  · split <;> rfl

/-- The state after an edge of PPS_IN has been an edge of input 8 (R256). -/
def State.ppsInput (s : State) (v : Nat) : State := if s.pins.bootDone then s.inputEdge 8 v else s

theorem State.ppsInput_frame (s : State) (v : Nat) : s.ppsInput v = { s with iu := (s.ppsInput v).iu } := by
  unfold State.ppsInput
  split
  · exact s.inputEdge_frame ..
  · rfl

theorem exec_ppsEdge_other {falling : Bool} (h : s.ppsActive = false ∨ falling ≠ s.ppsFalling) :
    exec (.ppsEdge falling w back tap) s = .next s := by
  refine if_pos ?_
  rcases h with h | h <;> simp [h]

section Edge

variable (hp : s.ppsActive = true) (hf : s.time.epochFixed = true) (hr : s.inReset = false) (ht : tap ≤ 255)

include hp hf hr ht

theorem exec_ppsEdge : exec (.ppsEdge s.ppsFalling w back tap) s =
    if s.edgeFate 8 (s.stampBefore 8 back tap) = .taken then
      .next ((s.ppsInput (s.stampBefore 8 back tap)).ppsTake (decide (s.ppsMinWidth ≤ w)) (s.stampBefore 9 back tap))
    else .next (s.ppsInput (s.stampBefore 8 back tap)) :=
  if_neg (by simp [hp, hf, hr]; omega)

end Edge

/-! ### What a taken edge does -/

section Take

variable {v a e : Int}

theorem State.ppsTake_ignored {ok : Bool} (h : ok = false ∨ s.time.pps.spaced v = false) : s.ppsTake ok v =
    { s with time := { s.time with pps := { s.time.pps with ignored := s.time.pps.ignored + 1 } } } :=
  if_pos (by rcases h with h | h <;> simp [h])

section Valid

variable (hs : s.time.pps.spaced v = true)

include hs

/-- A valid edge while acquisition runs (R238). -/
theorem State.ppsTake_acquires (hn : s.time.pps.acquired = false) : s.ppsTake true v =
    if (s.ppsAcquire v).2 then (s.ppsAcquire v).1.discipline 0x01 else (s.ppsAcquire v).1 :=
  (if_neg (by simp [hs])).trans (if_neg (by simp [hn]))

/-- A valid edge while the loop runs (R238 to R240). -/
theorem State.ppsTake_runs (ha : s.time.pps.acquired = true) (hanchor : s.time.pps.anchor = some a) :
    s.ppsTake true v = s.ppsRun a v := by
  refine (if_neg (by simp [hs])).trans ((if_pos ha).trans ?_)
  rw [hanchor]
  rfl

end Valid

/-- The first valid edge is held (R238). -/
theorem State.ppsAcquire_first (h : s.time.pps.pending = none) (v : Int) : s.ppsAcquire v =
    ({ s with time := { s.time with pps := { s.time.pps with pending := some v, lastEdge := some v } } }, false) := by
  unfold State.ppsAcquire
  dsimp only
  rw [h]

/-- The state that acquires at an edge one second after the held one (R238). -/
def State.ppsSeeded (s : State) (v v0 : Int) : State :=
  { s with time := { s.time with
    corr := clampPpb (s.time.corr - (v - v0 - second : Int) / 256), holdover := false
    pps := { s.time.pps with
      pending := none, anchor := some v, acquired := true, lastEdge := some v, lastErr := 0, lockRun := 0
      outliers := 0, clampRun := 0, told := false, prevCorr := s.time.corr } } }

theorem State.ppsAcquire_second {v0 : Int} (h : s.time.pps.pending = some v0) (hv : nearSeconds 1 (v - v0) = true) :
    s.ppsAcquire v = (s.ppsSeeded v v0, true) := by
  unfold State.ppsAcquire
  dsimp only
  rw [h]
  exact if_pos hv

theorem State.ppsSeeded_discipline (s : State) (v v0 : Int) (ht : t = (s.ppsSeeded v v0).discipline 0x01) :
    t.time.pps.acquired = true ∧ t.time.pps.anchor = some v ∧ t.time.pps.pending = none ∧
    t.time.corr = clampPpb (s.time.corr - (v - v0 - 256000000000 : Int) / 256) ∧ t.time.holdover = false ∧
    t.time = { s.time with pps := t.time.pps, corr := t.time.corr, holdover := false } ∧
    t = { s.recordsOf t with time := t.time } := by
  have h := (s.ppsSeeded v v0).discipline_frame 0x01
  rw [← ht] at h
  have htime : t.time = (s.ppsSeeded v v0).time := by rw [h]; rfl
  refine ⟨?_, ?_, ?_, ?_, ?_, ?_, ?_⟩
  case refine_7 => rw [h]; rfl
  all_goals
    rw [htime]
    rfl

/-- An outlier of a locked loop is set aside (R240). -/
theorem State.ppsRun_outlier (hl : s.time.pps.locked = true) (he : 256000 < (phaseError a v).natAbs) : s.ppsRun a v =
    { s with time := { s.time with
      pps := { s.time.pps.clampEdge s.time.corr with lastEdge := some v, outliers := s.time.pps.outliers + 1 } } } :=
  (if_pos (by simp only [oneMicro, Bool.and_eq_true, decide_eq_true_eq]; exact ⟨hl, by omega⟩)).trans rfl

/-- An edge close to its second is used (R239). -/
theorem State.ppsRun_uses (he : (phaseError a v).natAbs ≤ 256000) : s.ppsRun a v =
    { s with time := { s.time with
      pps := (Pps.use { s.time.pps with lastEdge := some v } s.time.corr (phaseError a v)).1
      corr := (Pps.use { s.time.pps with lastEdge := some v } s.time.corr (phaseError a v)).2 } } :=
  (if_neg (by simp only [oneMicro, Bool.and_eq_true, decide_eq_true_eq]; omega)).trans
    (if_neg (by simp only [tenMicros]; omega))

/-- What the loop's use of an edge gives (R239, R240). -/
theorem Pps.use_spec (p : Pps) (v : Int) (y : Rat) (e : Int) (q : Pps × Rat)
    (hq : q = Pps.use { p with lastEdge := some v } y e) :
    q.2 = clampPpb (y - (e - p.lastErr : Int) / 2048 - (e : Rat) / 16384) ∧ q.1.lastErr = e ∧ q.1.prevCorr = y ∧
    q.1.outliers = 0 ∧ q.1.lockRun = (if e.natAbs ≤ 12800 then p.lockRun + 1 else 0) := by
  subst hq
  exact ⟨rfl, rfl, rfl, rfl, rfl⟩

end Take

/-! ### Lock, loss and range -/

section Active

variable (hp : s.ppsActive = true)

include hp

theorem exec_disciplineLock (ha : s.time.pps.acquired = true) (hl : s.time.pps.locked = false)
    (hr : 16 ≤ s.time.pps.lockRun) (hc : s.time.pps.clampRun < 64) : exec .disciplineLock s = .next
      (({ s with time := { s.time with pps := { s.time.pps with locked := true, outliers := 0 }
                                       epochId := { s.time.epochId with kind := 1 } } } : State).discipline 0x02) :=
  if_pos (by simp [hp, ha, hl, hr, hc])

theorem exec_ppsOutlierLoss (hl : s.time.pps.locked = true) (ho : 4 ≤ s.time.pps.outliers) :
    exec .ppsOutlierLoss s = .next s.losePps :=
  if_pos (by simp [hp, hl, ho])

theorem exec_ppsLoss (h : s.time.pps.acquired = true ∨ s.time.pps.pending.isSome) : exec .ppsLoss s = .next s.losePps :=
  if_pos (by rcases h with h | h <;> simp [hp, h])

theorem exec_rangeExceeded (hc : 64 ≤ s.time.pps.clampRun) (ht : s.time.pps.told = false) :
    exec .disciplineRangeExceeded s = .next ((({ s with time := { s.time with
      pps := { s.time.pps with told := true } } } : State).discipline 0x05).errorEvent (moduleErr 0x19 0 none) 0x00 0) :=
  if_pos (by simp [hp, hc, ht])

end Active

theorem exec_ppsOutlierLoss_not (h : s.time.pps.locked = false ∨ s.time.pps.outliers < 4) :
    exec .ppsOutlierLoss s = .next s :=
  if_neg (by rcases h with h | h <;> simp [h])

theorem exec_ppsLoss_not (ha : s.time.pps.acquired = false) (hn : s.time.pps.pending = none) :
    exec .ppsLoss s = .next s :=
  if_neg (by simp [ha, hn])

theorem exec_rangeExceeded_not (h : s.time.pps.clampRun < 64 ∨ s.time.pps.told = true) :
    exec .disciplineRangeExceeded s = .next s :=
  if_neg (by rcases h with h | h <;> simp [h])

/-- A discipline whose acquisition begins afresh (R241). -/
def Pps.lost (p : Pps) : Pps := { p with
  pending := none, acquired := false, locked := false, lockRun := 0, outliers := 0, clampRun := 0, told := false }

/-- A locked module that loses discipline holds its last correction (R241). -/
theorem State.losePps_locked (hl : s.time.pps.locked = true) (ht : t = s.losePps) :
    t.time.pps.locked = false ∧ t.time.pps.acquired = false ∧ t.time.holdover = true ∧
    t.time.corr = s.time.pps.prevCorr ∧
    t.time.epochId.kind = (if s.time.epochId.kind = 1 then 2 else s.time.epochId.kind) ∧
    t.time.wafer = s.time.wafer ∧ t = { s.recordsOf t with time := t.time } := by
  have hlose : s.losePps = ({ s.kindHoldover with time := { s.kindHoldover.time with
      pps := s.time.pps.lost, holdover := true, corr := s.time.pps.prevCorr } } : State).discipline 0x03 := if_pos hl
  have hkind : s.kindHoldover.time.epochId.kind = if s.time.epochId.kind = 1 then 2 else s.time.epochId.kind := by
    unfold State.kindHoldover
    split <;> rfl
  have hframe := s.kindHoldover_frame
  rw [hlose] at ht
  generalize s.kindHoldover = k at *
  have hd := State.discipline_frame 0x03 (s := { k with time := { k.time with
    pps := s.time.pps.lost, holdover := true, corr := s.time.pps.prevCorr } })
  rw [← ht] at hd
  have htime : t.time = { k.time with pps := s.time.pps.lost, holdover := true, corr := s.time.pps.prevCorr } := by
    rw [hd]; rfl
  refine ⟨by rw [htime]; rfl, by rw [htime]; rfl, by rw [htime], by rw [htime], by rw [htime]; exact hkind,
    by rw [htime, hframe], by rw [hd, hframe]; rfl⟩

/-- A module that loses its acquisition takes the ageing correction (R241). -/
theorem State.losePps_acquiring (hl : s.time.pps.locked = false) (ht : t = s.losePps) :
    t.time.pps.acquired = false ∧ t.time.pps.pending = none ∧ t.time.holdover = false ∧ t.time.corr = s.yAge ∧
    t = { s.recordsOf t with time := t.time } := by
  have hlose : s.losePps = ({ s with time := { s.time with
      pps := s.time.pps.lost, holdover := false, corr := s.yAge } } : State).discipline 0x04 := if_neg (by simp [hl])
  rw [hlose] at ht
  have hd := State.discipline_frame 0x04 (s := { s with time := { s.time with
    pps := s.time.pps.lost, holdover := false, corr := s.yAge } })
  rw [← ht] at hd
  have htime : t.time = { s.time with pps := s.time.pps.lost, holdover := false, corr := s.yAge } := by rw [hd]; rfl
  exact ⟨by rw [htime]; rfl, by rw [htime]; rfl, by rw [htime], by rw [htime], by rw [hd]; rfl⟩

/-- The clauses on a taken edge, in the state that the input's edge leaves. -/
theorem ppsTaken_spec (hu : u.time = s.time) (v : Int) {w : Nat} {x : Host.Outcome State Fault Refusal}
    (hx : x = .next (u.ppsTake (decide (s.ppsMinWidth ≤ w)) v)) :
    (w < s.ppsMinWidth ∨ s.time.pps.spaced v = false →
      x = .next { u with time := { s.time with pps := { s.time.pps with ignored := s.time.pps.ignored + 1 } } }) ∧
    (s.ppsMinWidth ≤ w → s.time.pps.spaced v = true → s.time.pps.acquired = false →
      (s.time.pps.pending = none → x = .next { u with time := { s.time with
        pps := { s.time.pps with pending := some v, lastEdge := some v } } }) ∧
      (∀ v0, s.time.pps.pending = some v0 → nearSeconds 1 (v - v0) = true → ∃ t, x = .next t ∧
        t.time.pps.acquired = true ∧ t.time.pps.anchor = some v ∧ t.time.pps.pending = none ∧
        t.time.corr = clampPpb (s.time.corr - (v - v0 - 256000000000 : Int) / 256) ∧ t.time.holdover = false ∧
        t.time = { s.time with pps := t.time.pps, corr := t.time.corr, holdover := false } ∧
        t = { u.recordsOf t with time := t.time })) ∧
    (∀ a e, s.ppsMinWidth ≤ w → s.time.pps.spaced v = true → s.time.pps.acquired = true →
      s.time.pps.anchor = some a → e = phaseError a v →
      (s.time.pps.locked = true → 256000 < e.natAbs → x = .next { u with time := { s.time with
        pps := { s.time.pps.clampEdge s.time.corr with lastEdge := some v, outliers := s.time.pps.outliers + 1 } } }) ∧
      (e.natAbs ≤ 256000 → ∃ t, x = .next t ∧
        t.time.corr = clampPpb (s.time.corr - (e - s.time.pps.lastErr : Int) / 2048 - (e : Rat) / 16384) ∧
        t.time.pps.lastErr = e ∧ t.time.pps.prevCorr = s.time.corr ∧ t.time.pps.outliers = 0 ∧
        t.time.pps.lockRun = (if e.natAbs ≤ 12800 then s.time.pps.lockRun + 1 else 0) ∧
        t.time.applied = s.time.applied ∧ t = { u with time := t.time })) := by
  rw [← hu]
  subst hx
  refine ⟨fun h => ?ignored, fun hw hs hn => ⟨fun hpend => ?first, fun v0 hpend hv => ?second⟩,
    fun a e hw hs ha hanchor he => ?runs⟩
  case ignored =>
    exact congrArg _ (State.ppsTake_ignored (h.imp_left fun h => decide_eq_false (by omega)))
  case first =>
    rw [decide_eq_true hw, State.ppsTake_acquires hs hn, State.ppsAcquire_first hpend]
    rfl
  case second =>
    rw [decide_eq_true hw, State.ppsTake_acquires hs hn, State.ppsAcquire_second hpend hv]
    exact ⟨_, rfl, State.ppsSeeded_discipline u v v0 rfl⟩
  case runs =>
    rw [decide_eq_true hw, State.ppsTake_runs hs ha hanchor]
    subst he
    refine ⟨fun hl hout => congrArg _ (State.ppsRun_outlier hl hout), fun hsmall => ?_⟩
    obtain ⟨hcorr, herr, hprev, hout, hrun⟩ := u.time.pps.use_spec v u.time.corr (phaseError a v) _ rfl
    exact ⟨_, congrArg _ (State.ppsRun_uses hsmall), hcorr, herr, hprev, hout, hrun, rfl, rfl⟩

/-- Settles O51: the edge, then the lock, its losses and the range. -/
theorem ppsDiscipline : Obligations.PpsDiscipline := by
  refine ⟨fun s falling w back tap h => exec_ppsEdge_other h, fun s u w back tap hp hf hr ht hu v hv => ?edge,
    fun s hp => ⟨fun ha hl hr hc => ?lock, fun hl ho => ?outliers, exec_ppsOutlierLoss_not, fun hl h => ?loss,
      exec_ppsLoss_not, fun hc ht => ?range, exec_rangeExceeded_not⟩⟩
  case edge =>
    have hexec := exec_ppsEdge (w := w) (back := back) (tap := tap) hp hf hr ht
    have hu' : u = s.ppsInput (s.stampBefore 8 back tap) := hu
    have htime : u.time = s.time := by
      rw [hu', State.ppsInput_frame]
    rw [← hu', ← hv] at hexec
    refine ⟨fun hfate => hexec.trans (if_neg hfate), fun hfate => ?_⟩
    exact ppsTaken_spec htime v (hexec.trans (if_pos hfate))
  case lock => exact ⟨_, exec_disciplineLock hp ha hl hr hc, rfl, rfl⟩
  case outliers => exact ⟨_, exec_ppsOutlierLoss hp hl ho, State.losePps_locked hl rfl⟩
  case loss => exact ⟨_, exec_ppsLoss hp h, State.losePps_acquiring hl rfl⟩
  case range =>
    refine ⟨_, exec_rangeExceeded hp hc ht, ?_, ?_, ?_⟩
    case refine_2 => exact State.errorEvent_toldError ..
    all_goals
      rw [State.errorEvent_frame]
      rfl

end Sys2Proof.Machine
end

section
/-! The servo of a tick slave, steps of wafer time and the tick chain (R226, R233, R250 to R252, R254). -/

namespace Sys2Proof.Machine

set_option Elab.async false

open Sys2Proof

variable {s t : State} {b : Int}

/-! ### Steps of wafer time -/

/-- The boundary at which a step is made (R226). -/
def State.boundary (s : State) : WaferTime := BitVec.ofNat 72 (ceilTo 5120 s.time.wafer.toNat)

/-- What a step of wafer time leaves (R226, R227, R229, R233, R250). -/
theorem State.stepTime_spec (s : State) (b : Int) (r : Nat) (ht : t = s.stepTime b r) :
    t.time.wafer = shiftTime s.boundary b ∧ (∀ st ∈ t.stages, st.clock.resync = true ∧ st.island = t.time.wafer) ∧
    t.time.corr = s.time.corr ∧ t.time.tickCount = s.time.tickCount ∧ t.time.slave.acquired = s.time.slave.acquired ∧
    t.time.slave.stepBy = none ∧
    t.time.slave.east = s.time.slave.east.map (fun x => { x with t2 := shiftStamp x.t2 b }) ∧
    t.iu = { s.iu with lastIn := s.iu.lastIn.map (fun o => o.map (fun v => shiftStamp v b)) } ∧
    t = { s.recordsOf t with time := t.time, gaffer := t.gaffer, stages := t.stages, iu := t.iu } := by
  subst ht
  refine ⟨rfl, fun st hst => ?_, rfl, rfl, rfl, rfl, rfl, rfl, rfl⟩
  obtain ⟨x, -, rfl⟩ := List.mem_map.mp hst
  exact ⟨rfl, rfl⟩

/-! ### Acquisition -/

/-- A slave that has acquired, and waits for a step or for none (R250). -/
def State.slaveAcquired (s : State) (o : Option Int) : State :=
  { s with time := { s.time with slave := { s.time.slave with acquired := true, lockRun := 0, badRun := 0, stepBy := o } } }

section Acquire

variable {o : Rat} (hs : s.isSlave = true) (ho : o = mean (s.time.slave.offsets.take 8))
  (ha : s.time.slave.acquired = false) (hd : 8 ≤ s.time.slave.delays.length) (hg : agree (s.time.slave.delays.take 8) = true)

include hs ho ha hd hg

theorem exec_slaveAcquire : exec .slaveAcquire s =
    if -5120 < o ∧ o < 5120 then .next (s.slaveAcquired none)
    else if s.pins.booting then .next ((s.slaveAcquired none).stepTime (stepOf o) 0x00)
    else if s.numCtx = 0 then .next (s.slaveAcquired (some (stepOf o)))
    else if -256000 ≤ o ∧ o ≤ 256000 then .next (s.slaveAcquired none)
    else .next ((s.slaveAcquired (some (stepOf o))).slaveHold.discipline 0x03) := by
  subst ho
  exact if_neg (by simp [hs, ha, hg]; omega)

end Acquire

theorem exec_slaveAcquire_not (h : s.time.slave.acquired = true ∨ s.time.slave.delays.length < 8) :
    exec .slaveAcquire s = .next s :=
  if_pos (by rcases h with h | h <;> simp [h])

/-- A slave that enters holdover changes its epoch kind and its holdover alone (R252). -/
theorem State.slaveHold_spec (s : State) (ht : t = s.slaveHold.discipline 0x03) :
    t.time = { s.time with holdover := true, epochId := t.time.epochId } ∧
    t.time.epochId.kind = (if s.time.epochId.kind = 1 then 2 else s.time.epochId.kind) ∧
    t = { s.recordsOf t with time := t.time } := by
  have hkind : s.kindHoldover.time.epochId.kind = if s.time.epochId.kind = 1 then 2 else s.time.epochId.kind := by
    unfold State.kindHoldover
    split <;> rfl
  have hframe := s.kindHoldover_frame
  have hd := State.discipline_frame 0x03 (s := s.slaveHold)
  rw [← ht] at hd
  have htime : t.time = { s.kindHoldover.time with holdover := true } := by rw [hd]; rfl
  have hhold : s.slaveHold = { s.kindHoldover with time := { s.kindHoldover.time with holdover := true } } := rfl
  rw [hhold] at hd
  generalize s.kindHoldover = k at *
  exact ⟨by rw [htime, hframe], by rw [htime]; exact hkind, by rw [hd, hframe]; rfl⟩

/-! ### Lock and holdover -/

theorem exec_slaveLock {x : SyncSeen} (hs : s.isSlave = true) (hx : s.time.slave.parentSync = some x)
    (ha : s.time.slave.acquired = true) (hl : s.time.slave.locked = false) (hr : 16 ≤ s.time.slave.lockRun)
    (hb : s.time.slave.stepBy = none) : exec .slaveLock s = .next (({ s with time := { s.time with
      slave := { s.time.slave with locked := true, badRun := 0 }, epochId := { s.time.epochId with kind := x.msg.kind }
      tickIn := TimeBase.reset.tickIn, holdover := false } } : State).discipline 0x02) := by
  show execSlaveLock s = _
  unfold execSlaveLock
  dsimp only
  rw [hx]
  exact if_pos (by simp [hs, ha, hl, hr, hb])

theorem exec_slaveLock_not (h : s.time.slave.lockRun < 16) : exec .slaveLock s = .next s := by
  show execSlaveLock s = _
  unfold execSlaveLock
  dsimp only
  cases s.time.slave.parentSync with
  | none => rfl
  | some x => exact if_neg (by simp; omega)

/-- A slave whose exchanges begin afresh (R252). -/
def Slave.lost (v : Slave) : Slave := { v with
  delays := [], offsets := [], acquired := false, locked := false, lockRun := 0, badRun := 0, stepBy := none }

theorem exec_slaveHoldover (hs : s.isSlave = true) (hl : s.time.slave.locked = true) : exec .slaveHoldover s =
    .next (({ s with time := { s.time with slave := s.time.slave.lost } } : State).slaveHold.discipline 0x03) :=
  if_pos (by simp [hs, hl])

theorem exec_slaveHoldover_not (hl : s.time.slave.locked = false) : exec .slaveHoldover s = .next s :=
  if_neg (by simp [hl])

/-! ### The step that waits -/

theorem exec_waferTimeStep (h : s.time.slave.stepBy = some b) (hs : s.isSlave = true) (hb : s.pins.bootDone = true)
    (hr : s.inReset = false) :
    exec .waferTimeStep s = .next (if s.numCtx = 0 then s.stepTime b 0x01 else s.waitStep b) := by
  show execWaferTimeStep s = _
  unfold execWaferTimeStep
  rw [h]
  exact if_pos (by simp [hs, hb, hr])

theorem exec_waferTimeStep_none (h : s.time.slave.stepBy = none) : exec .waferTimeStep s = .next s := by
  show execWaferTimeStep s = _
  unfold execWaferTimeStep
  rw [h]

/-- A large step that waits while a context exists leaves the slave in holdover (R250). -/
theorem State.waitStep_large (h : b < -256000 ∨ 256000 < b) (ht : t = s.waitStep b) : t.time.holdover = true ∧
    t.time.wafer = s.time.wafer ∧ t = { s.recordsOf t with time := t.time } := by
  have hwait : s.waitStep b = if s.time.holdover then s else s.slaveHold.discipline 0x03 :=
    if_neg (by rintro ⟨h1, h2⟩; omega)
  rw [hwait] at ht
  by_cases hh : s.time.holdover = true
  · rw [if_pos hh] at ht
    subst ht
    exact ⟨hh, rfl, rfl⟩
  · rw [if_neg hh] at ht
    obtain ⟨htime, -, hframe⟩ := State.slaveHold_spec s ht
    exact ⟨by rw [htime], by rw [htime], hframe⟩

/-! ### The tick chain -/

section TickIn

variable {edge tap v : Nat} {l : WaferTime} (hs : s.isSlave = true) (hl : s.time.slave.locked = true)
  (ht : s.time.lastTick = some l) (hv : v = s.stampAt 10 edge tap)

include ht hv

theorem exec_tickInEdge_early {v0 : Nat} (h0 : s.time.tickIn.last = some v0) (hlt : v < v0 + 16384) :
    exec (.tickInEdge edge tap) s = .next s := by
  subst hv
  have he : s.time.tickIn.early (s.stampAt 10 edge tap) = true := by
    unfold TickIn.early
    rw [h0]
    exact decide_eq_true hlt
  show execTickInEdge edge tap s = _
  unfold execTickInEdge
  rw [ht]
  exact if_pos (by simp [he])

include hs hl

theorem exec_tickInEdge (h0 : ∀ v0, s.time.tickIn.last = some v0 → v0 + 16384 ≤ v) :
    exec (.tickInEdge edge tap) s = .next (s.chainEdge l v) := by
  have he : s.time.tickIn.early v = false := by
    unfold TickIn.early
    cases hlast : s.time.tickIn.last with
    | none => rfl
    | some v0 =>
      have := h0 v0 hlast
      exact decide_eq_false (by omega)
  subst hv
  show execTickInEdge edge tap s = _
  unfold execTickInEdge
  rw [ht]
  exact if_neg (by simp [hs, hl, he])

end TickIn

/-- A state whose tick-chain record has moved on. -/
def State.withTickIn (s : State) (base : Int) (run v : Nat) : State :=
  { s with time := { s.time with tickIn := { base := some base, badRun := run, last := some v } } }

theorem State.chainEdge_first (h : s.time.tickIn.base = none) (l : WaferTime) (v : Nat) :
    s.chainEdge l v = s.withTickIn ((v : Int) - l.toNat) 0 v := by
  unfold State.chainEdge
  dsimp only
  rw [h]
  rfl

/-- An edge against its baseline (R254). -/
theorem State.chainEdge_against {a : Int} (h : s.time.tickIn.base = some a) (l : WaferTime) (v run : Nat)
    (hrun : run = if ((v : Int) - l.toNat - a).natAbs ≤ 12800 then 0 else s.time.tickIn.badRun + 1) :
    s.chainEdge l v = if run = 4 then ((s.withTickIn a run v).discipline 0x07).errorEvent (moduleErr 0x1A 0 none) 0x00 0
      else s.withTickIn a run v := by
  subst hrun
  unfold State.chainEdge
  dsimp only
  rw [h]
  rfl

theorem State.chainReport_spec (s : State) (ht : t = (s.discipline 0x07).errorEvent (moduleErr 0x1A 0 none) 0x00 0) :
    t.time = s.time ∧ t.toldError (s.errBody (moduleErr 0x1A 0 none) 0 0) ∧ t = s.recordsOf t := by
  have hd := s.discipline_frame 0x07
  have htold := (s.discipline 0x07).errorEvent_toldError (moduleErr 0x1A 0 none) 0x00 0
  have he := (s.discipline 0x07).errorEvent_frame (moduleErr 0x1A 0 none) 0x00 0
  rw [← ht] at htold he
  have hbody : (s.discipline 0x07).errBody (moduleErr 0x1A 0 none) 0 0 = s.errBody (moduleErr 0x1A 0 none) 0 0 := by
    rw [hd]; rfl
  exact ⟨by rw [he, hd]; rfl, hbody ▸ htold, by rw [he, hd]; rfl⟩

/-- Settles O53: acquisition, lock, holdover, the step that waits, and the tick chain. -/
theorem slaveServo : Obligations.SlaveServo := by
  refine ⟨fun s o hs ho => ⟨fun ha hd hg => ?acquire, exec_slaveAcquire_not, fun x hx ha hl hr hb => ?lock,
      exec_slaveLock_not, fun hl => ?holdover, exec_slaveHoldover_not⟩,
    fun s b h hs hb hr => ⟨fun hn => ?step, fun hn h1 h2 => ?small, fun hn hbig => ?large⟩,
    fun s h => exec_waferTimeStep_none h,
    fun s edge tap v l hs hl ht hv => ⟨fun v0 h0 hlt => exec_tickInEdge_early ht hv h0 hlt, fun h0 => ?chain⟩⟩
  case acquire =>
    have hexec := exec_slaveAcquire hs ho ha hd hg
    refine ⟨fun h1 h2 => ?_, fun h1 hb => ?_, fun h1 hb hn => ?_, fun h1 h2 hb hn => ?_, fun h1 hb hn => ?_⟩
    · exact hexec.trans (if_pos ⟨h1, h2⟩)
    all_goals
      rw [if_neg (fun h => absurd h.2 (not_lt.mpr (by linarith)))] at hexec
    · rw [if_pos hb] at hexec
      obtain ⟨hw, hst, hc, -, hacq, -, -, -, hframe⟩ := State.stepTime_spec (s.slaveAcquired none) (stepOf o) 0 rfl
      exact ⟨_, hexec, hacq, hw, hst, hc, hframe⟩
    all_goals
      rw [if_neg (by simp [hb])] at hexec
    · exact hexec.trans (if_pos hn)
    all_goals
      rw [if_neg hn] at hexec
    · exact hexec.trans (if_pos ⟨by linarith, h2⟩)
    · rw [if_neg (fun h => absurd h.2 (not_le.mpr h1))] at hexec
      obtain ⟨htime, -, hframe⟩ := State.slaveHold_spec (s.slaveAcquired (some (stepOf o))) rfl
      exact ⟨_, hexec, by rw [htime]; rfl, by rw [htime], by rw [htime]; rfl, hframe⟩
  case lock => exact ⟨_, exec_slaveLock hs hx ha hl hr hb, rfl, rfl, rfl, rfl, rfl⟩
  case holdover =>
    obtain ⟨htime, hkind, hframe⟩ :=
      State.slaveHold_spec ({ s with time := { s.time with slave := s.time.slave.lost } } : State) rfl
    exact ⟨_, exec_slaveHoldover hs hl, by rw [htime]; rfl, by rw [htime]; rfl, by rw [htime]; rfl, by rw [htime],
      by rw [htime], hkind, hframe⟩
  case step =>
    have hexec := exec_waferTimeStep h hs hb hr
    rw [if_pos hn] at hexec
    obtain ⟨hw, hst, -, htick, -, hby, heast, hiu, hframe⟩ := State.stepTime_spec s b 1 rfl
    exact ⟨_, hexec, hby, hw, hst, htick, heast, hiu, hframe⟩
  case small =>
    have hexec := exec_waferTimeStep h hs hb hr
    rw [if_neg hn] at hexec
    exact hexec.trans (congrArg _ (if_pos ⟨h1, h2⟩))
  case large =>
    have hexec := exec_waferTimeStep h hs hb hr
    rw [if_neg hn] at hexec
    exact ⟨_, hexec, State.waitStep_large hbig rfl⟩
  case chain =>
    have hexec := exec_tickInEdge hs hl ht hv h0
    refine ⟨fun hb => hexec.trans (congrArg _ (State.chainEdge_first hb l v)), fun a hb => ⟨fun hle => ?_,
      fun hgt h3 => ?_, fun hgt h3 => ?_⟩⟩
    · rw [State.chainEdge_against hb l v 0 (if_pos hle).symm, if_neg (by decide)] at hexec
      exact hexec
    · rw [State.chainEdge_against hb l v 4 (by rw [if_neg (by omega), h3]), if_pos rfl] at hexec
      obtain ⟨htime, htold, hframe⟩ := State.chainReport_spec (s.withTickIn a 4 v) rfl
      exact ⟨_, hexec, htime, htold, by rw [hframe]; rfl⟩
    · rw [State.chainEdge_against hb l v (s.time.tickIn.badRun + 1) (if_neg (by omega)).symm,
        if_neg (by omega)] at hexec
      exact hexec

end Sys2Proof.Machine
end

section
/-! Ring time transfer: Sync, delay requests and responses (R244 to R249). -/

namespace Sys2Proof.Machine

set_option Elab.async false

open Sys2Proof

variable {s t : State} {rp : RingPort} {edge tap : Nat}

/-! ### Timestamps -/

/-- Seconds, nanoseconds and correctionField give the stamp back (R247). -/
theorem ptpTime_ptpMessage (ty id t : Nat) (rp : RingPort) (q : BitVec 16) : ptpTime (ptpMessage ty id rp q t) = t := by
  show t / 256000000000 * 256000000000 + t % 256000000000 / 256 * 256 + 256 * (t % 256) / 256 = t
  omega

/-! ### Roles and headers -/

theorem State.isMaster_of_slave (h : s.isSlave = true) : s.isMaster = false := by
  unfold State.isSlave at h
  unfold State.isMaster
  obtain ⟨h1, -⟩ := Bool.and_eq_true_iff.mp h
  simp [of_decide_eq_true h1]

theorem State.timeHeader_master (h : s.isMaster = true) : s.timeHeader =
    { master := BitVec.ofNat 8 s.moduleId, hop := 0, kind := s.time.epochId.kind, serial := s.time.epochId.serial
      era := s.era } := by
  unfold State.timeHeader
  rw [h]

theorem State.timeHeader_slave {x : SyncSeen} (h : s.isSlave = true) (hx : s.time.slave.parentSync = some x) :
    s.timeHeader = { master := x.msg.master, hop := x.msg.hop + 1, kind := x.msg.kind, serial := x.msg.serial
                     era := s.era } := by
  unfold State.timeHeader
  rw [State.isMaster_of_slave h, hx]

/-! ### Sending -/

/-- Sync and Follow_Up leave with one header and one number, which then rises (R245, R247). -/
theorem State.sendSync_eq (t1 : Nat) : s.sendSync rp t1 = s.modRing rp (fun r => { r with
    sent := r.sent ++ [.time s.timeHeader (ptpMessage 0x0 s.moduleId rp r.syncSeq s.time.wafer.toNat),
                       .time s.timeHeader (ptpMessage 0x8 s.moduleId rp r.syncSeq t1)]
    syncSeq := r.syncSeq + 1 }) := by
  have hjoin : ∀ (l : List RingOut) a b, l ++ [a] ++ [b] = l ++ [a, b] := fun l a b => by simp
  cases rp
  case east =>
    exact congrArg (fun l => ({ s with ringE := { s.ringE with sent := l, syncSeq := s.ringE.syncSeq + 1 } } : State))
      (hjoin _ _ _)
  case west =>
    exact congrArg (fun l => ({ s with ringW := { s.ringW with sent := l, syncSeq := s.ringW.syncSeq + 1 } } : State))
      (hjoin _ _ _)

/-- The frames of a pair that are discarded. -/
theorem discardCount_pair (a b : List Byte) :
    discardCount [a, b] = (if discarded a then 1 else 0) + (if discarded b then 1 else 0) := by
  unfold discardCount
  rw [List.countP_cons, List.countP_cons, List.countP_nil]
  omega

section Live

variable (hr : s.ringTime rp = true)

include hr

theorem exec_syncSend (h : s.isMaster = true ∨ s.isSlave = true ∧ s.time.slave.parent ≠ some rp ∧
    s.time.slave.parentSync.isSome = true) :
    exec (.syncSend rp edge tap) s = .next (s.sendSync rp (s.stampAt (ringStamper rp) edge tap)) :=
  if_pos (by rcases h with h | ⟨h1, h2, h3⟩ <;> simp [*])

theorem exec_delayReqReceived {frame : List Byte} {k : TimeHeader} {m : PtpMsg} (hd : discarded frame = false)
    (hf : timeFrameOf frame = some (k, m)) (hty : m.msgType = 0x1)
    (h : s.isMaster = true ∨ s.isSlave = true ∧ s.time.slave.parent ≠ some rp) :
    exec (.delayReqReceived rp frame edge tap) s =
      .next (s.answerDelay rp m (s.stampAt (ringStamper rp) edge tap)) := by
  show execDelayReqReceived rp frame edge tap s = _
  unfold execDelayReqReceived
  rw [if_neg (by simp [hr]), if_neg (by simp [hd]), hf]
  exact if_pos ⟨hty, h⟩

theorem exec_delayReqReceived_discarded {frame : List Byte} (hd : discarded frame = true) :
    exec (.delayReqReceived rp frame edge tap) s = .next (s.countDiscards rp 1) :=
  (if_neg (by simp [hr])).trans (if_pos hd)

theorem exec_delayRespReceived_discarded {frame : List Byte} (hd : discarded frame = true) :
    exec (.delayRespReceived rp frame) s = .next (s.countDiscards rp 1) :=
  (if_neg (by simp [hr])).trans (if_pos hd)

theorem exec_syncReceived_none {sync follow : List Byte} {q j : Nat} (h : syncPair sync follow = none) :
    exec (.syncReceived rp sync follow edge tap q j) s = .next (s.countDiscards rp (discardCount [sync, follow])) := by
  show execSyncReceived rp sync follow edge tap q j s = _
  unfold execSyncReceived
  rw [if_neg (by simp [hr]), h]

section Pair

variable {sync follow : List Byte} {q j : Nat} {m : SyncMsg} (hm : syncPair sync follow = some m)

include hm

theorem exec_syncReceived_master (h : s.isMaster = true) (hne : m.master.toNat ≠ s.moduleId) :
    exec (.syncReceived rp sync follow edge tap q j) s = .next (s.discipline 0x09) := by
  show execSyncReceived rp sync follow edge tap q j s = _
  unfold execSyncReceived
  rw [if_neg (by simp [hr]), hm]
  exact (if_pos h).trans (if_neg hne)

theorem exec_syncReceived_slave (h : s.isSlave = true) : exec (.syncReceived rp sync follow edge tap q j) s =
    if m.hop < 63 then .next (s.takeSync rp m (s.stampAt (ringStamper rp) edge tap) (s.stampAt (ringStamper rp) q j))
    else .next s := by
  have hmaster := State.isMaster_of_slave h
  show execSyncReceived rp sync follow edge tap q j s = _
  unfold execSyncReceived
  rw [if_neg (by simp [hr]), hm]
  by_cases hh : m.hop < 63
  · rw [if_pos hh]
    exact (if_neg (by simp [hmaster])).trans (if_pos (by simp [h, hh]))
  · rw [if_neg hh]
    exact (if_neg (by simp [hmaster])).trans (if_neg (by simp [hh]))

end Pair

section Answer

variable {frame : List Byte} {k : TimeHeader} {m : PtpMsg} {x : SyncSeen} {t3 : Nat} {q : BitVec 16}
  (hs : s.isSlave = true) (hd : discarded frame = false) (hf : timeFrameOf frame = some (k, m))
  (hx : s.time.slave.parentSync = some x) (ha : s.time.slave.asked = some (t3, q))
  (hp : s.time.slave.parent = some rp) (hty : m.msgType = 0x9)

include hs hd hf hx ha hp hty

theorem exec_delayRespReceived : exec (.delayRespReceived rp frame) s =
    if m.seqId = q ∧ m.reqClock = clockIdentity s.moduleId ∧ m.reqPort = portNumber rp then
      .next (s.exchange x t3 (ptpTime m)) else .next s := by
  show execDelayRespReceived rp frame s = _
  unfold execDelayRespReceived
  rw [if_neg (by simp [hr]), if_neg (by simp [hd]), hf, hx, ha]
  by_cases h : m.seqId = q ∧ m.reqClock = clockIdentity s.moduleId ∧ m.reqPort = portNumber rp
  · rw [if_pos h]
    exact if_pos ⟨hs, hp, hty, h⟩
  · rw [if_neg h]
    exact if_neg (fun hall => h hall.2.2.2)

end Answer

end Live

/-- On a ring port that is not live, or before the epoch is fixed, no time frame goes out or comes in. -/
theorem exec_ringTime_off (hr : s.ringTime rp = false) (sync follow frame : List Byte) (e k q j : Nat) :
    exec (.syncSend rp e k) s = .next s ∧ exec (.syncReceived rp sync follow e k q j) s = .next s ∧
    exec (.delayReqReceived rp frame e k) s = .next s ∧ exec (.delayRespReceived rp frame) s = .next s :=
  ⟨if_neg (by simp [hr]), if_pos (by simp [hr]), if_pos (by simp [hr]), if_pos (by simp [hr])⟩

/-! ### A slave and its parent -/

/-- The first Sync that a slave takes makes its port the parent. -/
theorem Slave.take_first {v : Slave} (he : v.east = none) (hw : v.west = none) (hp : v.parent = none) (x : SyncSeen) :
    (v.take rp x).parent = some rp ∧ (v.take rp x).parentSync = some x := by
  have hfresh : (some x).filter (fun y : SyncSeen => y.fresh x.t2) = some x := by
    simp [Option.filter, SyncSeen.fresh]
  cases rp
  case east =>
    have hc : ({ v with east := some x } : Slave).choose x.t2 = some .east := by
      simp [Slave.choose, hfresh, hw]
    have htake : v.take .east x = { ({ v with east := some x } : Slave) with
        parent := some .east, delays := [], offsets := [] } := by
      unfold Slave.take
      dsimp only
      rw [hc, if_neg (by simp [hp])]
    rw [htake]
    exact ⟨rfl, rfl⟩
  case west =>
    have hc : ({ v with west := some x } : Slave).choose x.t2 = some .west := by
      simp [Slave.choose, hfresh, he]
    have htake : v.take .west x = { ({ v with west := some x } : Slave) with
        parent := some .west, delays := [], offsets := [] } := by
      unfold Slave.take
      dsimp only
      rw [hc, if_neg (by simp [hp])]
    rw [htake]
    exact ⟨rfl, rfl⟩

/-- A fresh Sync of the west port with fewer hops keeps the west the parent (R248). -/
theorem Slave.take_east_worse {v : Slave} {w x : SyncSeen} (hw : v.west = some w) (hlt : w.msg.hop < x.msg.hop)
    (hf : x.t2 ≤ w.t2 + 256000000000) :
    (v.take .east x).parent = some .west ∧ (v.take .east x).east = some x := by
  have hc : ({ v with east := some x } : Slave).choose x.t2 = some .west := by
    simp [Slave.choose, hw, Option.filter, SyncSeen.fresh, SyncSeen.better, hf]
    omega
  unfold Slave.take
  dsimp only
  rw [hc]
  by_cases h : some RingPort.west = v.parent
  · rw [if_pos h]
    exact ⟨h.symm, rfl⟩
  · rw [if_neg h]
    exact ⟨rfl, rfl⟩

/-- A slave asks its parent by one Delay_Req, whose number rises. -/
theorem State.askParent_spec (s : State) (rp : RingPort) (t3 : Nat) :
    (s.askParent rp t3).time = { s.time with slave := { s.time.slave with asked := some (t3, (s.ring rp).reqSeq) } } ∧
    ((s.askParent rp t3).ring rp).sent =
      (s.ring rp).sent ++ [.time s.timeHeader (ptpMessage 0x1 s.moduleId rp (s.ring rp).reqSeq 0)] ∧
    ((s.askParent rp t3).ring rp).reqSeq = (s.ring rp).reqSeq + 1 ∧
    s.askParent rp t3 = { s with time := (s.askParent rp t3).time, ringE := (s.askParent rp t3).ringE
                                 ringW := (s.askParent rp t3).ringW } := by
  cases rp <;> exact ⟨rfl, rfl, rfl, rfl⟩

/-- The slave state after a Sync, and nothing else of the module but the kind of its epoch. -/
theorem State.followSync_frame (s : State) (rp : RingPort) (m : SyncMsg) (v : Slave) :
    s.followSync rp m v = { s with time := (s.followSync rp m v).time } ∧ (s.followSync rp m v).time.slave = v ∧
    (s.followSync rp m v).time.corr = s.time.corr := ⟨rfl, rfl, rfl⟩

section Take

variable {m : SyncMsg} {t2 t3 : Nat}

/-- The first Sync of a slave: its port is the parent and is asked. -/
theorem State.takeSync_first (he : s.time.slave.east = none) (hw : s.time.slave.west = none)
    (hp : s.time.slave.parent = none) : s.takeSync rp m t2 t3 =
      (s.followSync rp m (s.time.slave.take rp { msg := m, t2 := t2 })).askParent rp t3 := by
  obtain ⟨hpar, -⟩ := Slave.take_first (rp := rp) he hw hp { msg := m, t2 := t2 }
  unfold State.takeSync
  dsimp only
  rw [if_pos hpar, if_neg (by simp [hp])]

/-- A Sync on the east port that does not make it the parent is kept, and asks nothing. -/
theorem State.takeSync_worse {w : SyncSeen} (hw : s.time.slave.west = some w) (hlt : w.msg.hop < m.hop)
    (hf : t2 ≤ w.t2 + 256000000000) : (s.takeSync .east m t2 t3).time.slave.parent = some .west ∧
    (s.takeSync .east m t2 t3).time.slave.east = some { msg := m, t2 := t2 } ∧
    (s.takeSync .east m t2 t3).ringE = s.ringE := by
  obtain ⟨hpar, heast⟩ := Slave.take_east_worse (x := { msg := m, t2 := t2 }) hw hlt hf
  unfold State.takeSync
  dsimp only
  rw [if_neg (by simp [hpar])]
  generalize s.time.slave.take .east { msg := m, t2 := t2 } = v at hpar heast
  by_cases h : (s.time.slave.parent.isSome && decide (v.parent ≠ s.time.slave.parent)) = true
  · have hd := (s.followSync .east m v).discipline_frame 0x06
    rw [if_pos h, hd]
    exact ⟨hpar, heast, rfl⟩
  · rw [if_neg h]
    exact ⟨hpar, heast, rfl⟩

end Take

/-! ### The exchange -/

/-- A slave that is not locked uses every exchange (R249). -/
theorem State.exchange_unlocked (hl : s.time.slave.locked = false) (x : SyncSeen) (t3 t4 : Nat) :
    s.exchange x t3 t4 = ({ s with time := { s.time with slave := { s.time.slave with asked := none } } } : State).useExchange
      ((((x.t2 : Rat) - x.msg.t1) + ((t4 : Rat) - t3)) / 2)
      (((x.t2 : Rat) - x.msg.t1) - (((x.t2 : Rat) - x.msg.t1) + ((t4 : Rat) - t3)) / 2) :=
  if_neg (by simp [hl])

/-- What a used exchange leaves (R249). -/
theorem State.useExchange_spec (s : State) (d o : Rat) :
    (s.useExchange d o).time.slave.delays = (d :: s.time.slave.delays).take 16 ∧
    (s.useExchange d o).time.slave.offsets = (o :: s.time.slave.offsets).take 16 ∧
    (s.useExchange d o).time.slave.lastOff = o ∧ (s.useExchange d o).time.slave.asked = s.time.slave.asked ∧
    (s.time.slave.acquired = true → s.time.slave.stepBy = none →
      (s.useExchange d o).time.corr = servoStep s.time.corr o s.time.slave.lastOff) ∧
    (s.time.slave.acquired = false → (s.useExchange d o).time.corr = s.time.corr) ∧
    s.useExchange d o = { s with time := (s.useExchange d o).time } :=
  ⟨rfl, rfl, rfl, rfl, fun ha hb => if_pos (by simp [ha, hb]), fun ha => if_neg (by simp [ha]), rfl⟩

/-- Settles O52: time frames sent and answered, the choice of a parent, and the servo's exchange. -/
theorem ringTimeFrames : Obligations.RingTimeFrames := by
  refine ⟨fun s rp edge tap t hr ht => ⟨fun h hh => ?send, fun frame k m hd hf hty hrole => ?answer, fun hs hp => ?parent⟩,
    fun s rp sync follow frame e k q j hr => ⟨fun h => ?drop, fun h => ?dropDelay⟩,
    fun s rp sync follow e k q j m t2 t3 hr hm ht2 ht3 => ⟨fun hmaster hne => ?other, fun hs => ⟨fun hbig => ?far,
      fun hhop he hw hp => ?first, ?worse⟩⟩,
    fun s rp frame h m x t3 q d o hr hs hd hf hx ha hp hty => ⟨fun hq hc hport hl hdv hov => ?used, fun hne => ?unused⟩,
    fun s rp sync follow frame e k q j hr => exec_ringTime_off hr sync follow frame e k q j,
    fun ty id t rp q => ptpTime_ptpMessage ty id t rp q⟩
  case send =>
    have hhead : s.timeHeader = h := by
      rcases hh with ⟨hmst, rfl⟩ | ⟨x, hs, -, hx, rfl⟩
      · exact State.timeHeader_master hmst
      · exact State.timeHeader_slave hs hx
    have hrole : s.isMaster = true ∨ s.isSlave = true ∧ s.time.slave.parent ≠ some rp ∧
        s.time.slave.parentSync.isSome = true := by
      rcases hh with ⟨hmst, -⟩ | ⟨x, hs, hne, hx, -⟩
      · exact .inl hmst
      · exact .inr ⟨hs, hne, by rw [hx]; rfl⟩
    rw [exec_syncSend hr hrole, State.sendSync_eq, hhead, ← ht]
  case answer =>
    rw [exec_delayReqReceived hr hd hf hty hrole, ← ht]
    rfl
  case parent => exact if_neg (by simp [State.isMaster_of_slave hs, hp])
  case drop =>
    rw [exec_syncReceived_none hr h, discardCount_pair]
    simp only [State.countDiscards, Nat.add_assoc]
  case dropDelay => exact ⟨exec_delayReqReceived_discarded hr h, exec_delayRespReceived_discarded hr h⟩
  case other => exact ⟨_, exec_syncReceived_master hr hm hmaster hne, s.discipline_frame 0x09⟩
  case far => exact (exec_syncReceived_slave hr hm hs).trans (if_neg (by omega))
  case first =>
    have hexec := (exec_syncReceived_slave (edge := e) (tap := k) (q := q) (j := j) hr hm hs).trans (if_pos hhop)
    rw [← ht2, ← ht3, State.takeSync_first he hw hp] at hexec
    obtain ⟨hpar, hsync⟩ := Slave.take_first (rp := rp) he hw hp { msg := m, t2 := t2 }
    generalize s.time.slave.take rp { msg := m, t2 := t2 } = v at hexec hpar hsync
    obtain ⟨htime, hsent, hreq, hframe⟩ := State.askParent_spec (s.followSync rp m v) rp t3
    have hring : (s.followSync rp m v).ring rp = s.ring rp := by cases rp <;> rfl
    rw [hring] at htime hsent hreq
    refine ⟨_, (s.followSync rp m v).timeHeader, hexec, ?_, ?_, ?_, hsent, hreq, ?_, hframe⟩
    · rw [htime]; exact hpar
    · rw [htime]; exact hsync
    · rw [htime]
    · rw [htime]; rfl
  case worse =>
    rintro w rfl hhop hw hlt hf
    have hexec := (exec_syncReceived_slave (edge := e) (tap := k) (q := q) (j := j) hr hm hs).trans (if_pos hhop)
    rw [← ht2, ← ht3] at hexec
    exact ⟨_, hexec, State.takeSync_worse hw hlt hf⟩
  case used =>
    have hexec := (exec_delayRespReceived hr hs hd hf hx ha hp hty).trans (if_pos ⟨hq, hc, hport⟩)
    rw [State.exchange_unlocked hl, ← hdv, ← hov] at hexec
    obtain ⟨h1, h2, h3, h4, h5, h6, h7⟩ := State.useExchange_spec
      ({ s with time := { s.time with slave := { s.time.slave with asked := none } } } : State) d o
    exact ⟨_, hexec, h1, h2, h3, h4, h5, h6, h7⟩
  case unused =>
    refine (exec_delayRespReceived hr hs hd hf hx ha hp hty).trans (if_neg ?_)
    rintro ⟨h1, h2, h3⟩
    rcases hne with h | h | h <;> exact h ‹_›

end Sys2Proof.Machine
end

section
/-! The ring link: status frames, map exchange, lane tests and port failure (R441 to R450, R481, R482). -/

namespace Sys2Proof.Machine

set_option Elab.async false

open Sys2Proof

variable {s t : State} {rp : RingPort} {x : List Byte} {f : StatusFrame}

/-! ### Ring ports of the state -/

@[simp] theorem State.ring_modRing_other (s : State) (rp : RingPort) (g : RingState → RingState) :
    (s.modRing rp g).ring (otherRing rp) = s.ring (otherRing rp) := by
  cases rp <;> rfl

theorem State.modRing_modRing (s : State) (rp : RingPort) (g h : RingState → RingState) :
    (s.modRing rp g).modRing rp h = s.modRing rp (fun r => h (g r)) := by
  cases rp <;> rfl

theorem State.modRing_congr {g h : RingState → RingState} (heq : g (s.ring rp) = h (s.ring rp)) :
    s.modRing rp g = s.modRing rp h := by
  cases rp
  case east => exact congrArg (fun r => ({ s with ringE := r } : State)) heq
  case west => exact congrArg (fun r => ({ s with ringW := r } : State)) heq

theorem State.modRing_frame (s : State) (rp : RingPort) (g : RingState → RingState) :
    s.modRing rp g = { s with ringE := (s.modRing rp g).ringE, ringW := (s.modRing rp g).ringW } := by
  cases rp <;> rfl

/-! ### Frames and their checks -/

/-- A status frame that is taken has passed its CRC and is of kind 0x2 (Table 13.7). -/
theorem statusFrameOf_none (h : frameOk x = false ∨ 3 ≤ frameKind x) : statusFrameOf x = none :=
  if_neg (fun hk => by
    obtain ⟨h1, h2⟩ := hk
    rcases h with h | h
    · simp [h] at h2
    · omega)

theorem discarded_of (h : frameOk x = false ∨ 3 ≤ frameKind x) : discarded x = true := by
  unfold discarded
  rcases h with h | h <;> simp [h]

/-! ### Status frames -/

section Live

variable (hr : s.inReset = false) (hl : (s.ring rp).live = true)

include hr hl

theorem exec_statusFrameSend : exec (.statusFrameSend rp) s = .next (s.ringSend rp (.status (s.statusFrame rp))) :=
  if_neg (by simp [hr, hl])

theorem exec_statusFrameReceived (hf : statusFrameOf x = some f) :
    exec (.statusFrameReceived rp x) s = .next (s.takeStatus rp f) := by
  show execStatusFrameReceived rp x s = _
  unfold execStatusFrameReceived
  rw [if_neg (by simp [hr, hl]), hf]

theorem exec_statusFrameReceived_discarded (h : frameOk x = false ∨ 3 ≤ frameKind x) :
    exec (.statusFrameReceived rp x) s = .next (s.countDiscards rp 1) := by
  have hcount : discardCount [x] = 1 := by
    unfold discardCount
    rw [List.countP_cons_of_pos (discarded_of h), List.countP_nil]
  show execStatusFrameReceived rp x s = _
  unfold execStatusFrameReceived
  rw [if_neg (by simp [hr, hl]), statusFrameOf_none h, hcount]

theorem exec_ringFrameCrcFail : exec (.ringFrameCrcFail rp x) s =
    if frameOk x then .next s else .next (s.countDiscards rp 1) := by
  by_cases h : frameOk x = true
  · rw [if_pos h]
    exact if_pos (by simp [h])
  · rw [if_neg h]
    exact if_neg (by simp [hr, hl, h])

theorem exec_ringMapExchange {e : MapSwitch} (he : (s.ring rp).exchange = some e) : exec (.ringMapExchange rp) s =
    .next (s.modRing rp (fun r => { r with txMap := e.newMap, rxMap := e.newMap, gen := e.gen, exchange := none })) := by
  show execRingMapExchange rp s = _
  unfold execRingMapExchange
  dsimp only
  rw [he]
  exact if_neg (by simp [hr, hl])

end Live

theorem exec_ringMapExchange_none (he : (s.ring rp).exchange = none) : exec (.ringMapExchange rp) s = .next s := by
  show execRingMapExchange rp s = _
  unfold execRingMapExchange
  dsimp only
  rw [he]

/-- A frame that has passed another module carries no map switch (R444, R445). -/
theorem State.mapSwitch_far (h : f.hop ≠ 0) : s.mapSwitch rp f = s := if_pos h

/-- The frame is acted on first, and then forwarded or not (R444, R447). -/
theorem State.takeStatus_eq (u : State) (mine : Bool) (hmine : decide (f.origin = BitVec.ofNat 8 s.moduleId) = mine)
    (hu : (if mine && decide (f.serial ≠ s.serial) then s.duplicateSeen f else s) = u) : s.takeStatus rp f =
      if decide (63 ≤ f.hop) || (mine && decide (f.serial = s.serial)) || !((u.mapSwitch rp f).ring (otherRing rp)).live
      then u.mapSwitch rp f
      else (u.mapSwitch rp f).ringSend (otherRing rp) (.status { f with hop := f.hop + 1 }) := by
  subst hmine hu
  rfl

section Other

variable (hne : f.origin ≠ BitVec.ofNat 8 s.moduleId)

include hne

/-- Another module's frame, once its map switch is done, goes on with one hop more below 63 (R444). -/
theorem State.takeStatus_forwarded (hlt : f.hop < 63) (hl : ((s.mapSwitch rp f).ring (otherRing rp)).live = true) :
    s.takeStatus rp f = (s.mapSwitch rp f).ringSend (otherRing rp) (.status { f with hop := f.hop + 1 }) :=
  (State.takeStatus_eq s false (decide_eq_false hne) rfl).trans (if_neg (by simp [hl, hlt]))

theorem State.takeStatus_kept (h : 63 ≤ f.hop ∨ ((s.mapSwitch rp f).ring (otherRing rp)).live = false) :
    s.takeStatus rp f = s.mapSwitch rp f :=
  (State.takeStatus_eq s false (decide_eq_false hne) rfl).trans (if_pos (by rcases h with h | h <;> simp [h]))

end Other

/-- The module's own frame is neither acted on nor forwarded. -/
theorem State.takeStatus_own (hop : f.hop ≠ 0) (ho : f.origin = BitVec.ofNat 8 s.moduleId) (hs : f.serial = s.serial) :
    s.takeStatus rp f = s :=
  (State.takeStatus_eq s true (decide_eq_true ho) (if_neg (by simp [hs]))).trans
    ((if_pos (by simp [hs])).trans (State.mapSwitch_far hop))

/-- A frame with the module's ID and another serial is told, and forwarded at most (R447). -/
theorem State.takeStatus_duplicate (hop : f.hop ≠ 0) (ho : f.origin = BitVec.ofNat 8 s.moduleId) (hs : f.serial ≠ s.serial) :
    ∃ g, s.takeStatus rp f = (s.duplicateSeen f).modRing (otherRing rp) g := by
  have heq := State.takeStatus_eq (rp := rp) (s.duplicateSeen f) true (decide_eq_true ho) (if_pos (by simp [hs]))
  rw [State.mapSwitch_far hop] at heq
  rw [heq]
  generalize s.duplicateSeen f = u
  split
  · exact ⟨id, by cases rp <;> rfl⟩
  · exact ⟨_, rfl⟩

/-- What a duplicate module ID leaves (R447). -/
theorem State.duplicateSeen_spec (hd : s.dupId = false) : (s.duplicateSeen f).dupId = true ∧
    (∃ e, (s.duplicateSeen f).dailies.log.getLast? = some e ∧ e.kind = 0x09 ∧ e.payload = leBytes 8 f.serial.toNat) ∧
    (s.isSlave = true → (s.duplicateSeen f).time.slave = .idle ∧ (s.duplicateSeen f).time.corr = s.yAge) ∧
    (s.isSlave = false → (s.duplicateSeen f).time = s.time) := by
  have heq : s.duplicateSeen f =
      ({ (if s.isSlave then s.leaveTime else s) with dupId := true } : State).log 0x09 (leBytes 8 f.serial.toNat) :=
    if_neg (by simp [hd])
  rw [heq]
  refine ⟨rfl, State.log_newest _ _ _, fun h => ?_, fun h => ?_⟩
  · rw [if_pos h]
    exact ⟨rfl, rfl⟩
  · rw [if_neg (by simp [h])]
    rfl

/-- A partner's request that needs no other change of the own map is answered with its generation (R445). -/
theorem State.mapSwitch_request (hop : f.hop = 0) (hq : f.mapSwitch = 1) (he : (s.ring rp).exchange = none)
    (hm : f.laneMap &&& s.usableLanes rp = (s.ring rp).txMap) : s.mapSwitch rp f = s.modRing rp (fun r => { r with
      rxMap := f.laneMap, sent := r.sent ++ [.status { s.statusFrame rp with mapSwitch := 2, mapGen := f.mapGen }] }) := by
  have hans : s.answerMap rp f = s.modRing rp (fun r => { r with
      rxMap := f.laneMap, sent := r.sent ++ [.status { s.statusFrame rp with mapSwitch := 2, mapGen := f.mapGen }] }) := by
    cases rp <;> rfl
  have hlanes : (s.answerMap rp f).usableLanes rp = s.usableLanes rp := by cases rp <;> rfl
  have hnow : ((s.answerMap rp f).ring rp).mapNow = (s.ring rp).txMap := by
    have : ((s.answerMap rp f).ring rp).mapNow = (s.ring rp).mapNow := by cases rp <;> rfl
    rw [this, RingState.mapNow, he]
  unfold State.mapSwitch
  rw [if_neg (by simp [hop]), if_pos hq]
  dsimp only
  rw [hlanes, hnow, if_pos hm, hans]

/-- The acknowledgement of the outstanding generation switches the transmit map (R445). -/
theorem State.mapSwitch_acknowledged {e : MapSwitch} (hop : f.hop = 0) (hq : f.mapSwitch = 2)
    (he : (s.ring rp).exchange = some e) (hg : e.gen = f.mapGen) : s.mapSwitch rp f = s.modRing rp (fun r => { r with
      txMap := e.newMap, gen := e.gen, exchange := none }) := by
  unfold State.mapSwitch
  rw [if_neg (by simp [hop]), if_neg (by rw [hq]; decide), if_pos hq]
  refine State.modRing_congr ?_
  rw [he]
  exact if_pos hg

/-! ### A port that comes up, is lost or fails -/

/-- What leaving the ring changes (R446). -/
theorem State.failRing_spec (s : State) (rp : RingPort) (ht : t = s.failRing rp) : (t.ring rp).failed = true ∧
    (t.ring rp).up = false ∧ (t.ring (otherRing rp)).up = false ∧ t.pins = { s.pins with bypassOpen := false } ∧
    t.toldError (s.errBody { moduleErr 0x16 0 none with stage := ringSite rp } 0 0) ∧
    t = { s.recordsOf t with ringE := t.ringE, ringW := t.ringW, pins := t.pins } := by
  subst ht
  unfold State.failRing State.ringEvent
  dsimp only
  generalize hu : ({ ((s.modRing rp _).modRing (otherRing rp) _) with pins := _ } : State) = u
  have hring : (u.ring rp).failed = true ∧ (u.ring rp).up = false ∧ (u.ring (otherRing rp)).up = false ∧
      u.pins = { s.pins with bypassOpen := false } ∧ u.ctxOf (ringSite rp) = s.ctxOf (ringSite rp) ∧
      u = { s with ringE := u.ringE, ringW := u.ringW, pins := u.pins } := by
    subst hu
    cases rp <;> exact ⟨rfl, rfl, rfl, rfl, rfl, rfl⟩
  obtain ⟨h1, h2, h3, h4, h5, h6⟩ := hring
  have htold := u.errorEvent_toldError { moduleErr 0x16 0 none with stage := ringSite rp } 0x00 0
  rw [State.errBody_congr h5] at htold
  have hframe := u.errorEvent_frame { moduleErr 0x16 0 none with stage := ringSite rp } 0x00 0
  generalize u.errorEvent { moduleErr 0x16 0 none with stage := ringSite rp } 0x00 0 = v at *
  have hrings : ∀ p, v.ring p = u.ring p := fun p => by rw [hframe]; cases p <;> rfl
  exact ⟨by rw [hrings]; exact h1, by rw [hrings]; exact h2, by rw [hrings]; exact h3, by rw [hframe]; exact h4, htold,
    by rw [hframe, h6]; rfl⟩

theorem exec_ringPortFailed (hr : s.inReset = false) (hf : (s.ring rp).failed = false)
    (h : s.pins.bypassOpen = true ∨ (s.ring (otherRing rp)).failed = true) :
    exec (.ringPortFailed rp) s = .next (s.failRing rp) :=
  if_neg (by rcases h with h | h <;> simp [hr, hf, h])

theorem exec_ringPortFailed_not (h : (s.ring rp).failed = true ∨
    s.pins.bypassOpen = false ∧ (s.ring (otherRing rp)).failed = false) : exec (.ringPortFailed rp) s = .next s :=
  if_pos (by rcases h with h | ⟨h1, h2⟩ <;> simp [*])

theorem exec_ringPartnerLost (hr : s.inReset = false) (hl : (s.ring rp).live = true) : exec (.ringPartnerLost rp) s =
    .next (s.modRing rp (fun r => { r with up := false, exchange := none })) :=
  if_neg (by simp [hr, hl])

theorem exec_ringPortUp (hr : s.inReset = false) (hb : s.pins.bypassOpen = true) (hf : (s.ring rp).failed = false)
    (hu : (s.ring rp).up = false) : exec (.ringPortUp rp) s =
      if laneCount (s.usableLanes rp) < 12 then .next (s.failRing rp)
      else .next (s.modRing rp (fun r => { r with
        up := true, txMap := s.usableLanes rp, rxMap := s.usableLanes rp, exchange := none })) :=
  if_neg (by simp [hr, hb, hf, hu])

theorem exec_ringPortUp_not (h : s.pins.bypassOpen = false ∨ (s.ring rp).failed = true) :
    exec (.ringPortUp rp) s = .next s :=
  if_pos (by rcases h with h | h <;> simp [h])

/-! ### Lane tests -/

theorem State.requestMap_wide {m : BitVec 16} (h : 12 ≤ laneCount m) : s.requestMap rp m =
    s.modRing rp (fun r => { r with exchange := some { newMap := m, gen := r.gen + 1 } }) :=
  if_neg (by omega)

section Suspect

variable {lane : Nat} (hr : s.inReset = false) (hl : (s.ring rp).live = true)
  (hm : (s.ring rp).txMap.getLsbD lane = true) (hs : lane ∉ (s.ring rp).suspect) (hw : 12 < laneCount (s.ring rp).txMap)

include hr hl hm hs hw

theorem exec_ringLaneSuspect : exec (.ringLaneSuspect rp lane) s =
    .next ((((s.ringEvent rp (some (.ringLane rp lane))).joinTest (.ringLane rp lane) 0x16 .free).modRing rp
      (fun r => { r with suspect := lane :: r.suspect })).requestMap rp ((s.ring rp).txMap &&& ~~~(laneBit lane))) :=
  (if_neg (by simp [hr, hl, hm, hs])).trans (if_pos hw)

end Suspect

section TestDone

variable {lane errors : Nat} {k : Test} (hr : s.inReset = false) (hs : lane ∈ (s.ring rp).suspect)
  (hm : (s.ring rp).txMap.getLsbD lane = false)

include hr hs hm

theorem exec_ringLaneTestComplete (ht : t = (s.classify (.ringLane rp lane) (decide (1 < errors))).modRing rp
      (fun r => { r with suspect := r.suspect.filter (fun l => l ≠ lane) })) :
    exec (.ringLaneTestComplete rp lane errors) s =
      if ((t.ring rp).lasting).getLsbD lane || !(t.ring rp).live then .next t
      else .next (t.requestMap rp ((s.ring rp).txMap ||| laneBit lane)) := by
  subst ht
  exact if_neg (by simp [hr, hs, hm])

end TestDone

/-- A lane's bit stands in its own place. -/
theorem getLsbD_laneBit {lane : Nat} (h : lane < 16) : (laneBit lane).getLsbD lane = true := by
  unfold laneBit
  rw [BitVec.getLsbD_ofNat, Nat.testBit_two_pow_self]
  simp [h]

/-- A saved retirement record stands in a copy of carrier flash. -/
theorem State.saveRetired_holds (s : State) :
    ∃ f, s.saveRetired.flash.retire0 = some f ∨ s.saveRetired.flash.retire1 = some f := by
  unfold State.saveRetired
  dsimp only
  by_cases h : retSeq s.flash.retire1 < retSeq s.flash.retire0
  · exact ⟨_, .inr (by rw [if_pos h])⟩
  · exact ⟨_, .inl (by rw [if_neg h])⟩

/-- What a retirement changes: the records, and a copy in carrier flash. -/
theorem State.retirement_spec (s : State) (b : RetBody) (ht : t = s.retirement b) :
    t.flash = s.saveRetired.flash ∧ t = { s.recordsOf t with flash := t.flash } := by
  subst ht
  exact ⟨rfl, rfl⟩

/-- A ring lane that fails its test stays out of the maps, and its retirement is stored (R481). -/
theorem State.classify_laneFailed {lane : Nat} {k : Test} (hk : s.testOf (.ringLane rp lane) = some k)
    (ht : t = s.classify (.ringLane rp lane) true) : t.ring rp = { s.ring rp with
      lasting := (s.ring rp).lasting ||| laneBit lane, suspect := (s.ring rp).suspect.filter (fun l => l ≠ lane) } ∧
    t.testOf (.ringLane rp lane) = none ∧ (∃ f, t.flash.retire0 = some f ∨ t.flash.retire1 = some f) ∧
    t = { s.recordsOf t with ringE := t.ringE, ringW := t.ringW, tests := t.tests, flash := t.flash } := by
  have hcl : ∃ b, s.classify (.ringLane rp lane) true = (((s.dropTest (.ringLane rp lane)).modRing rp (fun r => { r with
      lasting := r.lasting ||| laneBit lane, suspect := r.suspect.filter (fun l => l ≠ lane) })).retirement b) := by
    unfold State.classify
    rw [hk]
    exact ⟨_, rfl⟩
  obtain ⟨b, hb⟩ := hcl
  rw [hb] at ht
  obtain ⟨hflash, hframe⟩ := State.retirement_spec _ b ht
  refine ⟨?_, ?_, ?_, ?_⟩
  · rw [hframe]; cases rp <;> rfl
  · have : t.testOf (.ringLane rp lane) = (s.dropTest (.ringLane rp lane)).testOf (.ringLane rp lane) := by
      rw [hframe]; cases rp <;> rfl
    rw [this]
    exact List.find?_eq_none.mpr fun j hj => by simpa using (List.mem_filter.mp hj).2
  · rw [hflash]
    exact State.saveRetired_holds _
  · rw [hframe]; cases rp <;> rfl

section LaneTest

variable {lane errors : Nat} {k : Test} (hlane : lane < 16) (hr : s.inReset = false) (hs : lane ∈ (s.ring rp).suspect)
  (hm : (s.ring rp).txMap.getLsbD lane = false) (hk : s.testOf (.ringLane rp lane) = some k)

include hr hs hm hk

/-- A lane that erred at most once comes back by the exchange (R481). -/
theorem ringLaneTestComplete_restored (he : errors ≤ 1) (hle : s.transientOf (.ringLane rp lane) + k.joined ≤ s.allow)
    (hl : (s.ring rp).live = true) (hlast : (s.ring rp).lasting.getLsbD lane = false)
    (hw : 12 ≤ laneCount ((s.ring rp).txMap ||| laneBit lane)) : ∃ t,
    exec (.ringLaneTestComplete rp lane errors) s = .next t ∧ t.ring rp = { s.ring rp with
      suspect := (s.ring rp).suspect.filter (fun l => l ≠ lane)
      exchange := some { newMap := (s.ring rp).txMap ||| laneBit lane, gen := (s.ring rp).gen + 1 } } ∧
    t.testOf (.ringLane rp lane) = none ∧
    t = { s with ringE := t.ringE, ringW := t.ringW, tests := t.tests, transients := t.transients } := by
  have hpass := State.classify_passed hk hle rfl
  have hdec : decide (1 < errors) = false := decide_eq_false (by omega)
  have hexec := exec_ringLaneTestComplete (errors := errors) hr hs hm rfl
  rw [hdec, hpass, State.ring_modRing] at hexec
  have hring : ((s.dropTest (.ringLane rp lane)).setTransient (.ringLane rp lane)
      (s.transientOf (.ringLane rp lane) + k.joined)).ring rp = s.ring rp := by cases rp <;> rfl
  have htest : ((s.dropTest (.ringLane rp lane)).setTransient (.ringLane rp lane)
      (s.transientOf (.ringLane rp lane) + k.joined)).testOf (.ringLane rp lane) = none :=
    List.find?_eq_none.mpr fun j hj => by simpa using (List.mem_filter.mp hj).2
  have hframe : (s.dropTest (.ringLane rp lane)).setTransient (.ringLane rp lane)
      (s.transientOf (.ringLane rp lane) + k.joined) = { s with
        tests := (s.dropTest (.ringLane rp lane)).tests, transients := ((s.dropTest (.ringLane rp lane)).setTransient
          (.ringLane rp lane) (s.transientOf (.ringLane rp lane) + k.joined)).transients } := rfl
  generalize (s.dropTest (.ringLane rp lane)).setTransient (.ringLane rp lane)
    (s.transientOf (.ringLane rp lane) + k.joined) = u at hexec hring htest hframe
  have hstay : ∀ l, (({ s.ring rp with suspect := l } : RingState).lasting.getLsbD lane ||
      !({ s.ring rp with suspect := l } : RingState).live) = false := fun l => by
    rw [show ({ s.ring rp with suspect := l } : RingState).live = true from hl]
    exact Bool.or_eq_false_iff.mpr ⟨hlast, rfl⟩
  rw [hring, if_neg (by rw [hstay]; decide), State.requestMap_wide hw, State.modRing_modRing] at hexec
  refine ⟨_, hexec, ?_, ?_, ?_⟩
  · rw [State.ring_modRing, hring]
  · cases rp <;> exact htest
  · rw [hframe]; cases rp <;> rfl

include hlane

/-- A lane that erred more is lasting and stays out (R481). -/
theorem ringLaneTestComplete_lasting (he : 1 < errors) : ∃ t,
    exec (.ringLaneTestComplete rp lane errors) s = .next t ∧ t.ring rp = { s.ring rp with
      lasting := (s.ring rp).lasting ||| laneBit lane, suspect := (s.ring rp).suspect.filter (fun l => l ≠ lane) } ∧
    t.testOf (.ringLane rp lane) = none ∧ (∃ f, t.flash.retire0 = some f ∨ t.flash.retire1 = some f) ∧
    t = { s.recordsOf t with ringE := t.ringE, ringW := t.ringW, tests := t.tests, flash := t.flash } := by
  have hexec := exec_ringLaneTestComplete (errors := errors) hr hs hm rfl
  rw [decide_eq_true he, State.ring_modRing] at hexec
  obtain ⟨hring, htest, hflash, hframe⟩ := State.classify_laneFailed hk rfl
  generalize s.classify (.ringLane rp lane) true = u at hexec hring htest hflash hframe
  rw [hring, if_pos (by simp [getLsbD_laneBit hlane])] at hexec
  refine ⟨_, hexec, ?_, ?_, ?_, ?_⟩
  · rw [State.ring_modRing, hring]
    simp [List.filter_filter]
  · cases rp <;> exact htest
  · cases rp <;> exact hflash
  · rw [hframe]; cases rp <;> rfl

end LaneTest

/-- A suspect lane of a wider port leaves the map, with its event and test (R481). -/
theorem ringLaneSuspect_leaves {lane : Nat} (hr : s.inReset = false) (hl : (s.ring rp).live = true)
    (hm : (s.ring rp).txMap.getLsbD lane = true) (hs : lane ∉ (s.ring rp).suspect)
    (hw : 12 < laneCount (s.ring rp).txMap) (hleft : 12 ≤ laneCount ((s.ring rp).txMap &&& ~~~(laneBit lane)))
    (hk : s.testOf (.ringLane rp lane) = none) : ∃ t, exec (.ringLaneSuspect rp lane) s = .next t ∧
    t.ring rp = { s.ring rp with
      suspect := lane :: (s.ring rp).suspect
      exchange := some { newMap := (s.ring rp).txMap &&& ~~~(laneBit lane), gen := (s.ring rp).gen + 1 } } ∧
    t.pendingTest (.ringLane rp lane) 0x16 ∧
    t.toldError (s.errBody { moduleErr 0x16 0 (some (.ringLane rp lane)) with stage := ringSite rp } 0 0) ∧
    t = { s.errorsOf t with ringE := t.ringE, ringW := t.ringW } := by
  have hexec := exec_ringLaneSuspect hr hl hm hs hw
  rw [State.requestMap_wide hleft, State.modRing_modRing] at hexec
  have he : s.ringEvent rp (some (.ringLane rp lane)) = s.recordsOf (s.ringEvent rp (some (.ringLane rp lane))) :=
    s.errorEvent_frame _ _ _
  have htold : (s.ringEvent rp (some (.ringLane rp lane))).toldError
      (s.errBody { moduleErr 0x16 0 (some (.ringLane rp lane)) with stage := ringSite rp } 0 0) :=
    s.errorEvent_toldError _ _ _
  generalize s.ringEvent rp (some (.ringLane rp lane)) = e at hexec he htold
  have hke : e.testOf (.ringLane rp lane) = none := by rw [he]; exact hk
  have hpend := State.joinTest_pending hke 0x16 .free
  have hj := e.joinTest_frame (.ringLane rp lane) 0x16 .free
  generalize e.joinTest (.ringLane rp lane) 0x16 .free = j at hexec hpend hj
  have hring : j.ring rp = s.ring rp := by rw [hj, he]; cases rp <;> rfl
  refine ⟨_, hexec, ?_, ?_, ?_, ?_⟩
  · rw [State.ring_modRing, hring]
  · cases rp <;> exact hpend
  · rw [hj]; cases rp <;> exact htold
  · rw [hj, he]; cases rp <;> rfl

/-- Settles O54: status frames and maps, ports that come up or fail, and the test of a lane. -/
theorem ringLink : Obligations.RingLink := by
  refine ⟨fun s rp hr hl => ⟨⟨exec_statusFrameSend hr hl, rfl, rfl, rfl⟩, fun x f hf hop hne => ⟨fun hlt hlo => ?onward,
      fun hge => ?far⟩, fun x f hf hop ho => ⟨fun hs => ?own, fun hs hd => ?duplicate⟩,
      fun x f hf hop hne hlo => ⟨fun hq he hm => ?request, fun e hq he hg => ?acknowledged⟩,
      fun x => ⟨exec_statusFrameReceived_discarded hr hl, fun h => (exec_ringFrameCrcFail hr hl).trans (if_neg (by simp [h])),
        fun h => (exec_ringFrameCrcFail hr hl).trans (if_pos h)⟩,
      fun e he => exec_ringMapExchange hr hl he, exec_ringMapExchange_none⟩,
    fun s rp hr => ⟨fun hb hf => ⟨fun hu hw => (exec_ringPortUp hr hb hf hu).trans (if_neg (by omega)),
        ⟨_, exec_ringPortFailed hr hf (.inl hb), State.failRing_spec s rp rfl⟩, fun hu hn => ?narrow⟩,
      exec_ringPortUp_not, exec_ringPortFailed_not, fun hb hf ho => ?second, exec_ringPartnerLost hr,
      fun lane hl hm hs hw hleft hk => ringLaneSuspect_leaves hr hl hm hs hw hleft hk,
      fun lane errors k hlane hs hm hk => ⟨ringLaneTestComplete_restored hr hs hm hk,
        ringLaneTestComplete_lasting hlane hr hs hm hk⟩⟩⟩
  case onward =>
    have hexec := exec_statusFrameReceived hr hl hf
    have hmap : s.mapSwitch rp f = s := State.mapSwitch_far hop
    rw [State.takeStatus_forwarded hne hlt (by rw [hmap]; exact hlo), hmap] at hexec
    exact hexec
  case far =>
    have hexec := exec_statusFrameReceived hr hl hf
    rw [State.takeStatus_kept hne (.inl hge), State.mapSwitch_far hop] at hexec
    exact hexec
  case own =>
    have hexec := exec_statusFrameReceived hr hl hf
    rw [State.takeStatus_own hop ho hs] at hexec
    exact hexec
  case duplicate =>
    have hexec := exec_statusFrameReceived hr hl hf
    obtain ⟨g, hg⟩ := State.takeStatus_duplicate (rp := rp) hop ho hs
    rw [hg] at hexec
    refine ⟨_, hexec, ?_⟩
    cases rp <;> exact State.duplicateSeen_spec hd
  case request =>
    have hexec := exec_statusFrameReceived hr hl hf
    have hmap := State.mapSwitch_request hop hq he hm
    rw [State.takeStatus_kept hne (.inr (by rw [hmap, State.ring_modRing_other]; exact hlo)), hmap] at hexec
    exact hexec
  case acknowledged =>
    have hexec := exec_statusFrameReceived hr hl hf
    have hmap := State.mapSwitch_acknowledged hop hq he hg
    rw [State.takeStatus_kept hne (.inr (by rw [hmap, State.ring_modRing_other]; exact hlo)), hmap] at hexec
    exact hexec
  case narrow =>
    exact ((exec_ringPortUp hr hb hf hu).trans (if_pos hn)).trans (exec_ringPortFailed hr hf (.inl hb)).symm
  case second =>
    obtain ⟨h1, -, -, hpins, htold, -⟩ := State.failRing_spec s rp rfl
    refine ⟨_, exec_ringPortFailed hr hf (.inr ho), h1, hpins.trans ?_, htold⟩
    rw [← hb]

end Sys2Proof.Machine
end

section
/-! Column spines: flit checks, failed segments, sinks and taps (R388, R429 to R437, R480, R492). -/

namespace Sys2Proof.Machine

set_option Elab.async false

open Sys2Proof

variable {s t : State} {col seg n : Nat} {x : SpineSeg} {h : BitVec 128} {d : Line} {f : FlitHeader} {st : Stage}

/-! ### Segments -/

theorem State.spine_col (s : State) (col seg : Nat) : (s.spine col seg).col = col ∧ (s.spine col seg).seg = seg := by
  unfold State.spine
  cases hf : s.spines.find? (fun x => x.col = col && x.seg = seg) with
  | none => exact ⟨rfl, rfl⟩
  | some y => simpa using List.find?_some hf

theorem State.spine_putSpine (hc : x.col = col) (hg : x.seg = seg) : (s.putSpine x).spine col seg = x := by
  subst hc hg
  unfold State.spine State.putSpine
  rw [List.find?_cons_of_pos (by simp)]

theorem State.spine_putSpine_other {c g : Nat} (hne : ¬ (c = x.col ∧ g = x.seg)) :
    (s.putSpine x).spine c g = s.spine c g := by
  have hfind : ((s.putSpine x).spines.find? (fun y => y.col = c && y.seg = g)) =
      s.spines.find? (fun y => y.col = c && y.seg = g) := by
    show (x :: s.spines.filter (fun y => !(y.col = x.col && y.seg = x.seg))).find? (fun y => y.col = c && y.seg = g) = _
    have hkey : ¬ (decide (x.col = c) && decide (x.seg = g)) = true := fun h => by
      simp only [Bool.and_eq_true, decide_eq_true_eq] at h
      exact hne ⟨h.1.symm, h.2.symm⟩
    rw [List.find?_cons_of_neg (p := fun y : SpineSeg => y.col = c && y.seg = g) hkey, List.find?_filter]
    refine congrArg (fun p => s.spines.find? p) (funext fun y => ?_)
    by_cases hy : y.col = c ∧ y.seg = g
    · obtain ⟨rfl, rfl⟩ := hy
      have : (decide (y.col = x.col) && decide (y.seg = x.seg)) = false := by simpa using not_and.mp hne
      simp [this]
    · simpa using fun h1 h2 => absurd ⟨h1, h2⟩ hy
  unfold State.spine
  rw [hfind]

section Segment

variable (hc : col < 12) (hg : seg < 9) (hr : s.inReset = false) (hf : (s.spine col seg).failed = false)

include hc hg hr hf

theorem exec_spineFlitCrcFail : exec (.spineFlitCrcFail col seg) s =
    .next (s.putSpine { s.spine col seg with resends := (s.spine col seg).resends + 1 }) :=
  if_neg (by simp [segmentOk, hc, hg, hr, hf])

omit hr hf in
theorem segmentOk_of : segmentOk col seg = true := by simp [segmentOk, hc, hg]

/-- A segment that fails: the record, the error event, and every stage of the column retired (R431, R480). -/
theorem exec_spineSegmentFailed (h16 : 16 ≤ (s.spine col seg).resends) : exec (.spineSegmentFailed col seg) s =
    .next ((List.range 8).foldl (fun t r => t.retireStage (12 * r + col) 0x00 0x0D 0x10)
      ((s.putSpine { s.spine col seg with failed := true }).errorEvent
        { crossingErr 0x0D 0xFFFF none with stage := northEnd col seg } 0x00 0)) := by
  have hcond : ¬ ((!segmentOk col seg || s.inReset || (s.spine col seg).failed ||
      decide ((s.spine col seg).resends < 16)) = true) := by
    rw [segmentOk_of hc hg, hr, hf, decide_eq_false (by omega)]
    decide
  exact if_neg hcond

theorem exec_spineFlitAtSink : exec (.spineFlitAtSink col seg h d) s =
    if (flitFields h).malformed then
      .next (s.putSpine { s.spine col seg with errors := (s.spine col seg).errors + 1, resends := 0 })
    else if !(flitFields h).onPath col seg then .next s
    else if (flitFields h).cls = 2 ∧ (flitFields h).op < 2 then
      ((s.putSpine { s.spine col seg with resends := 0 }).stage (flitFields h).dst).elim
        (.next (s.putSpine { s.spine col seg with resends := 0 }))
        (fun st => if st.tapUnlit then
            .next ((s.putSpine { s.spine col seg with resends := 0 }).respond (flitFields h).dst
              ((flitFields h).reply 1 false) none)
          else .next ((s.putSpine { s.spine col seg with resends := 0 }).takeRequest (flitFields h).dst st
            (flitFields h) d))
    else if seg = 0 ∨ seg = 8 then
      .next ((s.putSpine { s.spine col seg with resends := 0 }).takeAtBlock col seg (flitFields h) h)
    else .next (s.putSpine { s.spine col seg with resends := 0 }) := by
  show execSpineFlitAtSink col seg h d s = _
  unfold execSpineFlitAtSink
  dsimp only
  rw [if_neg (by simp [segmentOk_of hc hg, hr, hf])]
  cases (s.putSpine { s.spine col seg with resends := 0 }).stage (flitFields h).dst <;> rfl

end Segment

/-! ### A column retires -/

/-- A retirement leaves the dailies alone. -/
theorem State.retireStage_dailies (s : State) (n r k c : Nat) : (s.retireStage n r k c).dailies = s.dailies := by
  by_cases hx : ∃ st, s.stage n = some st ∧ st.st ≠ .retired
  · obtain ⟨st, hst, hne⟩ := hx
    rw [State.retireStage_eq hst hne]
    have hfail := s.failStageCtx_frame n (st.retireCause c)
    generalize s.failStageCtx n (st.retireCause c) = u at *
    have hacross := (u.modStage n Stage.retire).modAllAcross_frame n Link.bar
    generalize (u.modStage n Stage.retire).modAllAcross n Link.bar = v at *
    show v.dailies = s.dailies
    rw [hacross, hfail]
    rfl
  · rw [State.retireStage_none (fun st hst => by_contra fun hne => hx ⟨st, hst, hne⟩)]

/-- The states of the stages after a retirement. -/
theorem State.retireStage_st {m : Nat} {y : Stage} (hy : s.stage m = some y) (n r k c : Nat) :
    ∃ u, (s.retireStage n r k c).stage m = some u ∧ u.st = if m = n then .retired else y.st := by
  by_cases hx : ∃ st, s.stage n = some st ∧ st.st ≠ .retired
  · obtain ⟨st, hst, hne⟩ := hx
    obtain ⟨⟨v, hv, -⟩, hother⟩ := State.retireStage_stage hst hne r k c
    by_cases hm : m = n
    · subst hm
      exact ⟨_, hv, (if_pos rfl).symm⟩
    · obtain ⟨v, hv, hs⟩ := hother m y hm hy
      refine ⟨_, hv, ?_⟩
      rw [if_neg hm, Stage.facingAll_linksOf, hs]
      rfl
  · have hret : ∀ st, s.stage n = some st → st.st = .retired := fun st hst => by_contra fun hne => hx ⟨st, hst, hne⟩
    rw [State.retireStage_none hret]
    refine ⟨y, hy, ?_⟩
    by_cases hm : m = n
    · rw [if_pos hm, hret y (hm ▸ hy)]
    · rw [if_neg hm]

/-- Stages that are retired one after the other. -/
def State.retireEach (s : State) (ns : List Nat) : State := ns.foldl (fun t n => t.retireStage n 0x00 0x0D 0x10) s

theorem State.retireEach_frame (s : State) (ns : List Nat) : s.retireEach ns = s.retirementOf (s.retireEach ns) :=
  foldl_rel (r := fun s t : State => t = s.retirementOf t) (fun _ => rfl) State.retirementOf_trans
    (fun t n => t.retireStage_frame n 0x00 0x0D 0x10) ns s

theorem State.retireEach_dailies (s : State) (ns : List Nat) : (s.retireEach ns).dailies = s.dailies :=
  foldl_rel (r := fun s t : State => t.dailies = s.dailies) (fun _ => rfl) (fun a b => b.trans a)
    (fun t n => t.retireStage_dailies n 0x00 0x0D 0x10) ns s

theorem State.retireEach_count (s : State) (ns : List Nat) : (s.retireEach ns).stages.length = s.stages.length :=
  foldl_rel (r := fun s t : State => t.stages.length = s.stages.length) (fun _ => rfl) (fun a b => b.trans a)
    (fun t n => t.retireStage_count n 0x00 0x0D 0x10) ns s

/-- Exactly the stages of the list are retired. -/
theorem State.retireEach_st {m : Nat} (ns : List Nat) : ∀ {s : State} {y : Stage}, s.stage m = some y →
    ∃ u, (s.retireEach ns).stage m = some u ∧ u.st = if m ∈ ns then .retired else y.st := by
  induction ns with
  | nil => exact fun {s y} hy => ⟨y, hy, rfl⟩
  | cons n ns ih =>
    intro s y hy
    obtain ⟨v, hv, hst⟩ := State.retireStage_st hy n 0x00 0x0D 0x10
    obtain ⟨u, hu, hust⟩ := ih hv
    refine ⟨u, hu, ?_⟩
    rw [hust, hst]
    by_cases hm : m ∈ ns <;> by_cases hn : m = n <;> simp [hm, hn]

/-- The stages of a column. -/
def columnStages (col : Nat) : List Nat := (List.range 8).map (fun r => 12 * r + col)

theorem retireColumn_eq (s : State) (col : Nat) :
    (List.range 8).foldl (fun t r => t.retireStage (12 * r + col) 0x00 0x0D 0x10) s = s.retireEach (columnStages col) :=
  (List.foldl_map (f := fun r => 12 * r + col) (g := fun (t : State) n => t.retireStage n 0x00 0x0D 0x10)).symm

/-- What a failed segment leaves of its column (R480). -/
theorem retireColumn_stages (hl : s.stages.length = 96) (hc : col < 12) :
    (∀ r, r < 8 → ∃ u, (s.retireEach (columnStages col)).stage (12 * r + col) = some u ∧ u.st = .retired) ∧
    (∀ m u, m % 12 ≠ col → (s.retireEach (columnStages col)).stage m = some u →
      ∃ st, s.stage m = some st ∧ u.st = st.st) := by
  have hget : ∀ m, m < 96 → ∃ y, s.stage m = some y := fun m hm =>
    ⟨_, List.getElem?_eq_getElem (show m < s.stages.length by omega)⟩
  constructor
  · intro r hr
    obtain ⟨y, hy⟩ := hget (12 * r + col) (by omega)
    obtain ⟨u, hu, hst⟩ := State.retireEach_st (columnStages col) hy
    exact ⟨u, hu, hst.trans (if_pos (List.mem_map.mpr ⟨r, List.mem_range.mpr hr, rfl⟩))⟩
  · intro m u hm hu
    have hlt : m < (s.retireEach (columnStages col)).stages.length := (List.getElem?_eq_some_iff.mp hu).1
    rw [State.retireEach_count, hl] at hlt
    obtain ⟨y, hy⟩ := hget m hlt
    obtain ⟨v, hv, hst⟩ := State.retireEach_st (columnStages col) hy
    refine ⟨y, hy, ?_⟩
    rw [Option.some.inj (hu.symm.trans hv), hst, if_neg]
    intro hmem
    obtain ⟨r, -, rfl⟩ := List.mem_map.mp hmem
    omega

/-! ### Taps -/

/-- A response goes on the tap's own spine. -/
theorem State.respond_eq (s : State) (n : Nat) (f : FlitHeader) (o : Option Line) :
    s.respond n f o = { s with spineOut := s.spineOut ++ [tapFlit n f o] } := rfl

section Request

variable (u : State) (hst : u.staleFlit f = false)

theorem State.takeRequest_stale (hs : u.staleFlit f = true) (n : Nat) (st : Stage) (d : Line) :
    u.takeRequest n st f d = u.respond n (f.reply 2 false) none := if_pos hs

include hst

theorem State.takeRequest_write (hop : f.op = 0) (hb : f.bank < 48) (n : Nat) (st : Stage) (d : Line) :
    u.takeRequest n st f d =
      (u.putStage n (st.storeLine (st.bankMap.getD f.bank f.bank) f.line d)).respond n (f.reply 0 false) none := by
  unfold State.takeRequest
  rw [if_neg (by simp [hst])]
  dsimp only
  rw [if_pos hop, if_pos hb]

theorem State.takeRequest_read (hop : f.op = 1) (n : Nat) (st : Stage) (d : Line) : u.takeRequest n st f d =
    u.respond n (f.reply 0 true) (some (st.lineAt (st.bankMap.getD f.bank f.bank) f.line)) := by
  unfold State.takeRequest
  rw [if_neg (by simp [hst])]
  dsimp only
  rw [if_neg (by simp [hop])]

end Request

theorem exec_rqToUnlitStage (hn : s.stage n = some st) : exec (.rqToUnlitStage n h) s =
    if !s.inReset && st.tapUnlit && decide ((flitFields h).cls = 2) && decide ((flitFields h).op < 2) then
      .next (s.respond n ({ flitFields h with dst := n }.reply 1 false) none)
    else .next s := by
  show execRqToUnlitStage n h s = _
  unfold execRqToUnlitStage
  dsimp only
  rw [hn]

/-! ### The South block -/

/-- A stage's flit for another stage leaves its spine and goes north on the target's (R432). -/
theorem State.takeAtBlock_relayed {g : FlitHeader} {rest : List SpineOut} (u : State)
    (ht : takeFlit col (decide (seg = 0)) f.dst (fun x => decide (flitBits x = h)) [] u.spineOut = some (g, rest))
    (hg : g.dst < 96) : u.takeAtBlock col seg f h =
      ({ u with spineOut := rest } : State).sendFlit (colOf g.dst) true g := by
  unfold State.takeAtBlock
  rw [ht]
  exact if_pos hg

/-- Settles O55: segments and their failure, the requests that taps answer, and the relay of the South block. -/
theorem spinesAndTaps : Obligations.SpinesAndTaps := by
  refine ⟨fun s col seg hc hg hr hf => ⟨?crc, fun hlt => ?few, fun h16 hl => ?failed, fun h d hm => ?malformed,
      fun h d f hfe hm => ⟨fun hoff => ?offPath, fun g rest hon h8 hcls hdst htake => ?relay⟩,
      fun h d f st hfe hm hon hcls hst hop => ?request⟩,
    fun s n h st hr hst => ⟨fun hu hcls hop => ?unlit, fun hu => ?lit⟩⟩
  case crc =>
    obtain ⟨h1, h2⟩ := s.spine_col col seg
    refine ⟨_, exec_spineFlitCrcFail hc hg hr hf, State.spine_putSpine h1 h2, fun c g hne => ?_, rfl⟩
    exact State.spine_putSpine_other (by simpa only [h1, h2] using hne)
  case few => exact if_pos (by simp [hlt])
  case failed =>
    have hexec := exec_spineSegmentFailed hc hg hr hf h16
    rw [retireColumn_eq] at hexec
    obtain ⟨h1, h2⟩ := s.spine_col col seg
    have hput : s.putSpine { s.spine col seg with failed := true } =
        { s with spines := (s.putSpine { s.spine col seg with failed := true }).spines } := rfl
    have hspine : (s.putSpine { s.spine col seg with failed := true }).spine col seg =
        { s.spine col seg with failed := true } := State.spine_putSpine h1 h2
    generalize s.putSpine { s.spine col seg with failed := true } = u at hexec hput hspine
    have hof : u.ctxOf (northEnd col seg) = s.ctxOf (northEnd col seg) := by rw [hput]; rfl
    have htold := u.errorEvent_toldError { crossingErr 0x0D 0xFFFF none with stage := northEnd col seg } 0x00 0
    rw [State.errBody_congr hof] at htold
    have hev := u.errorEvent_frame { crossingErr 0x0D 0xFFFF none with stage := northEnd col seg } 0x00 0
    generalize u.errorEvent { crossingErr 0x0D 0xFFFF none with stage := northEnd col seg } 0x00 0 = v at *
    have hstages : v.stages = s.stages := by rw [hev, hput]; rfl
    have hstage : ∀ m, v.stage m = s.stage m := fun m => congrArg (fun l : List Stage => l[m]?) hstages
    obtain ⟨hret, hkeep⟩ := retireColumn_stages (s := v) (by rw [hstages]; exact hl) hc
    have hframe := v.retireEach_frame (columnStages col)
    have hdl := v.retireEach_dailies (columnStages col)
    generalize v.retireEach (columnStages col) = w at *
    refine ⟨w, hexec, ?_, hret, fun m y hm hy => hstage m ▸ hkeep m y hm hy, ?_, ?_⟩
    · have : w.spine col seg = u.spine col seg := by rw [hframe, hev]; rfl
      rw [this, hspine]
    · unfold State.toldError
      rw [hdl]
      exact htold
    · rw [hframe, hev, hput]; rfl
  case malformed =>
    obtain ⟨h1, h2⟩ := s.spine_col col seg
    exact ⟨_, (exec_spineFlitAtSink hc hg hr hf).trans (if_pos hm), State.spine_putSpine h1 h2, rfl⟩
  case offPath =>
    subst hfe
    exact (exec_spineFlitAtSink hc hg hr hf).trans ((if_neg (by simp [hm])).trans (if_pos (by simp [hoff])))
  case relay =>
    subst hfe h8
    have hexec := exec_spineFlitAtSink (h := h) (d := d) hc hg hr hf
    rw [if_neg (by simp [hm]), if_neg (by simp [hon]), if_neg (by simp [hcls]), if_pos (.inr rfl),
      State.takeAtBlock_relayed _ htake hdst] at hexec
    exact ⟨_, hexec, rfl, rfl⟩
  case request =>
    subst hfe
    have hexec := exec_spineFlitAtSink (h := h) (d := d) hc hg hr hf
    rw [if_neg (by simp [hm]), if_neg (by simp [hon]), if_pos ⟨hcls, hop⟩] at hexec
    have hput : s.putSpine { s.spine col seg with resends := 0 } =
        { s with spines := (s.putSpine { s.spine col seg with resends := 0 }).spines } := rfl
    have hstale : (s.putSpine { s.spine col seg with resends := 0 }).staleFlit (flitFields h) =
        s.staleFlit (flitFields h) := rfl
    have hsame : ∀ m, (s.putSpine { s.spine col seg with resends := 0 }).stage m = s.stage m := fun _ => rfl
    generalize s.putSpine { s.spine col seg with resends := 0 } = u at hexec hput hstale hsame
    rw [hsame, hst, Option.elim_some] at hexec
    generalize flitFields h = f at *
    refine ⟨fun hu => ?_, fun hu hs => ?_, fun hu hs h0 hb => ?_, fun hu hs h1 => ?_⟩
    · rw [if_pos hu, State.respond_eq] at hexec
      exact ⟨_, hexec, by rw [hput], by rw [hput]⟩
    all_goals rw [if_neg (by simp [hu])] at hexec
    · rw [State.takeRequest_stale u (hstale.trans hs), State.respond_eq] at hexec
      exact ⟨_, hexec, by rw [hput], by rw [hput]⟩
    · rw [State.takeRequest_write u (hstale.trans hs) h0 hb, State.respond_eq] at hexec
      generalize st.storeLine (st.bankMap.getD f.bank f.bank) f.line d = y at hexec
      refine ⟨_, hexec, ?_, fun m hne => ?_, by rw [hput]; rfl, by rw [hput]; rfl⟩
      · exact State.stage_putStage y ((hsame _).trans hst)
      · exact (State.stage_modStage_other _ _ hne).trans (hsame m)
    · rw [State.takeRequest_read u (hstale.trans hs) h1, State.respond_eq] at hexec
      exact ⟨_, hexec, by rw [hput], by rw [hput]⟩
  case unlit =>
    have hexec := (exec_rqToUnlitStage (h := h) hst).trans (if_pos (by simp [hr, hu, hcls, hop]))
    rw [State.respond_eq] at hexec
    exact hexec
  case lit => exact (exec_rqToUnlitStage hst).trans (if_neg (by simp [hu]))

end Sys2Proof.Machine
end

section
/-! Trackers of corrected errors, substitution, the end of a self-test and the reload of a script block (R452, R457 to R469). -/

namespace Sys2Proof.Machine

set_option Elab.async false

open Sys2Proof

variable {s t : State} {n phys sub row col p block e : Nat} {rows : List Nat} {st : Stage} {k : Test} {c : Ctx}

/-! ### Trackers -/

/-- A column entry with its rows. -/
def columnEntry (phys sub col : Nat) (rows : List Nat) : ColEntry :=
  { bank := phys, sub := sub, col := col, rows := rows.dedup, reads := 0 }

section Column

variable {es : List ColEntry} (hes : ∀ x ∈ es, ¬ (x.bank = phys ∧ x.sub = sub))

include hes

/-- The first entry of a subarray joins the tracker. -/
theorem enterColumn_fresh (col : Nat) (rows : List Nat) :
    enterColumn es phys sub col rows = es ++ [columnEntry phys sub col rows] := by
  have hmine : ∀ x ∈ es, ((decide (x.bank = phys) && decide (x.sub = sub)) = true) → False := fun x hx h => by
    simp only [Bool.and_eq_true, decide_eq_true_eq] at h
    exact hes x hx h
  have hfind : es.find? (fun x => (decide (x.bank = phys) && decide (x.sub = sub)) && decide (x.col = col)) = none :=
    List.find?_eq_none.mpr fun x hx h => hmine x hx (Bool.and_eq_true_iff.mp h).1
  have hcount : es.countP (fun x => decide (x.bank = phys) && decide (x.sub = sub)) = 0 :=
    List.countP_eq_zero.mpr fun x hx h => hmine x hx h
  unfold enterColumn
  dsimp only
  rw [hfind, hcount]
  rfl

/-- Only the new entry can fire. -/
theorem any_column (v : List Nat) : (es ++ [columnEntry phys sub col v]).any
    (fun x => (decide (x.bank = phys) && decide (x.sub = sub) && decide (x.col = col)) && decide (4 ≤ x.rows.length)) =
      decide (4 ≤ v.dedup.length) := by
  have hes' : es.any (fun x => (decide (x.bank = phys) && decide (x.sub = sub) && decide (x.col = col)) &&
      decide (4 ≤ x.rows.length)) = false :=
    List.any_eq_false.mpr fun x hx h => by
      simp only [Bool.and_eq_true, decide_eq_true_eq] at h
      exact hes x hx h.1.1
  rw [List.any_append, hes']
  simp [columnEntry]

/-- The entry that fires leaves the tracker as it was. -/
theorem filter_column (v : List Nat) : (es ++ [columnEntry phys sub col v]).filter
    (fun x => !(decide (x.bank = phys) && decide (x.sub = sub) && decide (x.col = col))) = es := by
  rw [List.filter_append, List.filter_eq_self.mpr fun x hx => ?_]
  · simp [columnEntry]
  · have hmine : (decide (x.bank = phys) && decide (x.sub = sub)) = false := by simpa using not_and.mp (hes x hx)
    rw [hmine]
    rfl

end Column

section ColumnExec

variable (hst : s.stage n = some st) (hc : st.clocked = true) (hes : ∀ x ∈ st.columns, ¬ (x.bank = phys ∧ x.sub = sub))

include hst hc hes

theorem exec_columnDetector : exec (.columnDetector n phys sub col rows) s = .next (if 4 ≤ rows.dedup.length then
      ((s.putStage n { st with corrected := st.corrected + rows.length }).errorEvent
        (stageErr 0x05 n (some (.bankCol n phys sub col))) 0x00 0).noteError (some (.bankCol n phys sub col)) 0x05 .tick
    else s.putStage n { st with
      columns := st.columns ++ [columnEntry phys sub col rows], corrected := st.corrected + rows.length }) := by
  have hany := any_column (col := col) hes rows
  have hfilter := filter_column (col := col) hes rows
  show execColumnDetector n phys sub col rows s = _
  unfold execColumnDetector
  rw [hst]
  dsimp only
  rw [if_neg (by simp [hc]), enterColumn_fresh hes, hany, hfilter]
  by_cases h : 4 ≤ rows.dedup.length
  · rw [decide_eq_true h, if_pos rfl, if_pos rfl, if_pos h]
  · rw [decide_eq_false h, if_neg (by decide), if_neg (by decide), if_neg h]

end ColumnExec

/-- A first error of a unit of a changed stage that keeps its partition: the event, the test, and the stage. -/
theorem noteError_stage {u : UnitId} {x : Stage} (hst : s.stage n = some st) (hx : x.part = st.part)
    (hu : s.testOf u = none) (r : ErrReport) (kind : Nat)
    (ht : t = ((s.putStage n x).errorEvent r 0x00 0).noteError (some u) kind .tick) :
    t.stage n = some x ∧ t.toldError (s.errBody r 0 0) ∧ t.pendingTest u kind ∧ t = { s.errorsOf t with stages := t.stages } := by
  have hput : s.putStage n x = { s with stages := (s.putStage n x).stages } := rfl
  have hbody := errBody_putStage x hst hx r 0 0
  have hstage := State.stage_putStage x hst
  generalize s.putStage n x = a at *
  have htold := a.errorEvent_toldError r 0x00 0
  rw [hbody] at htold
  have hev := a.errorEvent_frame r 0x00 0
  generalize a.errorEvent r 0x00 0 = b at *
  have hub : b.testOf u = none := by rw [hev, hput]; exact hu
  rw [State.noteError_new hub] at ht
  have hpend := State.joinTest_pending hub kind .tick
  have hj := b.joinTest_frame u kind .tick
  rw [← ht] at hpend hj
  refine ⟨?_, ?_, hpend, by rw [hj, hev, hput]; rfl⟩
  · rw [hj, hev]; exact hstage
  · rw [hj]; exact htold

section Cell

variable (hst : s.stage n = some st) (hc : st.clocked = true)

include hst hc

theorem exec_cellTracker_first (hes : ∀ x ∈ st.cells, ¬ (x.bank = phys ∧ x.sub = sub)) :
    exec (.cellTracker n phys sub row col) s = .next (s.putStage n { st with
      cells := st.cells ++ [{ bank := phys, sub := sub, row := row, col := col, reads := 0 }]
      corrected := st.corrected + 1 }) := by
  have hmine : ∀ x ∈ st.cells, ((decide (x.bank = phys) && decide (x.sub = sub)) = true) → False := fun x hx h => by
    simp only [Bool.and_eq_true, decide_eq_true_eq] at h
    exact hes x hx h
  have hfind : st.cells.find? (fun x => (decide (x.bank = phys) && decide (x.sub = sub)) && decide (x.row = row) &&
      decide (x.col = col)) = none := List.find?_eq_none.mpr fun x hx h =>
    hmine x hx (Bool.and_eq_true_iff.mp (Bool.and_eq_true_iff.mp h).1).1
  have hcount : st.cells.countP (fun x => decide (x.bank = phys) && decide (x.sub = sub)) = 0 :=
    List.countP_eq_zero.mpr fun x hx h => hmine x hx h
  show execCellTracker n phys sub row col s = _
  unfold execCellTracker
  rw [hst]
  dsimp only
  rw [if_neg (by simp [hc]), hfind, hcount]
  rfl

theorem exec_cellTracker_again {x : CellEntry}
    (hx : st.cells.find? (fun x => x.bank = phys && x.sub = sub && x.row = row && x.col = col) = some x) :
    exec (.cellTracker n phys sub row col) s = .next ((s.putStage n { st with
      cells := st.cells.erase x, corrected := st.corrected + 1 }).noteError (some (.bankRow n phys sub row)) 0x05 .tick) := by
  show execCellTracker n phys sub row col s = _
  unfold execCellTracker
  rw [hst]
  dsimp only
  rw [if_neg (by simp [hc]), hx]

end Cell

/-! ### Tests -/

/-- Change a unit's test. -/
def State.modTest (s : State) (u : UnitId) (g : Test → Test) : State :=
  { s with tests := s.tests.map (fun x => if x.unit = u then g x else x) }

theorem State.testOf_unit {u : UnitId} (h : s.testOf u = some k) : k.unit = u :=
  of_decide_eq_true (List.find?_some (p := fun t : Test => decide (t.unit = u)) h)

theorem State.testOf_modTest {u : UnitId} (g : Test → Test) (hg : ∀ x, (g x).unit = x.unit) (h : s.testOf u = some k) :
    (s.modTest u g).testOf u = some (g k) := by
  have hcomp : (fun t : Test => decide (t.unit = u)) ∘ (fun x => if x.unit = u then g x else x) =
      fun t => decide (t.unit = u) := by
    funext x
    by_cases hx : x.unit = u <;> simp [hx, hg]
  have hmap : (s.modTest u g).testOf u = (s.testOf u).map (fun x => if x.unit = u then g x else x) := by
    unfold State.testOf State.modTest
    rw [List.find?_map, hcomp]
  rw [hmap, h, Option.map_some, if_pos (State.testOf_unit h)]

theorem State.testOf_dropTest (s : State) (u : UnitId) : (s.dropTest u).testOf u = none :=
  List.find?_eq_none.mpr fun x hx => by simpa using (List.mem_filter.mp hx).2

/-! ### Substitution -/

/-- The test of a unit whose role has moved to a stand-in. -/
def Test.standIn (k : Test) (r : Nat) : Test := { k with moved := true, repl := some r, wide := false }

section Engine

variable (hst : s.stage n = some st) (hk : s.testOf (.engine n e) = some k) (hm : k.moved = false) (hw : k.wait = .free)

include hst hk hm hw

omit hm hw in
theorem exec_substitution_none (hf : st.freeEng = []) : exec (.substitution (.engine n e)) s = .next s := by
  have hsub : st.substitute (.engine n e) = none := by
    unfold Stage.substitute
    dsimp only
    rw [hf]
  show execSubstitution (.engine n e) s = _
  unfold execSubstitution
  dsimp only [unitStage]
  rw [hk]
  dsimp only
  rw [hst]
  dsimp only
  rw [hsub]
  exact ite_self _

/-- The stage after its first free stand-in has taken an engine's role. -/
def Stage.standsIn (st : Stage) (e r : Nat) (rest : List Nat) : Stage :=
  { st with engineMap := st.engineMap.map (fun x => if x = e then r else x), freeEng := rest }

theorem exec_substitution {r : Nat} {rest : List Nat} (hf : st.freeEng = r :: rest) :
    exec (.substitution (.engine n e)) s =
      .next ((((s.putStage n (st.standsIn e r rest)).modTest (.engine n e) (fun x => x.standIn r)).ctxOf n).elim
        ((s.putStage n (st.standsIn e r rest)).modTest (.engine n e) (fun x => x.standIn r))
        (fun pc => ((s.putStage n (st.standsIn e r rest)).modTest (.engine n e) (fun x => x.standIn r)).modCtx pc.1
          (fun c => { c with standIns := c.standIns + 1 }))) := by
  have hsub : st.substitute (.engine n e) = some { stage := st.standsIn e r rest, index := some r, wide := false } := by
    unfold Stage.substitute
    dsimp only
    rw [hf]
    rfl
  show execSubstitution (.engine n e) s = _
  unfold execSubstitution
  dsimp only [unitStage]
  rw [hk]
  dsimp only
  rw [hst]
  dsimp only
  rw [if_neg (by simp [substitutable, hm, hw]), hsub]
  dsimp only
  have hmod : ({ (s.putStage n (st.standsIn e r rest)) with tests := s.tests.map (fun x =>
      if x.unit = .engine n e then { x with moved := true, repl := some r, wide := false } else x) } : State) =
      (s.putStage n (st.standsIn e r rest)).modTest (.engine n e) (fun x => x.standIn r) := rfl
  rw [hmod]
  cases ((s.putStage n (st.standsIn e r rest)).modTest (.engine n e) (fun x => x.standIn r)).ctxOf n <;> rfl

end Engine

/-- The context of a changed stage that keeps its partition. -/
theorem State.ctxOf_putStage {x : Stage} (h : s.stage n = some st) (hx : x.part = st.part) :
    (s.putStage n x).ctxOf n = s.ctxOf n := by
  simp only [State.ctxOf, State.stage_putStage x h, h, hx]
  rfl

section Copy

variable {b : Nat} (hst : s.stage n = some st) (hk : s.testOf (.bank n b) = some k) (hm : k.moved = false)
  (hc : k.copied = false)

/-- The test of a unit whose copy is complete (R458). -/
def Test.copyDone (k : Test) : Test := { k with copied := true, wait := if k.wait = .free then .tick else k.wait }

include hst hk hm hc

theorem exec_substitutionCopyComplete : exec (.substitutionCopyComplete (.bank n b)) s =
    if st.freeBank = [] then .next s else .next (s.modTest (.bank n b) Test.copyDone) := by
  show execSubstitutionCopyComplete (.bank n b) s = _
  unfold execSubstitutionCopyComplete
  dsimp only [unitStage]
  rw [hk, Option.bind_some, hst]
  cases hf : st.freeBank with
  | nil =>
    have hsub : st.substitute (.bank n b) = none := by
      unfold Stage.substitute Stage.takeBank
      dsimp only
      rw [hf]
      rfl
    exact (if_pos (by simp [hsub])).trans (if_pos rfl).symm
  | cons r rest =>
    have hsub : ∃ y, st.substitute (.bank n b) = some y := by
      unfold Stage.substitute Stage.takeBank
      dsimp only
      rw [hf]
      exact ⟨_, rfl⟩
    obtain ⟨y, hy⟩ := hsub
    exact (if_neg (by simp [hy, hm, hc, substitutable])).trans (if_neg (List.cons_ne_nil _ _)).symm

end Copy

/-! ### The end of a self-test -/

section Tested

variable (hst : s.stage n = some st) (hk : s.testOf (.engine n e) = some k) (hm : k.moved = true)

include hst hk hm

theorem exec_selfTestComplete (r : TestResult) :
    exec (.selfTestComplete (.engine n e) r) s = .next (s.classify (.engine n e) r.failed) := by
  show execSelfTestComplete (.engine n e) r s = _
  unfold execSelfTestComplete
  dsimp only [unitStage]
  rw [hk, Option.bind_some, hst]
  exact if_pos (by simp [substitutable, hm])

omit hst in
/-- A substituted engine that passes becomes a free stand-in (R457). -/
theorem State.classify_enginePassed (hle : s.transientOf (.engine n e) + k.joined ≤ s.allow) :
    s.classify (.engine n e) false = ((s.dropTest (.engine n e)).setTransient (.engine n e)
      (s.transientOf (.engine n e) + k.joined)).modStage n (fun st => { st with freeEng := st.freeEng ++ [e] }) := by
  unfold State.classify
  rw [hk]
  dsimp only [unitStage]
  rw [if_neg (by decide), if_neg (by omega), if_pos hm]
  rfl

/-- One that fails stays out of the maps, and its retirement is stored (R461). -/
theorem State.classify_engineFailed (ht : t = s.classify (.engine n e) true) : t.testOf (.engine n e) = none ∧
    t.stage n = some st ∧ (∃ f, t.flash.retire0 = some f ∨ t.flash.retire1 = some f) ∧
    t = { s.recordsOf t with tests := t.tests, flash := t.flash } := by
  have hcl : ∃ b, s.classify (.engine n e) true = ((s.dropTest (.engine n e)).retirement b).draw := by
    unfold State.classify State.lasting State.retireTested State.retireMoved
    rw [hk]
    dsimp only
    have hdrop : (s.dropTest (.engine n e)).stage n = some st := hst
    rw [if_pos rfl, if_pos hm, hdrop]
    exact ⟨_, rfl⟩
  obtain ⟨b, hb⟩ := hcl
  have htest := s.testOf_dropTest (.engine n e)
  have hdrop : s.dropTest (.engine n e) = { s with tests := (s.dropTest (.engine n e)).tests } := rfl
  generalize s.dropTest (.engine n e) = a at hb htest hdrop
  obtain ⟨hflash, hframe⟩ := State.retirement_spec a b rfl
  have hdraw : (a.retirement b).draw = { a.retirement b with freeCtr := (a.retirement b).draw.freeCtr } := rfl
  rw [← hb, ← ht] at hdraw
  refine ⟨?_, ?_, ?_, ?_⟩
  · rw [hdraw, hframe]; exact htest
  · rw [hdraw, hframe, hdrop]; exact hst
  · rw [hdraw]
    show ∃ f, (a.retirement b).flash.retire0 = some f ∨ (a.retirement b).flash.retire1 = some f
    rw [hflash]
    exact a.saveRetired_holds
  · rw [hdraw, hframe, hdrop]; rfl

end Tested

theorem exec_selfTestComplete_none {u : UnitId} (h : s.testOf u = none) (r : TestResult) :
    exec (.selfTestComplete u r) s = .next s := by
  show execSelfTestComplete u r s = _
  unfold execSelfTestComplete
  rw [h]

/-! ### The reload of a script block -/

/-- A stage whose reload is over. -/
def State.reloadOver (s : State) (n : Nat) : State := s.modStage n (fun t => { t with reload := none })

section Reload

variable {words : Nat} (hst : s.stage n = some st) (hc : s.ctxOf n = some (p, c)) (hr : st.reload = some block)

include hst hc hr

theorem exec_scriptBlockReload (o : Option (List Byte))
    (hw : words = if 512 * (block + 1) ≤ st.scriptLen then 512 else st.scriptLen - 512 * block) :
    exec (.scriptBlockReload n block o) s = (if (s.port c.port).canSend then o else none).elim
      (.next ((s.reloadOver n).enterLevel3 p 0x02 n))
      (fun bs => if bs.length = 8 * words ∧ some (crc32 bs) = st.scriptCrc[block]? then
          .next (s.putStage n { st with reload := none, script := cellSetList st.script (512 * block) (words64 words bs) })
        else .next ((s.reloadOver n).enterLevel3 p 0x02 n)) := by
  subst hw
  show execScriptBlockReload n block o s = _
  unfold execScriptBlockReload
  rw [hst, hc]
  dsimp only
  rw [if_neg (by simp [hr])]
  cases (if (s.port c.port).canSend then o else none) <;> rfl

omit hst hr in
/-- A failed reload escalates its partition (R469). -/
theorem State.reloadOver_escalates (hl : c.level = none) : ((s.reloadOver n).enterLevel3 p 0x02 n).atLevel3 p c 0x02 n ∧
    (s.reloadOver n).enterLevel3 p 0x02 n = { s with
      stages := ((s.reloadOver n).enterLevel3 p 0x02 n).stages, parts := ((s.reloadOver n).enterLevel3 p 0x02 n).parts } := by
  have hctx0 : s.ctx p = some c := State.ctx_of_ctxOf hc
  have hctx : (s.reloadOver n).ctx p = some c := hctx0
  obtain ⟨-, -, hframe⟩ := State.enterLevel3_spec hctx hl 0x02 n
  have hat := State.enterLevel3_atLevel3 hctx hl 0x02 n
  have hover : s.reloadOver n = { s with stages := (s.reloadOver n).stages } := rfl
  generalize s.reloadOver n = a at *
  exact ⟨hat, by rw [hframe, hover]⟩

end Reload

theorem exec_scriptBlockReload_other (hst : s.stage n = some st) (hr : st.reload ≠ some block) (o : Option (List Byte)) :
    exec (.scriptBlockReload n block o) s = .next s := by
  show execScriptBlockReload n block o s = _
  unfold execScriptBlockReload
  rw [hst]
  cases s.ctxOf n with
  | none => rfl
  | some pc => exact if_pos hr

/-- Settles O44: the trackers, substitution, the end of a self-test, and the reload of a script block. -/
theorem substitutionAndTests : Obligations.SubstitutionAndTests := by
  refine ⟨⟨fun s n phys sub col rows st hst hc hes => ⟨fun hlt => ?enters, fun h4 hnew => ?fires⟩,
      fun s n phys sub row col st hst hc => ⟨fun hes => exec_cellTracker_first hst hc hes, fun x hx hnew => ?cell⟩,
      fun s n e st k hst hk hm hw => ⟨fun r rest hf => ?moves, exec_substitution_none hst hk⟩,
      fun s n b st k hst hk hm hc => ⟨fun hf => ?copied,
        fun hf => (exec_substitutionCopyComplete hst hk hm hc).trans (if_pos hf)⟩⟩,
    fun s n e st k r hst hk hm => ⟨fun hr hle => ?passes, fun hr => ?fails⟩,
    fun s u r h => exec_selfTestComplete_none h r,
    fun s n p block st c hst hc hl hr => ⟨fun hsend bs words hw hlen hcrc => ?rewritten, fun bs hbad => ?bad, ?unread⟩,
    fun s n block st o hst hr => exec_scriptBlockReload_other hst hr o⟩
  case enters => exact (exec_columnDetector hst hc hes).trans (congrArg _ (if_neg (by omega)))
  case fires =>
    have hexec := exec_columnDetector (col := col) (rows := rows) hst hc hes
    rw [if_pos h4] at hexec
    obtain ⟨h1, h2, h3, h5⟩ := noteError_stage (x := { st with corrected := st.corrected + rows.length }) hst rfl hnew
      (stageErr 0x05 n (some (.bankCol n phys sub col))) 0x05 rfl
    exact ⟨_, hexec, h1, h2, h3, h5⟩
  case cell =>
    have hexec := exec_cellTracker_again hst hc hx
    have hput : s.putStage n { st with cells := st.cells.erase x, corrected := st.corrected + 1 } = { s with
      stages := (s.putStage n { st with cells := st.cells.erase x, corrected := st.corrected + 1 }).stages } := rfl
    have hstage := State.stage_putStage { st with cells := st.cells.erase x, corrected := st.corrected + 1 } hst
    generalize s.putStage n { st with cells := st.cells.erase x, corrected := st.corrected + 1 } = a at *
    have hnone : a.testOf (.bankRow n phys sub row) = none := by rw [hput]; exact hnew
    rw [State.noteError_new hnone] at hexec
    have hpend := State.joinTest_pending hnone 0x05 .tick
    have hj := a.joinTest_frame (.bankRow n phys sub row) 0x05 .tick
    generalize a.joinTest (.bankRow n phys sub row) 0x05 .tick = b at *
    exact ⟨b, hexec, by rw [hj]; exact hstage, hpend, by rw [hj, hput]⟩
  case moves =>
    have hexec := exec_substitution hst hk hm hw hf
    have hstage := State.stage_putStage (st.standsIn e r rest) hst
    have hof := State.ctxOf_putStage (x := st.standsIn e r rest) hst rfl
    have hput : s.putStage n (st.standsIn e r rest) = { s with stages := (s.putStage n (st.standsIn e r rest)).stages } := rfl
    generalize s.putStage n (st.standsIn e r rest) = a at hexec hstage hof hput
    have hka : a.testOf (.engine n e) = some k := by rw [hput]; exact hk
    have hkb := State.testOf_modTest (fun x => x.standIn r) (fun _ => rfl) hka
    have hmod : a.modTest (.engine n e) (fun x => x.standIn r) = { a with
      tests := (a.modTest (.engine n e) (fun x => x.standIn r)).tests } := rfl
    generalize a.modTest (.engine n e) (fun x => x.standIn r) = b at hexec hkb hmod
    have hofb : b.ctxOf n = s.ctxOf n := by rw [hmod]; exact hof
    rw [hofb] at hexec
    cases hctx : s.ctxOf n with
    | none =>
      rw [hctx, Option.elim_none] at hexec
      refine ⟨b, _, hexec, by rw [hmod]; exact hstage, hkb, rfl, fun _ _ h => ?_, by rw [hmod, hput]⟩
      cases h
    | some pc =>
      rw [hctx, Option.elim_some] at hexec
      have hbctx : b.ctx pc.1 = some pc.2 := State.ctx_of_ctxOf (hofb.trans hctx)
      refine ⟨_, _, hexec, by rw [hmod]; exact hstage, hkb, rfl, ?_, by rw [hmod, hput]; rfl⟩
      rintro p c ⟨⟩
      exact State.ctx_modCtx _ hbctx
  case copied =>
    exact ⟨_, _, (exec_substitutionCopyComplete hst hk hm hc).trans (if_neg hf),
      State.testOf_modTest Test.copyDone (fun _ => rfl) hk, rfl, rfl⟩
  case passes =>
    have hexec := exec_selfTestComplete hst hk hm r
    rw [hr, State.classify_enginePassed hk hm hle] at hexec
    refine ⟨_, hexec, s.testOf_dropTest _, ?_, ?_, rfl⟩
    · exact State.stage_modStage (fun st => { st with freeEng := st.freeEng ++ [e] }) hst
    · show (match ((UnitId.engine n e, _) :: _ : List (UnitId × Nat)).find? _ with | none => 0 | some t => t.2) = _
      rw [List.find?_cons_of_pos (by simp)]
  case fails =>
    have hexec := exec_selfTestComplete hst hk hm r
    rw [hr] at hexec
    exact ⟨_, hexec, State.classify_engineFailed hst hk hm rfl⟩
  case rewritten =>
    have hexec := exec_scriptBlockReload hst hc hr (some bs) hw
    rw [if_pos hsend, Option.elim_some, if_pos ⟨hlen, hcrc⟩] at hexec
    exact hexec
  case bad =>
    refine ⟨_, ?_, (State.reloadOver_escalates hc hl).1⟩
    rw [exec_scriptBlockReload hst hc hr (some bs) rfl]
    by_cases hsend : (s.port c.port).canSend = true
    · rw [if_pos hsend, Option.elim_some, if_neg]
      rintro ⟨-, hcrc⟩
      rcases hbad with h | h
      · exact h hcrc
      · simp [h] at hsend
    · rw [if_neg hsend, Option.elim_none]
  case unread =>
    refine ⟨_, ?_, State.reloadOver_escalates hc hl⟩
    rw [exec_scriptBlockReload hst hc hr none rfl, ite_self, Option.elim_none]

end Sys2Proof.Machine
end

section
/-! The two ends of a splice, the beats that pass between them, and control beats (R23, R194 to R200, R209, R428). -/

namespace Sys2Proof.Machine

set_option Elab.async false

open Sys2Proof

variable {s t u : State} {n m p : Nat} {d : Side} {e r : End} {l w : Link} {st : Stage} {f g : Link → Link} {c : Ctx}
  {x : BitVec 2048} {k : BitVec 64}

/-! ### Ends -/

/-- Two ends that are not one. -/
def End.Apart (a b : End) : Prop := a.edge ≠ b.edge ∨ a.edge = false ∧ b.edge = false ∧ (a.stage ≠ b.stage ∨ a.side ≠ b.side)

/-- No end is across from itself (R23). -/
theorem End.apart_across (e : End) : e.Apart e.across := by
  obtain ⟨n, d, b⟩ := e
  unfold End.across End.Apart
  cases b
  case true => exact .inl (by simp)
  case false =>
    cases h : neighbour n d with
    | none => exact .inl (by simp)
    | some m => exact .inr ⟨rfl, by simp, .inl (by simpa using (neighbour_ne h).symm)⟩

theorem End.Apart.symm {a b : End} (h : a.Apart b) : b.Apart a := by
  rcases h with h | ⟨h1, h2, h3⟩
  · exact .inl h.symm
  · exact .inr ⟨h2, h1, h3.imp Ne.symm Ne.symm⟩

/-- The end that is changed. -/
theorem State.endLink_modEnd (h : s.endLink e = some l) (f : Link → Link) : (s.modEnd e f).endLink e = some (f l) := by
  obtain ⟨n, d, b⟩ := e
  unfold State.endLink State.modEnd at *
  cases b
  case true =>
    rw [if_pos rfl] at h
    cases hi : edgeIndex n d with
    | none => simp [hi] at h
    | some i =>
      have hl : s.edges[i]? = some l := by simpa [hi] using h
      simp [modAt, hl]
  case false =>
    rw [if_neg Bool.false_ne_true] at h
    obtain ⟨st, hst, rfl⟩ := Option.map_eq_some_iff.mp h
    simp [State.stage_modStage (fun st => st.modLink d f) hst]

/-- Another end stays. -/
theorem State.endLink_modEnd_apart {a b : End} (h : a.Apart b) (f : Link → Link) :
    (s.modEnd b f).endLink a = s.endLink a := by
  obtain ⟨n, d, ba⟩ := a
  obtain ⟨m, d', bb⟩ := b
  unfold State.endLink State.modEnd
  cases ba <;> cases bb
  case true.true => exact absurd h (by simp [End.Apart])
  case true.false => rfl
  case false.true => cases edgeIndex m d' <;> rfl
  case false.false =>
    have hne : n ≠ m ∨ d ≠ d' := by simpa [End.Apart] using h
    rw [if_neg Bool.false_ne_true, if_neg Bool.false_ne_true, if_neg Bool.false_ne_true]
    by_cases hn : n = m
    · subst hn
      have hd : d ≠ d' := hne.resolve_left (fun h => h rfl)
      have hstage := s.stage_modStage_map n (fun st => st.modLink d' f) n
      rw [hstage, Option.map_map]
      congr 1
      funext v
      simp [v.link_modLink_other f hd]
    · rw [State.stage_modStage_other _ _ hn]

/-! ### What a beat changes -/

/-- A stage of which splice ends and the count of work may have changed. -/
def Stage.Carried (a b : Stage) : Prop := b = { a.linksOf b with work := b.work }

theorem Stage.Carried.refl (a : Stage) : a.Carried a := rfl

theorem Stage.Carried.trans {a b c : Stage} (h : a.Carried b) (k : b.Carried c) : a.Carried c := by
  unfold Stage.Carried at *
  rw [k, h]
  rfl

theorem Stage.Carried.modLink (a : Stage) (d : Side) (f : Link → Link) : a.Carried (a.modLink d f) := by
  unfold Stage.Carried
  rw [a.modLink_linksOf d f]
  rfl

/-- A state of which splice ends and counts of work may have changed. -/
structure State.Carried (s t : State) : Prop where
  each  : s.Each Stage.Carried t
  frame : t = s.endsOf t

theorem State.Carried.refl (s : State) : s.Carried s := ⟨.refl Stage.Carried.refl s, rfl⟩

theorem State.Carried.trans (h : s.Carried t) (k : t.Carried u) : s.Carried u :=
  ⟨.trans Stage.Carried.trans h.each k.each, State.endsOf_trans h.frame k.frame⟩

theorem State.Carried.modEnd (s : State) (e : End) (f : Link → Link) : s.Carried (s.modEnd e f) := by
  refine ⟨?_, s.modEnd_frame e f⟩
  unfold State.modEnd
  split
  · split
    · exact .refl Stage.Carried.refl s
    · exact .of_stages Stage.Carried.refl rfl
  · exact .modStage Stage.Carried.refl s _ (fun a => .modLink a _ f)

theorem State.Carried.countBeat (s : State) (e : End) : s.Carried (s.countBeat e) := by
  unfold State.countBeat
  split
  · exact .refl s
  · exact ⟨.modStage Stage.Carried.refl s _ (fun _ => rfl), rfl⟩

theorem State.endLink_countBeat (s : State) (a b : End) : (s.countBeat b).endLink a = s.endLink a := by
  obtain ⟨n, d, ba⟩ := a
  unfold State.countBeat
  split
  · rfl
  · unfold State.endLink
    cases ba
    case true => rfl
    case false =>
      have hstage := s.stage_modStage_map b.stage (fun st => { st with work := { st.work with beats := st.work.beats + 1 } }) n
      rw [if_neg Bool.false_ne_true, if_neg Bool.false_ne_true, hstage, Option.map_map]
      congr 1
      funext v
      show (if b.stage = n then _ else v).link d = v.link d
      split
      · cases d <;> rfl
      · rfl

/-- Contexts of stages that keep their partitions. -/
theorem State.Each.ctxOf {R : Stage → Stage → Prop} (h : s.Each R t) (hp : ∀ a b, R a b → b.part = a.part)
    (hc : ∀ p, t.ctx p = s.ctx p) (n : Nat) : t.ctxOf n = s.ctxOf n := by
  unfold State.ctxOf
  cases hst : s.stage n with
  | none =>
    have : t.stage n = none := by
      cases ht : t.stage n with
      | none => rfl
      | some v =>
        obtain ⟨a, ha, -⟩ := h.back ht
        rw [hst] at ha
        cases ha
    rw [this]
  | some a =>
    obtain ⟨b, hb, hab⟩ := h.stage n a hst
    rw [hb]
    simp only [hp a b hab, hc]

namespace State.Carried

variable (h : s.Carried t)

include h

theorem ctxOf (n : Nat) : t.ctxOf n = s.ctxOf n :=
  h.each.ctxOf (fun a b hab => by rw [hab]; rfl) (fun p => by rw [h.frame]; rfl) n

theorem edgesAt (e : End) : t.edgesAt e = s.edgesAt e := by
  have hr : t.inReset = s.inReset := by rw [h.frame]; rfl
  unfold State.edgesAt
  rw [hr]
  cases hst : s.stage e.stage with
  | none =>
    have : t.stage e.stage = none := by
      cases ht : t.stage e.stage with
      | none => rfl
      | some v =>
        obtain ⟨a, ha, -⟩ := h.each.back ht
        rw [hst] at ha
        cases ha
    rw [this]
  | some a =>
    obtain ⟨b, hb, hab⟩ := h.each.stage _ a hst
    rw [hb, hab]
    rfl

end State.Carried

/-! ### Writing -/

/-- What the writer of a direction leaves when its reader's FIFO has room (R194). -/
theorem State.writeBeat_spec (hl : s.endLink r = some l) (hw : s.endLink r.across = some w) (h16 : l.fifo.length < 16)
    (ht : t = s.writeBeat r x k) : t.endLink r = some (l.receive w.nextBeat x k) ∧ t.endLink r.across = some w.wrote ∧
    (∀ a : End, a.Apart r → a.Apart r.across → t.endLink a = s.endLink a) ∧ s.Carried t := by
  have heq : s.writeBeat r x k = if w.nextPayload.isSome then
      ((s.modEnd r (fun l => l.receive w.nextBeat x k)).modEnd r.across Link.wrote).countBeat r.across
      else (s.modEnd r (fun l => l.receive w.nextBeat x k)).modEnd r.across Link.wrote := by
    unfold State.writeBeat
    rw [hl, hw]
    exact if_neg (by omega)
  have hap := r.apart_across
  have h1 : ((s.modEnd r (fun l => l.receive w.nextBeat x k)).modEnd r.across Link.wrote).endLink r =
      some (l.receive w.nextBeat x k) := by
    rw [State.endLink_modEnd_apart hap, State.endLink_modEnd hl]
  have h2 : ((s.modEnd r (fun l => l.receive w.nextBeat x k)).modEnd r.across Link.wrote).endLink r.across = some w.wrote :=
    State.endLink_modEnd ((State.endLink_modEnd_apart hap.symm _).trans hw) _
  have h3 : ∀ a : End, a.Apart r → a.Apart r.across →
      ((s.modEnd r (fun l => l.receive w.nextBeat x k)).modEnd r.across Link.wrote).endLink a = s.endLink a :=
    fun a ha hb => (State.endLink_modEnd_apart hb _).trans (State.endLink_modEnd_apart ha _)
  have h4 := (State.Carried.modEnd s r (fun l => l.receive w.nextBeat x k)).trans (.modEnd _ r.across Link.wrote)
  generalize (s.modEnd r (fun l => l.receive w.nextBeat x k)).modEnd r.across Link.wrote = v at *
  rw [heq] at ht
  subst ht
  split
  · exact ⟨(v.endLink_countBeat ..).trans h1, (v.endLink_countBeat ..).trans h2,
      fun a ha hb => (v.endLink_countBeat ..).trans (h3 a ha hb), h4.trans (.countBeat v _)⟩
  · exact ⟨h1, h2, h3, h4⟩

theorem State.writeBeat_full (hl : s.endLink r = some l) (h16 : 16 ≤ l.fifo.length) : s.writeBeat r x k = s := by
  unfold State.writeBeat
  rw [hl]
  split
  · next a b ha hb =>
    cases ha
    exact if_pos h16
  · rfl

theorem Link.wrote_frame (w : Link) : w.wrote.wptr = w.wptr + 1 ∧ w.wrote.pos = w.pos + 1 ∧ w.wrote.unacked = w.unacked ∧
    w.wrote.fifo = w.fifo := ⟨rfl, rfl, rfl, rfl⟩

/-! ### Reading -/

theorem State.readBeat_empty (hl : s.endLink r = some l) (hf : l.fifo = []) : s.readBeat r = s := by
  unfold State.readBeat
  rw [hl]
  dsimp only
  rw [hf]

section Read

variable {y : BitVec 2048} {chk : BitVec 64} {rest : List (BitVec 2048 × BitVec 64)} (hl : s.endLink r = some l)
  (hf : l.fifo = (y, chk) :: rest)

include hl hf

theorem State.readBeat_bad (h0 : chk ≠ crc8Check y (beatSeed l.rxSeq false)) (h1 : chk ≠ crc8Check y (beatSeed l.rxSeq true)) :
    s.readBeat r = (s.modEnd r Link.take).modEnd r Link.checkError := by
  unfold State.readBeat
  rw [hl]
  dsimp only
  rw [hf]
  exact (if_neg h0).trans (if_neg h1)

theorem State.readBeat_payload (h0 : chk = crc8Check y (beatSeed l.rxSeq false)) :
    s.readBeat r = (s.modEnd r Link.take).takePayload r y := by
  unfold State.readBeat
  rw [hl]
  dsimp only
  rw [hf]
  exact if_pos h0

end Read

/-- An end that has taken a payload beat expects the next one (R196). -/
def Link.expect (l : Link) : Link := { l with rxSeq := l.rxSeq + 1, nak := false }

/-- The reader's end once it has taken a payload beat. -/
def State.tookPayload (s : State) (r : End) : State := (s.modEnd r Link.expect).countBeat r

/-- A beat enters a landing buffer (R428). -/
def State.landed (s : State) (n : Nat) (d : Side) (data : BitVec 2048) : State :=
  s.modStage n (fun a => a.putLand d (a.land d ++ [data]))

theorem State.Carried.tookPayload (s : State) (r : End) : s.Carried (s.tookPayload r) :=
  (State.Carried.modEnd s r Link.expect).trans (.countBeat _ r)

/-- What a stage's end does with a payload beat (R196, R428). -/
theorem State.takePayload_eq (data : BitVec 2048) (hr : r = { stage := n, side := d, edge := false }) :
    s.takePayload r data = if (s.tookPayload r).dropsBeats n then s.tookPayload r
      else (((s.tookPayload r).landed n d data).stage n).elim ((s.tookPayload r).landed n d data)
        (fun b => if ((s.tookPayload r).landed n d data).live && !b.stopped then
            ((s.tookPayload r).landed n d data).drainRecv n d
          else (s.tookPayload r).landed n d data) := by
  subst hr
  unfold State.takePayload
  show (if (s.tookPayload _).dropsBeats n = true then _ else _) = _
  split
  · rfl
  · show (match ((s.tookPayload _).landed n d data).stage n with | none => _ | some st => _) = _
    cases ((s.tookPayload { stage := n, side := d, edge := false }).landed n d data).stage n <;> rfl

/-- A payload beat that a stopped stage takes waits in its landing buffer (R428). -/
theorem State.takePayload_stopped (hst : s.stage n = some st) (hstop : st.stopped = true) (hc : s.ctxOf n = some (p, c))
    (hcut : c.cut = none) (hr : r = { stage := n, side := d, edge := false }) (data : BitVec 2048) :
    s.takePayload r data = (s.tookPayload r).landed n d data := by
  have hcar := State.Carried.tookPayload s r
  rw [State.takePayload_eq data hr]
  generalize s.tookPayload r = v at *
  have hdrop : v.dropsBeats n = false := by
    unfold State.dropsBeats
    rw [hcar.ctxOf, hc]
    dsimp only
    rw [hcut]
  obtain ⟨a, ha, hsa⟩ := hcar.each.stage n st hst
  have hstage : (v.landed n d data).stage n = some (a.putLand d (a.land d ++ [data])) :=
    State.stage_modStage (fun a => a.putLand d (a.land d ++ [data])) ha
  have hstopped : (a.putLand d (a.land d ++ [data])).stopped = true := by
    rw [hsa]
    cases d <;> exact hstop
  rw [if_neg (by simp [hdrop]), hstage, Option.elim_some, if_neg (by simp [hstopped])]

end Sys2Proof.Machine
end

section
/-! Splice traffic: beats received, replays, acknowledgements and the fields of control beats (R194 to R200, R209, R428). -/

namespace Sys2Proof.Machine

set_option Elab.async false

open Sys2Proof

variable {s t u : State} {n m p : Nat} {d : Side} {e r : End} {l w : Link} {st : Stage} {c : Ctx}
  {x : BitVec 2048} {k : BitVec 64}

/-! ### Control beats -/

/-- The bits of a control beat, as a number (Table 6.1). -/
def Control.bits (c : Control) : Nat := c.ack.toNat + c.nak.toNat * 2 ^ 7 + c.mapSwitch * 2 ^ 32 + c.gen.toNat * 2 ^ 34

theorem Control.bits_lt {c : Control} (h : c.mapSwitch < 4) : c.bits < 2 ^ 42 := by
  have ha := c.ack.isLt
  have hn := c.nak.toNat_le
  have hg := c.gen.isLt
  unfold Control.bits
  omega

/-- A number that fits the width is kept. -/
theorem toNat_ofNat_of_fits {v j : Nat} (w : Nat) (hj : j ≤ w) (h : v < 2 ^ j) : (BitVec.ofNat w v).toNat = v := by
  rw [BitVec.toNat_ofNat]
  exact Nat.mod_eq_of_lt (lt_of_lt_of_le h (Nat.pow_le_pow_right (by decide) hj))

theorem controlData_toNat {c : Control} (h : c.mapSwitch < 4) : (controlData c).toNat = c.bits :=
  toNat_ofNat_of_fits 2048 (by decide) (Control.bits_lt h)

/-- The fields of a control beat's bits are the beat's (Table 6.1). -/
theorem controlOf_controlData {c : Control} (h : c.mapSwitch < 4) (hr : c.reserved = false) :
    controlOf (controlData c) = c := by
  have hlt := Control.bits_lt h
  have ha := c.ack.isLt
  have hn := c.nak.toNat_le
  have hg := c.gen.isLt
  have hack : BitVec.ofNat 7 c.bits = c.ack := BitVec.eq_of_toNat_eq (by
    rw [BitVec.toNat_ofNat]
    unfold Control.bits
    omega)
  have hnak : decide (bitsOf c.bits 7 1 = 1) = c.nak := by
    unfold bitsOf Control.bits
    cases c.nak <;> simp only [Bool.toNat_true, Bool.toNat_false, decide_eq_true_eq, decide_eq_false_iff_not] <;>
      omega
  have hswitch : bitsOf c.bits 32 2 = c.mapSwitch := by
    unfold bitsOf Control.bits
    omega
  have hgen : BitVec.ofNat 8 (bitsOf c.bits 34 8) = c.gen := BitVec.eq_of_toNat_eq (by
    rw [BitVec.toNat_ofNat]
    unfold bitsOf Control.bits
    omega)
  have hres : decide (c.bits / 2 ^ 42 ≠ 0) = c.reserved := by
    rw [hr]
    exact decide_eq_false (by rw [Nat.div_eq_of_lt hlt]; simp)
  unfold controlOf
  rw [controlData_toNat h]
  dsimp only
  rw [hack, hnak, hswitch, hgen, hres]

/-! ### Acknowledgements -/

/-- An acknowledgement among the beats sent takes those up to it (R198). -/
theorem Link.acknowledge_within {j : Nat} {ack : BitVec 7} (hj : j = (ack - l.txSeq).toNat) (hle : j ≤ l.sent) (nak : Bool) :
    (l.acknowledge (l.acked ack) nak).txSeq = ack ∧ (l.acknowledge (l.acked ack) nak).unacked = l.unacked.drop j ∧
    (l.acknowledge (l.acked ack) nak).sent = l.sent - j := by
  have hacked : l.acked ack = j := by
    subst hj
    exact if_pos hle
  rw [hacked]
  refine ⟨?_, rfl, rfl⟩
  show l.txSeq + BitVec.ofNat 7 j = ack
  rw [hj, BitVec.ofNat_toNat, BitVec.setWidth_eq]
  bv_omega

/-- Any other acknowledgement takes none (R198). -/
theorem Link.acknowledge_beyond {j : Nat} {ack : BitVec 7} (hj : j = (ack - l.txSeq).toNat) (hlt : l.sent < j) (nak : Bool) :
    (l.acknowledge (l.acked ack) nak).txSeq = l.txSeq ∧ (l.acknowledge (l.acked ack) nak).unacked = l.unacked := by
  have hacked : l.acked ack = 0 := by
    subst hj
    exact if_neg (by omega)
  rw [hacked]
  exact ⟨BitVec.add_zero _, rfl⟩

/-! ### Replays -/

theorem exec_spliceNakReplay {b : Bool} (hl : s.endLink { stage := n, side := d, edge := b } = some l)
    (hr : l.replay = true) (hc : l.carries = true) :
    exec (.spliceNakReplay n d b) s = .next (s.modEnd { stage := n, side := d, edge := b } (fun l =>
      { l with replay := false, again := l.sent, failRun := l.failRun + 1 })) := by
  show execSpliceNakReplay n d b s = _
  unfold execSpliceNakReplay
  dsimp only
  rw [hl]
  exact if_pos (by simp [hr, hc])

/-! ### Beats -/

theorem State.beat_closed (h : s.directionOpen r = false) : s.beat r x k = s := if_neg (by simp [h])

section Open

variable (ho : s.directionOpen r = true)

include ho

/-- Only the writer's clock makes edges. -/
theorem State.beat_write (hr : s.edgesAt r = false) (ha : s.edgesAt r.across = true) (hl : s.endLink r = some l)
    (hw : s.endLink r.across = some w) : s.beat r x k = s.writeBeat r x k := by
  have hcar : s.Carried (s.writeBeat r x k) := by
    by_cases h16 : l.fifo.length < 16
    · exact (State.writeBeat_spec hl hw h16 rfl).2.2.2
    · rw [State.writeBeat_full hl (by omega)]
      exact .refl s
  unfold State.beat
  rw [if_pos ho, if_pos ha]
  exact if_neg (by rw [hcar.edgesAt, hr]; decide)

/-- Only the reader's clock makes edges. -/
theorem State.beat_read (hr : s.edgesAt r = true) (ha : s.edgesAt r.across = false) : s.beat r x k = s.readBeat r := by
  have hclosed : ¬ s.edgesAt r.across = true := by simp [ha]
  unfold State.beat
  dsimp only
  rw [if_pos ho, if_neg hclosed, if_pos hr]

/-- Both clocks make edges, and the FIFO has room. -/
theorem State.beat_both (hr : s.edgesAt r = true) (ha : s.edgesAt r.across = true) (hl : s.endLink r = some l)
    (hw : s.endLink r.across = some w) (h16 : l.fifo.length < 16) : s.beat r x k = (s.writeBeat r x k).readBeat r := by
  have hcar : s.Carried (s.writeBeat r x k) := (State.writeBeat_spec hl hw h16 rfl).2.2.2
  unfold State.beat
  rw [if_pos ho, if_pos ha]
  exact if_pos (by rw [hcar.edgesAt, hr])

end Open

/-! ### A payload beat that lands -/

/-- A side of a stage is not across from another side of it (R23). -/
theorem End.apart_of_across (n : Nat) (d f : Side) : End.Apart { stage := n, side := f, edge := false }
    ({ stage := n, side := d, edge := false } : End).across := by
  unfold End.across
  dsimp only
  rw [if_neg Bool.false_ne_true]
  cases h : neighbour n d with
  | none => exact .inl (by simp)
  | some m => exact .inr ⟨rfl, rfl, .inl (neighbour_ne h).symm⟩

theorem Stage.link_putLand (a : Stage) (d f : Side) (bs : List (BitVec 2048)) : (a.putLand d bs).link f = a.link f := by
  cases d <;> cases f <;> rfl

theorem Stage.land_putLand (a : Stage) (d : Side) (bs : List (BitVec 2048)) : (a.putLand d bs).land d = bs := by
  cases d <;> rfl

theorem Stage.land_putLand_other {d f : Side} (h : f ≠ d) (a : Stage) (bs : List (BitVec 2048)) :
    (a.putLand d bs).land f = a.land f := by
  cases d <;> cases f <;> first | rfl | exact absurd rfl h

/-- A counted beat changes no end and no landing buffer. -/
def Stage.countedBeat (a : Stage) : Stage := { a with work := { a.work with beats := a.work.beats + 1 } }

theorem Stage.countedBeat_frame (a : Stage) (f : Side) :
    a.countedBeat.link f = a.link f ∧ a.countedBeat.land f = a.land f ∧ a.countedBeat.scratch = a.scratch := by
  cases f <;> exact ⟨rfl, rfl, rfl⟩

theorem Stage.modLink_frame (a : Stage) (d f : Side) (g : Link → Link) :
    (a.modLink d g).land f = a.land f ∧ (a.modLink d g).scratch = a.scratch := by
  cases d <;> cases f <;> exact ⟨rfl, rfl⟩

theorem Stage.putLand_scratch (a : Stage) (d : Side) (bs : List (BitVec 2048)) : (a.putLand d bs).scratch = a.scratch := by
  cases d <;> rfl

/-- A stage that has taken a payload beat from a side and keeps it (R196, R272, R428). -/
def Stage.landBeat (a : Stage) (d : Side) (x : BitVec 2048) : Stage :=
  ((a.modLink d Link.take).modLink d Link.expect).countedBeat.putLand d
    (((a.modLink d Link.take).modLink d Link.expect).countedBeat.land d ++ [x])

theorem Stage.landBeat_spec (a : Stage) (d : Side) (x : BitVec 2048) : (a.landBeat d x).land d = a.land d ++ [x] ∧
    (a.landBeat d x).link d = (a.link d).take.expect ∧
    (∀ f, f ≠ d → (a.landBeat d x).link f = a.link f ∧ (a.landBeat d x).land f = a.land f) ∧
    (a.landBeat d x).scratch = a.scratch := by
  unfold Stage.landBeat
  refine ⟨?_, ?_, fun f hf => ⟨?_, ?_⟩, ?_⟩
  · rw [Stage.land_putLand, (Stage.countedBeat_frame _ d).2.1, (Stage.modLink_frame _ _ _ _).1, (Stage.modLink_frame _ _ _ _).1]
  · rw [Stage.link_putLand, (Stage.countedBeat_frame _ d).1, Stage.link_modLink, Stage.link_modLink]
  · rw [Stage.link_putLand, (Stage.countedBeat_frame _ f).1, Stage.link_modLink_other _ _ hf, Stage.link_modLink_other _ _ hf]
  · rw [Stage.land_putLand_other hf, (Stage.countedBeat_frame _ f).2.1, (Stage.modLink_frame _ _ _ _).1,
      (Stage.modLink_frame _ _ _ _).1]
  · rw [Stage.putLand_scratch, (Stage.countedBeat_frame _ d).2.2, (Stage.modLink_frame _ d d _).2,
      (Stage.modLink_frame _ d d _).2]

theorem State.landBeat_stage {a : Stage} (ha : s.stage n = some a) :
    ((((s.modEnd { stage := n, side := d, edge := false } Link.take).tookPayload
      { stage := n, side := d, edge := false }).landed n d x).stage n) = some (a.landBeat d x) := by
  have h1 : (s.modEnd { stage := n, side := d, edge := false } Link.take).stage n = some (a.modLink d Link.take) :=
    State.stage_modStage (fun st => st.modLink d Link.take) ha
  generalize s.modEnd { stage := n, side := d, edge := false } Link.take = v at *
  have h2 : (v.modEnd { stage := n, side := d, edge := false } Link.expect).stage n =
      some ((a.modLink d Link.take).modLink d Link.expect) :=
    State.stage_modStage (fun st => st.modLink d Link.expect) h1
  unfold State.tookPayload
  generalize v.modEnd { stage := n, side := d, edge := false } Link.expect = y at *
  exact State.stage_modStage (fun a => a.putLand d (a.land d ++ [x]))
    (State.stage_modStage Stage.countedBeat h2)

/-- Settles O30: beats written, read and landed, replays, acknowledgements and control beats. -/
theorem spliceTraffic : Obligations.SpliceTraffic := by
  refine ⟨⟨fun s n d b r l w x k hre hl hw => ?beats, fun s n p d st c w x r hre hst hc hcut hstop ho hr ha hw hf hx hq => ?lands,
      fun s n d b l hl hr hc => exec_spliceNakReplay hl hr hc⟩,
    fun l c j hj => ⟨fun hle => Link.acknowledge_within hj hle c.nak, fun hlt => Link.acknowledge_beyond hj hlt c.nak⟩,
    fun c hm hr => controlOf_controlData hm hr⟩
  case beats =>
    have hexec : exec (.spliceBeatReceived n d b x k) s = .next (s.beat r x k) := by rw [hre]; rfl
    rw [hexec]
    refine ⟨fun hclosed => congrArg _ (State.beat_closed hclosed), fun ho hr ha => ?_, fun ho hr ha => ?_⟩
    · rw [State.beat_write ho hr ha hl hw]
      refine ⟨fun h16 => congrArg _ (State.writeBeat_full hl h16), fun h16 => ?_⟩
      obtain ⟨hp, hq, -, hcar⟩ := State.writeBeat_spec (x := x) (k := k) hl hw h16 rfl
      exact ⟨_, _, _, rfl, hp, hq, rfl, rfl, rfl, rfl, hcar.frame⟩
    · rw [State.beat_read ho hr ha]
      refine ⟨fun hf => congrArg _ (State.readBeat_empty hl hf), fun y chk rest hf h0 h1 => ?_⟩
      have htake := State.endLink_modEnd hl Link.take
      have hcar := (State.Carried.modEnd s r Link.take).trans (.modEnd _ r Link.checkError)
      refine ⟨_, _, congrArg _ (State.readBeat_bad hl hf h0 h1), State.endLink_modEnd htake Link.checkError, ?_, rfl, rfl, rfl,
        List.mem_cons_self, hcar.frame⟩
      show l.fifo.drop 1 = rest
      rw [hf]
      rfl
  case lands =>
    have hexec : exec (.spliceBeatReceived n d false 0 0) s = .next (s.beat r 0 0) := by rw [hre]; rfl
    have hl : s.endLink r = some (st.link d) := by
      rw [hre]
      exact congrArg (Option.map _) hst
    have h16 : (st.link d).fifo.length < 16 := by rw [hf]; decide
    rw [State.beat_both ho hr ha hl hw h16] at hexec
    obtain ⟨hlink, -, hother, hcar⟩ := State.writeBeat_spec (x := 0) (k := 0) hl hw h16 rfl
    generalize s.writeBeat r 0 0 = v at *
    have hbeat : w.nextBeat = (x, crc8Check x (beatSeed (st.link d).rxSeq false)) := by
      unfold Link.nextBeat
      rw [hx, hq]
    have hfifo : ((st.link d).receive w.nextBeat 0 0).fifo = [(x, crc8Check x (beatSeed (st.link d).rxSeq false))] := by
      show (st.link d).fifo ++ [(w.nextBeat.1 ^^^ 0, w.nextBeat.2 ^^^ 0)] = _
      have hzero : ∀ {v : Nat} (b : BitVec v), b ^^^ 0 = b := fun b => BitVec.xor_zero
      rw [hf, hbeat, hzero, hzero, List.nil_append]
    obtain ⟨a, hva, hsa⟩ := hcar.each.stage n st hst
    have halink : a.link d = (st.link d).receive w.nextBeat 0 0 := by
      have : v.endLink r = some (a.link d) := by rw [hre]; exact congrArg (Option.map _) hva
      exact Option.some.inj (this.symm.trans hlink)
    have hctx := (hcar.trans (.modEnd v r Link.take)).ctxOf n
    have htook : (v.modEnd r Link.take).stage n = some (a.modLink d Link.take) := by
      rw [hre]
      exact State.stage_modStage (fun st => st.modLink d Link.take) hva
    have hstopped : (a.modLink d Link.take).stopped = true := by
      rw [hsa]
      cases d <;> exact hstop
    rw [State.readBeat_payload hlink hfifo rfl, State.takePayload_stopped htook hstopped (hctx.trans hc) hcut hre] at hexec
    obtain ⟨hland, hlinkd, hsides, hscratch⟩ := a.landBeat_spec d x
    have hframe := (hcar.trans (.modEnd v r Link.take)).trans (.tookPayload _ r)
    refine ⟨_, a.landBeat d x, hexec, ?_, ?_, ?_, ?_, ?_, fun f hfd => ⟨?_, ?_⟩, ?_, ?_⟩
    · rw [hre]; exact State.landBeat_stage hva
    · rw [hland, hsa]; cases d <;> rfl
    · rw [hlinkd, halink]; rfl
    · rw [hlinkd]; rfl
    · rw [hlinkd, halink]
      show (((st.link d).receive w.nextBeat 0 0).fifo).drop 1 = []
      rw [hfifo]
      rfl
    · have hv := hother { stage := n, side := f, edge := false } (by rw [hre]; exact .inr ⟨rfl, rfl, .inr hfd⟩)
        (by rw [hre]; exact End.apart_of_across n d f)
      have h1 : v.endLink { stage := n, side := f, edge := false } = some (a.link f) := congrArg (Option.map _) hva
      have h2 : s.endLink { stage := n, side := f, edge := false } = some (st.link f) := congrArg (Option.map _) hst
      rw [(hsides f hfd).1]
      exact Option.some.inj (h1.symm.trans (hv.trans h2))
    · rw [(hsides f hfd).2, hsa]
      cases f <;> rfl
    · rw [hscratch, hsa]; rfl
    · rw [State.landed]
      exact congrArg (fun z : State => ({ z with stages := _ } : State)) hframe.frame

end Sys2Proof.Machine
end

section
/-! Aligned mode, trim averages, the lane test, the map switch and splice failure (R200 to R206, R210, R221 to R223, R479). -/

namespace Sys2Proof.Machine

set_option Elab.async false

open Sys2Proof

variable {s t u : State} {n m p i : Nat} {d : Side} {e r : End} {l w q : Link} {st : Stage} {c : Ctx}

/-! ### Both ends of a splice -/

theorem State.stage_of_endLink (h : s.endLink { stage := n, side := d, edge := false } = some l) :
    ∃ a, s.stage n = some a ∧ a.link d = l := Option.map_eq_some_iff.mp h

theorem State.endLink_of_stage (h : s.stage n = some st) (d : Side) :
    s.endLink { stage := n, side := d, edge := false } = some (st.link d) := congrArg (Option.map _) h

/-- A change of an end makes none. -/
theorem State.endLink_modEnd_none (h : s.endLink e = none) (f : Link → Link) : (s.modEnd e f).endLink e = none := by
  obtain ⟨n, d, b⟩ := e
  unfold State.endLink State.modEnd at *
  cases b
  case true =>
    rw [if_pos rfl] at h
    cases hi : edgeIndex n d with
    | none => simp
    | some i =>
      have hl : s.edges[i]? = none := by simpa [hi] using h
      simp [modAt, hl]
  case false =>
    rw [if_neg Bool.false_ne_true, Option.map_eq_none_iff] at h
    rw [if_neg Bool.false_ne_true, if_neg Bool.false_ne_true, State.stage_modStage_map, h]
    rfl

/-- Both ends of a splice, changed. -/
theorem State.endLink_modSplice (hl : s.endLink e = some l) (f : Link → Link) : (s.modSplice e f).endLink e = some (f l) :=
  (State.endLink_modEnd_apart e.apart_across f).trans (State.endLink_modEnd hl f)

theorem State.endLink_modSplice_across (hw : s.endLink e.across = some w) (f : Link → Link) :
    (s.modSplice e f).endLink e.across = some (f w) :=
  State.endLink_modEnd ((State.endLink_modEnd_apart e.apart_across.symm f).trans hw) f

theorem State.Carried.modSplice (s : State) (e : End) (f : Link → Link) : s.Carried (s.modSplice e f) :=
  (State.Carried.modEnd s e f).trans (.modEnd _ e.across f)

/-- The end across a stage's end towards its neighbour. -/
theorem End.across_of_neighbour (h : neighbour n d = some m) :
    ({ stage := n, side := d, edge := false } : End).across = { stage := m, side := d.opposite, edge := false } := by
  unfold End.across
  rw [if_neg Bool.false_ne_true]
  dsimp only
  rw [h]

/-- Neighbours lie across from each other (R23). -/
theorem neighbour_opposite (h : neighbour n d = some m) (hn : n < 96) (hm : m < 96) : neighbour m d.opposite = some n := by
  have hoff := neighbour_offset h
  cases d
  case north =>
    have hrow : rowOf m ≠ 7 := by unfold rowOf; omega
    exact (if_neg hrow).trans (congrArg some hoff)
  case south =>
    have hrow : rowOf m ≠ 0 := by unfold rowOf; omega
    exact (if_neg hrow).trans (congrArg some (by omega))
  case east =>
    have hcol : colOf n ≠ 11 := fun hc => by simp [neighbour, hc] at h
    have hcol' : colOf m ≠ 0 := by unfold colOf at hcol ⊢; omega
    exact (if_neg hcol').trans (congrArg some (by omega))
  case west =>
    have hcol : colOf n ≠ 0 := fun hc => by simp [neighbour, hc] at h
    have hcol' : colOf m ≠ 11 := by unfold colOf at hcol ⊢; omega
    exact (if_neg hcol').trans (congrArg some hoff)

/-! ### Beats keep the stages -/

/-- As many stages. -/
def State.SameCount (s t : State) : Prop := t.stages.length = s.stages.length

theorem State.SameCount.trans (h : s.SameCount t) (k : t.SameCount u) : s.SameCount u := Eq.trans k h

theorem State.modStage_count (s : State) (n : Nat) (f : Stage → Stage) : s.SameCount (s.modStage n f) := length_modAt ..

theorem State.journalFull_count (s : State) (n : Nat) (b : Dest) (k : BitVec 32) (a : Bool) :
    s.SameCount (s.journalFull n b k a) := by
  unfold State.journalFull
  have he := s.errorEvent_frame { stageErr 0x1B n none with engine := b.engineCode, shot := k, ahead := a } 0x00 0
  generalize s.errorEvent { stageErr 0x1B n none with engine := b.engineCode, shot := k, ahead := a } 0x00 0 = v at *
  have hv : s.SameCount v := by rw [he]; rfl
  refine hv.trans ?_
  unfold State.failStageCtx
  split
  · rfl
  · exact v.failCtx_count ..

theorem State.drainSide_count (n : Nat) (d : Side) (fuel : Nat) : ∀ s : State, s.SameCount (s.drainSide n d fuel) := by
  induction fuel with
  | zero => exact fun s => rfl
  | succ j ih =>
    intro s
    unfold State.drainSide
    split
    · rfl
    · split
      · split
        · exact s.journalFull_count ..
        · exact (s.modStage_count ..).trans (ih _)
      · rfl

theorem State.drainRecv_count (s : State) (n : Nat) (d : Side) : s.SameCount (s.drainRecv n d) := by
  unfold State.drainRecv
  split
  · rfl
  · exact State.drainSide_count ..

theorem State.takePayload_count (s : State) (r : End) (x : BitVec 2048) : s.SameCount (s.takePayload r x) := by
  have htook : s.SameCount (s.tookPayload r) := (State.Carried.tookPayload s r).each.count
  obtain ⟨n, d, b⟩ := r
  cases b
  case true => exact htook
  case false =>
    rw [State.takePayload_eq x rfl]
    generalize s.tookPayload { stage := n, side := d, edge := false } = v at *
    have hland : s.SameCount (v.landed n d x) := htook.trans (v.modStage_count ..)
    generalize v.landed n d x = y at *
    split
    · exact htook
    · cases y.stage n with
      | none => exact hland
      | some a =>
        rw [Option.elim_some]
        split
        · exact hland.trans (State.drainRecv_count ..)
        · exact hland

theorem State.takeControl_count (s : State) (r : End) (l : Link) (c : Control) : s.SameCount (s.takeControl r l c) := by
  unfold State.takeControl
  dsimp only
  have hmod : s.SameCount _ := (State.Carried.modEnd s r
    (fun k => (k.acknowledge (l.acked c.ack) c.nak).switchMap c ((s.endLink r.across).bind Link.mapReq))).each.count
  split
  · exact hmod
  · exact hmod.trans (State.modStage_count ..)

theorem State.readBeat_count (s : State) (r : End) : s.SameCount (s.readBeat r) := by
  unfold State.readBeat
  split
  · rfl
  · split
    · rfl
    · have htake : s.SameCount (s.modEnd r Link.take) := (State.Carried.modEnd s r Link.take).each.count
      dsimp only
      split
      · exact htake.trans (State.takePayload_count ..)
      · split
        · split
          · exact htake.trans (State.Carried.modEnd _ r Link.checkError).each.count
          · exact htake.trans (State.takeControl_count ..)
        · exact htake.trans (State.Carried.modEnd _ r Link.checkError).each.count

theorem State.drainTo1_count (r : End) (fuel : Nat) : ∀ s : State, s.SameCount (s.drainTo1 r fuel) := by
  induction fuel with
  | zero => exact fun s => rfl
  | succ j ih =>
    intro s
    unfold State.drainTo1
    split
    · rfl
    · split
      · exact (s.readBeat_count r).trans (ih _)
      · rfl

theorem State.writeBeat_count (s : State) (r : End) (x : BitVec 2048) (k : BitVec 64) : s.SameCount (s.writeBeat r x k) := by
  cases hl : s.endLink r with
  | none => unfold State.writeBeat; rw [hl]; rfl
  | some l =>
    cases hw : s.endLink r.across with
    | none => unfold State.writeBeat; rw [hl, hw]; rfl
    | some w =>
      by_cases h16 : l.fifo.length < 16
      · exact (State.writeBeat_spec hl hw h16 rfl).2.2.2.each.count
      · rw [State.writeBeat_full hl (by omega)]
        rfl

theorem State.realignSide_count (s : State) (r : End) : s.SameCount (s.realignSide r) := by
  have h := State.drainTo1_count r 16 s
  unfold State.realignSide
  dsimp only
  split
  · exact h
  · split
    · exact h.trans (State.writeBeat_count ..)
    · exact h

/-! ### Realignment of short FIFOs -/

/-- A change of a stage's end leaves the edge blocks' ends. -/
theorem State.modEnd_edges (h : e.edge = false) (f : Link → Link) : (s.modEnd e f).edges = s.edges := by
  unfold State.modEnd
  rw [if_neg (by simp [h])]
  rfl

theorem State.writeBeat_edges (hr : r.edge = false) (ha : r.across.edge = false) (x : BitVec 2048) (k : BitVec 64) :
    (s.writeBeat r x k).edges = s.edges := by
  have hmod : ∀ (v : State) (g h : Link → Link), ((v.modEnd r g).modEnd r.across h).edges = v.edges := fun v g h => by
    rw [State.modEnd_edges ha, State.modEnd_edges hr]
  unfold State.writeBeat
  split
  · next l w _ _ =>
    split
    · rfl
    · dsimp only
      have hcount : ∀ v : State, (v.countBeat r.across).edges = v.edges := fun v => by
        unfold State.countBeat
        split <;> rfl
      split
      · rw [hcount, hmod]
      · exact hmod ..
  · rfl

/-- A direction with one entry at most between its ends is left with one (R203, R210). -/
theorem State.realignSide_short (hl : s.endLink r = some l) (hw : s.endLink r.across = some w) (h1 : l.fifo.length ≤ 1)
    (hr : r.edge = false) (ha : r.across.edge = false) (ht : t = s.realignSide r) : ∃ l' w', t.endLink r = some l' ∧
    t.endLink r.across = some w' ∧ l'.fifo.length = 1 ∧ w'.fifo = w.fifo ∧ s.Carried t ∧ t.edges = s.edges := by
  have hdrain : s.drainTo1 r 16 = s := by
    unfold State.drainTo1
    rw [hl]
    exact if_neg (by omega)
  have heq : s.realignSide r = if l.fifo.isEmpty then s.writeBeat r 0 0 else s := by
    unfold State.realignSide
    rw [hdrain]
    dsimp only
    rw [hl]
  rw [heq] at ht
  by_cases hempty : l.fifo = []
  · rw [if_pos (by simp [hempty])] at ht
    obtain ⟨hl', hw', -, hcar⟩ := State.writeBeat_spec hl hw (by omega) ht
    refine ⟨_, _, hl', hw', ?_, rfl, hcar, by rw [ht]; exact State.writeBeat_edges hr ha 0 0⟩
    show (l.fifo ++ [(w.nextBeat.1 ^^^ 0, w.nextBeat.2 ^^^ 0)]).length = 1
    rw [hempty]
    rfl
  · rw [if_neg (by simp [hempty])] at ht
    subst ht
    have hpos : 0 < l.fifo.length := List.length_pos_iff.mpr hempty
    exact ⟨l, w, hl, hw, by omega, rfl, .refl _, rfl⟩

/-- An end in aligned mode. -/
def Link.align (l : Link) : Link := { l with aligned := true }

section Realign

variable {a b : Stage} (hn : neighbour n d = some m) (ha : s.stage n = some a) (hb : s.stage m = some b)

include hn ha hb

theorem exec_spliceRealign (h : s.alignable n d = true) (hha : a.clock.halted = false) (hhb : b.clock.halted = false)
    (ho : s.directionOpen { stage := n, side := d, edge := false } = true) : exec (.spliceRealign n d) s =
      .next (((s.realignSide { stage := n, side := d, edge := false }).realignSide
        { stage := m, side := d.opposite, edge := false }).modSplice { stage := n, side := d, edge := false } Link.align) := by
  have hlit : a.st = .lit ∧ b.st = .lit := by
    unfold State.alignable at h
    rw [hn] at h
    dsimp only at h
    rw [ha, hb] at h
    simp only [Bool.and_eq_true, decide_eq_true_eq] at h
    exact h.1.1.1.1.1.1.1
  have h1 : s.edgesAt { stage := n, side := d, edge := false } = true := by
    unfold State.edgesAt
    dsimp only
    rw [if_neg Bool.false_ne_true, ha]
    simp [hlit.1, hha]
  have h2 : s.edgesAt { stage := m, side := d.opposite, edge := false } = true := by
    unfold State.edgesAt
    dsimp only
    rw [if_neg Bool.false_ne_true, hb]
    simp [hlit.2, hhb]
  have hcross := End.across_of_neighbour hn
  show execSpliceRealign n d s = _
  unfold execSpliceRealign
  dsimp only
  rw [hcross]
  exact if_pos (by simp [h, h1, h2, ho])

end Realign

/-- A realigned splice is aligned at both its ends (R202, R203). -/
theorem spliceRealign_aligned {a b : Stage} (hn : neighbour n d = some m) (ha : s.stage n = some a)
    (hb : s.stage m = some b) (hlen : s.stages.length = 96) (hal : s.alignable n d = true) (hha : a.clock.halted = false)
    (hhb : b.clock.halted = false) (ho : s.directionOpen { stage := n, side := d, edge := false } = true) : ∃ t u v,
    exec (.spliceRealign n d) s = .next t ∧ t.stage n = some u ∧ t.stage m = some v ∧ (u.link d).aligned = true ∧
    (v.link d.opposite).aligned = true ∧
    ((a.link d).fifo.length ≤ 1 → (b.link d.opposite).fifo.length ≤ 1 →
      (u.link d).fifo.length = 1 ∧ (v.link d.opposite).fifo.length = 1 ∧ t = { s with stages := t.stages }) := by
  have hexec := exec_spliceRealign hn ha hb hal hha hhb ho
  have hcross := End.across_of_neighbour hn
  have hnlt : n < 96 := hlen ▸ State.lt_of_stage ha
  have hmlt : m < 96 := hlen ▸ State.lt_of_stage hb
  have hback : ({ stage := m, side := d.opposite, edge := false } : End).across = { stage := n, side := d, edge := false } := by
    rw [End.across_of_neighbour (neighbour_opposite hn hnlt hmlt)]
    cases d <;> rfl
  have hcount := (s.realignSide_count { stage := n, side := d, edge := false }).trans
    (State.realignSide_count _ { stage := m, side := d.opposite, edge := false })
  have hshort : (a.link d).fifo.length ≤ 1 → (b.link d.opposite).fifo.length ≤ 1 → ∃ l' w',
      ((s.realignSide { stage := n, side := d, edge := false }).realignSide
        { stage := m, side := d.opposite, edge := false }).endLink { stage := n, side := d, edge := false } = some l' ∧
      ((s.realignSide { stage := n, side := d, edge := false }).realignSide
        { stage := m, side := d.opposite, edge := false }).endLink { stage := m, side := d.opposite, edge := false } = some w' ∧
      l'.fifo.length = 1 ∧ w'.fifo.length = 1 ∧
      s.Carried ((s.realignSide { stage := n, side := d, edge := false }).realignSide
        { stage := m, side := d.opposite, edge := false }) ∧
      ((s.realignSide { stage := n, side := d, edge := false }).realignSide
        { stage := m, side := d.opposite, edge := false }).edges = s.edges := fun h1 h2 => by
    obtain ⟨l1, w1, hl1, hw1, hf1, hfw1, hc1, he1⟩ := State.realignSide_short (State.endLink_of_stage ha d)
      (by rw [hcross]; exact State.endLink_of_stage hb d.opposite) h1 rfl (by rw [hcross]) rfl
    rw [hcross] at hw1
    obtain ⟨w2, l2, hw2, hl2, hf2, hfl2, hc2, he2⟩ := State.realignSide_short hw1 (by rw [hback]; exact hl1)
      (by rw [hfw1]; exact h2) rfl (by rw [hback]) rfl
    rw [hback] at hl2
    exact ⟨l2, w2, hl2, hw2, by rw [hfl2]; exact hf1, hf2, hc1.trans hc2, he2.trans he1⟩
  generalize (s.realignSide { stage := n, side := d, edge := false }).realignSide
    { stage := m, side := d.opposite, edge := false } = y at *
  have hylen : y.stages.length = 96 := Eq.trans hcount hlen
  obtain ⟨a', ha'⟩ := State.stage_of_lt (s := y) (n := n) (by omega)
  obtain ⟨b', hb'⟩ := State.stage_of_lt (s := y) (n := m) (by omega)
  have hl := State.endLink_of_stage ha' d
  have hw := State.endLink_of_stage hb' d.opposite
  obtain ⟨v1, hv1, hlink1⟩ := State.stage_of_endLink (State.endLink_modSplice hl Link.align)
  have hacross := State.endLink_modSplice_across (e := { stage := n, side := d, edge := false }) (by rw [hcross]; exact hw)
    Link.align
  rw [hcross] at hacross
  obtain ⟨v2, hv2, hlink2⟩ := State.stage_of_endLink hacross
  refine ⟨_, v1, v2, hexec, hv1, hv2, by rw [hlink1]; rfl, by rw [hlink2]; rfl, fun h1 h2 => ?_⟩
  obtain ⟨l', w', hl', hw', hf1, hf2, hcar, hedges⟩ := hshort h1 h2
  refine ⟨?_, ?_, ?_⟩
  · rw [hlink1, Option.some.inj (hl.symm.trans hl')]
    exact hf1
  · rw [hlink2, Option.some.inj (hw.symm.trans hw')]
    exact hf2
  · have hsplice : (y.modSplice { stage := n, side := d, edge := false } Link.align).edges = s.edges := by
      unfold State.modSplice
      rw [State.modEnd_edges (by rw [hcross]), State.modEnd_edges rfl, hedges]
    have hframe := (hcar.trans (.modSplice y { stage := n, side := d, edge := false } Link.align)).frame
    generalize y.modSplice { stage := n, side := d, edge := false } Link.align = z at hframe hsplice
    rw [hframe]
    unfold State.endsOf
    rw [hsplice]

end Sys2Proof.Machine
end

section
/-! Trim averages, the lane test, the map switch and the failure of a splice (R200, R204 to R206, R221 to R223, R461, R479). -/

namespace Sys2Proof.Machine

set_option Elab.async false

open Sys2Proof

variable {s t u : State} {n m p i : Nat} {d : Side} {e r : End} {l w q : Link} {st : Stage} {c : Ctx} {k : Test}

/-! ### Trim averages -/

/-- A whole lag moves a line that is acquiring (R204). -/
theorem Link.average_reset {phi : Rat} (h : l.phase = .reset) (h0 : 0 ≤ (l.trim : Int) - 2 * trimSteps phi)
    (h1 : (l.trim : Int) - 2 * trimSteps phi ≤ 126) : (l.average phi).1.phase = .moved ∧
    (((l.average phi).1.trim : Nat) : Int) = l.trim - 2 * trimSteps phi := by
  have heq : l.average phi =
      ({ l with trim := ((l.trim : Int) - 2 * trimSteps phi).toNat, phase := .moved }, false) := by
    unfold Link.average
    rw [h]
    exact if_neg (by omega)
  rw [heq]
  exact ⟨rfl, Int.toNat_of_nonneg h0⟩

/-- A moved line is confirmed within 15 ps, or acquires again (R204 to R206). -/
theorem Link.average_moved {phi : Rat} (h : l.phase = .moved) : l.average phi =
    if within15 phi then ({ l with phase := .acquired, residual := phi }, false)
    else ({ l with phase := .reset, trimWait := true }, true) := by
  unfold Link.average
  rw [h]

/-- An acquired line tracks by one step (R204). -/
theorem Link.average_acquired {phi : Rat} (h : l.phase = .acquired) : (l.average phi).1.phase = .acquired ∧
    (l.average phi).1.trim ≤ l.trim + 2 ∧ l.trim ≤ (l.average phi).1.trim + 2 := by
  unfold Link.average
  rw [h]
  dsimp only
  refine ⟨rfl, ?_⟩
  split
  · omega
  · split <;> omega

/-- Errors of a channel only join its test: it has no stand-in (R457). -/
theorem State.noteError_channel (s : State) (f : Nat) (d : Side) (kind : Nat) (w : TestWait) :
    s.noteError (some (.channel f d)) kind w = s.joinTest (.channel f d) kind w := by
  unfold State.noteError
  dsimp only
  split
  · exact if_neg (by simp [substitutable])
  · rfl

/-- An average leaves the follower's line as `average` says, but for aligned mode. -/
theorem spliceTrimAverage_line {a b : Rat} (hn : neighbour n d = some m) (hlt : n < m) (hst : s.stage m = some st)
    (hm : s.measurable n m = true) (he : (st.link d.opposite).elastic = false) (hf : (st.link d.opposite).failed = false)
    (hw : (st.link d.opposite).trimWait = false) : ∃ t u, exec (.spliceTrimAverage n d a b) s = .next t ∧
    t.stage m = some u ∧ (u.link d.opposite).trim = ((st.link d.opposite).average ((a - b) / 2)).1.trim ∧
    (u.link d.opposite).phase = ((st.link d.opposite).average ((a - b) / 2)).1.phase ∧
    (u.link d.opposite).trimWait = ((st.link d.opposite).average ((a - b) / 2)).1.trimWait := by
  have hfol : follower n m = m := if_pos hlt
  generalize hav : (st.link d.opposite).average ((a - b) / 2) = av
  obtain ⟨q, bad⟩ := av
  have hput : (s.putStage m (st.modLink d.opposite (fun _ => q))).stage m = some (st.modLink d.opposite (fun _ => q)) :=
    State.stage_putStage _ hst
  have hexec : ∃ rep : ErrReport, exec (.spliceTrimAverage n d a b) s = .next (if bad then
      ((s.putStage m (st.modLink d.opposite (fun _ => q))).errorEvent rep 0x00 0).noteError
        (some (.channel m d.opposite)) 0x0B .tick
      else ((s.putStage m (st.modLink d.opposite (fun _ => q))).checkAligned m).checkAligned n) := by
    refine ⟨{ stageErr 0x0B m (some (.channel m d.opposite)) with xid := stageXid m 0xE d.opposite.code }, ?_⟩
    show execSpliceTrimAverage n d a b s = _
    unfold execSpliceTrimAverage
    rw [hn]
    dsimp only
    have hne : ¬ m = n := by omega
    rw [hfol, if_neg hne, if_neg hne, hst]
    dsimp only
    rw [if_neg (by simp [hm, he, hf, hw]), hav]
    cases bad <;> rfl
  obtain ⟨rep, hexec⟩ := hexec
  generalize s.putStage m (st.modLink d.opposite (fun _ => q)) = y at hexec hput
  cases bad
  case true =>
    rw [if_pos rfl, State.noteError_channel] at hexec
    have hev := y.errorEvent_frame rep 0x00 0
    generalize y.errorEvent rep 0x00 0 = z at *
    have hj := z.joinTest_frame (.channel m d.opposite) 0x0B .tick
    generalize z.joinTest (.channel m d.opposite) 0x0B .tick = v at *
    refine ⟨v, _, hexec, by rw [hj, hev]; exact hput, ?_⟩
    rw [Stage.link_modLink]
    exact ⟨rfl, rfl, rfl⟩
  case false =>
    rw [if_neg Bool.false_ne_true] at hexec
    have heach : y.Each Stage.Unaligned ((y.checkAligned m).checkAligned n) :=
      .trans Stage.Unaligned.trans (y.checkAligned_each m) (State.checkAligned_each _ n)
    obtain ⟨v, hv, -, hlink⟩ := heach.stage m _ hput
    refine ⟨_, v, hexec, hv, ?_⟩
    rw [hlink d.opposite, Stage.link_modLink]
    exact ⟨rfl, rfl, rfl⟩

/-! ### The lane test -/

theorem State.ctxOf_modSplice (s : State) (e : End) (f : Link → Link) (n : Nat) : (s.modSplice e f).ctxOf n = s.ctxOf n :=
  (State.Carried.modSplice s e f).ctxOf n

/-- Records and tests leave the ends. -/
theorem State.endLink_errorsOf (h : t = s.errorsOf t) (e : End) : t.endLink e = s.endLink e := by
  rw [h]
  rfl

/-- A paused end, out of aligned mode (R200). -/
def Link.pause (l : Link) : Link := { l with paused := true, aligned := false }

section Threshold

variable {b : Bool} (hre : r = { stage := n, side := d, edge := b }) (hl : s.endLink r = some l)
  (hw : s.endLink r.across = some w) (hr : s.inReset = false) (hp : l.paused = false) (hf : l.failed = false)
  (hm : 16 ≤ l.errAge.length ∨ 4 ≤ w.failedSends)

include hre hl hw hr hp hf hm

theorem exec_spliceLaneTestThreshold : exec (.spliceLaneTestThreshold n d b) s =
    .next (((s.modSplice r Link.pause).errorEvent (stageErr 0x0A n (some (.spliceDir n d (!b)))) 0x03 0).noteError
      (some (.spliceDir n d (!b))) 0x0A .tick) := by
  subst hre
  show execSpliceLaneTestThreshold n d b s = _
  unfold execSpliceLaneTestThreshold
  dsimp only
  rw [hl, hw]
  exact if_pos (by rcases hm with h | h <;> simp [hr, hp, hf, h])

theorem spliceLaneTestThreshold_pauses (hk : s.testOf (.spliceDir n d (!b)) = none) : ∃ t q,
    exec (.spliceLaneTestThreshold n d b) s = .next t ∧ t.endLink r = some q ∧ q.paused = true ∧ q.aligned = false ∧
    (∀ v, t.endLink r.across = some v → v.paused = true) ∧
    (∃ k, t.testOf (.spliceDir n d (!b)) = some k ∧ k.kinds = [0x0A]) ∧
    (∃ x ∈ t.dailies.log, x.kind = 0x01 ∧
      x.payload = errBytes (s.errBody (stageErr 0x0A n (some (.spliceDir n d (!b)))) 0x03 0)) ∧
    t = { s.errorsOf t with stages := t.stages, edges := t.edges } := by
  have hexec := exec_spliceLaneTestThreshold hre hl hw hr hp hf hm
  have h1 := State.endLink_modSplice hl Link.pause
  have h2 := State.endLink_modSplice_across hw Link.pause
  have hof := s.ctxOf_modSplice r Link.pause n
  have hframe := (State.Carried.modSplice s r Link.pause).frame
  generalize s.modSplice r Link.pause = y at *
  have htold := y.errorEvent_toldError (stageErr 0x0A n (some (.spliceDir n d (!b)))) 0x03 0
  rw [State.errBody_congr hof] at htold
  have hev := y.errorEvent_frame (stageErr 0x0A n (some (.spliceDir n d (!b)))) 0x03 0
  generalize y.errorEvent (stageErr 0x0A n (some (.spliceDir n d (!b)))) 0x03 0 = z at *
  have hkz : z.testOf (.spliceDir n d (!b)) = none := by rw [hev, hframe]; exact hk
  rw [State.noteError_new hkz] at hexec
  obtain ⟨k, hk1, hk2, -⟩ := State.joinTest_pending hkz 0x0A .tick
  have hj := z.joinTest_frame (.spliceDir n d (!b)) 0x0A .tick
  generalize z.joinTest (.spliceDir n d (!b)) 0x0A .tick = v at *
  have hends : ∀ a, v.endLink a = y.endLink a := fun a => by rw [hj, hev]; rfl
  obtain ⟨x, hx, hkind, hpay⟩ := htold
  refine ⟨v, _, hexec, (hends r).trans h1, rfl, rfl, fun a ha => ?_, ⟨k, hk1, hk2⟩, ⟨x, ?_, hkind, hpay⟩, ?_⟩
  · rw [hends, h2] at ha
    cases ha
    rfl
  · rw [hj]
    exact List.mem_of_getLast? hx
  · rw [hj, hev, hframe]
    rfl

end Threshold

/-! ### The map switch -/

/-- An end whose lane test is over (R222). -/
def Link.resume (l : Link) : Link := { l with paused := false, errAge := [], failRun := 0, replay := false }

/-- A writer in its new map (R222). -/
def Link.writeMap (g : BitVec 8) (m : List (Nat × Nat)) (l : Link) : Link :=
  { l with txMap := m, txGen := g, mapReq := none, again := l.sent }

/-- A reader in its partner's new map (R222). -/
def Link.readMap (g : BitVec 8) (m : List (Nat × Nat)) (l : Link) : Link := { l with rxMap := m, rxGen := g, mapAns := none }

/-- A writer that asks for its new map (R222). -/
def Link.askMap (g : BitVec 8) (m : List (Nat × Nat)) (l : Link) : Link := { l with mapReq := some (g, m) }

/-- The ends once a map has switched, or is asked for. -/
def State.switchEnds (s : State) (w : End) (g : BitVec 8) (m : List (Nat × Nat)) (both : Bool) : State :=
  if both then ((s.modSplice w Link.resume).modEnd w (Link.writeMap g m)).modEnd w.across (Link.readMap g m)
  else (s.modSplice w Link.resume).modEnd w (Link.askMap g m)

/-- Retired lanes change records and carrier flash alone. -/
theorem lanesRetired_frame (v : UnitId) (a kind : Nat) (m : List (Nat × Nat)) (xs : List (Nat × Nat)) (s : State) :
    xs.foldl (fun t x => t.laneRetired v a kind m x) s =
      { s.recordsOf (xs.foldl (fun t x => t.laneRetired v a kind m x) s) with
        flash := (xs.foldl (fun t x => t.laneRetired v a kind m x) s).flash } :=
  foldl_rel (r := fun s t : State => t = { s.recordsOf t with flash := t.flash }) (fun _ => rfl)
    (fun h k => by rw [k, h]; rfl) (fun t x => t.retirement_frame _) xs s

section Switch

variable {b : Bool} {wr : End} {lanes mp : List (Nat × Nat)} (hwe : wr = { stage := n, side := d, edge := b })
  (hl : s.endLink wr = some l) (hk : s.laneTest wr = some k) (hp : l.paused = true)

include hwe hl hk hp

theorem exec_spliceMapSwitch (hx : lanes.map Prod.fst = k.lanes) (hm : extendMap l.txMap lanes = some mp) :
    exec (.spliceMapSwitch n d b lanes) s = .next (lanes.foldl (fun v x =>
      v.laneRetired k.unit (unitStageD k.unit) 0x0A mp x)
        ((s.switchEnds wr (l.txGen + 1) mp (s.edgesAt wr && s.edgesAt wr.across)).dropTest k.unit)) := by
  subst hwe
  show execSpliceMapSwitch n d b lanes s = _
  unfold execSpliceMapSwitch
  dsimp only
  rw [hl, hk]
  dsimp only
  rw [hm]
  exact if_neg (by simp [hp, hx])

theorem spliceMapSwitch_switches (hx : lanes.map Prod.fst = k.lanes) (hm : extendMap l.txMap lanes = some mp) : ∃ t q,
    exec (.spliceMapSwitch n d b lanes) s = .next t ∧ t.endLink wr = some q ∧ q.paused = false ∧
    q.unacked = l.unacked ∧ t.testOf k.unit = none ∧
    (s.edgesAt wr = true → s.edgesAt wr.across = true → q.txMap = mp ∧ q.txGen = l.txGen + 1 ∧ q.again = l.sent ∧
      ∀ v, t.endLink wr.across = some v → v.rxMap = mp ∧ v.rxGen = l.txGen + 1) ∧
    (s.edgesAt wr = false → q.txMap = l.txMap ∧ q.mapReq = some (l.txGen + 1, mp)) := by
  have hexec := exec_spliceMapSwitch hwe hl hk hp hx hm
  have hres := State.endLink_modSplice hl Link.resume
  have hdrop : ∀ y : State, ∀ a, (y.dropTest k.unit).endLink a = y.endLink a := fun _ _ => rfl
  by_cases hboth : (s.edgesAt wr && s.edgesAt wr.across) = true
  · have hw : (s.switchEnds wr (l.txGen + 1) mp true).endLink wr = some ((Link.resume l).writeMap (l.txGen + 1) mp) := by
      unfold State.switchEnds
      rw [if_pos rfl, State.endLink_modEnd_apart wr.apart_across]
      exact State.endLink_modEnd hres _
    have ha : ∀ v, (s.switchEnds wr (l.txGen + 1) mp true).endLink wr.across = some v → v.rxMap = mp ∧ v.rxGen = l.txGen + 1 := by
      unfold State.switchEnds
      rw [if_pos rfl]
      generalize (s.modSplice wr Link.resume).modEnd wr (Link.writeMap (l.txGen + 1) mp) = y
      intro v hv
      cases hy : y.endLink wr.across with
      | some j =>
        rw [State.endLink_modEnd hy] at hv
        cases hv
        exact ⟨rfl, rfl⟩
      | none =>
        rw [State.endLink_modEnd_none hy] at hv
        cases hv
    rw [hboth] at hexec
    generalize s.switchEnds wr (l.txGen + 1) mp true = y at *
    have htest := y.testOf_dropTest k.unit
    have hend := hdrop y
    generalize y.dropTest k.unit = z at *
    have hframe := lanesRetired_frame k.unit (unitStageD k.unit) 0x0A mp lanes z
    generalize lanes.foldl (fun v x => v.laneRetired k.unit (unitStageD k.unit) 0x0A mp x) z = v at *
    have hends : ∀ a, v.endLink a = y.endLink a := fun a => by rw [hframe]; exact hend a
    refine ⟨v, _, hexec, (hends wr).trans hw, rfl, rfl, by rw [hframe]; exact htest, fun _ _ => ⟨rfl, rfl, rfl, fun a h => ?_⟩,
      fun h => ?_⟩
    · exact ha a ((hends _).symm.trans h)
    · simp [h] at hboth
  · have hno : (s.edgesAt wr && s.edgesAt wr.across) = false := by simpa using hboth
    have hw : (s.switchEnds wr (l.txGen + 1) mp false).endLink wr = some ((Link.resume l).askMap (l.txGen + 1) mp) := by
      unfold State.switchEnds
      rw [if_neg Bool.false_ne_true]
      exact State.endLink_modEnd hres _
    rw [hno] at hexec
    generalize s.switchEnds wr (l.txGen + 1) mp false = y at *
    have htest := y.testOf_dropTest k.unit
    have hend := hdrop y
    generalize y.dropTest k.unit = z at *
    have hframe := lanesRetired_frame k.unit (unitStageD k.unit) 0x0A mp lanes z
    generalize lanes.foldl (fun v x => v.laneRetired k.unit (unitStageD k.unit) 0x0A mp x) z = v at *
    have hends : ∀ a, v.endLink a = y.endLink a := fun a => by rw [hframe]; exact hend a
    exact ⟨v, _, hexec, (hends wr).trans hw, rfl, rfl, by rw [hframe]; exact htest,
      fun h1 h2 => absurd (by simp [h1, h2]) hboth, fun _ => ⟨rfl, rfl⟩⟩

end Switch

/-! ### A splice that fails -/

/-- Ends that have failed stay failed. -/
def State.KeepsFailed (s t : State) : Prop :=
  ∀ e l, s.endLink e = some l → ∃ q, t.endLink e = some q ∧ q.failed = l.failed

/-- The edge blocks' ends that have failed stay failed. -/
def State.KeepsEdges (s t : State) : Prop :=
  ∀ (i : Nat) (l : Link), s.edges[i]? = some l → ∃ q : Link, t.edges[i]? = some q ∧ q.failed = l.failed

theorem State.KeepsEdges.trans (h : s.KeepsEdges t) (k : t.KeepsEdges u) : s.KeepsEdges u := fun i l hl => by
  obtain ⟨q, hq, hqf⟩ := h i l hl
  obtain ⟨y, hy, hyf⟩ := k i q hq
  exact ⟨y, hy, hyf.trans hqf⟩

theorem State.modAllAcross_keepsEdges (s : State) (n : Nat) : s.KeepsEdges (s.modAllAcross n Link.bar) :=
  foldl_rel (r := State.KeepsEdges) (fun _ _ l h => ⟨l, h, rfl⟩) State.KeepsEdges.trans
    (fun t d i l hl => by
      rw [t.edges_modAcross n d Link.bar i, hl, Option.map_some]
      exact ⟨_, rfl, by split <;> rfl⟩) Side.all s

/-- A retirement keeps the failed mark of every end. -/
theorem State.retireStage_keepsFailed (s : State) (n a k c : Nat) : s.KeepsFailed (s.retireStage n a k c) := by
  by_cases hx : ∃ st, s.stage n = some st ∧ st.st ≠ .retired
  · obtain ⟨st, hst, hne⟩ := hx
    obtain ⟨⟨v, hv, hs⟩, hother⟩ := State.retireStage_stage hst hne a k c
    rintro ⟨m, d, b⟩ l hl
    cases b
    case false =>
      obtain ⟨y, hy, rfl⟩ := State.stage_of_endLink hl
      by_cases hm : m = n
      · subst hm
        have hyst : y = st := Option.some.inj (hy.symm.trans hst)
        refine ⟨_, State.endLink_of_stage hv d, ?_⟩
        rw [hyst, hs]
        cases d <;> rfl
      · obtain ⟨z, hz, hzs⟩ := hother m y hm hy
        refine ⟨_, State.endLink_of_stage hz d, ?_⟩
        have hface := z.link_facingAll (n := n) m Link.bar d.opposite
        have hopp : d.opposite.opposite = d := by cases d <;> rfl
        have hzl : z.link d = y.link d := by
          rw [hzs]
          cases d <;> rfl
        rw [hopp] at hface
        rw [hface, hzl]
        split <;> rfl
    case true =>
      rw [State.retireStage_eq hst hne]
      have hfail := s.failStageCtx_frame n (st.retireCause c)
      generalize s.failStageCtx n (st.retireCause c) = f at *
      have hedge := (f.modStage n Stage.retire).modAllAcross_keepsEdges n
      generalize (f.modStage n Stage.retire).modAllAcross n Link.bar = g at *
      have hfe : f.edges = s.edges := by rw [hfail]
      obtain ⟨i, hi, hli⟩ := Option.bind_eq_some_iff.mp hl
      obtain ⟨q, hq, hqf⟩ := hedge i l ((congrArg (fun es : List Link => es[i]?) hfe).trans hli)
      exact ⟨q, Option.bind_eq_some_iff.mpr ⟨i, hi, hq⟩, hqf⟩
  · rw [State.retireStage_none (fun st hst => by_contra fun hne => hx ⟨st, hst, hne⟩)]
    exact fun _ l h => ⟨l, h, rfl⟩

/-- A retirement leaves the tests alone. -/
theorem State.retireStage_tests (s : State) (n r k c : Nat) : (s.retireStage n r k c).tests = s.tests := by
  by_cases hx : ∃ st, s.stage n = some st ∧ st.st ≠ .retired
  · obtain ⟨st, hst, hne⟩ := hx
    rw [State.retireStage_eq hst hne]
    have hfail := s.failStageCtx_frame n (st.retireCause c)
    generalize s.failStageCtx n (st.retireCause c) = u at *
    have hacross := (u.modStage n Stage.retire).modAllAcross_frame n Link.bar
    generalize (u.modStage n Stage.retire).modAllAcross n Link.bar = v at *
    show v.tests = s.tests
    rw [hacross, hfail]
    rfl
  · rw [State.retireStage_none (fun st hst => by_contra fun hne => hx ⟨st, hst, hne⟩)]

/-- An end that has failed (R223). -/
def Link.fail (l : Link) : Link := { l with failed := true }

/-- An edge block's end stands only where no neighbour does (R23). -/
theorem neighbour_of_edgeIndex (h : edgeIndex n d = some i) : neighbour n d = none := by
  cases d <;> simp only [edgeIndex, neighbour] at h ⊢ <;> split at h
  all_goals first | exact if_pos ‹_› | cases h

/-- A splice that fails, named by its stage: either end is marked. -/
theorem State.endLink_failed {b : Bool} (hl : s.endLink { stage := n, side := d, edge := b } = some l) :
    (s.modSplice { stage := n, side := d, edge := false } Link.fail).endLink { stage := n, side := d, edge := b } =
      some (Link.fail l) := by
  cases b
  case false => exact State.endLink_modSplice hl Link.fail
  case true =>
    obtain ⟨i, hi, -⟩ := Option.bind_eq_some_iff.mp hl
    have hcross : ({ stage := n, side := d, edge := false } : End).across = { stage := n, side := d, edge := true } := by
      unfold End.across
      rw [if_neg Bool.false_ne_true]
      dsimp only
      rw [neighbour_of_edgeIndex hi]
    have h := State.endLink_modSplice_across (e := { stage := n, side := d, edge := false }) (by rw [hcross]; exact hl) Link.fail
    rwa [hcross] at h

section Failed

variable {b : Bool} {wr : End} {v : Stage} (hwe : wr = { stage := n, side := d, edge := b }) (hl : s.endLink wr = some l)
  (hk : s.laneTest wr = some k) (hp : l.paused = true) (hf : l.failed = false) (hsp : sparable l.txMap k.lanes = false)

include hwe hl hk hp hf hsp

theorem exec_spliceFailed : exec (.spliceFailed n d b) s =
    .next (((s.dropTest k.unit).modSplice { stage := n, side := d, edge := false } Link.fail).retireStage
      (spliceVictim n d) 0x02 0x0A 0x13) := by
  subst hwe
  show execSpliceFailed n d b s = _
  unfold execSpliceFailed
  dsimp only
  rw [hl, hk]
  exact if_pos (by simp [hp, hf, hsp])

theorem spliceFailed_retires (hv : s.stage (spliceVictim n d) = some v) (hne : v.st ≠ .retired) : ∃ t q u,
    exec (.spliceFailed n d b) s = .next t ∧ t.endLink wr = some q ∧ q.failed = true ∧
    t.stage (spliceVictim n d) = some u ∧ u.st = .retired ∧ t.testOf k.unit = none ∧ t.straps = s.straps ∧
    t.time = s.time ∧ t.rails = s.rails := by
  have hexec := exec_spliceFailed hwe hl hk hp hf hsp
  have htest := s.testOf_dropTest k.unit
  have hl' : (s.dropTest k.unit).endLink { stage := n, side := d, edge := b } = some l := by rw [← hwe]; exact hl
  have hv' : (s.dropTest k.unit).stage (spliceVictim n d) = some v := hv
  have hdrop : s.dropTest k.unit = { s with tests := (s.dropTest k.unit).tests } := rfl
  generalize s.dropTest k.unit = y at *
  have hfailed := State.endLink_failed hl'
  have hcar := State.Carried.modSplice y { stage := n, side := d, edge := false } Link.fail
  generalize y.modSplice { stage := n, side := d, edge := false } Link.fail = z at *
  obtain ⟨a, ha, hva⟩ := hcar.each.stage _ v hv'
  have hast : a.st ≠ .retired := by rw [hva]; exact hne
  obtain ⟨q, hq, hqf⟩ := z.retireStage_keepsFailed (spliceVictim n d) 0x02 0x0A 0x13 _ _ hfailed
  obtain ⟨⟨x, hx, -⟩, -⟩ := State.retireStage_stage ha hast 0x02 0x0A 0x13
  have htests := z.retireStage_tests (spliceVictim n d) 0x02 0x0A 0x13
  have hframe := z.retireStage_frame (spliceVictim n d) 0x02 0x0A 0x13
  generalize z.retireStage (spliceVictim n d) 0x02 0x0A 0x13 = w at *
  refine ⟨w, q, _, hexec, by rw [hwe]; exact hq, hqf, hx, rfl, ?_, ?_, ?_, ?_⟩
  · unfold State.testOf
    rw [htests, hcar.frame]
    exact htest
  · rw [hframe, hcar.frame, hdrop]; rfl
  · rw [hframe, hcar.frame, hdrop]; rfl
  · rw [hframe, hcar.frame, hdrop]; rfl

end Failed

/-- Settles O29: aligned mode, the follower's line, the lane test, the map switch and the failure of a splice. -/
theorem spliceAlignmentAndLaneTest : Obligations.SpliceAlignmentAndLaneTest := by
  refine ⟨⟨fun s n m d a b hn ha hb hlen hal hha hhb ho => spliceRealign_aligned hn ha hb hlen hal hha hhb ho,
      fun s n d h => if_neg (by simp [h]), fun s n m d st a b hn hlt hst hm he hf hw => ?trim⟩,
    fun s n d b r l w hre hl hw hr hp hf hm hk => spliceLaneTestThreshold_pauses hre hl hw hr hp hf hm hk,
    fun s n d b w l k lanes m hwe hl hk hp hx hm => spliceMapSwitch_switches hwe hl hk hp hx hm,
    fun s n d b w l v k hwe hl hk hp hf hsp hv hne => spliceFailed_retires hwe hl hk hp hf hsp hv hne⟩
  case trim =>
    obtain ⟨t, u, hexec, hu, htrim, hphase, hwait⟩ := spliceTrimAverage_line (a := a) (b := b) hn hlt hst hm he hf hw
    refine ⟨t, u, hexec, hu, fun hph h0 h1 => ?_, fun hph h0 h1 => ?_, fun hph hout => ?_, fun hph => ?_⟩
    · obtain ⟨hp, ht⟩ := Link.average_reset hph h0 h1
      exact ⟨by rw [htrim]; exact ht, by rw [hphase]; exact hp⟩
    · have hin : within15 ((a - b) / 2) = true := by simp [within15, h0, h1]
      rw [Link.average_moved hph, if_pos hin] at htrim hphase
      exact ⟨hphase, htrim⟩
    · have hin : ¬ within15 ((a - b) / 2) = true := by
        rcases hout with h | h
        · simp [within15, h]
        · simp [within15, h]
      rw [Link.average_moved hph, if_neg hin] at hphase hwait
      exact ⟨hphase, hwait⟩
    · rw [hphase, htrim]
      exact Link.average_acquired hph

end Sys2Proof.Machine
end

section
/-! The coolant inputs, the temperature sensors and the stops they make (R292 to R298). -/

namespace Sys2Proof.Machine

set_option Elab.async false

open Sys2Proof

variable {s t : State} {p : Port} {k : BitVec 16} {n sensor : Nat} {st : Stage} {deg : Int}

/-! ### A stop -/

/-- What a stop leaves: it latches, halts issue and stills every stage (R294, R296). -/
theorem State.stopModule_spec (s : State) (b : Bool) (pl : List Byte) (ht : t = s.stopModule b pl) :
    t.pins = { s.pins with issueStopped := true, booting := false, stop := some b } ∧
    (∀ x ∈ t.stages, x.st = .unlit ∨ x.st = .retired) ∧ t.straps = s.straps ∧ t.flash = s.flash ∧ t.time = s.time ∧
    t.slate = s.slate := by
  subst ht
  unfold State.stopModule
  dsimp only
  generalize (Config.freeByte s.freeCtr).toNat = kind
  generalize hs1 : ({ s with pins := { s.pins with issueStopped := true, booting := false, stop := some b } } : State) = s1
  have hdraw : ∀ y : State, y.draw = y.contextsOf y.draw := fun _ => rfl
  have h2 := State.contextsOf_trans (State.contextsOf_of_recordsOf (s1.errorEvent_frame (moduleErr kind 0 none) 0 0))
    (hdraw _)
  generalize (s1.errorEvent (moduleErr kind 0 none) 0 0).draw = s2 at *
  have h3 := State.contextsOf_trans (State.contextsOf_trans h2 (State.contextsOf_of_recordsOf (s2.log_frame 0x07 pl)))
    (s2.log 0x07 pl).supersede_contextsOf
  generalize (s2.log 0x07 pl).supersede = s3 at *
  have h4 := State.contextsOf_trans (State.contextsOf_trans h3 (s3.giveWay_contextsOf s3.allMask))
    (State.endAllNow_contextsOf _ (if b then 0x21 else 0x20))
  generalize (s3.giveWay s3.allMask).endAllNow (if b then 0x21 else 0x20) = s4 at *
  refine ⟨?_, fun x hx => ?_, ?_, ?_, ?_, ?_⟩
  · rw [h4, ← hs1]; rfl
  · obtain ⟨y, -, rfl⟩ := List.mem_map.mp hx
    by_cases hy : y.st = .retired
    · rw [if_pos hy]; exact .inr hy
    · rw [if_neg hy]; exact .inl rfl
  · rw [h4, ← hs1]; rfl
  · rw [h4, ← hs1]; rfl
  · rw [h4, ← hs1]; rfl
  · rw [h4, ← hs1]; rfl

/-! ### Coolant inputs -/

/-- The level of a coolant input. -/
def Pins.cool (v : Pins) (p : Port) : Bool := match p with | .a => v.coolA | .b => v.coolB

/-- The pins with a coolant input at a level. -/
def Pins.withCool (v : Pins) (p : Port) (b : Bool) : Pins := match p with
  | .a => { v with coolA := b }
  | .b => { v with coolB := b }

theorem Pins.withCool_frame (v : Pins) (p : Port) (b : Bool) : (v.withCool p b).cool p = b ∧
    (v.withCool p b).stop = v.stop ∧ (v.withCool p b).resetN = v.resetN ∧ (v.withCool p b).pwrGood = v.pwrGood := by
  cases p <;> exact ⟨rfl, rfl, rfl, rfl⟩

/-- An input that reads low (R295). -/
def State.lowAt (s : State) (p : Port) : State := { s with pins := s.pins.withCool p false }

/-- The payload of a coolant stop's dailies entry. -/
def coolantPayload (p : Port) : List Byte := leBytes 1 0 ++ leBytes 1 p.code ++ leBytes 1 0xFF ++ leBytes 1 0xFF

theorem State.coolantLow_eq (s : State) (p : Port) : s.coolantLow p =
    if s.pins.stop.isSome then s.lowAt p
    else if !s.pins.resetN then { s.lowAt p with pins := { (s.lowAt p).pins with stop := some false } }
    else if s.inReset then s.lowAt p
    else (s.lowAt p).stopModule false (coolantPayload p) := by
  cases p <;> rfl

theorem State.coolantHigh_eq (s : State) (p : Port) : s.coolantHigh p = { s with pins := s.pins.withCool p true } := by
  cases p <;> rfl

/-- A low level that latches: a stop stands after it, or stood before (R295, R298). -/
theorem State.coolantLow_stops (h : s.inReset = false ∨ s.pins.resetN = false) : (s.coolantLow p).pins.stop.isSome = true := by
  rw [State.coolantLow_eq]
  have hstop := (s.pins.withCool_frame p false).2.1
  split
  · next hs => exact (congrArg Option.isSome hstop).trans hs
  · split
    · rfl
    · next hr =>
      have hreset : s.inReset = false := h.resolve_right (by simpa using hr)
      rw [if_neg (by simp [hreset]), (State.stopModule_spec (s.lowAt p) false _ rfl).1]
      rfl

theorem State.coolantLow_latched (h : s.pins.stop.isSome = true) : s.coolantLow p = s.lowAt p :=
  (s.coolantLow_eq p).trans (if_pos h)

theorem State.coolantLow_inReset (hn : s.pins.stop = none) (hr : s.pins.resetN = false) :
    s.coolantLow p = { s.lowAt p with pins := { (s.lowAt p).pins with stop := some false } } :=
  (s.coolantLow_eq p).trans ((if_neg (by simp [hn])).trans (if_pos (by simp [hr])))

theorem State.resetN_of_running (h : s.inReset = false) : s.pins.resetN = true := by
  unfold State.inReset at h
  simp only [Bool.or_eq_false_iff, Bool.not_eq_false'] at h
  exact h.1

theorem State.coolantLow_running (hn : s.pins.stop = none) (hr : s.inReset = false) :
    s.coolantLow p = (s.lowAt p).stopModule false (coolantPayload p) :=
  (s.coolantLow_eq p).trans ((if_neg (by simp [hn])).trans ((if_neg (by simp [State.resetN_of_running hr])).trans
    (if_neg (by simp [hr]))))

/-! ### Temperature readings -/

/-- A stage with a sensor's new reading, the one before it, and whether it is at the trip (R292, R294). -/
def Stage.reading (st : Stage) (sensor : Nat) (deg trip : Int) : Stage :=
  { st with
    temps := st.temps.set sensor deg, tempsOld := st.tempsOld.set sensor (st.temps.getD sensor 25)
    tempHot := st.tempHot.set sensor (decide (trip ≤ deg)) }

/-- A state that warns (R293). -/
def State.warning (s : State) : State := { s with pins := { s.pins with thermWarn := true } }

section Reading

variable (hst : s.stage n = some st) (hne : st.st ≠ .retired) (hs : sensor < 4)

include hst hne hs

theorem exec_temperatureReading : exec (.temperatureReading n sensor deg) s =
    if s.inReset then .next (s.putStage n (st.reading sensor deg s.trip))
    else if (decide (s.trip ≤ deg) && st.tempHot.getD sensor false) && s.pins.stop.isNone then
      .next ((if s.trip - 15 ≤ deg then (s.putStage n (st.reading sensor deg s.trip)).warning
        else s.putStage n (st.reading sensor deg s.trip)).stopModule true
          (leBytes 1 1 ++ leBytes 1 0xFF ++ leBytes 1 n ++ leBytes 1 sensor ++ leBytes 2 (wrapBits 16 deg)))
    else .next (if s.trip - 15 ≤ deg then (s.putStage n (st.reading sensor deg s.trip)).warning
      else s.putStage n (st.reading sensor deg s.trip)) := by
  show execTemperatureReading n sensor deg s = _
  unfold execTemperatureReading
  rw [hst]
  dsimp only
  rw [if_neg (by simp [hne, hs])]
  by_cases h : s.trip - 15 ≤ deg
  · rw [if_pos h, if_pos h]; rfl
  · rw [if_neg h, if_neg h]; rfl

end Reading

/-- Settles O8: coolant stops and glitches, temperature readings, and the end of the warning. -/
theorem coolantAndThermal : Obligations.CoolantAndThermal := by
  refine ⟨fun s p hr hn => ?stops, fun s hr hn => ⟨?_, ?_⟩, fun s h => ⟨?_, ?_⟩, fun s p k => ⟨fun hlt hg => ?glitch,
      fun hge h => ?long⟩, fun s n sensor st u deg hst hne hs hu => ⟨fun h => ?cool, fun hr hw h => ?warns,
      fun hr ht hot hn => ?trips⟩, fun s h => if_pos h⟩
  case stops =>
    obtain ⟨hpins, hstages, h1, h2, h3, h4⟩ := State.stopModule_spec (s.lowAt p) false (coolantPayload p) rfl
    refine ⟨_, congrArg Host.Outcome.next (State.coolantLow_running hn hr), ?_, ?_, hstages, ?_, h1, h2, h3, h4⟩
    · rw [hpins]
    · rw [hpins]
    · rw [hpins]
      cases p <;> rfl
  · exact congrArg Host.Outcome.next (State.coolantLow_inReset hn hr)
  · exact congrArg Host.Outcome.next (State.coolantLow_inReset hn hr)
  · exact congrArg Host.Outcome.next (State.coolantLow_latched h)
  · exact congrArg Host.Outcome.next (State.coolantLow_latched h)
  case glitch => exact (if_neg (by omega)).trans (if_neg (by simp [hg]))
  case long =>
    refine ⟨_, if_pos hge, ?_, ?_⟩
    · rw [State.coolantHigh_eq]
      exact (congrArg Option.isSome (Pins.withCool_frame _ p true).2.1).trans (State.coolantLow_stops h)
    · rw [State.coolantHigh_eq]
      cases p <;> rfl
  case cool =>
    subst hu
    refine (exec_temperatureReading hst hne hs).trans ?_
    rcases h with h | h
    · exact if_pos h
    · by_cases hr : s.inReset = true
      · exact if_pos hr
      · rw [if_neg hr, if_neg (by simp; omega), if_neg (by omega)]
        rfl
  case warns =>
    subst hu
    refine (exec_temperatureReading hst hne hs).trans ?_
    have hcold : ((decide (s.trip ≤ deg) && st.tempHot.getD sensor false) && s.pins.stop.isNone) = false := by
      rcases h with h | h | h
      · rw [decide_eq_false (by omega)]; rfl
      · rw [h, Bool.and_false]; rfl
      · rw [show s.pins.stop.isNone = false by simpa using h, Bool.and_false]
    rw [if_neg (by simp [hr]), hcold, if_neg Bool.false_ne_true, if_pos hw]
    rfl
  case trips =>
    have hexec := exec_temperatureReading (deg := deg) hst hne hs
    rw [if_neg (by simp [hr]), if_pos (by rw [decide_eq_true ht, hot, hn]; rfl), if_pos (by omega)] at hexec
    obtain ⟨hpins, hstages, -⟩ := State.stopModule_spec (s.putStage n (st.reading sensor deg s.trip)).warning true
      (leBytes 1 1 ++ leBytes 1 0xFF ++ leBytes 1 n ++ leBytes 1 sensor ++ leBytes 2 (wrapBits 16 deg)) rfl
    exact ⟨_, hexec, by rw [hpins], by rw [hpins], by rw [hpins]; rfl, hstages⟩

end Sys2Proof.Machine
end
